-- ==== Sys2Proof/Word.lean ====
section
/-! DEFINITION. The words of the model: bit vectors for what the manual treats as bits (R11), and the
sparse tables in which State keeps registers, buffers and memory (sorted by key, no repeats, no entry
equal to the table's default). Operations on the tables are in Machine/Bits.lean. -/
namespace Sys2Proof

/-- A register of the control space (R11: 64 bits). -/
abbrev Word := BitVec 64

/-- One byte of memory or scratchpad. -/
abbrev Byte := BitVec 8

/-- A 64-byte line, Dray descriptor, ring entry or vector register; bits 7:0 are byte 0. -/
abbrev Line := BitVec 512

/-- A 32-byte Ox command or Stage flit payload; bits 7:0 are byte 0. -/
abbrev Unit32 := BitVec 256

/-- A sparse table: (key, value) pairs with keys strictly rising and no value equal to the default. -/
abbrev SMap (α : Type) := List (Nat × α)

/-- All ones when b holds, else zero: a one-bit field. -/
def bit (b : Bool) : BitVec 1 := if b then 1 else 0

end Sys2Proof
end

