-- ==== Sys2Proof/Syntax.lean ====
section
/-! DEFINITION. The commands of the block: one constructor of Instr per row of spec/opcode_table.json, with the operands
that the spec gives the row, and the types of those operands. -/
namespace Sys2Proof

/-- pcell 0 to 1,151 (R5). -/
abbrev Pcell := Fin 1152
/-- HEN_0 to HEN_3. -/
abbrev HenIx := Fin 4
/-- DRAY_0, DRAY_1. -/
abbrev DrayIx := Fin 2
/-- Coach slots 0 to 47 (R125). -/
abbrev Slot := Fin 48
/-- Mule engines: 0 to 19 HS_n, 20 to 51 the lighter Mules of LPDDR5X controllers 0 to 31 (R119). -/
abbrev EngineIx := Fin 52
/-- Memory controllers: 0 to 19 HS_n, 20 to 51 LPDDR5X controllers 0 to 31. -/
abbrev CtlIx := Fin 52
/-- Partitions 0 to 31. -/
abbrev PartIx := Fin 32
/-- BANK_0 to BANK_15 (R16). -/
abbrev BankIx := Fin 16
/-- A field that names a register of a Hen. -/
abbrev Reg := Fin 32
/-- Compute dies CD_0 to CD_3. -/
abbrev DieIx := Fin 4
/-- Segments of BAR4. -/
abbrev SegIx := Fin 64
/-- Scheduling classes and regions. -/
abbrev ClassIx := Fin 16
abbrev RegionIx := Fin 16
/-- Jombitin ports JP_0 to JP_8. -/
abbrev PortIx := Fin 9
/-- A line number: device physical address bits 51:6. -/
abbrev LineNo := BitVec 46

/-- A Gig message (R148). -/
structure GigMsg where
  type : BitVec 8
  src : BitVec 28
  dst : BitVec 28
  coach : BitVec 6
  srcHen : BitVec 2
  dstHen : BitVec 2
  payload : BitVec 48
  deriving DecidableEq, Repr

/-- A Jombitin packet (R419, R420). The payload is held in the clear; auth names the key under which the packet's
integrity value (fabric key, R422) or signature (fabric manager, R441 on) was formed over exactly these contents, none
where the CRC, the ICV or the signature is wrong under every key. -/
structure Packet where
  type : BitVec 8
  attempt : BitVec 3 := 0
  isLocal : Bool := false
  status : BitVec 4 := 0
  dst : BitVec 17
  src : BitVec 17
  coachId : BitVec 20 := 0
  cls : BitVec 2
  stream : BitVec 6 := 0
  epoch : BitVec 32 := 0
  tag : BitVec 16 := 0
  length : BitVec 16 := 0
  addr : Word := 0
  aux : BitVec 32 := 0
  payload : List Byte := []
  seq : Word := 0
  auth : Option (BitVec 256)
  deriving DecidableEq, Repr

/-- The addressing of a vector load or store to memory (V 1.0, R80); faultFirst: a unit-stride fault-only-first load. -/
inductive VecMode where
  | unit
  | faultFirst
  | strided (rs2 : Reg)
  | indexed (vs2 : Reg) (ieew : Fin 4)
  | whole
  | mask
  deriving DecidableEq, Repr

/-- What a load to memory reads (RV64GC, Zfh, V). Vector accesses carry log2 of the element bytes, the fields per
segment less one, and whether v0 masks them. -/
inductive LoadKind where
  | b | h | w | d | bu | hu | wu | flh | flw | fld
  | vec (m : VecMode) (eew : Fin 4) (nf : Fin 8) (masked : Bool)
  deriving DecidableEq, Repr

/-- What a store to memory writes. -/
inductive StoreKind where
  | b | h | w | d | fsh | fsw | fsd
  | vec (m : VecMode) (eew : Fin 4) (nf : Fin 8) (masked : Bool)
  deriving DecidableEq, Repr

/-- The operations of the A extension's AMO instructions. -/
inductive AmoOp where
  | swap | add | xor | and | or | min | max | minu | maxu
  deriving DecidableEq, Repr

/-- CSRRW, CSRRS and CSRRC (and their immediate forms). -/
inductive CsrOp where
  | rw | rs | rc
  deriving DecidableEq, Repr

/-- Two-operand integer operations: RV64I, M, Zba, Zbb, Zicond (R80). -/
inductive AluOp where
  | add | sub | sll | slt | sltu | xor | srl | sra | or | and
  | mul | mulh | mulhsu | mulhu | div | divu | rem | remu
  | addw | subw | sllw | srlw | sraw | mulw | divw | divuw | remw | remuw
  | adduw | sh1add | sh2add | sh3add | sh1adduw | sh2adduw | sh3adduw | slliuw
  | andn | orn | xnor | min | minu | max | maxu | rol | ror | rolw | rorw
  | czeroEqz | czeroNez
  deriving DecidableEq, Repr

/-- One-operand integer operations of Zbb. -/
inductive UnOp where
  | clz | ctz | cpop | clzw | ctzw | cpopw | sextb | sexth | zexth | rev8 | orcb
  deriving DecidableEq, Repr

/-- Conditional branches. -/
inductive BrOp where
  | eq | ne | lt | ge | ltu | geu
  deriving DecidableEq, Repr

/-- Scalar floating-point formats of a Hen (F, D, Zfh, Zfbfmin). -/
inductive FpFmt where
  | h | s | d | bf16
  deriving DecidableEq, Repr

/-- Two-operand floating-point operations. -/
inductive FpOp where
  | add | sub | mul | div | min | max | sgnj | sgnjn | sgnjx
  deriving DecidableEq, Repr

/-- Floating-point comparisons. -/
inductive FpCmp where
  | eq | lt | le
  deriving DecidableEq, Repr

/-- A Hen scalar or vector arithmetic, branch or other non-memory RV64GCV instruction. -/
inductive Arith where
  | op (o : AluOp) (rd rs1 rs2 : Reg)
  | opImm (o : AluOp) (rd rs1 : Reg) (imm : BitVec 12)
  | un (o : UnOp) (rd rs1 : Reg)
  | lui (rd : Reg) (imm : BitVec 20)
  | auipc (rd : Reg) (imm : BitVec 20)
  | jal (rd : Reg) (off : BitVec 21)
  | jalr (rd rs1 : Reg) (imm : BitVec 12)
  | branch (o : BrOp) (rs1 rs2 : Reg) (off : BitVec 13)
  | pause
  | fp (f : FpFmt) (o : FpOp) (rm : BitVec 3) (rd rs1 rs2 : Reg)
  | fsqrt (f : FpFmt) (rm : BitVec 3) (rd rs1 : Reg)
  | fma (f : FpFmt) (negProd negAdd : Bool) (rm : BitVec 3) (rd rs1 rs2 rs3 : Reg)
  | fcmp (f : FpFmt) (o : FpCmp) (rd rs1 rs2 : Reg)
  | fclass (f : FpFmt) (rd rs1 : Reg)
  | fcvtToInt (f : FpFmt) (long unsigned : Bool) (rm : BitVec 3) (rd rs1 : Reg)
  | fcvtFromInt (f : FpFmt) (long unsigned : Bool) (rm : BitVec 3) (rd rs1 : Reg)
  | fcvt (dst src : FpFmt) (rm : BitVec 3) (rd rs1 : Reg)
  | fmvToInt (f : FpFmt) (rd rs1 : Reg)
  | fmvFromInt (f : FpFmt) (rd rs1 : Reg)
  | vsetvli (vtype : BitVec 11) (rd rs1 : Reg)
  | vsetivli (vtype : BitVec 10) (rd : Reg) (avl : BitVec 5)
  | vsetvl (rd rs1 rs2 : Reg)
  | vector (word : BitVec 32)
  | illegal (word : BitVec 32)
  deriving DecidableEq, Repr

/-- The body of XLT_RESP (R321). -/
structure XltAnswer where
  vpn : BitVec 45
  status : BitVec 3
  pbase : BitVec 40
  size : BitVec 2
  rd : Bool
  wr : Bool
  ex : Bool
  mask : BitVec 16
  tag : BitVec 3
  deriving DecidableEq, Repr

/-- The body of XLT_INV (R321). -/
structure XltInvReq where
  vpn : BitVec 45
  pasid : BitVec 20
  allPasid : Bool
  log2 : BitVec 8
  seq : BitVec 8
  deriving DecidableEq, Repr

/-- An ATS Translation Completion for a page (R324): ok is clear for an Unsupported Request or Completer Abort. -/
structure AtsCompletion where
  pasid : BitVec 20
  vpn : BitVec 45
  ok : Bool
  u : Bool
  taddr : Word
  sizeLog2 : Nat
  r : Bool
  w : Bool
  x : Bool
  deriving DecidableEq, Repr

/-- An ATS Invalidate Request (R331). -/
structure AtsInvalidate where
  itag : BitVec 5
  pasid : Option (BitVec 20)
  vpn : BitVec 45
  log2 : BitVec 8
  deriving DecidableEq, Repr

/-- What lies outside the block when a cold reset ends (R552 on): the tick at which the boot ends, the straps ADDR_SEL and
FORCE_RECOVERY# (R600), whether training (stage 0x5) or a crossing (stage 0x6) fails (R556), and the cells that fail
self-test. -/
structure BootEnv where
  ticks : Nat
  addrSel : BitVec 2
  forceRecovery : Bool
  trainFails : Bool
  crossFails : Bool
  badCells : List Nat
  deriving DecidableEq, Repr

/-- What the power controller reads at an interval (R545, R550): the highest junction and HBM3E temperatures in °C, the power of
each region in mW, and for each active cell its Ox-busy cycles, Hen retirements and scratchpad accesses of the interval. -/
structure PowerReading where
  tempC : Int
  hbmC : Int
  regionMw : List Nat
  activity : List (Nat × Nat × Nat × Nat)
  deriving DecidableEq, Repr

/-- A register of configuration space (R343): a 32-bit word of the header or of a capability, by number; the Resizable BAR
control of BAR4, as log2 of the size; the allocation of outstanding page requests. The offsets of the last two are PCI
Express's own. -/
inductive CfgReg where
  | word (n : BitVec 10)
  | bar4Size
  | pageAllocation
  deriving DecidableEq, Repr

/-- A configuration request: a read, or a write of a value. -/
structure CfgReq where
  reg : CfgReg
  write : Option (BitVec 32)
  deriving DecidableEq, Repr

/-- The commands of the block: one constructor per row of spec/opcode_table.json
(in its order, but for the commands only a host or a board sends, which stand last). -/
inductive Instr where
  /-- OX_ISSUE (R95). -/
  | oxIssue (p : Pcell) (h : HenIx) (vs2 : Reg)
  /-- OX_DISPATCH (R29). -/
  | oxDispatch (p : Pcell)
  /-- OX_NOP (R39). -/
  | oxNop (p : Pcell)
  /-- WLOAD (R21). -/
  | wload (p : Pcell)
  /-- MMA (R24). -/
  | mma (p : Pcell) (conflicts : Nat)
  /-- EPI (R25). -/
  | epi (p : Pcell)
  /-- CBLOAD (R61). -/
  | cbload (p : Pcell)
  /-- TLOAD (R26). -/
  | tload (p : Pcell)
  /-- ACCLOAD (R41). -/
  | accload (p : Pcell)
  /-- BARRIER (R31). -/
  | barrier (p : Pcell)
  /-- OX_RETIRE (R30). -/
  | oxRetire (p : Pcell)
  /-- OX_FLUSH (R36). -/
  | oxFlush (p : Pcell)
  /-- OX_SR_SEED_WRITE (R47). -/
  | oxSrSeedWrite (p : Pcell) (v : Word)
  /-- OX_STATE_IMAGE_SAVE (R44). -/
  | oxStateImageSave (p : Pcell)
  /-- SPL_B (R92). -/
  | splB (p : Pcell) (h : HenIx) (rd rs1 : Reg) (imm : BitVec 12)
  /-- SPL_H (R92). -/
  | splH (p : Pcell) (h : HenIx) (rd rs1 : Reg) (imm : BitVec 12)
  /-- SPL_W (R92). -/
  | splW (p : Pcell) (h : HenIx) (rd rs1 : Reg) (imm : BitVec 12)
  /-- SPL_D (R92). -/
  | splD (p : Pcell) (h : HenIx) (rd rs1 : Reg) (imm : BitVec 12)
  /-- SPL_BU (R92). -/
  | splBu (p : Pcell) (h : HenIx) (rd rs1 : Reg) (imm : BitVec 12)
  /-- SPL_HU (R92). -/
  | splHu (p : Pcell) (h : HenIx) (rd rs1 : Reg) (imm : BitVec 12)
  /-- SPL_WU (R92). -/
  | splWu (p : Pcell) (h : HenIx) (rd rs1 : Reg) (imm : BitVec 12)
  /-- SPS_B (R92). -/
  | spsB (p : Pcell) (h : HenIx) (rs2 rs1 : Reg) (imm : BitVec 12)
  /-- SPS_H (R92). -/
  | spsH (p : Pcell) (h : HenIx) (rs2 rs1 : Reg) (imm : BitVec 12)
  /-- SPS_W (R92). -/
  | spsW (p : Pcell) (h : HenIx) (rs2 rs1 : Reg) (imm : BitVec 12)
  /-- SPS_D (R92). -/
  | spsD (p : Pcell) (h : HenIx) (rs2 rs1 : Reg) (imm : BitVec 12)
  /-- VSPL_V (R93). -/
  | vsplV (p : Pcell) (h : HenIx) (vd rs1 : Reg)
  /-- VSPS_V (R93). -/
  | vspsV (p : Pcell) (h : HenIx) (vs3 rs1 : Reg)
  /-- OX_WAIT (R96). -/
  | oxWait (p : Pcell) (h : HenIx) (rs1 : Reg)
  /-- DRAY_ISSUE (R97). -/
  | drayIssue (p : Pcell) (h : HenIx) (vs2 : Reg) (d : DrayIx)
  /-- DRAY_WAIT (R97). -/
  | drayWait (p : Pcell) (h : HenIx) (rs1 : Reg) (d : DrayIx)
  /-- GIG_SEND (R98). -/
  | gigSend (p : Pcell) (h : HenIx) (vs2 : Reg)
  /-- GIG_RECV (R98). -/
  | gigRecv (p : Pcell) (h : HenIx) (vd : Reg)
  /-- BANK_GIVE (R100). -/
  | bankGive (p : Pcell) (h : HenIx) (rd rs1 rs2 : Reg)
  /-- BANK_HANDOVER (R252). -/
  | bankHandover (p : Pcell) (b : BankIx)
  /-- BANK_OWNER (R102). -/
  | bankOwner (p : Pcell) (h : HenIx) (rd rs1 : Reg)
  /-- EPOCH_GET (R103). -/
  | epochGet (p : Pcell) (h : HenIx) (rd : Reg)
  /-- YIELD (R104). -/
  | yield (p : Pcell) (h : HenIx) (id : BitVec 12)
  /-- FENCE_I (R88). -/
  | fenceI (p : Pcell) (h : HenIx)
  /-- CBO_FLUSH (R87). -/
  | cboFlush (p : Pcell) (h : HenIx) (rs1 : Reg)
  /-- CBO_CLEAN (R87). -/
  | cboClean (p : Pcell) (h : HenIx) (rs1 : Reg)
  /-- CBO_INVAL (R87). -/
  | cboInval (p : Pcell) (h : HenIx) (rs1 : Reg)
  /-- LOAD (R284). -/
  | load (p : Pcell) (h : HenIx) (c : Bool) (k : LoadKind) (rd rs1 : Reg) (imm : BitVec 12)
  /-- STORE (R284). -/
  | store (p : Pcell) (h : HenIx) (c : Bool) (k : StoreKind) (rs2 rs1 : Reg) (imm : BitVec 12)
  /-- AMO (R299). -/
  | amo (p : Pcell) (h : HenIx) (op : AmoOp) (dbl aq rl : Bool) (rd rs1 rs2 : Reg)
  /-- LR (R296). -/
  | lr (p : Pcell) (h : HenIx) (dbl : Bool) (rd rs1 : Reg)
  /-- SC (R90). -/
  | sc (p : Pcell) (h : HenIx) (dbl : Bool) (rd rs1 rs2 : Reg)
  /-- LR_DEFERRAL_END (R296). -/
  | lrDeferralEnd (p : Pcell) (line : LineNo)
  /-- ECALL (R113). -/
  | ecall (p : Pcell) (h : HenIx)
  /-- EBREAK (R113). -/
  | ebreak (p : Pcell) (h : HenIx) (c : Bool)
  /-- INTERRUPT (R114). -/
  | interrupt (p : Pcell) (h : HenIx)
  /-- MTIP (R114). -/
  | mtip (p : Pcell) (h : HenIx)
  /-- FINISH_PROGRAM (R613). -/
  | finishProgram (p : Pcell) (h : HenIx)
  /-- HEN_RESET (R116). -/
  | henReset (p : Pcell) (h : HenIx) (v : Word)
  /-- HEN_RUN (R117). -/
  | henRun (p : Pcell) (h : HenIx) (v : Word)
  /-- HEN_STOP (R116). -/
  | henStop (p : Pcell) (h : HenIx) (v : Word)
  /-- SOFT_INT (R116). -/
  | softInt (p : Pcell) (h : HenIx) (b : Bool)
  /-- FRAME_BOUNDARY (R124). -/
  | frameBoundary
  /-- INJECT (R131). -/
  | inject (ep lane cyc : Nat)
  /-- HOP (R122). -/
  | hop (sw lane cyc : Nat)
  /-- EJECT (R131). -/
  | eject (ep lane cyc : Nat)
  /-- TT_LOAD (R137). -/
  | ttLoad (coach : BitVec 6)
  /-- TT_CLEAR (R137). -/
  | ttClear (coach : BitVec 6)
  /-- TT_LOAD_BEGIN (R134). -/
  | ttLoadBegin (n : Slot)
  /-- TT_SWAP (R138). -/
  | ttSwap (v : Word)
  /-- SET_OWNER (R616). -/
  | setOwner (coach : BitVec 6) (laneCount laneFirst : BitVec 11) (unit : BitVec 12)
  /-- SET_LENDEE (R616). -/
  | setLendee (coach : BitVec 6) (laneCount laneFirst : BitVec 11) (unit : BitVec 12)
  /-- FREE_BLOCKS (R616). -/
  | freeBlocks (coach : BitVec 6) (laneCount laneFirst : BitVec 11) (unit : BitVec 12)
  /-- CLEAR_LENDEE (R616). -/
  | clearLendee (coach : BitVec 6) (laneCount laneFirst : BitVec 11) (unit : BitVec 12)
  /-- COACH_PARK (R140). -/
  | coachPark (v : Word)
  /-- USER (R150). -/
  | user (p : Pcell) (m : GigMsg)
  /-- SEM_REPLY (R150). -/
  | semReply (p : Pcell) (m : GigMsg)
  /-- DOORBELL (R150). -/
  | doorbell (p : Pcell) (m : GigMsg)
  /-- YIELD_REQ (R150). -/
  | yieldReq (p : Pcell) (m : GigMsg)
  /-- EPOCH_SET (R213). -/
  | epochSet (p : Pcell) (m : GigMsg)
  /-- CLOCK_SET (R541). -/
  | clockSet (p : Pcell) (m : GigMsg)
  /-- FAULT (R463). -/
  | fault (m : GigMsg)
  /-- NACK (R156). -/
  | nack (p : Pcell) (h : HenIx) (moved : Bool)
  /-- GIG_RESEND (R156). -/
  | gigResend (p : Pcell) (h : HenIx)
  /-- GIG_DOORBELL_READ (R158). -/
  | gigDoorbellRead (p : Pcell) (h : HenIx)
  /-- RING_FETCH (R172). -/
  | ringFetch (e : EngineIx) (n : Slot)
  /-- MULE_NOP (R177). -/
  | muleNop (e : EngineIx) (n : Slot)
  /-- GATHER (R181). -/
  | gather (e : EngineIx) (n : Slot)
  /-- SCATTER_ADD (R181). -/
  | scatterAdd (e : EngineIx) (n : Slot)
  /-- REDUCE (R181). -/
  | reduce (e : EngineIx) (n : Slot)
  /-- EMBED_BAG (R181). -/
  | embedBag (e : EngineIx) (n : Slot)
  /-- COPY (R181). -/
  | copy (e : EngineIx) (n : Slot)
  /-- FILL (R181). -/
  | fill (e : EngineIx) (n : Slot)
  /-- ATTEND (R185). -/
  | attend (e : EngineIx) (n : Slot)
  /-- RUN (R192). -/
  | run (e : EngineIx) (n : Slot)
  /-- MULE_RETIRE (R173). -/
  | muleRetire (e : EngineIx) (n : Slot)
  /-- RING_ENABLE (R199). -/
  | ringEnable (e : EngineIx) (n : Slot) (v : Word)
  /-- RING_DISABLE (R198). -/
  | ringDisable (e : EngineIx) (n : Slot)
  /-- RING_ABORT (R197). -/
  | ringAbort (e : EngineIx) (n : Slot)
  /-- RING_FLUSH (R198). -/
  | ringFlush (e : EngineIx) (n : Slot)
  /-- MULE_MAP_WRITE (R164). -/
  | muleMapWrite (e : EngineIx) (k : Nat) (v : Word)
  /-- MULE_MAP_TAKE_EFFECT (R164). -/
  | muleMapTakeEffect (e : EngineIx)
  /-- OPEN (R200). -/
  | coachOpen (cmd arg : Word)
  /-- CLOSE (R201). -/
  | coachClose (cmd arg : Word)
  /-- HITCH_CELL (R229). -/
  | hitchCell (cmd arg : Word)
  /-- UNHITCH_CELL (R229). -/
  | unhitchCell (cmd arg : Word)
  /-- MOVE_CELL (R215). -/
  | moveCell (cmd arg : Word)
  /-- MOVE_GO (R216). -/
  | moveGo (cmd arg : Word)
  /-- MOVE_CANCEL (R228). -/
  | moveCancel (cmd arg : Word)
  /-- SET_MEM (R234). -/
  | setMem (cmd arg : Word)
  /-- SET_LINK (R235). -/
  | setLink (cmd arg : Word)
  /-- SET_WINDOW (R210). -/
  | setWindow (cmd arg : Word)
  /-- RESET (R478). -/
  | coachReset (cmd arg : Word) (stuck : List Nat)
  /-- QUIESCE (R217). -/
  | quiesce (p : Pcell)
  /-- TARGET_RESUME (R222). -/
  | targetResume (p : Pcell)
  /-- MOVE_LOST (R228). -/
  | moveLost (p : Pcell)
  /-- OVERLAP_WINDOW_CLOSE (R210). -/
  | overlapWindowClose (n : Slot)
  /-- CELL_CLEAN (R204). -/
  | cellClean (p : Pcell)
  /-- BANK_OWN_WRITE (R251). -/
  | bankOwnWrite (p : Pcell) (b : BankIx) (v : Word)
  /-- DRAY_LOAD (R257). -/
  | drayLoad (p : Pcell) (d : DrayIx)
  /-- DRAY_STORE (R265). -/
  | drayStore (p : Pcell) (d : DrayIx)
  /-- RECV (R262). -/
  | recv (p : Pcell) (d : DrayIx)
  /-- SEND (R262). -/
  | send (p : Pcell) (d : DrayIx)
  /-- PREFETCH (R264). -/
  | prefetch (p : Pcell) (d : DrayIx)
  /-- MAP (R258). -/
  | streamMap (p : Pcell) (d : DrayIx)
  /-- RATOMIC (R435). -/
  | ratomic (p : Pcell) (d : DrayIx)
  /-- DESCRIPTOR_COMPLETE (R255). -/
  | descriptorComplete (p : Pcell) (d : DrayIx)
  /-- DRAY_FLUSH (R267). -/
  | drayFlush (p : Pcell) (d : DrayIx)
  /-- REQUEST_READ (R260). -/
  | requestRead (ep slot stream : Nat)
  /-- REQUEST_WRITE (R260). -/
  | requestWrite (ep slot stream : Nat)
  /-- REQUEST_PREFETCH (R260). -/
  | requestPrefetch (ep slot stream : Nat)
  /-- REQUEST_ATOMIC (R435). -/
  | requestAtomic (ep slot stream : Nat)
  /-- STATUS_FLIT (R260). -/
  | statusFlit (p : Pcell) (stream : Nat)
  /-- REGULATION_WINDOW (R269). -/
  | regulationWindow (c : CtlIx) (waited : List (Nat × Nat))
  /-- MC_MISS_LAST_CLEAR (R274). -/
  | mcMissLastClear (c : CtlIx) (v : Word)
  /-- MC_SHARE_WRITE (R274). -/
  | mcShareWrite (c : CtlIx) (m : Nat) (v : Word)
  /-- LLC_WAYS_WRITE (R249). -/
  | llcWaysWrite (k : Nat) (v : Word)
  /-- REFRESH_CHANGE (R272). -/
  | refreshChange (c : CtlIx) (mode : BitVec 2)
  /-- GET_S (R288). -/
  | getS (a : Nat) (line : LineNo) (sharedOnly : Bool)
  /-- GET_M (R288). -/
  | getM (a : Nat) (line : LineNo)
  /-- UPGRADE (R288). -/
  | upgrade (a : Nat) (line : LineNo)
  /-- PUT_S (R288). -/
  | putS (a : Nat) (line : LineNo)
  /-- PUT_E (R288). -/
  | putE (a : Nat) (line : LineNo)
  /-- PUT_D (R288). -/
  | putD (a : Nat) (line : LineNo) (data : Line)
  /-- AMO_FAR (R301). -/
  | amoFar (a : Nat) (line : LineNo) (body : BitVec 192)
  /-- FWD_GET_S (R284). -/
  | fwdGetS (a : Nat) (line : LineNo) (requester : Nat) (acks : Bool)
  /-- FWD_GET_M (R284). -/
  | fwdGetM (a : Nat) (line : LineNo) (requester : Nat) (acks : Bool)
  /-- INV (R284). -/
  | inv (a : Nat) (line : LineNo)
  /-- SNP_DATA (R284). -/
  | snpData (a : Nat) (line : LineNo)
  /-- SNP_INV (R284). -/
  | snpInv (a : Nat) (line : LineNo)
  /-- FWD_AMO (R301). -/
  | fwdAmo (e : EngineIx) (line : LineNo) (requester : Nat) (body : BitVec 192)
  /-- PUT_ACK (R284). -/
  | putAck (a : Nat) (line : LineNo)
  /-- GRANT (R284). -/
  | grant (a : Nat) (line : LineNo) (cont : Bool)
  /-- DONE (R284). -/
  | done (a : Nat) (line : LineNo)
  /-- DATA_S (R284). -/
  | dataS (a : Nat) (line : LineNo) (data : Line)
  /-- DATA_E (R284). -/
  | dataE (a : Nat) (line : LineNo) (data : Line)
  /-- DATA_M (R284). -/
  | dataM (a : Nat) (line : LineNo) (data : Line) (cont wait : Bool)
  /-- REFUSE (R286). -/
  | refuse (a : Nat) (line : LineNo) (code : BitVec 2)
  /-- RETRY (R293). -/
  | retry (a : Nat) (line : LineNo)
  /-- CREDIT (R293). -/
  | credit (a : Nat) (line : LineNo)
  /-- INV_ACK (R289). -/
  | invAck (a : Nat) (line : LineNo)
  /-- SNP_RESP (R289). -/
  | snpResp (a : Nat) (line : LineNo) (code : BitVec 2)
  /-- WB_DATA (R289). -/
  | wbData (a : Nat) (line : LineNo) (data : Line)
  /-- AMO_RESP (R303). -/
  | amoResp (a : Nat) (line : LineNo) (old : Word) (hot : Bool)
  /-- HOLD_END (R295). -/
  | holdEnd (a : Nat) (line : LineNo)
  /-- SYNC_PAGE_WRITE (R297). -/
  | syncPageWrite (n : Slot) (v : Word)
  /-- SYNC_PAGE_RECALL_DONE (R297). -/
  | syncPageRecallDone
  /-- COH_STRICT_WRITE (R309). -/
  | cohStrictWrite (q : PartIx) (v : Word)
  /-- XLT_REQ (R323). -/
  | xltReq (p : Pcell) (vpn : BitVec 45) (w x : Bool) (pasid : BitVec 20) (tag : BitVec 3)
  /-- XLT_REQ_RESEND (R323). -/
  | xltReqResend (p : Pcell) (tag : BitVec 3)
  /-- XLT_RESP (R325). -/
  | xltResp (p : Pcell) (r : XltAnswer)
  /-- XLT_INV (R332). -/
  | xltInv (p : Pcell) (q : XltInvReq)
  /-- XLT_INV_ACK (R332). -/
  | xltInvAck (p : Pcell) (seq : BitVec 8)
  /-- XLT_PAGE (R328). -/
  | xltPage (pasid : BitVec 20) (n : Slot) (prg : BitVec 9)
  /-- ATS_TRANSLATION_COMPLETION (R324). -/
  | atsTranslationCompletion (die : DieIx) (c : AtsCompletion)
  /-- ATS_INVALIDATE_REQUEST (R331). -/
  | atsInvalidateRequest (q : AtsInvalidate)
  /-- INVALIDATION_ABANDON (R333). -/
  | invalidationAbandon (itag : BitVec 5)
  /-- PRG_RESPONSE (R329). -/
  | prgResponse (prg : BitVec 9) (success : Bool)
  /-- XLT_FLUSH (R336). -/
  | xltFlush (v : Word)
  /-- COUNT_DECAY (R339). -/
  | countDecay
  /-- AC_RING_RESET (R342). -/
  | acRingReset (base : Bool) (v : Word)
  /-- STEP_START (R382). -/
  | stepStart (n : Slot)
  /-- STEP_RETIRE (R360). -/
  | stepRetire (n : Slot)
  /-- CHARGE (R386). -/
  | charge (n : Slot)
  /-- PROMOTION_CHECK (R391). -/
  | promotionCheck (n : Slot)
  /-- STOP_BOUNDARY (R397). -/
  | stopBoundary (n : Slot)
  /-- SPILL_SWAP (R398). -/
  | spillSwap (n : Slot)
  /-- SPILL_COMPLETE (R402). -/
  | spillComplete (n : Slot)
  /-- REFILL (R403). -/
  | refill (n : Slot)
  /-- ACQUIRE (R407). -/
  | acquire (east : Bool) (m : GigMsg)
  /-- RELEASE (R407). -/
  | release (east : Bool) (m : GigMsg)
  /-- TRY (R407). -/
  | semTry (east : Bool) (m : GigMsg)
  /-- SEM_READ (R407). -/
  | semRead (east : Bool) (m : GigMsg)
  /-- SEM_SET (R407). -/
  | semSet (east : Bool) (m : GigMsg)
  /-- SCHED_CLASS_WRITE (R414). -/
  | schedClassWrite (c : ClassIx) (v : Word)
  /-- INHERIT_CELL_WRITE (R414). -/
  | inheritCellWrite (r : RegionIx) (v : Word)
  /-- COMMAND_TIMEOUT (R472). -/
  | commandTimeout (n : Slot) (stuck : List Nat)
  /-- JBN_READ (R434). -/
  | jbnRead (k : PortIx) (pkt : Packet)
  /-- JBN_WRITE (R434). -/
  | jbnWrite (k : PortIx) (pkt : Packet)
  /-- JBN_ATOMIC (R434). -/
  | jbnAtomic (k : PortIx) (pkt : Packet)
  /-- STREAM (R433). -/
  | stream (k : PortIx) (pkt : Packet)
  /-- READ_RESP (R434). -/
  | readResp (k : PortIx) (pkt : Packet)
  /-- WRITE_RESP (R434). -/
  | writeResp (k : PortIx) (pkt : Packet)
  /-- ATOMIC_RESP (R435). -/
  | atomicResp (k : PortIx) (pkt : Packet)
  /-- EPOCH_NOTE (R436). -/
  | epochNote (k : PortIx) (pkt : Packet)
  /-- EPOCH_NOTE_RESEND (R436). -/
  | epochNoteResend (n : Slot)
  /-- HANDOVER (R441). -/
  | handover (k : PortIx) (pkt : Packet)
  /-- HANDOVER_ACK (R440). -/
  | handoverAck (k : PortIx) (pkt : Packet)
  /-- HANDOVER_LOST (R440). -/
  | handoverLost (n : Slot) (tag : BitVec 16)
  /-- FM_RESP (R446). -/
  | fmResp (k : PortIx)
  /-- SET_ID (R446). -/
  | setId (k : PortIx) (pkt : Packet)
  /-- ROUTE_HDR (R446). -/
  | routeHdr (k : PortIx) (pkt : Packet)
  /-- MEMBER_WRITE (R446). -/
  | memberWrite (k : PortIx) (pkt : Packet)
  /-- STREAM_WRITE (R446). -/
  | streamWrite (k : PortIx) (pkt : Packet)
  /-- REMOTE_WRITE (R446). -/
  | remoteWrite (k : PortIx) (pkt : Packet)
  /-- REHOME (R440). -/
  | rehome (k : PortIx) (pkt : Packet)
  /-- PORT (R446). -/
  | port (k : PortIx) (pkt : Packet)
  /-- PORT_UP (R417). -/
  | portUp (k : PortIx)
  /-- PORT_DOWN (R417). -/
  | portDown (k : PortIx) (lanes : BitVec 8)
  /-- LINK_CREDIT_BLOCK (R424). -/
  | linkCreditBlock (k : PortIx) (cls : BitVec 2) (credits : Nat)
  /-- STREAM_PACKET_SEND (R433). -/
  | streamPacketSend (east : Bool) (n : Slot) (stream : Nat)
  /-- REQUEST_TIMEOUT (R443). -/
  | requestTimeout (tag : BitVec 16)
  /-- SCRUB (R456). -/
  | scrub (c : CtlIx)
  /-- SP_FLIP_ARM (R454). -/
  | spFlipArm (p : Pcell) (v : Word)
  /-- MC_FLIP_ARM (R455). -/
  | mcFlipArm (c : CtlIx) (v : Word)
  /-- RETIRE_PAGE (R460). -/
  | retirePage (v : Word)
  /-- RETIRE_BANK (R461). -/
  | retireBank (v : Word)
  /-- RETIRE_CELL (R461). -/
  | retireCell (v : Word)
  /-- COLLECTOR_CLOSE (R468). -/
  | collectorClose (i : Nat)
  /-- FAULT_NOTICE (R470). -/
  | faultNotice (b : Nat)
  /-- PCELL_STOP_TIMEOUT (R478). -/
  | pcellStopTimeout (p : Pcell)
  /-- CRASH_FREE (R474). -/
  | crashFree (v : Word)
  /-- WARM_RESET (R480). -/
  | warmReset
  /-- WARM_RESET_ESCALATION (R477). -/
  | warmResetEscalation (n : Slot)
  /-- CEILING_REVISION (R542). -/
  | ceilingRevision (p : Pcell) (mhz : BitVec 16)
  /-- ERROR_SUMMARY_WRITE (R524). -/
  | errorSummaryWrite (q : PartIx)
  /-- STOP (R582). -/
  | stop (w : BitVec 16)
  /-- RESUME (R584). -/
  | resume (w : BitVec 16)
  /-- COUNTER_EXPORT (R593). -/
  | counterExport (n : Slot)
  /-- ARITHMETIC_INSTRUCTION (R84). -/
  | arithmeticInstruction (p : Pcell) (h : HenIx) (c : Bool) (i : Arith)
  /-- CSR_ACCESS (R111). -/
  | csrAccess (p : Pcell) (h : HenIx) (op : CsrOp) (imm : Bool) (csr : BitVec 12) (rd rs1 : Reg)
  /-- FENCE (R110). -/
  | fence (p : Pcell) (h : HenIx) (pred succ : BitVec 4)
  /-- WFI (R116). -/
  | wfi (p : Pcell) (h : HenIx)
  /-- MRET (R106). -/
  | mret (p : Pcell) (h : HenIx)
  /-- REFILL_COMPLETE (R403). -/
  | refillComplete (n : Slot)
  /-- SLICE_CREATE (R351). -/
  | sliceCreate (ws : List Word)
  /-- SLICE_DESTROY (R351). -/
  | sliceDestroy (ws : List Word)
  /-- DOORBELL_SET (R361). -/
  | doorbellSet (ws : List Word)
  /-- CONTEXT_CREATE (R351). -/
  | contextCreate (ws : List Word)
  /-- CONTEXT_TEARDOWN (R375). -/
  | contextTeardown (ws : List Word)
  /-- FENCE_INIT (R364). -/
  | fenceInit (ws : List Word)
  /-- FENCE_FREE (R376). -/
  | fenceFree (ws : List Word)
  /-- FENCE_TABLE (R617). -/
  | fenceTable (ws : List Word)
  /-- COACH_BIND (R354). -/
  | coachBind (ws : List Word)
  /-- DOORBELL_TAIL (R362). -/
  | doorbellTail (page : Nat) (v : Word)
  /-- WAIT_LATCH (R362). -/
  | waitLatch (page : Nat) (v : Word)
  /-- WAIT_REGISTER (R363). -/
  | waitRegister (page : Nat) (v : Word)
  /-- SIGNAL_LATCH (R362). -/
  | signalLatch (page : Nat) (v : Word)
  /-- SIGNAL (R366). -/
  | signal (page : Nat) (v : Word)
  /-- FENCE_QUERY (R361). -/
  | fenceQuery (page : Nat) (v : Word)
  /-- EVENT_HEAD (R370). -/
  | eventHead (page : Nat) (v : Word)
  /-- EVENT_ARM (R373). -/
  | eventArm (page : Nat) (v : Word)
  /-- BAR4_READ (R348). -/
  | bar4Read (off len : Nat)
  /-- BAR4_WRITE (R348). -/
  | bar4Write (off : Nat) (data : List Byte)
  /-- BAR4_SEG_WRITE (R346). -/
  | bar4SegWrite (k : SegIx) (v : Word)
  /-- MAKE_RESIDENT (R380). -/
  | makeResident (ctx : Nat)
  /-- IMPORT (R498). -/
  | stableImport (ws : List Word)
  /-- DESTROY (R500). -/
  | destroy (ws : List Word)
  /-- PART_MODE (R518). -/
  | partMode (ws : List Word)
  /-- INGEST (R509). -/
  | ingest (ws : List Word)
  /-- EGEST (R510). -/
  | egest (ws : List Word)
  /-- LC_ADVANCE (R488). -/
  | lcAdvance (ws : List Word)
  /-- DEBUG_UNLOCK (R514). -/
  | debugUnlock (ws : List Word)
  /-- JTAG_TOKEN (R513). -/
  | jtagToken (token : List Byte)
  /-- GET_VERSION (R515). -/
  | getVersion (req : List Byte)
  /-- GET_CAPABILITIES (R515). -/
  | getCapabilities (req : List Byte)
  /-- NEGOTIATE_ALGORITHMS (R515). -/
  | negotiateAlgorithms (req : List Byte)
  /-- GET_DIGESTS (R515). -/
  | getDigests (req : List Byte)
  /-- GET_CERTIFICATE (R515). -/
  | getCertificate (req : List Byte)
  /-- CHALLENGE (R515). -/
  | challenge (req : List Byte)
  /-- GET_MEASUREMENTS (R516). -/
  | getMeasurements (req : List Byte)
  /-- CHUNK_GET (R515). -/
  | chunkGet (req : List Byte)
  /-- GET_STATUS (R535). -/
  | getStatus (inst : Byte) (body : List Byte)
  /-- SET_CONTRACT (R536). -/
  | setContract (inst : Byte) (body : List Byte)
  /-- SET_COOLING (R539). -/
  | setCooling (inst : Byte) (body : List Byte)
  /-- GET_REPORT (R537). -/
  | getReport (inst : Byte) (body : List Byte)
  /-- MINUTE_CLOSE (R537). -/
  | minuteClose
  /-- CONTROL_INTERVAL (R538). -/
  | controlInterval (r : PowerReading)
  /-- METER_SAMPLE (R529). -/
  | meterSample (mV mA : Nat)
  /-- METER_CHECK (R530). -/
  | meterCheck (firstMw secondMw : Nat)
  /-- DROOP (R543). -/
  | droop (p : Pcell) (edges : Nat)
  /-- THERMAL_TRIP (R550). -/
  | thermalTrip (sensor : Nat) (tempC : Int) (heldMs : Nat)
  /-- PWR_STRICT_WRITE (R549). -/
  | pwrStrictWrite (q : PartIx) (v : Word)
  /-- COLD_RESET (R552). -/
  | coldReset (env : BootEnv)
  /-- PERST_ASSERT (R605). -/
  | perstAssert (held : Bool)
  /-- MOD_RST_ASSERT (R605). -/
  | modRstAssert (held : Bool)
  /-- PWR_EN_CHANGE (R602). -/
  | pwrEnChange (high : Bool) (lowMs : Nat)
  /-- INPUT_OUT_OF_RANGE (R602). -/
  | inputOutOfRange (mV : Nat)
  /-- REFCLK_SYS_LOSS (R607). -/
  | refclkSysLoss (present : Bool)
  /-- REFCLK_FAB_LOSS (R607). -/
  | refclkFabLoss (present : Bool)
  /-- HOT_RESET (R607). -/
  | hotReset
  /-- REQUEST_UPDATE (R568). -/
  | requestUpdate (pcie : Bool) (image : List Byte)
  /-- ACTIVATE_FIRMWARE (R568). -/
  | activateFirmware
  /-- GET_SENSOR_READING (R571). -/
  | getSensorReading (id : Nat)
  /-- CHANGE_LOG_DRAIN (R573). -/
  | changeLogDrain
  /-- LOG_SIGN (R576). -/
  | logSign (v : Word)
  /-- SCAN (R586). -/
  | scan (jtag : Bool) (v : Word)
  /-- SCAN_IN (R589). -/
  | scanIn (jtag : Bool) (v : Word) (data : List Byte)
  /-- CTR_SNAP (R591). -/
  | ctrSnap (v : Word)
  /-- CTR_EXPORT_WRITE (R593). -/
  | ctrExportWrite (n : Slot) (v : Word)
  /-- REGISTER_WRITE (R11). -/
  | registerWrite (off : Nat) (v : Word)
  /-- RC_REGISTER_READ (R12). -/
  | rcRegisterRead (off : Nat)
  /-- CONFIGURATION_REQUEST (R553). -/
  | configurationRequest (q : CfgReq)
  /-- PCIE_COMPLETION (R349). -/
  | pcieCompletion (addr : Nat) (data : List Byte)
  /-- FUSE_SEEDS_AT_TEST (R487). -/
  | fuseSeedsAtTest
  /-- FLASH_HEADER_WRITE (R608). -/
  | flashHeaderWrite (dev : Bool) (off : Nat) (data : List Byte)
  /-- MARGIN_LOSS (R128). -/
  | marginLoss (unit lane : Nat)
  deriving DecidableEq, Repr

end Sys2Proof
end

