-- ==== Sys2Proof/Decode.lean ====
section
/-! DEFINITION. Words that spell commands. No row of spec/opcode_table.json gives bits, so the table's decoder refuses every
word. The one encoding of commands that the manual gives, of the Xcarkan instructions of a Hen (R91), is decoded and encoded
here too, for the Hen that executes the word. -/
namespace Sys2Proof

/-- The command that a word spells by the table's bits: no row gives any. -/
def decodeTableWord (_nbits _w : Nat) : Option Instr := none

/-- Field of n bits at bit lo of a word. -/
def wordField (w : BitVec 32) (lo n : Nat) : Nat := w.toNat / 2 ^ lo % 2 ^ n

/-- A register number from a field of five bits. -/
def regField (w : BitVec 32) (lo : Nat) : Reg := Fin.ofNat 32 (w.toNat / 2 ^ lo)

/-- The instruction of opcode 0001011 (SPL) by funct3. -/
def decodeSpl (p : Pcell) (h : HenIx) (f3 : Nat) (rd rs1 : Reg) (imm : BitVec 12) : Option Instr :=
  match f3 with
  | 0 => some (.splB p h rd rs1 imm)
  | 1 => some (.splH p h rd rs1 imm)
  | 2 => some (.splW p h rd rs1 imm)
  | 3 => some (.splD p h rd rs1 imm)
  | 4 => some (.splBu p h rd rs1 imm)
  | 5 => some (.splHu p h rd rs1 imm)
  | 6 => some (.splWu p h rd rs1 imm)
  | _ => none

/-- The instruction of opcode 1011011 (SPS) by funct3. -/
def decodeSps (p : Pcell) (h : HenIx) (f3 : Nat) (rs2 rs1 : Reg) (imm : BitVec 12) : Option Instr :=
  match f3 with
  | 0 => some (.spsB p h rs2 rs1 imm)
  | 1 => some (.spsH p h rs2 rs1 imm)
  | 2 => some (.spsW p h rs2 rs1 imm)
  | 3 => some (.spsD p h rs2 rs1 imm)
  | _ => none

/-- The instruction of opcode 0101011 by funct3 and funct7; a field that R91 shows as 00000 must be zero. -/
def decodeUnit (p : Pcell) (h : HenIx) (f7 f3 : Nat) (rd rs1 rs2 : Reg) : Option Instr :=
  match f3, f7 with
  | 0, 0 => if rs2 = 0 then some (.vsplV p h rd rs1) else none
  | 0, 1 => if rs2 = 0 then some (.vspsV p h rd rs1) else none
  | 1, 0 => if rs1 = 0 ∧ rd = 0 then some (.oxIssue p h rs2) else none
  | 1, 1 => if rs2 = 0 ∧ rd = 0 then some (.oxWait p h rs1) else none
  | 2, 0 => if rs1 = 0 ∧ rd = 0 then some (.drayIssue p h rs2 0) else none
  | 2, 1 => if rs1 = 0 ∧ rd = 0 then some (.drayIssue p h rs2 1) else none
  | 2, 2 => if rs2 = 0 ∧ rd = 0 then some (.drayWait p h rs1 0) else none
  | 2, 3 => if rs2 = 0 ∧ rd = 0 then some (.drayWait p h rs1 1) else none
  | 3, 0 => if rs1 = 0 ∧ rd = 0 then some (.gigSend p h rs2) else none
  | 3, 1 => if rs2 = 0 ∧ rs1 = 0 then some (.gigRecv p h rd) else none
  | 4, 0 => some (.bankGive p h rd rs1 rs2)
  | 4, 1 => if rs2 = 0 then some (.bankOwner p h rd rs1) else none
  | 5, 0 => if rs2 = 0 ∧ rs1 = 0 then some (.epochGet p h rd) else none
  | _, _ => none

/-- The Xcarkan instruction of a word (R91); none for an encoding that the table of R91 does not list, which raises the
illegal-instruction exception. -/
def decodeXcarkan (p : Pcell) (h : HenIx) (w : BitVec 32) : Option Instr :=
  let rd := regField w 7
  let rs1 := regField w 15
  let rs2 := regField w 20
  let f3 := wordField w 12 3
  let f7 := wordField w 25 7
  match wordField w 0 7 with
  | 0b0001011 => decodeSpl p h f3 rd rs1 (BitVec.ofNat 12 (wordField w 20 12))
  | 0b1011011 => decodeSps p h f3 rs2 rs1 (BitVec.ofNat 12 (f7 * 32 + wordField w 7 5))
  | 0b0101011 =>
    if f3 = 6 then (if rs1 = 0 ∧ rd = 0 then some (.yield p h (BitVec.ofNat 12 (wordField w 20 12))) else none)
    else decodeUnit p h f7 f3 rd rs1 rs2
  | _ => none

/-- The words of the formats of R91: fields 31:20, 31:25 with 24:20, and the split immediate of SPS. -/
def wordImm (op f3 rd rs1 imm : Nat) : BitVec 32 := BitVec.ofNat 32 (op + 128 * rd + 4096 * f3 + 32768 * rs1 + 1048576 * imm)
def wordR (f7 f3 rd rs1 rs2 : Nat) : BitVec 32 := wordImm 0b0101011 f3 rd rs1 (32 * f7 + rs2)
def wordSps (f3 rs2 rs1 imm : Nat) : BitVec 32 := wordImm 0b1011011 f3 (imm % 32) rs1 (imm / 32 * 32 + rs2)

/-- The word of an Xcarkan instruction (R91); none for a command that is not one. -/
def encodeXcarkan : Instr → Option (BitVec 32)
  | .splB _ _ rd rs1 imm => some (wordImm 0b0001011 0 rd.val rs1.val imm.toNat)
  | .splH _ _ rd rs1 imm => some (wordImm 0b0001011 1 rd.val rs1.val imm.toNat)
  | .splW _ _ rd rs1 imm => some (wordImm 0b0001011 2 rd.val rs1.val imm.toNat)
  | .splD _ _ rd rs1 imm => some (wordImm 0b0001011 3 rd.val rs1.val imm.toNat)
  | .splBu _ _ rd rs1 imm => some (wordImm 0b0001011 4 rd.val rs1.val imm.toNat)
  | .splHu _ _ rd rs1 imm => some (wordImm 0b0001011 5 rd.val rs1.val imm.toNat)
  | .splWu _ _ rd rs1 imm => some (wordImm 0b0001011 6 rd.val rs1.val imm.toNat)
  | .spsB _ _ rs2 rs1 imm => some (wordSps 0 rs2.val rs1.val imm.toNat)
  | .spsH _ _ rs2 rs1 imm => some (wordSps 1 rs2.val rs1.val imm.toNat)
  | .spsW _ _ rs2 rs1 imm => some (wordSps 2 rs2.val rs1.val imm.toNat)
  | .spsD _ _ rs2 rs1 imm => some (wordSps 3 rs2.val rs1.val imm.toNat)
  | .vsplV _ _ vd rs1 => some (wordR 0 0 vd.val rs1.val 0)
  | .vspsV _ _ vs3 rs1 => some (wordR 1 0 vs3.val rs1.val 0)
  | .oxIssue _ _ vs2 => some (wordR 0 1 0 0 vs2.val)
  | .oxWait _ _ rs1 => some (wordR 1 1 0 rs1.val 0)
  | .drayIssue _ _ vs2 d => some (wordR d.val 2 0 0 vs2.val)
  | .drayWait _ _ rs1 d => some (wordR (2 + d.val) 2 0 rs1.val 0)
  | .gigSend _ _ vs2 => some (wordR 0 3 0 0 vs2.val)
  | .gigRecv _ _ vd => some (wordR 1 3 vd.val 0 0)
  | .bankGive _ _ rd rs1 rs2 => some (wordR 0 4 rd.val rs1.val rs2.val)
  | .bankOwner _ _ rd rs1 => some (wordR 1 4 rd.val rs1.val 0)
  | .epochGet _ _ rd => some (wordR 0 5 rd.val 0 0)
  | .yield _ _ id => some (wordImm 0b0101011 6 0 0 id.toNat)
  | _ => none

/-- The pcell and the Hen that execute an Xcarkan instruction. -/
def Instr.xcarkanHen : Instr → Option (Pcell × HenIx)
  | .splB p h _ _ _ | .splH p h _ _ _ | .splW p h _ _ _ | .splD p h _ _ _ | .splBu p h _ _ _ | .splHu p h _ _ _
  | .splWu p h _ _ _ | .spsB p h _ _ _ | .spsH p h _ _ _ | .spsW p h _ _ _ | .spsD p h _ _ _ | .vsplV p h _ _
  | .vspsV p h _ _ | .oxIssue p h _ | .oxWait p h _ | .drayIssue p h _ _ | .drayWait p h _ _ | .gigSend p h _
  | .gigRecv p h _ | .bankGive p h _ _ _ | .bankOwner p h _ _ | .epochGet p h _ | .yield p h _ => some (p, h)
  | _ => none

/-- An illegal word that the table of R91 lists spells that instruction, which is another row. -/
def Arith.spellsXcarkan (p : Pcell) (h : HenIx) : Arith → Bool
  | .illegal w => (decodeXcarkan p h w).isSome
  | _ => false

end Sys2Proof
end

