-- ==== Sys2Proof/Config.lean ====
section
/-! DEFINITION. What an implementation fixes and what the manual leaves open: every constant here is opaque, so that no
proof can lean on a value. Functions of data that the manual names by an outside standard (SHA-512, Ed25519, X25519,
AES-GCM) are uninterpreted here; so are values that the manual does not state. -/
namespace Sys2Proof.Config

/-- A free value: the k-th value that the manual does not state (see State.free). -/
opaque freeWord : Nat → BitVec 64

/-- A free line: contents that the manual does not state (spilled data under a replaced key, R502). -/
opaque freeLine : Nat → BitVec 512

/-- SHA-512 of a byte string (FIPS 180-4), as a number of 512 bits, first byte in bits 7:0. -/
opaque sha512 : List (BitVec 8) → BitVec 512

/-- Ed25519 verification (public key, message, signature). -/
opaque ed25519Verify : BitVec 256 → List (BitVec 8) → BitVec 512 → Bool

/-- Ed25519 signature of a message under a private key derived from 32 seed bytes. -/
opaque ed25519Sign : BitVec 256 → List (BitVec 8) → BitVec 512

/-- Ed25519 public key of a seed. -/
opaque ed25519Public : BitVec 256 → BitVec 256

/-- X25519(private, public) of RFC 7748. -/
opaque x25519 : BitVec 256 → BitVec 256 → BitVec 256

/-- X25519 public key of a private key. -/
opaque x25519Public : BitVec 256 → BitVec 256

/-- AES-256-GCM encryption: key, IV, authenticated data, plaintext; ciphertext and 16-byte tag. -/
opaque gcmSeal : BitVec 256 → List (BitVec 8) → List (BitVec 8) → List (BitVec 8) → List (BitVec 8) × BitVec 128

/-- AES-256-GCM decryption: key, IV, authenticated data, ciphertext, tag; none where the tag does not hold. -/
opaque gcmOpen : BitVec 256 → List (BitVec 8) → List (BitVec 8) → List (BitVec 8) → BitVec 128 → Option (List (BitVec 8))

/-- The k-th output of the true random number generator (R490): boot nonce, memory, system and spill keys. -/
opaque random : Nat → BitVec 512

/-- The fused ROOT_SECRET and ID_SEED (R489); no master reads them. -/
opaque rootSecret : BitVec 256
opaque idSeed : BitVec 256

/-- The Carkan image key and life-cycle key in the boot ROM (R487, R562). -/
opaque carkanImageKey : BitVec 256
opaque carkanLcKey : BitVec 256

/-- exp32 of R185 for the argument a - b, taken where it lies within 2 units in the last place of e^(a - b) (expDiff). -/
opaque exp32 : BitVec 32 → BitVec 32 → BitVec 32

/-- An unordered vector sum (vfredusum, vfwredusum of V 1.0): of n elements, a number for formats and rounding mode, and the scalar
with the elements: the sum in the order that the device takes, and its flags. -/
opaque sumOrder : Nat → Nat → List Nat → BitVec 64 × BitVec 5

/-- vl that an implementation gives an AVL between VLMAX and twice VLMAX, within the bounds that V 1.0 sets: an amount to
take from VLMAX. -/
opaque vlChoice : Nat → Nat → Nat

/-- The physical address of the cell monitor's entry (R382 step 4), carried in the dispatch-core firmware. -/
opaque monitorEntry : BitVec 64

/-- Fused activity weights of the power model (R545): Ox-busy cycles, Hen retirements, scratchpad accesses. -/
opaque activityWeight : Nat → Nat

/-- What a SEC-DED decoder makes of three or more flipped bits (R450, R454): 1 corrected, 2 uncorrectable, else undetected. -/
opaque codeOutcome : BitVec 64 → BitVec 8 → BitVec 2
/-- The bit that it takes for the failing one where it corrects them. -/
opaque codeBit : BitVec 64 → BitVec 8 → BitVec 8

/-- Which way pseudo-LRU replaces (R247, R292, R318) among the candidates: a choice the manual leaves internal. -/
opaque plru : Nat → Nat

/-- The sets to which an LLC slice, a directory and a cell L2 map a line: internal to the device. -/
opaque llcSet : Nat → Nat
opaque dirSet : Nat → Nat
opaque l2Set : Nat → Nat
/-- The set of a die's TLB for a virtual group, page size and PASID (R319). -/
opaque tlbSet : Nat → Nat → Nat → Nat

/-- Payload of the k-th flit of a move image (R219): its layout is internal to the device. -/
opaque imageFlit : Nat → BitVec 256

/-- The SPDM and certificate bodies that outside standards lay out (R492, R515): index, negotiated state. -/
opaque spdmBody : Nat → List (BitVec 8) → List (BitVec 8)

/-- The certificate region of a flash device holds an X.509 certificate for an identity public key (R492, R608). -/
opaque certHolds : List (BitVec 8) → BitVec 256 → Bool

/-- The requester ID or EID of the sender of a logged change (R574): origin, entry number. -/
opaque senderId : Nat → BitVec 64 → BitVec 24

/-- A fence wait more than 2^62 from the fence's value, undefined (R9, R367), counts as reached: value, waited value. -/
opaque gapMet : BitVec 64 → BitVec 64 → Bool

/-- A byte that the device's own cores take where a read is refused or its data is lost (R245, R354, R453): tick, address. -/
opaque refusedByte : Nat → Nat → BitVec 8

/-- The PCI Express structures whose fields R343 gives. -/
inductive PciCap
  | express | msix | ats | pri | pasid | rebar | device3
  deriving DecidableEq, Repr

/-- Where in configuration space a structure stands, as a word: PCI Express leaves it to the device, and R343 does not say. -/
opaque cfgCap : PciCap → BitVec 10

/-- The PCIe vendor ID and the other words of configuration space that PCI Express 7.0 lays out (R343): reset value by word. -/
opaque cfgReset : BitVec 10 → BitVec 32

/-- The bits of a configuration word that a write may change (R343). -/
opaque cfgMask : BitVec 10 → BitVec 32

/-- The Ox state image of R44, 73,728 bytes in a layout internal to the Ox (R587): from what the image holds, written out
plainly; and a piece of what an image holds, by its number. -/
opaque oxImage : List (BitVec 8) → List (BitVec 8)
opaque oxPiece : List (BitVec 8) → Nat → BitVec 2304

/-- Blocks per frame that the spill image of a slot gives each cell on stream 62, less one (R395): the dispatch core builds the
image, and its layout is internal. -/
opaque spillBlocks : Nat → Nat

end Sys2Proof.Config
end

