-- ==== Sys2Proof/Machine/Bits.lean ====
section
/-! DEFINITION. Sparse tables in canonical form, bytes and little-endian numbers, bit fields. -/
namespace Sys2Proof.Machine

/-- The value of a table at a key: d where the table lists nothing. -/
def tget {α : Type} (d : α) : SMap α → Nat → α
  | [], _ => d
  | (k, v) :: m, i => if k = i then v else tget d m i

/-- A table with the value at a key replaced; a value equal to the default is not listed. -/
def tset {α : Type} [DecidableEq α] (d : α) : SMap α → Nat → α → SMap α
  | [], i, v => if v = d then [] else [(i, v)]
  | (k, w) :: m, i, v =>
    if i < k then (if v = d then (k, w) :: m else (i, v) :: (k, w) :: m)
    else if i = k then (if v = d then m else (i, v) :: m)
    else (k, w) :: tset d m i v

/-- A table with every listed value changed; a value that becomes the default is no longer listed. -/
def tmap {α : Type} [DecidableEq α] (d : α) (m : SMap α) (f : Nat → α → α) : SMap α :=
  (m.map fun e => (e.1, f e.1 e.2)).filter fun e => decide (e.2 ≠ d)

/-- The canonical form of a table: keys strictly rising, nothing equal to the default. -/
def twf {α : Type} [DecidableEq α] (d : α) : SMap α → Bool
  | [] => true
  | [(_, v)] => decide (v ≠ d)
  | (k, v) :: (k', v') :: m => decide (v ≠ d) && decide (k < k') && twf d ((k', v') :: m)

/-- The canonical form of a memory: addresses strictly rising, no byte equal to zero, which an unlisted address reads as. -/
abbrev Memory.wf (m : SMap Byte) : Prop := twf 0 m = true

/-- A table of bytes read over n consecutive keys. -/
def readBytes (m : SMap Byte) (a : Nat) : Nat → List Byte
  | 0 => []
  | n + 1 => tget 0 m a :: readBytes m (a + 1) n

/-- A table of bytes with consecutive bytes written from a. -/
def writeBytes (m : SMap Byte) (a : Nat) : List Byte → SMap Byte
  | [] => m
  | b :: bs => writeBytes (tset 0 m a b) (a + 1) bs

/-- The number that little-endian bytes spell. -/
def leNat : List Byte → Nat
  | [] => 0
  | b :: bs => b.toNat + 256 * leNat bs

/-- The low n bytes of a number, little-endian. -/
def natBytes : Nat → Nat → List Byte
  | 0, _ => []
  | n + 1, v => BitVec.ofNat 8 v :: natBytes n (v / 256)

/-- Field of w bits at bit lo of a number. -/
def field (v lo w : Nat) : Nat := v / 2 ^ lo % 2 ^ w

/-- Field of w bits at bit lo of a bit vector, as a number. -/
def bfield {n : Nat} (v : BitVec n) (lo w : Nat) : Nat := field v.toNat lo w

/-- Byte i of a bit vector. -/
def byteAt {n : Nat} (v : BitVec n) (i : Nat) : Byte := BitVec.ofNat 8 (field v.toNat (8 * i) 8)

/-- The bytes of a bit vector of n bytes. -/
def bytesOf {w : Nat} (n : Nat) (v : BitVec w) : List Byte := natBytes n v.toNat

/-- A bit vector from little-endian bytes. -/
def ofBytes (w : Nat) (bs : List Byte) : BitVec w := BitVec.ofNat w (leNat bs)

/-- n bits placed at bit lo of a 64-bit register. -/
def put (lo : Nat) (v : Nat) : Word := BitVec.ofNat 64 (v * 2 ^ lo)

/-- A Bool placed at bit lo. -/
def putB (lo : Nat) (b : Bool) : Word := if b then BitVec.ofNat 64 (2 ^ lo) else 0

/-- Saturating increment of a count kept in n bits. -/
def satInc (n v : Nat) : Nat := if v + 1 < 2 ^ n then v + 1 else 2 ^ n - 1

/-- Saturating addition to a count kept in n bits. -/
def satAdd (n v k : Nat) : Nat := if v + k < 2 ^ n then v + k else 2 ^ n - 1

/-- ⌈a / b⌉ -/
def ceilDiv (a b : Nat) : Nat := (a + b - 1) / b

/-- Entry i of a list, d past its end. -/
def nth {α : Type} (d : α) (l : List α) (i : Nat) : α := (l[i]?).getD d

/-- A list with entry i replaced (unchanged past its end). -/
def setNth {α : Type} : List α → Nat → α → List α
  | [], _, _ => []
  | _ :: l, 0, v => v :: l
  | a :: l, i + 1, v => a :: setNth l i v

/-- The list without the first element equal to a. -/
def dropFirst {α : Type} [DecidableEq α] (a : α) : List α → List α
  | [] => []
  | b :: l => if b = a then l else b :: dropFirst a l

/-- The numbers lo to lo + n - 1. -/
def span (lo : Nat) : Nat → List Nat
  | 0 => []
  | n + 1 => lo :: span (lo + 1) n

/-- The numbers 0 to 2^n - 1 whose bit is set in a mask of n bits, rising. -/
def bitsSet (mask n : Nat) : List Nat := (span 0 n).filter fun i => mask.testBit i

/-- Number of bits set among the low n. -/
def popcount (n v : Nat) : Nat := (bitsSet v n).length

/-- A list of numbers without repeats, first places kept. -/
def distinct : List Nat → List Nat
  | [] => []
  | a :: l => let r := distinct l; if r.contains a then r else a :: r

end Sys2Proof.Machine
end

