-- ==== Sys2Proof/Machine/Num.lean ====
section
/-! DEFINITION. Exact numbers, the floating-point formats of R49 and their roundings. A number is m × 2^e with a sign,
an infinity or a NaN; sums and products of numbers are exact, and rounding happens once, in encode. -/
namespace Sys2Proof.Machine

/-- An exact number: (-1)^neg × m × 2^e, an infinity, or a NaN. -/
inductive Num where
  | nan
  | inf (neg : Bool)
  | fin (neg : Bool) (m : Nat) (e : Int)
  deriving DecidableEq, Repr

/-- A floating-point format: widths of exponent and mantissa, bias, whether the top exponent is reserved for infinities
and NaNs as in IEEE 754, and otherwise which magnitudes are NaN (R49). -/
structure FloatFmt where
  eb : Nat
  mb : Nat
  bias : Nat
  ieee : Bool
  nanMag : List Nat
  maxMag : Nat
  deriving DecidableEq, Repr

def fmtE4M3 : FloatFmt := ⟨4, 3, 7, false, [0x7F], 0x7E⟩
def fmtE5M2 : FloatFmt := ⟨5, 2, 15, true, [], 0x7B⟩
def fmtE3M2 : FloatFmt := ⟨3, 2, 3, false, [], 0x1F⟩
def fmtE2M3 : FloatFmt := ⟨2, 3, 1, false, [], 0x1F⟩
def fmtE2M1 : FloatFmt := ⟨2, 1, 1, false, [], 0x7⟩
def fmtBF16 : FloatFmt := ⟨8, 7, 127, true, [], 0x7F7F⟩
def fmtFP16 : FloatFmt := ⟨5, 10, 15, true, [], 0x7BFF⟩
def fmtFP32 : FloatFmt := ⟨8, 23, 127, true, [], 0x7F7FFFFF⟩
def fmtFP64 : FloatFmt := ⟨11, 52, 1023, true, [], 0x7FEFFFFFFFFFFFFF⟩

namespace FloatFmt

/-- Bits below the sign. -/
def mag (f : FloatFmt) : Nat := f.eb + f.mb

/-- Width of the format. -/
def width (f : FloatFmt) : Nat := f.mag + 1

/-- The magnitude pattern of infinity. -/
def infMag (f : FloatFmt) : Nat := (2 ^ f.eb - 1) * 2 ^ f.mb

/-- Exponent of one unit of the subnormals. -/
def qmin (f : FloatFmt) : Int := 1 - (f.bias : Int) - (f.mb : Int)

end FloatFmt

/-- The value of an encoding (R49, R52: every NaN encoding reads as NaN). -/
def Num.decode (f : FloatFmt) (v : Nat) : Num :=
  let neg := field v f.mag 1 = 1
  let a := v % 2 ^ f.mag
  let e := a / 2 ^ f.mb
  let m := a % 2 ^ f.mb
  if f.ieee && e == 2 ^ f.eb - 1 then (if m = 0 then .inf neg else .nan)
  else if f.nanMag.contains a then .nan
  else if e = 0 then .fin neg m f.qmin
  else .fin neg (2 ^ f.mb + m) (f.qmin + (e : Int) - 1)

/-- Rounding modes: to nearest even, toward zero, down, up, to nearest away, to odd multiples of the stochastic draw. -/
inductive Rounding where
  | rne | rtz | rdn | rup | rmm
  | stochastic (r : Nat)
  deriving DecidableEq, Repr

/-- Round m / 2^sh to an integer: the quotient t, and whether it rounds up. -/
def Rounding.up (mode : Rounding) (neg : Bool) (m sh : Nat) : Bool :=
  let t := m / 2 ^ sh
  let rem := m % 2 ^ sh
  match mode with
  | .rne => decide (2 * rem > 2 ^ sh) || (decide (2 * rem = 2 ^ sh) && t % 2 == 1)
  | .rtz => false
  | .rdn => neg && decide (rem ≠ 0)
  | .rup => !neg && decide (rem ≠ 0)
  | .rmm => decide (2 * rem ≥ 2 ^ sh)
  | .stochastic r => decide (rem * 65536 / 2 ^ sh + r ≥ 65536)

/-- The magnitude pattern of a finite number rounded to a format, not bounded above, and whether it was inexact. The
pattern of exponent field x and mantissa m is x × 2^mb + m, so a carry out of the mantissa moves to the next binade. -/
def roundMag (f : FloatFmt) (mode : Rounding) (neg : Bool) (m : Nat) (e : Int) : Nat × Bool :=
  if m = 0 then (0, false) else
    let q : Int := max ((Nat.log2 m : Int) + e - f.mb) f.qmin
    let base := (q - f.qmin).toNat * 2 ^ f.mb
    if q ≤ e then (base + m * 2 ^ (e - q).toNat, false)
    else
      let sh := (q - e).toNat
      let t := m / 2 ^ sh
      (base + t + (if mode.up neg m sh then 1 else 0), decide (m % 2 ^ sh ≠ 0))

/-- A sign and magnitude as an encoding. -/
def signed (f : FloatFmt) (neg : Bool) (a : Nat) : Nat := (if neg then 2 ^ f.mag else 0) + a

/-- The canonical NaN of a format (R52; the Hen's NaN of F, D and Zfh). -/
def canonNan (f : FloatFmt) : Nat :=
  if f.ieee && f != fmtE5M2 then f.infMag + 2 ^ (f.mb - 1) else 0x7F

/-- Round a number to an IEEE format: overflow to infinity or the largest finite value by the rounding mode. -/
def Num.encode (f : FloatFmt) (mode : Rounding) : Num → Nat
  | .nan => canonNan f
  | .inf neg => signed f neg f.infMag
  | .fin neg m e =>
    let a := (roundMag f mode neg m e).1
    if a < f.infMag then signed f neg a
    else match mode with
      | .rtz => signed f neg f.maxMag
      | .rdn => signed f neg (if neg then f.infMag else f.maxMag)
      | .rup => signed f neg (if neg then f.maxMag else f.infMag)
      | _ => signed f neg f.infMag

/-- Round a finite number to a format, saturating at its largest finite value (R71, R72, R77). -/
def encodeSat (f : FloatFmt) (mode : Rounding) (neg : Bool) (m : Nat) (e : Int) : Nat :=
  signed f neg (min (roundMag f mode neg m e).1 f.maxMag)

namespace Num

/-- The number with its sign changed. -/
def flip : Num → Num
  | .nan => .nan
  | .inf n => .inf (!n)
  | .fin n m e => .fin (!n) m e

/-- Exact product (R66, R69): NaN for NaN factors and for zero times infinity. -/
def mul : Num → Num → Num
  | .nan, _ => .nan
  | _, .nan => .nan
  | .inf a, .inf b => .inf (a != b)
  | .inf a, .fin b m _ => if m = 0 then .nan else .inf (a != b)
  | .fin a m _, .inf b => if m = 0 then .nan else .inf (a != b)
  | .fin a m e, .fin b k g => .fin (a != b) (m * k) (e + g)

/-- The exact sum of two finite numbers as an integer times 2^(min e g). -/
def addFin (a : Bool) (m : Nat) (e : Int) (b : Bool) (k : Nat) (g : Int) : Int × Int :=
  let q := min e g
  let x : Int := m * 2 ^ (e - q).toNat
  let y : Int := k * 2 ^ (g - q).toNat
  ((if a then -x else x) + (if b then -y else y), q)

/-- Exact sum. An exact zero takes the sign of both terms where they agree, else zeroNeg (negative only when rounding
down, IEEE 754). -/
def addWith (zeroNeg : Bool) : Num → Num → Num
  | .nan, _ => .nan
  | _, .nan => .nan
  | .inf a, .inf b => if a = b then .inf a else .nan
  | .inf a, .fin _ _ _ => .inf a
  | .fin _ _ _, .inf b => .inf b
  | .fin a m e, .fin b k g =>
    let (v, q) := addFin a m e b k g
    if v = 0 then .fin (if a = b then a else zeroNeg) 0 q
    else .fin (decide (v < 0)) v.natAbs q

/-- Exact sum under rounding to nearest. -/
def add (x y : Num) : Num := addWith false x y

/-- Exact sum of a list (R67, R69). -/
def sum : List Num → Num
  | [] => .fin false 0 0
  | x :: l => add x (sum l)

/-- x < y for numbers that are not NaN. -/
def lt : Num → Num → Bool
  | .nan, _ => false
  | _, .nan => false
  | .inf a, .inf b => a && !b
  | .inf a, .fin _ _ _ => a
  | .fin _ _ _, .inf b => !b
  | .fin a m e, .fin b k g => decide ((addFin a m e (!b) k g).1 < 0)

/-- x = y as numbers (−0 equals +0). -/
def eqv : Num → Num → Bool
  | .nan, _ => false
  | _, .nan => false
  | .inf a, .inf b => a = b
  | .inf _, .fin _ _ _ => false
  | .fin _ _ _, .inf _ => false
  | .fin a m e, .fin b k g => decide ((addFin a m e (!b) k g).1 = 0)

def isNan : Num → Bool
  | .nan => true
  | _ => false

/-- The quotient of two numbers, exact but for a last bit that stands for any remainder: rounding it to at most n bits
equals rounding the exact quotient. -/
def div (n : Nat) : Num → Num → Num
  | .nan, _ => .nan
  | _, .nan => .nan
  | .inf _, .inf _ => .nan
  | .inf a, .fin b _ _ => .inf (a != b)
  | .fin a _ _, .inf b => .fin (a != b) 0 0
  | .fin a m e, .fin b k g =>
    if k = 0 then (if m = 0 then .nan else .inf (a != b))
    else
      let sh := n + 3 + Nat.log2 k
      let x := m * 2 ^ sh
      .fin (a != b) (2 * (x / k) + (if x % k = 0 then 0 else 1)) (e - g - sh - 1)

/-- The largest integer at or below m × 2^e with its sign. -/
def floor (neg : Bool) (m : Nat) (e : Int) : Int :=
  let v : Int := if neg then -(m : Int) else m
  if 0 ≤ e then v * 2 ^ e.toNat else v / 2 ^ (-e).toNat

end Num

/-- rne32 on FP32 encodings: addition, multiplication and fused multiply-add rounded once to nearest even (R25, R27). -/
def dec32 (v : BitVec 32) : Num := .decode fmtFP32 v.toNat
def rne32 (n : Num) : BitVec 32 := .ofNat 32 (n.encode fmtFP32 .rne)
def add32 (a b : BitVec 32) : BitVec 32 := rne32 ((dec32 a).add (dec32 b))
def sub32 (a b : BitVec 32) : BitVec 32 := rne32 ((dec32 a).add (dec32 b).flip)
def mul32 (a b : BitVec 32) : BitVec 32 := rne32 ((dec32 a).mul (dec32 b))
def fma32 (a b c : BitVec 32) : BitVec 32 := rne32 (((dec32 a).mul (dec32 b)).add (dec32 c))

/-- rne32 of R68 and R70: a zero result is +0. -/
def rneAcc (n : Num) : BitVec 32 :=
  let r := rne32 n
  if r = 0x80000000 then 0 else r

/-- Round a finite number to an integer and clamp it (INT8 of R71, and conversions to integers). -/
def roundInt (mode : Rounding) (neg : Bool) (m : Nat) (e : Int) : Int :=
  let a : Int :=
    if 0 ≤ e then (m : Int) * 2 ^ e.toNat
    else let sh := (-e).toNat
         ((m / 2 ^ sh + (if mode.up neg m sh then 1 else 0) : Nat) : Int)
  if neg then -a else a

def clampInt (lo hi v : Int) : Int := if v < lo then lo else if hi < v then hi else v

end Sys2Proof.Machine
end

