-- ==== Sys2Proof/Machine/State.lean ====
section
/-! DEFINITION. The state of the block: every register, FIFO, buffer, counter, mode and pin that the spec names, as plain
data, the queue of waiting commands, and the state right after reset. Tables (SMap) list only what differs from the
default that their field names. -/
namespace Sys2Proof.Machine

/-- Why a step stops with a fault. Each is an undefined case of R9 (00_scope.md): the spec says that the result is undefined
and describes neither data nor progress. Stopping is safe. -/
inductive Fault where
  /-- A unit writes a scratchpad bank that it does not own (R253): SPS_*, VSPS_V, EPI. Safe. -/
  | bankNotOwned
  /-- An Ox command's source and destination regions overlap (R33): EPI. Safe. -/
  | oxOverlap
  /-- MULE memory is accessed cacheably without the flush, or during a command's window (R167): Mule commands. Safe. -/
  | muleCached
  /-- A Hen executes code modified after its last FENCE.I (R89): every Hen instruction. Safe. -/
  | modifiedCode
  deriving DecidableEq, Repr

/-- Why a command has no meaning. -/
inductive Refusal where
  /-- The command has not been modelled: raised only by the arm of exec that names it. Safe. -/
  | notModelled (mnemonic : String)
  deriving DecidableEq, Repr

/-! ### The Ox engine (01_cell_and_ox_engine.md) -/

/-- A decoded weight tile (R21, R22, R619): W format, sparsity, KC, NCOLS, and for each column the stored values in order,
each with the K position that it multiplies (R65). -/
structure Tile where
  fmt : BitVec 4
  sparse : Bool
  kc : Nat
  ncols : Nat
  cols : List (List (Nat × Num))
  deriving DecidableEq, Repr

/-- A dispatched Ox command that has not retired, in queue order. kc: the KC that an MMA found in its weight buffer when it
was checked. started: it has started (R29). done: it has completed. last: it runs to completion although the dispatcher has
pre-empted the cell (R44). -/
structure OxEntry where
  raw : Unit32
  kc : Nat := 0
  started : Bool := false
  done : Bool := false
  last : Bool := false
  /-- Dispatched while a FLUSH waits, which does not wait for it. -/
  late : Bool := false
  deriving DecidableEq, Repr

/-- The Ox engine of a cell (R28 to R47). -/
structure Ox where
  /-- Command queue, oldest first, at most 64 (R28). -/
  queue : List Unit32 := []
  /-- Dispatched commands that have not retired (R29, R30). -/
  inflight : List OxEntry := []
  /-- WB_0 and WB_1 (R619): none is empty. -/
  wb0 : Option Tile := none
  wb1 : Option Tile := none
  /-- ACC_0 and ACC_1: entry (r, n) of ACC_m under key 4096 m + 64 r + n. -/
  acc : SMap (BitVec 32) := []
  /-- Codebook slots CBK_0 to CBK_7, 32 bytes each. -/
  cbk : SMap (BitVec 256) := []
  /-- Function tables TBL_0 to TBL_3, 288 bytes each. -/
  tbl : SMap (BitVec 2304) := []
  /-- OX_STATUS.HALT (R36). -/
  halt : Bool := false
  /-- OX_FAULT. -/
  fault : Word := 0
  /-- OX_STATUS.RETIRED_TAG. -/
  retiredTag : BitVec 16 := 0
  /-- OX_DONE_COUNT. -/
  doneCount : BitVec 32 := 0
  /-- OX_SR_SEED.STATE, and a write that waits for a running SR EPI (R47). -/
  seed : BitVec 32 := 0
  seedPending : Option (BitVec 32) := none
  /-- A FLUSH whose executing commands have not finished. -/
  flushPending : Bool := false
  /-- A FLUSH that waits for a running SR EPI (R47). -/
  flushAfterEpi : Bool := false
  /-- Weight buffers that a faulted WLOAD empties once every earlier command has completed (R36, R619). -/
  emptyAfter : List (BitVec 1) := []
  /-- The dispatcher has pre-empted the cell (R44): nothing is dispatched. -/
  frozen : Bool := false
  /-- OX_BUSY. -/
  busy : Word := 0
  deriving DecidableEq, Repr
/-! ### Hen cores (03_hen_cores.md) -/

/-- A page of an access that waits for its lines: PASID, virtual and physical 4 KiB page, log2 of the page translated (R332). -/
structure KeptPage where
  pasid : BitVec 20
  vpage : Nat
  ppage : Nat
  lg : Nat
  deriving DecidableEq, Repr

/-- A Hen core: the state of R105, R112 to R117, and what it waits for. Registers x, f and v hold zero where not listed. -/
structure Hen where
  x : SMap Word := []
  f : SMap Word := []
  v : SMap Line := []
  pc : Word := 0
  /-- M mode (HEN_STATUS.PRIV). -/
  mmode : Bool := true
  /-- HEN_CTRL.RUN, and whether the Hen is in the reset state of R115 (R117). -/
  run : Bool := false
  fresh : Bool := true
  /-- HEN_CTRL.SOFT_INT. -/
  softInt : Bool := false
  /-- HEN_RESET_PC. -/
  resetPc : Word := 0
  /-- The instruction in which the Hen stalls (R106, R82), or WFI. -/
  stall : Option Instr := none
  /-- It stalls for the translation of that instruction's fetch alone: the instruction has not begun. -/
  fetchWait : Bool := false
  /-- The pages under which the access in which the Hen stalls has asked for its lines: it is performed under them (R332). -/
  kept : List KeptPage := []
  /-- The page of an access that failed in translation (R325): the instruction faults when it reaches it again. -/
  xltFail : Option Nat := none
  /-- mstatus: MIE bit 3, MPIE bit 7, VS bits 10:9, MPP bits 12:11, FS bits 14:13, MPRV bit 17. -/
  mstatus : Word := 0x2200
  mie : Word := 0
  mtvec : Word := 0
  mscratch : Word := 0
  mepc : Word := 0
  mcause : Word := 0
  mtval : Word := 0
  mcounteren : BitVec 32 := 0
  mcountinhibit : BitVec 32 := 0
  fcsr : BitVec 8 := 0
  vl : Word := 0
  vtype : Word := 0x8000000000000000
  vstart : Word := 0
  vcsr : BitVec 3 := 0
  cycle : Word := 0
  instret : Word := 0
  /-- mhpmcounter3 to 31 under keys 3 to 31, mhpmevent3 to 31 under keys 35 to 63. -/
  hpm : SMap Word := []
  mtimecmp : Word := 0xFFFFFFFFFFFFFFFF
  /-- myield (R104). -/
  yieldPend : Bool := false
  lastYield : BitVec 12 := 0
  /-- What was chosen for the AMO in progress (R299, R304): 0 none, 1 near and missed, 2 far and sent. -/
  amoChoice : BitVec 2 := 0
  /-- LR reservation: a line (R90), and the line whose forwards an LR defers (R296). -/
  reserved : Option LineNo := none
  lrDefer : Option LineNo := none
  /-- Send queue of at most 8 and receive queue of at most 16 Gig messages (R98), oldest first. -/
  sendQ : List GigMsg := []
  recvQ : List GigMsg := []
  /-- The message at the head of the send queue has left for its destination; a NACK has come back for it (R156). -/
  gigOut : Bool := false
  gigNack : Bool := false
  /-- The pcell to which that message last went; none before it is translated, and after MOVED. -/
  gigTo : Option Nat := none
  /-- GIG_DOORBELL_n: OVERRUN, PENDING, PAYLOAD. -/
  bellOverrun : Bool := false
  bellPending : Bool := false
  bellPayload : BitVec 48 := 0
  /-- What the cell monitor's last read of the Hen's doorbell latch gave (R158). -/
  windowRead : Word := 0
  /-- Number of the last write that the Hen's I-cache has seen, by FENCE.I (R88). -/
  fenceSeq : Nat := 0
  deriving DecidableEq, Repr
/-! ### Stage and Gig networks (04_stage_and_gig_networks.md) -/

/-- A flit (R121). -/
structure Flit where
  payload : Unit32
  stream : BitVec 6
  epoch : BitVec 16
  tt : Bool
  coach : BitVec 6
  /-- Number of a move-image flit within its image: the model's own mark, for the layout is internal to the device (R219). -/
  idx : Nat := 0
  /-- What its SEC-DED codes show (R121): 0 whole, 1 a corrected error, 2 an uncorrectable one. No command damages a flit on a lane,
  so it stays 0 in every run; the switches act on it as R123 says. -/
  code : BitVec 2 := 0
  /-- The endpoint that injected it: the model's own mark. -/
  src : Nat := 0
  deriving DecidableEq, Repr

/-- A flit in flight: the input it travels to (node and lane) and the absolute Stage cycle of its arrival there. Nodes
0 to 21 are switches by SW; 0x800 + e is endpoint e. taken: an endpoint has ejected it; its lane carried it in that cycle. -/
structure FlitInFlight where
  node : Nat
  lane : Nat
  at_ : Nat
  flit : Flit
  taken : Bool := false
  deriving DecidableEq, Repr

/-- A timetable record (R130). -/
structure TtRecord where
  kind : Nat
  lent : Bool
  unit : Nat
  out : Nat
  inn : Nat
  start : Nat
  count : Nat
  step : Nat
  deriving DecidableEq, Repr

/-- The two timetable buffers of a coach slot (R136 to R138). -/
structure TtBuffers where
  a : List TtRecord := []
  b : List TtRecord := []
  activeB : Bool := false
  /-- A load into the inactive buffer has completed without error since the last swap. -/
  loaded : Bool := false
  /-- The frame for which a swap is armed. -/
  armed : Option Nat := none
  /-- Absolute Stage cycle of the last swap. -/
  lastSwap : Option Nat := none
  /-- IMAGE of the active and of the inactive buffer, with the epoch under which each was loaded (R384). -/
  image : Option (Word × BitVec 32) := none
  nextImage : Option (Word × BitVec 32) := none
  deriving DecidableEq, Repr

/-- The Stage control block and the network's own state. -/
structure Stage where
  /-- STAGE_FRAME, and the parked mask of the previous frame, the mask in force and the mask written (R140). -/
  frame : Nat := 0
  park : Nat := 0
  parkInForce : Nat := 0
  parkPrev : Nat := 0
  ttImage : Word := 0
  ttSwap : Word := 0
  /-- TT_STATUS: RECORD, ERROR, LATE, OVERRUN, and the coach named in the last command. -/
  ttRecord : BitVec 32 := 0
  ttError : BitVec 8 := 0
  late : Bool := false
  overrun : Bool := false
  lastCoach : Nat := 0
  /-- A load (false) or clear (true) in progress, with its image address. -/
  loading : Option (Slot × Bool × Nat) := none
  ownMask : Word := 0
  /-- Owner and lendee of a block, by key (node × 2048 + lane) × 64 + block: default free (63), no lendee (63). -/
  owner : SMap (BitVec 6) := []
  lendee : SMap (BitVec 6) := []
  /-- Timetable buffers by coach slot; the system timetable under key 62. -/
  tt : SMap TtBuffers := []
  flits : List FlitInFlight := []
  /-- Flits waiting to be injected and flits delivered, by endpoint × 4096 + coach × 64 + stream. -/
  outQ : SMap (List Unit32) := []
  inQ : SMap (List Unit32) := []
  /-- Flits dropped at a slice or an LPDDR5X controller whose inbound buffer was full (R261): no register shows the count. -/
  epDrops : SMap Nat := []
  deriving DecidableEq, Repr
/-! ### Mule engines (05_mule_engines.md) -/

/-- A command ring (R171 to R175, R198). -/
structure Ring where
  base : Word := 0
  /-- RING_CFG: TSLOTS, WEIGHT, SIZE_LOG2; ENABLE is the field enabled. -/
  cfg : Word := 0x000000000001000C
  tailAddr : Word := 0
  doneAddr : Word := 0
  enabled : Bool := false
  head : BitVec 32 := 0
  tail : BitVec 32 := 0
  retired : BitVec 32 := 0
  halt : Bool := false
  error : BitVec 8 := 0
  fault : Word := 0
  /-- The entry that runs, and whether its writes are done (R173). -/
  cur : Option Line := none
  curDone : Bool := false
  tag : BitVec 16 := 0
  /-- Output flits that have not been injected, each with its stream, in order: the first 64 are in the ring's buffer (R188); and how
  many of them a command that faulted has left. -/
  out : List (Nat × Unit32) := []
  stale : Nat := 0
  /-- A fault that stops the command once the buffer has room for what it made before it (R188, R196), and the command it is recorded for. -/
  doom : Option (Nat × Line) := none
  /-- A RUN that has begun (R190 to R193): its program header, its next step, and the built command that runs. -/
  prog : Option (List Byte × Nat × Line) := none
  /-- Byte ranges that commands have read and written since the last DONE word: their windows are open (R166). -/
  window : List (Nat × Nat) := []
  /-- DONE words under way to memory, oldest first, each with its line and the ranges whose windows it closes once it is there. -/
  closing : List (LineNo × BitVec 192 × List (Nat × Nat)) := []
  deriving DecidableEq, Repr

/-- A Mule engine (R198): registers, MULE map in force and newly set bits that wait (R164). -/
structure Engine where
  ready : Bool := false
  rxDiscards : BitVec 16 := 0
  mapOverrun : Bool := false
  map : SMap Word := []
  mapPending : SMap Word := []
  rings : SMap Ring := []
  /-- DONE words stored at their homes (R174): the stores that have no answer yet, and those that wait while eight requests are
  outstanding (R303). -/
  far : List (LineNo × BitVec 192) := []
  stores : List (LineNo × BitVec 192) := []
  deriving DecidableEq, Repr
/-! ### Coaches (06_coaches.md) -/

/-- Cell states of R203; asFused: the state that the fuses and the boot give a cell that no command has touched. -/
inductive CellState where
  | asFused | free | hitched | joining | moveIn | moveOut | vacated | spare | retired
  deriving DecidableEq, Repr

/-- One move of a batch (R215 to R222): its lcell, source and target, whether the source is quiesced, the image flits still
to leave and to arrive, whether the target has resumed, and the frames at which the image counts as lost (R228). -/
structure Move where
  lcell : BitVec 27
  src : Nat
  dst : Nat
  quiesced : Bool := false
  resumed : Bool := false
  deriving DecidableEq, Repr

/-- A pending hitch (R229, R233): pcell, lcell, and whether it refills an unplaced lcell. -/
structure PendingHitch where
  pcell : Nat
  lcell : BitVec 27
  refill : Bool
  deriving DecidableEq, Repr

/-- A coach slot (R200 to R239). -/
structure Coach where
  valid : Bool := false
  span : Bool := false
  partition : BitVec 5 := 0
  coachId : BitVec 20 := 0
  base : BitVec 27 := 0
  localCells : Nat := 0
  epoch : BitVec 32 := 0
  jbnUs : Nat := 8
  /-- Frame at which the open overlap window closes (R210). -/
  closeFrame : Option Nat := none
  yieldTable : Word := 0
  moves : List Move := []
  /-- The moves of the last batch that ended, whose counts MOVE_STATUS keeps showing until the next one is formed. -/
  lastBatch : List Move := []
  /-- 0 no MOVE_GO, 1 pending, 2 moving (MOVE_STATUS.PHASE). -/
  phase : BitVec 2 := 0
  /-- The absolute Stage cycle at which every source of the batch was quiesced (R218). -/
  quiescedAt : Option Nat := none
  m0 : Nat := 0
  cancelled : Bool := false
  hitches : List PendingHitch := []
  /-- lcells left unplaced by a reset (R233). -/
  unplaced : List (BitVec 27) := []
  memShare : SMap (BitVec 7) := []
  linkShare : SMap (BitVec 7) := []
  /-- Link shares whose decrease waits for credits (R235). -/
  linkPending : SMap (BitVec 7) := []
  staleDrops : BitVec 32 := 0
  moveDrops : BitVec 32 := 0
  deriving DecidableEq, Repr

/-- The coach command block (R237). -/
structure CoachRegs where
  arg : Word := 0
  error : BitVec 8 := 0
  overrun : Bool := false
  /-- The slot of a RESET command that waits for pcells to stop (R477): BUSY stays set. -/
  resetting : Option Slot := none
  deriving DecidableEq, Repr
/-! ### Memory, scratchpads, Drays (07_memory_tiers_and_regulation.md) -/

/-- A descriptor in a Dray's queue, and whether a U-mode Hen issued it, under which PASID (R256). -/
structure DrayDesc where
  raw : Line
  umode : Bool
  pasid : BitVec 20
  deriving DecidableEq, Repr

/-- A running descriptor: the next piece to send, pieces completed, bytes moved on a stream, and reply data that waits
for its bank (R263). seq numbers descriptors. -/
structure DrayRun where
  seq : Nat
  desc : DrayDesc
  next : Nat := 0
  acked : Nat := 0
  moved : Nat := 0
  waiting : List (Nat × List Byte) := []
  /-- The words that a MAP has read, which the map takes when the MAP completes (R258). -/
  map : List Word := []
  deriving DecidableEq, Repr

/-- An outstanding Dray request (R257, R264): descriptor, operation, route stream, lines, scratchpad address. -/
structure DrayReq where
  seq : Nat
  op : Nat
  stream : Nat
  lines : Nat
  sp : Nat
  /-- PASID, virtual address and log2 of the page under which it was translated, and the physical address; dead: abandoned (R333), its
  reply is discarded. -/
  pasid : Option (BitVec 20) := none
  va : Nat := 0
  lg : Nat := 12
  addr : Nat := 0
  dead : Bool := false
  deriving DecidableEq, Repr

/-- A Dray (R255 to R267, R435). -/
structure Dray where
  queue : List DrayDesc := []
  running : List DrayRun := []
  out : List DrayReq := []
  nextSeq : Nat := 0
  halt : Bool := false
  fault : Word := 0
  drops : BitVec 16 := 0
  doneCount : BitVec 32 := 0
  flushPending : Bool := false
  /-- The page whose translation has failed, for the next piece (R325). -/
  xltFail : Option Nat := none
  deriving DecidableEq, Repr

/-- A memory controller (R268 to R275). -/
structure Mc where
  ready : Bool := false
  window : Word := 0
  refresh : BitVec 2 := 0
  overcommit : Bool := false
  missLast : Word := 0
  /-- Shares in force and shares that begin with the next window (R234, R273). -/
  share : SMap (BitVec 7) := []
  sharePending : List (Nat × BitVec 7) := []
  miss : SMap (BitVec 32) := []
  /-- Misses of a master since its last change-log entry, and the window of that entry plus one (R273). -/
  missSince : SMap Nat := []
  missLogged : SMap Nat := []
  /-- Lines that the controller has read and written for each master since the last window that REGULATION_WINDOW ended (R268). -/
  served : SMap Nat := []
  deriving DecidableEq, Repr

/-- A line held by an LLC slice (R246 to R248): its way and whether it is dirty. Its data is in State.mem; while it is dirty,
under is what the controller's memory holds. -/
structure LlcLine where
  way : Nat
  part : Nat
  dirty : Bool
  under : Line := 0
  deriving DecidableEq, Repr

/-! ### Coherence (08_coherence_and_progress.md) -/

/-- States of a line at an agent (R279, R284). -/
inductive AgentState where
  | I | S | E | O | M | IS_D | IS_DI | IM_D | IM_A | SM_D | OM_A | MI_A | OI_A | EI_A | SI_A | II_A
  deriving DecidableEq, Repr

/-- A line at an agent: state, data, hold (R295), forwards and snoops deferred in arrival order, and the CONT flag with
which it was won. -/
structure AgentLine where
  st : AgentState := .I
  data : Line := 0
  held : Bool := false
  deferred : List Instr := []
  cont : Bool := false
  deriving DecidableEq, Repr

/-- Who waits for a non-caching request (R280): a coach slot's stream at an endpoint, with its request flit (R259), or a fabric port, with
the slot and the packet (R434). -/
inductive NcFrom where
  | stream (ep slot stream : Nat) (flit : Unit32)
  | fabric (k slot : Nat) (pkt : Packet)
  deriving DecidableEq, Repr

/-- The request comes from a slot. -/
def NcFrom.slot (x : NcFrom) (n : Nat) : Bool := match x with
  | .stream _ m _ _ => m == n
  | .fabric _ m _ => m == n

/-- A non-caching request under way (R280, R287): its number, requester, the partition it is checked under, whether its lines are
allocated, the key of its lines (R502), the slot charged (R268), its first line and how many; the lines that have not been performed,
the data read, an atomic's old value, and status with first failing line. -/
structure NcReq where
  id : Nat
  src : NcFrom
  who : Nat
  alloc : Bool
  key : Nat
  charge : Nat
  addr : Nat
  lines : Nat
  left : List Nat := []
  got : List (Nat × Line) := []
  old : Word := 0
  status : Nat := 0
  failing : Nat := 0
  /-- One of its lines has been performed. -/
  started : Bool := false
  /-- Its requester has been reset: the answer goes nowhere (R478). -/
  mute : Bool := false
  deriving DecidableEq, Repr

/-- A request at a home. A non-caching request is its number, with the bytes to write (the first n of a line) or the atomic's body; it and
a recall hold no request entry. -/
inductive HomeReq where
  | getS (a : Nat) (sharedOnly : Bool)
  | getM (a : Nat)
  | upgrade (a : Nat)
  | putS (a : Nat)
  | putE (a : Nat)
  | putD (a : Nat) (data : Line)
  | amo (a : Nat) (body : BitVec 192)
  | read (id : Nat)
  | write (id : Nat) (data : Line) (n : Nat)
  | remote (id : Nat) (body : BitVec 192)
  | recall
  deriving DecidableEq, Repr

/-- Transient states of a home (R289): what it waits for. acks: INV_ACKs still to come; snp: a SNP_RESP or WB_DATA still
to come; acksSet: ACKS went with the forward; refused: the data could not be served after a MISS. -/
inductive HomePhase where
  | stable
  | hf (forM : Bool) (acks : Nat) (acksSet snp refused : Bool)
  | ha (acks : Nat) (up : Bool)
  | hn (acks : Nat) (snp : Bool)
  /-- An owner-ordered line that the home has called to itself (R298), or whose watchers it invalidates. -/
  | oo (acks : Nat) (line : Bool)
  /-- A far atomic passed to a Mule with FWD_AMO (R301). -/
  | mule
  /-- The request waits for a directory way that the recall of this line frees (R292). -/
  | wantWay (victim : Nat)
  deriving DecidableEq, Repr

/-- A line at its home (R288): owner, sharers, phase with the request it serves, queue, and for an owner-ordered line the
tail and watchers (R298). coarse: the entry has named more than four sharers (R291). -/
structure HomeLine where
  owner : Option Nat := none
  ownedO : Bool := false
  sharers : List Nat := []
  coarse : Bool := false
  way : Nat := 0
  phase : HomePhase := .stable
  req : Option HomeReq := none
  queue : List HomeReq := []
  tail : Option Nat := none
  watchers : List Nat := []
  /-- Forwards of an owner-ordered line that have no SNP_RESP yet: the agent, and for whom. -/
  fwds : List (Nat × Nat) := []
  /-- The request in service has needed a forward or an invalidation (R305). -/
  contended : Bool := false
  deriving DecidableEq, Repr

/-- A home's request entries: the retry map, the agents for which freed entries are reserved, each with the pool of its request (a
strict partition, or 0x3F for the shared entries), the last agent served (R293, R294), and the recent filter, newest first: line, agent
and Stage cycle (R305). -/
structure Home where
  retryMap : List (Nat × Nat) := []
  reserved : List (Nat × Nat) := []
  lastServed : Nat := 0
  recent : List (LineNo × Nat × Nat) := []
  deriving DecidableEq, Repr

/-- The coherence block (R309). -/
structure CohRegs where
  predMode : BitVec 2 := 0
  hold : BitVec 9 := 32
  retries : BitVec 32 := 0
  misses : BitVec 16 := 0
  discards : BitVec 8 := 0
  strictOver : Bool := false
  syncBad : Bool := false
  /-- The sync page being recalled: slot and the value to take effect. -/
  syncBusy : Option (Slot × Word) := none
  /-- The recalls of closed slots that wait for the one under way (R309). -/
  syncNext : List (Slot × Word) := []
  syncPage : SMap Word := []
  strict : SMap (BitVec 7) := []
  deriving DecidableEq, Repr
/-! ### Translation (09_translation.md) -/

/-- A TLB entry (R316). -/
structure TlbEntry where
  pasid : BitVec 20
  vgroup : Nat
  size : BitVec 2
  pbase : BitVec 40
  mask : BitVec 16
  rd : Bool
  wr : Bool
  ex : Bool
  deriving DecidableEq, Repr

/-- An L1 miss of a cell (R322): busy after a BUSY answer; page after PAGE. -/
structure L1Miss where
  tag : BitVec 3
  pasid : BitVec 20
  vpn : BitVec 45
  w : Bool
  x : Bool
  busy : Bool := false
  page : Bool := false
  /-- Who waits: 0 to 3 a Hen, 4 and 5 a Dray. -/
  waiters : List Nat := []
  deriving DecidableEq, Repr

/-- A cell that waits for a miss at a TLB agent. -/
structure XltWaiter where
  pcell : Nat
  tag : BitVec 3
  w : Bool
  x : Bool
  deriving DecidableEq, Repr

/-- A miss at a TLB agent (R323 to R328): stale where an invalidation overlapped it (R334); prg once a page request has
been sent. -/
structure L2Miss where
  pasid : BitVec 20
  vpn : BitVec 45
  w : Bool
  x : Bool
  slot : BitVec 6
  waiters : List XltWaiter
  stale : Bool := false
  prg : Option (BitVec 9) := none
  /-- A page request that waits for the host's allocation (R327). -/
  wantPage : Bool := false
  deriving DecidableEq, Repr

/-- The TLB agent of a compute die (R319, R323). -/
structure TlbAgent where
  tlb : List TlbEntry := []
  misses : List L2Miss := []
  deriving DecidableEq, Repr

/-- An invalidation in progress (R331, R336): the request, SEQ, the cells whose XLT_INV_ACK is awaited, and its tick.
itag none: an XLT_FLUSH. -/
structure Invalidation where
  itag : Option (BitVec 5)
  seq : BitVec 8
  pasid : BitVec 20
  all : Bool
  vpn : BitVec 45
  log2 : BitVec 8
  awaiting : List Nat
  since : Nat
  deriving DecidableEq, Repr

/-- An access-counter entry (R338). -/
structure AcEntry where
  region : Nat
  part : Nat
  count : Nat
  way : Nat
  reported : Bool
  deriving DecidableEq, Repr

/-- The translation block (R342). -/
structure XltRegs where
  aperture : Word := 0
  apertureLocked : Bool := false
  abandons : BitVec 16 := 0
  latePrg : BitVec 16 := 0
  invalidations : List Invalidation := []
  nextSeq : BitVec 8 := 0
  nextPrg : BitVec 9 := 0
  acCtrl : Word := 0x4000001B00000060
  acRingBase : Word := 0
  acHead : BitVec 32 := 0
  acTail : BitVec 32 := 0
  acLost : BitVec 32 := 0
  /-- Access-counter tables: key group × 256 + set. -/
  ac : SMap (List AcEntry) := []
  deriving DecidableEq, Repr
/-! ### Host interface (10_host_interface.md) -/

/-- Context states (R379). -/
inductive CtxState where
  | unbound | empty | waiting | ready | running | spilled | paged | holding
  deriving DecidableEq, Repr

/-- An event record (R370), before its PHASE and TICK are set as it is written. -/
structure EventRec where
  cookie : BitVec 32
  kind : BitVec 8
  flags : BitVec 8
  ctx : BitVec 16
  value : Word
  fence : BitVec 20
  deriving DecidableEq, Repr

/-- A slice (R351, R370 to R373). -/
structure Slice where
  valid : Bool := false
  partition : BitVec 5 := 0
  pasid : BitVec 20 := 0
  eventBase : Word := 0
  eventLog2 : Nat := 0
  vector : Nat := 0
  waits : Nat := 0
  tail : BitVec 32 := 0
  head : BitVec 32 := 0
  armed : Bool := false
  /-- Records kept while the ring is full, and the count dropped (R371). -/
  kept : List EventRec := []
  dropped : Nat := 0
  deriving DecidableEq, Repr

/-- A step read from a context's ring: its 256 bytes, its number, and what R389 and R391 keep about it. -/
structure StepRec where
  desc : BitVec 2048
  num : BitVec 32
  frames : Nat := 0
  /-- Ticks of the command timeout counted so far, and the tick from which it counts on (R385). -/
  counted : Nat := 0
  since : Option Nat := none
  promoted : Bool := false
  /-- Increase of OX_BUSY on the step's cells since the last charge (R386). -/
  busy : Nat := 0
  started : Bool := false
  /-- The step has become READY (R387). -/
  ready : Bool := false
  /-- Page requests of the step that wait for their answers (R328). -/
  pages : List (BitVec 9) := []
  deriving DecidableEq, Repr

/-- A context (R351, R355, R379, R386). -/
structure Context where
  valid : Bool := false
  slice : Nat := 0
  handle : Nat := 0
  ringBase : Word := 0
  ringLog2 : Nat := 0
  weight : Nat := 1
  tail : BitVec 32 := 0
  head : BitVec 32 := 0
  vt : BitVec 64 := 0
  resident : Bool := false
  /-- Tick since which the context has been EMPTY or WAITING (R380). -/
  idleSince : Nat := 0
  /-- The state where it is not decided by ring and waits: running, spilled, paged or holding. -/
  held : Option CtxState := none
  /-- The step read from the ring that runs or waits to run. -/
  step : Option StepRec := none
  /-- Doorbells are no longer taken (R375). -/
  closing : Bool := false
  /-- When last looked at it was neither EMPTY nor WAITING but ran or was UNBOUND, so R387 does not raise VT. -/
  awake : Bool := false
  /-- The semaphore for which the context is HOLDING (R409, R410). -/
  inheritFor : Option Nat := none
  /-- The frame at which its lcells stopped on the inheritance cells, to spill back. -/
  inheritStop : Option Nat := none
  /-- The CODE of the first fault of its step on inheritance cells: it is torn down at the next frame boundary (R465, R466). -/
  doomed : Option (BitVec 16) := none
  deriving DecidableEq, Repr

/-- A fence in the device's cache (R364). -/
structure Fence where
  value : Word := 0
  target : Word := 0
  owner : BitVec 16 := 0
  noOwner : Bool := false
  valid : Bool := false
  stale : BitVec 32 := 0
  abandoned : Bool := false
  deriving DecidableEq, Repr

/-- A registered host wait (R363). -/
structure HostWait where
  slice : Nat
  part : Nat
  fence : Nat
  cookie : BitVec 32
  value : Word
  deriving DecidableEq, Repr

/-- A partition's fence table (R351, R617): base, size, and the fences that the device counts as valid. -/
structure FenceTable where
  base : Option Word := none
  log2 : Nat := 0
  made : List Nat := []
  deriving DecidableEq, Repr

/-- A doorbell page (R361, R362). -/
structure Page where
  ctx : Option Nat := none
  waitLatch : Option (Nat × BitVec 32) := none
  signalLatch : Option Nat := none
  deriving DecidableEq, Repr

/-- A Dray's read of host memory that waits for its completions (R260, R349): slot, reply stream, address, lines, and the
lines that have not come. -/
structure HostRead where
  slot : Nat
  reply : Nat
  addr : Nat
  lines : Nat
  missing : List Nat
  deriving DecidableEq, Repr

/-- What leaves the block: PCIe messages and completions, fabric packets, management messages. -/
inductive Output where
  | msix (vector : Nat)
  | completion (data : List Byte)
  | unsupported
  | retryStatus
  | translationRequest (pasid : BitVec 20) (vpn : BitVec 45) (noWrite exec : Bool)
  | pageRequest (pasid : BitVec 20) (vpn : BitVec 45) (w x : Bool) (prg : BitVec 9)
  | invalidateCompletion (itag : BitVec 5)
  | hostWrite (addr : Nat) (data : List Byte)
  | hostRead (addr len : Nat)
  | packet (port : Nat) (p : Packet)
  | management (body : List Byte)
  | linkCredits (port cls credits : Nat)
  deriving DecidableEq, Repr

/-- The host interface: slices, contexts, fences, pages, mailbox, BAR4 and MSI-X. -/
structure HostIf where
  slices : SMap Slice := []
  ctxs : SMap Context := []
  /-- Coach handles bound: handle to slot; not listed: unbound (63). -/
  handles : SMap (BitVec 6) := []
  tables : SMap FenceTable := []
  /-- Cached fences by partition × 2^20 + number, and the order in which they came. -/
  fences : SMap Fence := []
  cached : List Nat := []
  waits : List HostWait := []
  pages : SMap Page := []
  mbxCmd : SMap Word := []
  mbxResp : SMap Word := []
  mbxDone : Bool := false
  mbxOverrun : Bool := false
  /-- A CONTEXT_TEARDOWN that waits for a frame boundary keeps the mailbox busy (R353): its context. -/
  mbxWaits : Option Nat := none
  /-- log2 of the BAR4 size: 36 to 42. -/
  bar4Log2 : Nat := 36
  segs : SMap Word := []
  bar4Refused : BitVec 32 := 0
  /-- A refused BAR4 write was logged as an Unsupported Request (R347). -/
  urLogged : Bool := false
  dbIgnored : BitVec 16 := 0
  segBad : Bool := false
  /-- The MSI-X table by 64-bit word, as it differs from its reset values, and pending bits by vector. -/
  msixTable : SMap Word := []
  msixPending : List Nat := []
  /-- The page requests that the host allows to be outstanding (R327). -/
  pageAlloc : Nat := 0
  /-- Reads of host memory under way, oldest first. -/
  reads : List HostRead := []
  /-- Configuration space by 32-bit word (CONFIGURATION_REQUEST). -/
  cfg : SMap (Option (BitVec 32)) := []
  deriving DecidableEq, Repr
/-! ### Scheduling (11_step_scheduling.md) -/

/-- What a cell spilled (R399): its Hens, Ox image, Drays, stream map, owners and bank contents, held as structured data in
the order of its slot; the layout of the context state is internal to the device. -/
structure CellSpill where
  lcell : BitVec 27
  /-- The pcell on which the lcell stopped, and the Hens that then ran. -/
  pcell : Nat
  ran : Nat
  hens : Vector Hen 4
  ox : Ox
  drays : Vector Dray 2
  streamMap : SMap Word
  owner : SMap (BitVec 3)
  unclaimed : List (Nat × Unit32)
  inq : SMap (List Unit32)
  outq : SMap (List Unit32)
  /-- Banks that were live, and their bytes by scratchpad offset until they are written to the spill area (R399). -/
  live : Nat
  sp : SMap Byte
  deriving DecidableEq, Repr

/-- A spill level of a slot (R396): the context it holds and the cells spilled so far. -/
structure SpillLevel where
  ctx : Option Nat := none
  cells : List CellSpill := []
  /-- The context was PAGED and its page request has been answered (R329). -/
  pageDone : Bool := false
  /-- A bank held an uncorrectable word when it was spilled (R404). -/
  ecc : Bool := false
  deriving DecidableEq, Repr

/-- A pre-emption or resumption in progress (R397 to R403): stopping the victim, spilling, refilling. -/
inductive Switch where
  | none
  /-- The victim stopped at this frame; paged tells why; level is the spill level taken. -/
  | stopping (frame : Nat) (paged : Bool) (level : Nat)
  | spilling (level : Nat)
  | refilling (ctx level : Nat)
  deriving DecidableEq, Repr

/-- Per-slot scheduling state: the context that runs, its step's start and counts, and any switch in progress. -/
structure SlotSched where
  running : Option Nat := none
  /-- The last context to run, for VMIN (R387). -/
  lastRun : Option Nat := none
  switch : Switch := .none
  /-- A pre-emption decided for the next frame boundary: paged or not (R395, R328). -/
  stopAt : Option Bool := none
  /-- The CODE of the running step's first fault: it is stopped at the next frame boundary (R413, R466). -/
  faulted : Option (BitVec 16) := none
  /-- The step's context torn down and the Dray flushes of its cells not yet complete (R465). -/
  torn : Option (Nat × BitVec 32) := none
  /-- The tick of that teardown's stop (R477). -/
  tornAt : Nat := 0
  levels : Vector SpillLevel 2 := .replicate 2 {}
  /-- The failing address of the last step fault of each KIND that has one (R467). -/
  failAt : SMap Word := []
  /-- VT of the last context to run, where it has been torn down. -/
  lastVt : BitVec 64 := 0
  /-- The context P for whose step the running one is pre-empted: it takes the cells after the spill (R394, R402). -/
  forCtx : Option Nat := none
  deriving DecidableEq, Repr

/-- A semaphore (R405): value, holders as (context, hold count), waiters in order as (context, message). -/
structure Semaphore where
  value : BitVec 8 := 0
  holders : List (Nat × Nat) := []
  /-- Grants not yet matched by a RELEASE: context and lcell (R409). -/
  grants : List (Nat × BitVec 27) := []
  waiters : List (Nat × GigMsg) := []
  deriving DecidableEq, Repr

/-- The scheduling block (R414) and the semaphore units. -/
structure Sched where
  hyst : Word := 0x0000010000000000
  promo : Word := 0x0000100000000000
  preempts : BitVec 16 := 0
  misses : BitVec 16 := 0
  inherits : BitVec 16 := 0
  noSpill : BitVec 16 := 0
  /-- SCHED_CLASS_c by c; not listed: SCALE 1, SLACK 0. -/
  classes : SMap Word := []
  spillArea : SMap Word := []
  inherit : SMap Word := []
  slots : SMap SlotSched := []
  /-- Semaphores by slot × 128 + index. -/
  sems : SMap Semaphore := []
  /-- YIELD_AT messages that dispatch cores have received of cells at a yield point (R150). -/
  yieldAt : List GigMsg := []
  /-- Replies that wait at a unit until the context runs (R408), or for their next try after a NACK (R156): unit, context, the tick before
  which it does not leave, message. -/
  replies : List (Bool × Nat × Nat × GigMsg) := []
  deriving DecidableEq, Repr
/-! ### The Jombitin fabric (12_jombitin_fabric.md) -/

/-- A port (R415 to R427): locked lanes, link credits exchanged, disabled by PORT; credits of its switch left by class, credits
held, as slot × 4 + class and credits in the order in which they were taken; packets waiting at egress with their coach slot (62 for CTRL and MGMT); the next
turn of the wheel; ingress packets that wait, with their slot. -/
structure JbnPort where
  lanes : BitVec 8 := 0
  credits : Bool := false
  disabled : Bool := false
  left : SMap Nat := []
  held : List (Nat × Nat) := []
  egress : List (Nat × Packet) := []
  turn : Nat := 0
  ingress : List (Nat × Packet) := []
  deriving DecidableEq, Repr

/-- A STREAM packet in a port's ingress part (R427, R428): its port, its stream, the flits that have not left, its bytes. -/
structure Arriving where
  port : Nat
  key : Nat
  left : Nat
  bytes : Nat
  deriving DecidableEq, Repr

/-- A request that FAB egress holds outstanding (R434, R443): its coach slot, its Dray route (endpoint and reply stream), the
request flit's fields, and its answer once it has come. -/
structure JbnReq where
  tag : BitVec 16
  slot : Nat
  east : Bool
  reply : Nat
  op : Nat
  lines : Nat
  addr : Nat
  data : List Unit32 := []
  attempt : Nat := 0
  issued : Nat
  answer : Option (List Unit32) := none
  deriving DecidableEq, Repr

/-- A range that a REHOME has moved away (R440): slot, base, log2 of its bytes, new module and its base, and the tick at which
the coach's Jombitin window closes. -/
structure Rehomed where
  slot : Nat
  base : Nat
  log2 : Nat
  module : BitVec 17
  newBase : Nat
  until_ : Nat
  deriving DecidableEq, Repr

/-- The Jombitin block (R449) and the fabric endpoints. -/
structure Jbn where
  moduleId : Option (BitVec 17) := none
  ctrl : Word := 0x300C8
  routeBase : Word := 0
  seqFm : Word := 0
  /-- The fabric manager's public key, from the Svarraub image. -/
  fmKey : BitVec 256 := 0
  /-- The image has a FABRIC section (R567), and the type of each port: 0 KR8, 1 CR8, 2 AUI (R416). -/
  fabric : Bool := false
  types : SMap Nat := []
  ports : SMap JbnPort := []
  misrouted : BitVec 16 := 0
  notMember : BitVec 16 := 0
  ingressFull : BitVec 16 := 0
  authDrops : BitVec 16 := 0
  timeouts : BitVec 16 := 0
  reissues : BitVec 16 := 0
  lateResp : BitVec 16 := 0
  handoverLost : BitVec 16 := 0
  nextTag : BitVec 16 := 0
  reqs : List JbnReq := []
  /-- SEQ of management packets. -/
  mgmtSeq : Word := 0
  rehomed : List Rehomed := []
  /-- Requests handed over and not yet acknowledged: slot, tag, requester, tick of the record (R440). -/
  handovers : List (Nat × BitVec 16 × BitVec 17 × Nat) := []
  /-- Slots whose EPOCH_NOTE is to be sent again, with the tick of the advance plus one (R436). -/
  noteAt : SMap Nat := []
  /-- STREAM packets whose flits have not all left ingress, oldest first (R428). -/
  arriving : List Arriving := []
  /-- FM_RESP packets to be sent, by port. -/
  fmResp : List (Nat × Packet) := []
  deriving DecidableEq, Repr
/-! ### Errors (13_errors_hangs_recovery.md) -/

/-- A fault report: what a FAULT message and the unit's registers give (R463, R467). -/
structure FaultReport where
  slot : BitVec 6
  code : BitVec 16
  tag : BitVec 16
  unit : Nat
  lcell : BitVec 27
  detail : Word
  deriving DecidableEq, Repr

/-- A collector (R468). -/
structure Collector where
  report : FaultReport
  epoch : BitVec 32
  ctx : Option Nat
  step : BitVec 32
  partition : BitVec 8
  coachId : BitVec 20
  opened : Nat
  last : Nat
  count : Nat
  deriving DecidableEq, Repr

/-- A coach-level reset that has begun (R478): the pcells that have not stopped, the context of a timed-out step, its tick. -/
structure ResetRec where
  stuck : List Nat
  timedOut : Option Nat
  since : Nat
  /-- The code of the crash record to collect once every pcell has stopped, and the step that ran: its context and number. -/
  crash : Option Nat := none
  ran : Option (Nat × BitVec 32) := none
  deriving DecidableEq, Repr

/-- The fault and recovery block (R482 to R484) and the fault unit. -/
structure Errs where
  fqBase : Word := 0
  fqHead : BitVec 32 := 0
  fqTail : BitVec 32 := 0
  fqLostCount : BitVec 32 := 0
  fqLost : Bool := false
  fqPending : Word := 0
  fqSeq : BitVec 32 := 0
  /-- The collectors by index 0 to 63. -/
  collectors : SMap (Option Collector) := []
  /-- Tick of the last notice of a bit, plus one, and bits whose notice is due (R470). -/
  noticeAt : SMap Nat := []
  noticeDue : List Nat := []
  errBase : Word := 0
  errHead : BitVec 32 := 0
  errTail : BitVec 32 := 0
  errLostCount : BitVec 32 := 0
  errLost : Bool := false
  /-- CE and SCRUB_CE events of a unit and STRUCT not yet entered, and the tick of the last entry plus one (R458). -/
  ceCount : SMap Nat := []
  ceAt : SMap Nat := []
  crashArea : Word := 0
  crashUsed : Nat := 0
  crashLost : BitVec 32 := 0
  crashPart : SMap Word := []
  retireRefused : Bool := false
  /-- Cells by which the presented count has fallen below 1,024 (R233, R462). -/
  presentedDrop : Nat := 0
  retiredPages : List Nat := []
  resetCause : Word := 0
  /-- Coach-level resets that wait for pcells to stop, by slot. -/
  resets : SMap (Option ResetRec) := []
  /-- SP_FLIP_CTRL and SP_FLIP_DATA of pcells, scrubber positions and laps by controller. -/
  spFlip : SMap Word := []
  spFlipData : SMap Word := []
  scrubPos : SMap Nat := []
  scrubLap : SMap Word := []
  scrubStart : SMap Nat := []
  /-- 8-byte scratchpad words by pcell × 2^18 + word with flipped code: two-bit errors are uncorrectable (R450, R454). -/
  spBad : SMap (BitVec 2) := []
  /-- The failing bit of a scratchpad word whose read is corrected; 0xFF where there is none (R457). -/
  spPos : SMap (BitVec 8) := []
  /-- Memory lines stored with corrupted symbols (R451, R455): 1 + the symbol of a single error, 100 uncorrectable. -/
  memBad : SMap Nat := []
  /-- MC_ECC_COUNT, MC_FLIP_CTRL and MC_FLIP_ADDR by controller. -/
  mcCe : SMap (BitVec 32) := []
  mcUe : SMap (BitVec 32) := []
  mcFlip : SMap Word := []
  mcFlipAddr : SMap Word := []
  deriving DecidableEq, Repr
/-! ### The Stable (14_stable_and_attestation.md) -/

/-- A stall (R493, R494): its attributes as STALL_ATTR shows them, its key, a data key's egress counter. -/
structure Stall where
  attr : Word := 0
  key : BitVec 512 := 0
  /-- The egress counter of a data key (R510), the SEQ of a fabric key (R422). -/
  counter : Word := 0
  deriving DecidableEq, Repr

/-- The Stable, the life-cycle fuses, debug, and what the boot derived (R485 to R528). -/
structure Stable where
  /-- LC_0 to LC_4 (R486, R489): bits 3i to 3i + 2 are the three copies of LC_i. -/
  lcFuses : BitVec 15 := 0b000000111111111
  /-- SEED_LOCK, and whether ROOT_SECRET and ID_SEED have been blown to ones (R488). -/
  seedLock : Bool := true
  seedsGone : Bool := false
  /-- SVN_FLOOR (R489). -/
  svnFloor : Word := 0
  stalls : SMap Stall := []
  /-- Partitions in strict isolation mode (R518), and sealed ones (R506). -/
  strict : List Nat := []
  sealed : List Nat := []
  /-- Owner keys (R499), import counters and error summary registers, by partition. -/
  owners : SMap (BitVec 256) := []
  imports : SMap Word := []
  partErr : SMap Word := []
  /-- Counts of the error summary (R524) by partition × 8 + place, and partitions whose counts have changed. -/
  errCount : SMap (BitVec 32) := []
  errChanged : List Nat := []
  sbxCmd : SMap Word := []
  sbxResp : SMap Word := []
  sbxDone : Bool := false
  sbxOverrun : Bool := false
  /-- DEBUG_STATE. -/
  debugLevel : BitVec 2 := 0
  wasObserve : Bool := false
  /-- Held until a cold reset (R488); device memory refuses every access (R488, R514). -/
  held : Bool := false
  noMem : Bool := false
  bootNonce : BitVec 256 := 0
  /-- Measurements 1 to 5 (R516), and the identity public key (R490); the alias and import keys are in stalls 0 and 1. -/
  digests : SMap (BitVec 512) := []
  identityPub : BitVec 256 := 0
  /-- The image's debug key (R512). -/
  debugKey : BitVec 256 := 0
  /-- Values drawn from the random number generator since manufacture. -/
  drawn : Nat := 0
  /-- SPDM: 0 nothing, 1 version, 2 capabilities, 3 algorithms; and the response that CHUNK_GET still hands out. -/
  spdm : BitVec 2 := 0
  chunks : List Byte := []
  chunkSeq : Nat := 0
  chunkHandle : BitVec 8 := 0
  /-- The largest response that the requester takes whole. -/
  spdmSize : Nat := 0
  deriving DecidableEq, Repr
/-! ### Power (15_power_contract.md) -/

/-- A phase entry (R546, R551): observations, their sum in µW until the fourth, and the learned draw per cell in mW. -/
structure Phase where
  valid : Bool := false
  partition : BitVec 5 := 0
  obs : BitVec 8 := 0
  sum : Nat := 0
  cellMw : Nat := 0
  deriving DecidableEq, Repr

/-- What the observation of a context's running step has gathered (R545): the step's number, the sum of its cells' shares at
2,500 MHz in µW, and how many shares. -/
structure PhaseObs where
  num : BitVec 32 := 0
  sum : Nat := 0
  count : Nat := 0
  deriving DecidableEq, Repr

/-- The power controller and the contract (R529 to R551). Energies are in units of 10 pJ: one millivolt × one milliampere for
one sample of 10 µs. -/
structure Power where
  /-- Accepted contract entries in W by minute; zero: none. SEQ last accepted. -/
  contract : SMap Nat := []
  seq : Word := 0
  /-- DEFAULT_W and AVG_CAP_W; none: the TDP. WINDOW_S. -/
  defaultW : Option Nat := none
  avgCapW : Option Nat := none
  windowS : Nat := 10
  /-- The rack controller's key; zero: none. -/
  rackKey : BitVec 256 := 0
  strictMhz : SMap Nat := []
  strictRefused : Bool := false
  meterFault : Bool := false
  /-- Checks in a row that have agreed while the meter is faulted, and the tick of the last check plus one. -/
  meterGood : Nat := 0
  checkedAt : Nat := 0
  thermal : Bool := false
  /-- Mean draw of the last interval and B of the current one, in mW. -/
  inputMw : Nat := 0
  budgetMw : Nat := 0
  duty : Nat := 8
  /-- The minute that runs, FLOOR_EFF when it began, its energy, its highest 1 ms mean, and what its record will say. -/
  minute : Nat := 0
  floorThen : Nat := 0
  energy : Nat := 0
  peakMw : Nat := 0
  sound : Bool := true
  minuteThermal : Bool := false
  partMinute : Bool := true
  /-- Energy and samples of the current interval, and energies of the last intervals, newest first. -/
  now : Nat := 0
  samples : Nat := 0
  /-- The power stages limit the input to 4,400 W for the rest of the interval (R540). -/
  inputLimit : Bool := false
  history : List Nat := []
  /-- The last 64 minute records, oldest first. -/
  records : List (List Byte) := []
  phases : SMap Phase := []
  obs : SMap PhaseObs := []
  /-- Non-cell power of the previous interval, in mW. -/
  nonCellMw : Nat := 0
  /-- Sensors: highest junction and HBM3E temperatures in °C, input voltage in mV. -/
  tempC : Int := 0
  hbmC : Int := 0
  inputMv : Nat := 0
  deriving DecidableEq, Repr
/-! ### The Harness: boot and change log (16_harness_boot_and_change_log.md) -/

/-- The boot and log block (R579) and the change log (R572 to R578). -/
structure Harness where
  ready : Bool := false
  recovery : Bool := false
  scrapped : Bool := false
  stage : BitVec 8 := 1
  failStage : BitVec 8 := 0
  readyTick : BitVec 32 := 0
  /-- BOOT_IMAGE. -/
  image : Word := 0
  logBase : Word := 0
  logHead : Word := 0
  logTail : Word := 0
  overwritten : BitVec 32 := 0
  /-- Entries overwritten since boot, which reading OVERWRITTEN does not clear (R574, kind OVERWRITE). -/
  overTotal : Word := 0
  /-- The span of 65,536 SEQs of the last OVERWRITE entry plus one (R577). -/
  overSpan : Nat := 0
  /-- Entries in the on-die buffer, oldest first (R573), the number of the next entry, and the chain value (R575). -/
  logBuf : List (List Byte) := []
  logSeq : Word := 0
  chain : BitVec 192 := 0
  /-- The two flash devices by byte (R560, R608): 0xFF, an erased byte, where not listed. -/
  flashA : SMap Byte := []
  flashB : SMap Byte := []
  /-- The flash holds a certificate for this module's identity key (R608). -/
  certified : Bool := false
  /-- Subsystem vendor and device IDs (R343, R564). -/
  subsystem : BitVec 32 := 0
  /-- The copy that an update has written and that waits for a reset (R568). -/
  updated : Bool := false
  /-- Pins and supply (R599 to R607): PWR_EN high, the input within range, PERST# and MOD_RST# low, the reference clocks,
  THERMTRIP# low, and the straps ADDR_SEL as sampled (R600). -/
  pwrEn : Bool := true
  inputOk : Bool := true
  perst : Bool := false
  modRst : Bool := false
  refSys : Bool := true
  refFab : Bool := true
  tripped : Bool := false
  addrSel : BitVec 2 := 0
  deriving DecidableEq, Repr
/-! ### Stop, scan-out and counters (17_stop_scan_and_counters.md) -/

/-- The debug block (R594) and its counters (R590 to R593). -/
structure Debug where
  /-- GSTOP_STATUS: the module is stopped; slot of the last coach-scope word. -/
  module : Bool := false
  lastCoach : BitVec 6 := 0
  scanAddr : Word := 0
  scanBytes : BitVec 32 := 0
  scanError : BitVec 8 := 0
  /-- The JTAG scan data register: the output of the last scan started over JTAG. -/
  scanData : List Byte := []
  snapTick : Word := 0
  /-- Coach counters by slot × 16 + place, global counters by offset / 8, and their shadow copies. -/
  coachCtr : SMap Word := []
  globalCtr : SMap Word := []
  coachSnap : SMap Word := []
  globalSnap : SMap Word := []
  /-- CTR_EXPORT_n, and the tick of the last export plus one. -/
  ctrExport : SMap Word := []
  exportAt : SMap Nat := []
  deriving DecidableEq, Repr
/-! ### Cells and the whole state -/

/-- A pcell: hitch state (R203, R240), Ox, Hens, scratchpad, Drays, ports, TLB and clock. -/
structure Cell where
  st : CellState := .asFused
  slot : BitVec 6 := 63
  lcell : BitVec 27 := 0
  peer : Nat := 0
  stub : Bool := false
  /-- The coach slot whose moved cell the stub forwards to. -/
  stubCoach : BitVec 6 := 63
  /-- The lcell that the source held before M0: the map of before the epoch advance names the source for it (R226). -/
  stubLcell : BitVec 27 := 0
  leaving : Bool := false
  failed : Bool := false
  /-- A pcell that has left and is being cleaned (R204), and the state that it then enters. -/
  cleaning : Option CellState := none
  /-- The epoch that the cell port follows (R213). -/
  portEpoch : BitVec 32 := 0
  ox : Ox := {}
  hens : Vector Hen 4 := .replicate 4 {}
  drays : Vector Dray 2 := .replicate 2 {}
  sp : SMap Byte := []
  /-- Bank owners, HEN_0 where not listed (R250), and by bank the handovers that have not taken effect, in their order
  (R251, R252): the new owner, and the Hen whose BANK.GIVE waits (4: a BANK_OWN write). -/
  owner : SMap (BitVec 3) := []
  handover : SMap (List (BitVec 3 × Nat)) := []
  streamMap : SMap Word := []
  /-- Unclaimed buffer (R262): (stream, flit), oldest first. -/
  unclaimed : List (Nat × Unit32) := []
  stubQ : List Flit := []
  /-- Held buffer of a target (R225): (stream, flit). -/
  heldQ : List (Nat × Unit32) := []
  /-- The move image on its way to this target, the number of its flits that have left, and those that have arrived. -/
  image : Option CellSpill := none
  imageSent : Nat := 0
  /-- The frame in which the latest flit of the image left the source (R228). -/
  imageLast : Nat := 0
  imageGot : List Nat := []
  /-- GIG_PORT_STATUS. -/
  rejects : BitVec 16 := 0
  retries : BitVec 16 := 0
  /-- The pending YIELD_REQ's sender (R150). -/
  yieldFrom : Option Nat := none
  /-- Yield point already reported with YIELD_AT. -/
  yieldTold : Bool := false
  tlb : List TlbEntry := []
  misses : List L1Miss := []
  /-- XLT_INV messages not yet acknowledged (R332). -/
  invs : List XltInvReq := []
  /-- Streams whose late replies are discarded uncounted, for their requests were abandoned (R333). -/
  abandoned : List Nat := []
  /-- AMO predictor counters, 01 where not listed (R304). -/
  pred : SMap (BitVec 2) := []
  /-- Far atomics outstanding, oldest first (R303): Hen, line, and where it was translated its PASID, virtual address and log2 of the page
  (R332). -/
  far : List (Nat × LineNo × Option (BitVec 20 × Nat × Nat)) := []
  /-- CELL_CLOCK: current ceiling lowered by, frequency, target of CLOCK_SET. -/
  ceilDrop : Nat := 0
  freq : BitVec 16 := 0
  /-- CELL_HEALTH: corrected and uncorrectable errors, cause of failure (R461, R483), banks retired. -/
  ceCount : BitVec 16 := 0
  ueCount : BitVec 16 := 0
  failCause : BitVec 2 := 0
  badBanks : List Nat := []
  /-- The Hens have been told to stop for a switch; the Gig port sends nothing (R397). -/
  stopped : Bool := false
  /-- At the stop boundary: the Hens that ran, and the banks that are live (R399). -/
  ran : Nat := 0
  live : Nat := 0
  /-- The pcell's clock has stopped at a stop word (R582). -/
  frozen : Bool := false
  /-- Its inbound FIFO while it is stopped (R19, R582): the EJECT record's stream, and the flit. -/
  fifo : List (Nat × Flit) := []
  /-- On an inheritance cell: the HOLDING context whose lcell runs here (R409). -/
  heldBy : Option Nat := none
  /-- Tick of the last revision of the ceiling plus one (R542); the cell is held at 1,000 MHz (R549). -/
  ceilAt : Nat := 0
  heldSlow : Bool := false
  /-- Cell counters by place in their table (R591). -/
  ctrs : SMap Word := []
  deriving DecidableEq, Repr

/-- The state of the block. -/
structure State where
  /-- Commands waiting, first in, first out. -/
  pending : List Instr := []
  /-- The tick (R10). -/
  tick : Nat := 0
  /-- The model's own counter of free values: it advances with each that is taken; never the spec's. -/
  free : Nat := 0
  /-- Messages in flight inside the block, in the order sent: the endpoint whose port sent each, and the command that delivers it. -/
  flight : List (Nat × Instr) := []
  /-- What has left the block, newest last. -/
  outbox : List Output := []
  /-- The module is an IGN4820-L1 (R1); else an -L2. -/
  isL1 : Bool := false
  /-- Fused ceilings in MHz that differ from 2,500 (R17). -/
  ceilFused : SMap (BitVec 16) := []
  /-- CELL_ENABLE (R489), its bits 72r to 72r + 71 at r, unlisted where the first 64 of them are set: a set bit is a pcell enabled at
  shipment, and the others are spares. -/
  cellEnable : SMap (BitVec 72) := []
  cells : SMap Cell := []
  stage : Stage := {}
  coaches : SMap Coach := []
  coachRegs : CoachRegs := {}
  /-- Device memory and host memory by byte; zero where not listed. -/
  mem : List Host.Cell := []
  hostMem : List Host.Cell := []
  /-- The writes of contents to device memory, for R89: first byte, past the last, number; a later write that covers an earlier
  one replaces it. And the number of the next write. -/
  written : List (Nat × Nat × Nat) := []
  writeSeq : Nat := 1
  mcs : SMap Mc := []
  llc : SMap LlcLine := []
  llcWays : SMap (BitVec 16) := []
  wayConflict : Bool := false
  /-- Chunk owners (R244): HBM3E chunk c under c, LPDDR5X chunk under 1600 + number; 0x3F where not listed. -/
  carve : SMap Byte := []
  engines : SMap Engine := []
  agents : SMap AgentLine := []
  homeLines : SMap HomeLine := []
  homes : SMap Home := []
  /-- Non-caching requests under way (R280), oldest first, and the number of the next one. -/
  nonCaching : List NcReq := []
  ncNext : Nat := 0
  /-- Lines of MULE regions that a cell has fetched into its cache and not flushed since (R166). -/
  muleCached : List Nat := []
  /-- Such lines that have gone from the caches while commands were visible to their engine (R166): the line, and the tail count of each ring. -/
  muleGone : List (Nat × SMap (BitVec 32)) := []
  /-- The keys of memory lines (R501, R502), oldest first, a later entry over an earlier one: first line, past the last, and 0 for their
  chunk's key, as where no entry holds the line, 1 + the slot whose spill key it is, 100 for a spill key that has been replaced. -/
  lineKey : List (Nat × Nat × Nat) := []
  /-- Requests that a home has refused with RETRY (R293), by agent × 2048 + home, oldest first. -/
  refused : SMap (List Instr) := []
  /-- Refused requests whose RETRY has not arrived yet, by the same key. -/
  retrying : SMap (List Instr) := []
  coh : CohRegs := {}
  tlbAgents : SMap TlbAgent := []
  xlt : XltRegs := {}
  host : HostIf := {}
  sched : Sched := {}
  errs : Errs := {}
  stable : Stable := {}
  jbn : Jbn := {}
  harness : Harness := {}
  power : Power := {}
  dbg : Debug := {}
  deriving DecidableEq, Repr

/-- The state right after reset: every register at its reset value, nothing placed, no command waiting. -/
def State.reset : State := {}

end Sys2Proof.Machine
end

