-- ==== Sys2Proof/Machine/Messages.lean ====
section
/-! DEFINITION. The words of coherence and translation messages (R148, R281 to R283, R302, R321): TYPE, PAYLOAD and body of the command
that delivers a message, its beats, and how many Gig messages it is. -/
namespace Sys2Proof.Machine

/-- A frame (R282): the header's TYPE and PAYLOAD, and the body. -/
structure Frame where
  type : Nat
  payload : BitVec 48
  body : List Byte := []
  deriving DecidableEq, Repr

/-- REQ (R283): REQUESTER and ACKS, in one beat. -/
def reqBytes (requester : Nat) (acks : Bool) : List Byte := natBytes 2 (requester % 2048) ++ natBytes 4 (if acks then 1 else 0)

/-- PAYLOAD of a coherence message (R281): LINE, and the two flag bits. -/
def linePayload (l : LineNo) (flags : Nat) : BitVec 48 := BitVec.ofNat 48 (l.toNat + flags * 2 ^ 46)

def flag46 (b : Bool) : Nat := if b then 1 else 0
def flag47 (b : Bool) : Nat := if b then 2 else 0

/-- The frame of a coherence or translation message (R281 to R283, R321); none for a command that delivers no such message. -/
def Instr.frame : Instr → Option Frame
  | .getS _ l m => some { type := 0x40, payload := linePayload l (flag46 m) }
  | .getM _ l => some { type := 0x41, payload := linePayload l 0 }
  | .upgrade _ l => some { type := 0x42, payload := linePayload l 0 }
  | .putS _ l => some { type := 0x43, payload := linePayload l 0 }
  | .putE _ l => some { type := 0x44, payload := linePayload l 0 }
  | .putD _ l d => some { type := 0x45, payload := linePayload l 0, body := bytesOf 64 d }
  | .amoFar _ l b => some { type := 0x46, payload := linePayload l 0, body := bytesOf 24 b }
  | .fwdGetS _ l r k => some { type := 0x50, payload := linePayload l 0, body := reqBytes r k }
  | .fwdGetM _ l r k => some { type := 0x51, payload := linePayload l 0, body := reqBytes r k }
  | .inv _ l => some { type := 0x52, payload := linePayload l 0 }
  | .snpData _ l => some { type := 0x53, payload := linePayload l 0 }
  | .snpInv _ l => some { type := 0x54, payload := linePayload l 0 }
  | .fwdAmo _ l r b => some { type := 0x55, payload := linePayload l 0, body := reqBytes r false ++ bytesOf 24 b }
  | .putAck _ l => some { type := 0x56, payload := linePayload l 0 }
  | .grant _ l c => some { type := 0x57, payload := linePayload l (flag47 c) }
  | .done _ l => some { type := 0x58, payload := linePayload l 0 }
  | .dataS _ l d => some { type := 0x59, payload := linePayload l 0, body := bytesOf 64 d }
  | .dataE _ l d => some { type := 0x5A, payload := linePayload l 0, body := bytesOf 64 d }
  | .dataM _ l d c w => some { type := 0x5B, payload := linePayload l (flag47 c + flag46 w), body := bytesOf 64 d }
  | .refuse _ l c => some { type := 0x5C, payload := linePayload l c.toNat }
  | .retry _ l => some { type := 0x5D, payload := linePayload l 0 }
  | .credit _ l => some { type := 0x5E, payload := linePayload l 0 }
  | .invAck _ l => some { type := 0x60, payload := linePayload l 0 }
  | .snpResp _ l c => some { type := 0x61, payload := linePayload l c.toNat }
  | .wbData _ l d => some { type := 0x62, payload := linePayload l 0, body := bytesOf 64 d }
  | .amoResp _ l v h => some { type := 0x63, payload := linePayload l (flag46 h), body := bytesOf 8 v }
  | .xltReq _ v w x q t => some {
      type := 0x70, payload := BitVec.ofNat 48 (v.toNat + (if w then 2 ^ 45 else 0) + (if x then 2 ^ 46 else 0))
      body := natBytes 3 q.toNat ++ natBytes 1 t.toNat }
  | .xltResp _ r =>
    let ok := r.status == 0
    let flag (b : Bool) (k : Nat) : Nat := if b then 2 ^ k else 0
    some {
      type := 0x71, payload := BitVec.ofNat 48 (r.vpn.toNat + r.status.toNat * 2 ^ 45)
      body := (if ok then natBytes 5 r.pbase.toNat ++ natBytes 1 (r.size.toNat + flag r.rd 2 + flag r.wr 3 + flag r.ex 4) ++ bytesOf 2 r.mask
               else natBytes 8 0) ++ natBytes 1 r.tag.toNat }
  | .xltInv _ q => some {
      type := 0x72, payload := BitVec.ofNat 48 q.vpn.toNat
      body := natBytes 3 q.pasid.toNat ++ natBytes 1 (if q.allPasid then 1 else 0) ++ natBytes 1 q.log2.toNat ++ natBytes 1 q.seq.toNat }
  | .xltInvAck _ seq => some { type := 0x73, payload := BitVec.ofNat 48 seq.toNat }
  | .xltPage q n prg => some { type := 0x74, payload := BitVec.ofNat 48 (q.toNat + n.val * 2 ^ 20 + prg.toNat * 2 ^ 26) }
  | _ => none

/-- The beats of a body (R282): six bytes each, the last padded with zeros. -/
def beats : Nat → List Byte → List (BitVec 48)
  | 0, _ => []
  | k + 1, bs => if bs.isEmpty then [] else ofBytes 48 (bs.take 6) :: beats k (bs.drop 6)

/-- The Gig messages of a frame: TYPE and PAYLOAD of its header, then of its beats (R282). -/
def Frame.messages (f : Frame) : List (Nat × BitVec 48) := (f.type, f.payload) :: (beats f.body.length f.body).map fun b => (0x6F, b)

/-- Gig messages that a command's message is made of; one for a message that is no frame. -/
def Instr.gigCount (i : Instr) : Nat := match Instr.frame i with
  | some f => 1 + (f.body.length + 5) / 6
  | none => 1

/-- Class and destination endpoint of a message (R150, R152), by the home and the slice of a line and the die of a pcell; none for a
command that delivers no message. -/
def Instr.route (home : LineNo → Nat) (tlb : Nat → Nat) : Instr → Option (Nat × Nat)
  | .user p _ => some (3, p)
  | .semReply p _ => some (3, p)
  | .doorbell p _ => some (0, p)
  | .yieldReq p _ => some (0, p)
  | .epochSet p _ => some (0, p)
  | .clockSet p _ => some (0, p)
  | .fault m => some (1, bfield m.dst 0 11)
  | .nack p _ _ => some (1, p)
  | .acquire east _ => some (1, if east then 1492 else 1491)
  | .release east _ => some (1, if east then 1492 else 1491)
  | .semTry east _ => some (1, if east then 1492 else 1491)
  | .semRead east _ => some (1, if east then 1492 else 1491)
  | .semSet east _ => some (1, if east then 1492 else 1491)
  | .getS _ l _ => some (2, home l)
  | .getM _ l => some (2, home l)
  | .upgrade _ l => some (2, home l)
  | .putS _ l => some (2, home l)
  | .putE _ l => some (2, home l)
  | .putD _ l _ => some (2, home l)
  | .amoFar _ l _ => some (2, home l)
  | .invAck _ l => some (2, home l)
  | .snpResp _ l _ => some (2, home l)
  | .wbData _ l _ => some (2, home l)
  | .fwdGetS a _ _ _ => some (2, a)
  | .fwdGetM a _ _ _ => some (2, a)
  | .inv a _ => some (2, a)
  | .snpData a _ => some (2, a)
  | .snpInv a _ => some (2, a)
  | .fwdAmo e _ _ _ => some (2, 1408 + e)
  | .putAck a _ => some (2, a)
  | .grant a _ _ => some (2, a)
  | .done a _ => some (2, a)
  | .dataS a _ _ => some (2, a)
  | .dataE a _ _ => some (2, a)
  | .dataM a _ _ _ _ => some (2, a)
  | .refuse a _ _ => some (2, a)
  | .retry a _ => some (2, a)
  | .credit a _ => some (2, a)
  | .amoResp a _ _ _ => some (2, a)
  | .xltReq p _ _ _ _ _ => some (2, tlb p)
  | .xltResp p _ => some (2, p)
  | .xltInv p _ => some (2, p)
  | .xltInvAck p _ => some (2, tlb p)
  | .xltPage _ n _ => some (2, 1480 + n % 8)
  | _ => none

/-- The endpoint whose port sends a message that the sender does not name otherwise: a line's home, a die's TLB agent, the physical
SRC of a message of an I/O die agent, or the cell. -/
def Instr.sender (home : LineNo → Nat) (tlb : Nat → Nat) : Instr → Nat
  | .semReply _ m => bfield m.src 0 11
  | .doorbell _ m => bfield m.src 0 11
  | .yieldReq _ m => bfield m.src 0 11
  | .epochSet _ m => bfield m.src 0 11
  | .clockSet _ m => bfield m.src 0 11
  | .fault m => bfield m.src 0 11
  | .fwdGetS _ l _ _ => home l
  | .fwdGetM _ l _ _ => home l
  | .inv _ l => home l
  | .snpData _ l => home l
  | .snpInv _ l => home l
  | .fwdAmo _ l _ _ => home l
  | .putAck _ l => home l
  | .grant _ l _ => home l
  | .done _ l => home l
  | .dataS _ l _ => home l
  | .dataE _ l _ => home l
  | .dataM _ l _ _ _ => home l
  | .refuse _ l _ => home l
  | .retry _ l => home l
  | .credit _ l => home l
  | .amoResp _ l _ _ => home l
  | .xltResp p _ => tlb p
  | .xltInv p _ => tlb p
  | .xltReq p _ _ _ _ _ => p
  | .xltInvAck p _ => p
  | _ => 2047

end Sys2Proof.Machine
end

