-- ==== Sys2Proof/Machine/Ops.lean ====
section
/-! DEFINITION. The shared operations over the state: reading and replacing a unit, memory, checks of an address, sending a
message, sending an interrupt, taking a free value, reporting a fault, the clean state of a cell. -/
namespace Sys2Proof.Machine

/-! Units by number. -/

def State.cell (s : State) (p : Nat) : Cell := tget {} s.cells p
def State.setCell (s : State) (p : Nat) (c : Cell) : State := { s with cells := tset {} s.cells p c }
def State.hen (s : State) (p : Nat) (h : HenIx) : Hen := (s.cell p).hens[h]
def Cell.setHen (c : Cell) (h : HenIx) (x : Hen) : Cell := { c with hens := c.hens.set h x }
def State.setHen (s : State) (p : Nat) (h : HenIx) (x : Hen) : State := s.setCell p ((s.cell p).setHen h x)
def Cell.dray (c : Cell) (d : DrayIx) : Dray := c.drays[d]
def Cell.setDray (c : Cell) (d : DrayIx) (x : Dray) : Cell := { c with drays := c.drays.set d x }
def State.ox (s : State) (p : Nat) : Ox := (s.cell p).ox
def State.setOx (s : State) (p : Nat) (o : Ox) : State := s.setCell p { s.cell p with ox := o }

def State.coach (s : State) (n : Nat) : Coach := tget {} s.coaches n
def State.setCoach (s : State) (n : Nat) (c : Coach) : State := { s with coaches := tset {} s.coaches n c }
def State.slotSched (s : State) (n : Nat) : SlotSched := tget {} s.sched.slots n
def State.setSlotSched (s : State) (n : Nat) (x : SlotSched) : State :=
  { s with sched := { s.sched with slots := tset {} s.sched.slots n x } }
def State.ctx (s : State) (k : Nat) : Context := tget {} s.host.ctxs k
def State.setCtx (s : State) (k : Nat) (x : Context) : State :=
  { s with host := { s.host with ctxs := tset {} s.host.ctxs k x } }
def State.slice (s : State) (k : Nat) : Slice := tget {} s.host.slices k
def State.setSlice (s : State) (k : Nat) (x : Slice) : State :=
  { s with host := { s.host with slices := tset {} s.host.slices k x } }
def State.engine (s : State) (e : Nat) : Engine := tget {} s.engines e
def State.setEngine (s : State) (e : Nat) (x : Engine) : State := { s with engines := tset {} s.engines e x }
def Engine.ring (e : Engine) (n : Nat) : Ring := tget {} e.rings n
def Engine.setRing (e : Engine) (n : Nat) (r : Ring) : Engine := { e with rings := tset {} e.rings n r }
def State.mc (s : State) (c : Nat) : Mc := tget {} s.mcs c
def State.setMc (s : State) (c : Nat) (x : Mc) : State := { s with mcs := tset {} s.mcs c x }
def State.tt (s : State) (n : Nat) : TtBuffers := tget {} s.stage.tt n
def State.setTt (s : State) (n : Nat) (x : TtBuffers) : State :=
  { s with stage := { s.stage with tt := tset {} s.stage.tt n x } }

/-! Endpoint numbers (R119). -/

def epCell (p : Nat) : Nat := p
def epSlice (die i : Nat) : Nat := 1152 + 64 * die + i
def epEngine (e : Nat) : Nat := 1408 + e
def epFabW : Nat := 1460
def epFabE : Nat := 1461
/-- FAB_W serves JP_0 to JP_4, FAB_E the others (R415). -/
def portEast (k : Nat) : Bool := decide (k ≥ 5)
def fabEp (east : Bool) : Nat := if east then epFabE else epFabW
def epPci : Nat := 1462
def epTlb (die : Nat) : Nat := 1472 + die
def epDc (k : Nat) : Nat := 1480 + k
def epHarness : Nat := 1488
def epSem (east : Bool) : Nat := if east then 1492 else 1491

def isCellEp (e : Nat) : Bool := decide (e < 1152)
/-- Mule of HS_n or light Mule of an LPDDR5X controller, as engine number 0 to 51. -/
def engineOfEp (e : Nat) : Option Nat := if 1408 ≤ e ∧ e < 1460 then some (e - 1408) else none

/-- Compute die and region of a pcell (R5). -/
def dieOf (p : Nat) : Nat := p / 288
def regionOf (p : Nat) : Nat := p / 72
def localOf (p : Nat) : Nat := p % 72

/-- The CELL_ENABLE bits of a region (R489). -/
def State.enabledIn (s : State) (r : Nat) : BitVec 72 := tget 0xFFFFFFFFFFFFFFFF s.cellEnable r

/-- The state of a pcell (R203): as fused, the cells of CELL_ENABLE are free and the others spare (R4, R489). -/
def State.cellState (s : State) (p : Nat) : CellState :=
  match (s.cell p).st with
  | .asFused => if (s.enabledIn (regionOf p)).getLsbD (localOf p) then .free else .spare
  | x => x

/-- The pcell counts as hitched to slot n for the loader's checks (R134, R203). -/
def State.hitchedTo (s : State) (p n : Nat) : Bool :=
  (s.cell p).slot.toNat == n &&
    (match s.cellState p with
     | .hitched | .joining | .moveIn | .moveOut => true
     | _ => false)

/-- The pcells of a slot, rising. -/
def State.cellsOf (s : State) (n : Nat) : List Nat :=
  (s.cells.filter fun e => e.2.slot.toNat == n && s.cellState e.1 != .free).map (·.1)

/-- The pcell on which an lcell of a slot is placed (R218: the targets, once their batch has taken effect). -/
def State.placed (s : State) (n : Nat) (l : BitVec 27) : Option Nat :=
  ((s.cellsOf n).find? fun p => (s.cell p).lcell == l && (s.cell p).cleaning.isNone &&
    (match s.cellState p with | .hitched | .moveIn => true | _ => false))

/-! Addresses (R241, R242, R244, R246). -/

def hbmTop : Nat := 0x019000000000
def lpBase : Nat := 0x040000000000
/-- Addressable GiB of a package (R2). -/
def State.lpGiB (s : State) : Nat := if s.isL1 then 31 else 62

/-- The memory controller of an address: HS_n for n below 20, LP_n as 20 + n. -/
def ctlOf (a : Nat) : Nat := if a < hbmTop then a / 0x001400000000 else 20 + (a - lpBase) / 0x001000000000

/-- The 256-byte unit of an address within its stack or package (R242). -/
def unitOf (a : Nat) : Nat := (if a < hbmTop then a % 0x001400000000 else (a - lpBase) % 0x001000000000) / 256
/-- The pseudo-channel of a stack in which an HBM3E address lies, and the channel of a package for an LPDDR5X address (R242). -/
def channelOf (a : Nat) : Nat :=
  let u := unitOf a
  if a < hbmTop then field u 0 5 ^^^ field u 5 5 ^^^ field u 10 5 else field u 0 2 ^^^ field u 2 2 ^^^ field u 4 2

/-- The address lies in a chunk: in a stack, or in the addressable part of a package (R241, R244). -/
def State.inChunk (s : State) (a : Nat) : Bool :=
  decide (a < hbmTop) ||
    (decide (lpBase ≤ a) && decide (a < 0x060000000000) && decide ((a - lpBase) % 0x001000000000 < s.lpGiB * 2 ^ 30))

/-- The address holds memory (R241, R460). -/
def State.holdsMemory (s : State) (a : Nat) : Bool := s.inChunk a && !s.errs.retiredPages.contains (a / 4096)

/-- The chunk of an address in State.carve (R244). -/
def State.chunk (s : State) (a : Nat) : Nat :=
  if a < hbmTop then a / 2 ^ 30 else 1600 + s.lpGiB * ((a - lpBase) / 0x001000000000) + (a - lpBase) % 0x001000000000 / 2 ^ 30

/-- Owner of the chunk of an address: 0 to 31, 0x3E the system, 0x3F no one. -/
def State.ownerOf (s : State) (a : Nat) : Nat := (tget 0x3F s.carve (s.chunk a)).toNat

/-- Home slice endpoint of an HBM3E line, or the controller endpoint of an LPDDR5X line (R246). -/
def homeOf (a : Nat) : Nat :=
  if a < hbmTop then
    epSlice (a / 0x001400000000 / 5) (field a 12 6 ^^^ field a 18 6 ^^^ field a 24 6 ^^^ field a 30 6)
  else 1428 + (a - lpBase) / 0x001000000000

/-- The requester 0x3E reaches every chunk of the system; a partition reaches its own (R245). Once debug or a life-cycle
transition has closed the memory, no one reaches it (R488, R514). -/
def State.mayAccess (s : State) (who : Nat) (a : Nat) : Bool := who != 0x3F && !s.stable.noMem && s.ownerOf a == who

/-- Partition of a coach slot, 0x3E for system traffic, 0x3F for a slot that is not open. -/
def State.partOf (s : State) (slot : Nat) : Nat :=
  if slot = 62 then 0x3E else if (s.coach slot).valid then (s.coach slot).partition.toNat else 0x3F

/-- The address lies in a MULE region (R163). -/
def State.isMule (s : State) (a : Nat) : Bool :=
  let c := ctlOf a
  let off := if a < hbmTop then a % 0x001400000000 else (a - lpBase) % 0x001000000000
  let r := off / 2 ^ 21
  (tget 0 (s.engine c).map (r / 64)).getLsbD (r % 64)

/-! Memory. -/

def lineAddr (l : LineNo) : Nat := l.toNat * 64
def lineNo (a : Nat) : LineNo := BitVec.ofNat 46 (a / 64)

def State.readLine (s : State) (l : Nat) : Line := ofBytes 512 (readBytes s.mem (64 * l) 64)

/-- A write of contents to n bytes at a is noted under its number (R89). -/
def State.noteWrite (s : State) (a n : Nat) : State :=
  { s with
    written := (s.written.filter fun w => !(decide (a ≤ w.1) && decide (w.2.1 ≤ a + n))) ++ [(a, a + n, s.writeSeq)]
    writeSeq := s.writeSeq + 1 }

/-- The lines of n bytes at a are written under a key: 0 is their chunk's (R501, R502). -/
def State.noteKey (s : State) (a n key : Nat) : State :=
  let lo := a / 64
  let hi := (a + n - 1) / 64 + 1
  if n = 0 || (key = 0 && s.lineKey.isEmpty) then s
  else
    let rest := s.lineKey.filter fun e => !(decide (lo ≤ e.1) && decide (e.2.1 ≤ hi))
    let shown := key != 0 || rest.any fun e => decide (e.1 < hi) && decide (lo < e.2.1)
    { s with lineKey := if shown then rest ++ [(lo, hi, key)] else rest }

/-- The key under which a line was last written. -/
def State.keyOf (s : State) (l : Nat) : Nat :=
  match s.lineKey.reverse.find? fun e => decide (e.1 ≤ l) && decide (l < e.2.1) with
  | some e => e.2.2
  | none => 0

/-- A read of the line under a key meets what another key has written (R502). -/
def State.keyLost (s : State) (l key : Nat) : Bool := s.keyOf l != key

/-- The line as its memory holds it has an uncorrectable error (R451). -/
def State.lineBad (s : State) (l : Nat) : Bool := tget 0 s.errs.memBad l == 100

/-- A line of the 256-byte unit that f selects does not match the unit's tag under a key, on LPDDR5X only (R504, R505): written under another
key, or not correctable, since the tag is checked after correction. -/
def State.unitBad (s : State) (l key : Nat) (f : Nat → Bool) : Bool :=
  decide (64 * l ≥ lpBase) && (span (l / 4 * 4) 4).any fun k => f k && (s.keyLost k key || s.lineBad k)

/-- The tag of the line's unit does not match under a key. -/
def State.tagBad (s : State) (l key : Nat) : Bool := s.unitBad l key fun _ => true

/-- A line comes from memory: neither a dirty copy nor the LLC has it. -/
def State.inMemory (s : State) (l : Nat) : Bool :=
  !s.llc.any (·.1 == l) && !s.agents.any fun e => e.1 / 2048 == l && (e.2.st == .M || e.2.st == .O)

/-- A read of the line fails: it comes from memory with an uncorrectable error, or its tag does not match (R453, R505). -/
def State.lineFails (s : State) (l : Nat) : Bool := s.inMemory l && (s.lineBad l || s.tagBad l 0)

/-- A line as the device reads it: the copy of the agent that holds it dirty, else memory or the LLC. What a line is read as whose data is lost
the spec does not say: free bytes (R453, R502; DESIGN CHOICE, log 107). -/
def State.lineView (s : State) (l : Nat) : Line :=
  match s.agents.find? fun e => e.1 / 2048 == l && (e.2.st == .M || e.2.st == .O) with
  | some e => e.2.data
  | none => if s.stable.noMem || s.lineFails l || s.inMemory l && s.keyLost l 0 then ofBytes 512 ((span 0 64).map fun i => Config.refusedByte s.tick (64 * l + i)) else s.readLine l

/-- Bytes written to device memory, and noted. Part of a line is read and merged, which leaves a line that can be corrected whole (R451). -/
def State.writeMem (s : State) (a : Nat) (bs : List Byte) : State :=
  if bs.isEmpty || s.stable.noMem then s else
  let lines := span (a / 64) ((a + bs.length - 1) / 64 - a / 64 + 1)
  let whole (l : Nat) : Bool := decide (a ≤ 64 * l) && decide (64 * l + 64 ≤ a + bs.length)
  let merged (l : Nat) : Bool := whole l || !s.lineBad l
  { (s.noteWrite a bs.length).noteKey a bs.length 0 with
    mem := writeBytes s.mem a bs
    errs := { s.errs with memBad := lines.foldl (fun m l => if merged l then tset 0 m l 0 else m) s.errs.memBad } }

def State.writeLine (s : State) (l : Nat) (d : Line) : State := s.writeMem (64 * l) (bytesOf 64 d)
/-- Bytes at a device physical address, or in host memory at or above 2^51 (R311). -/
def State.readPhys (s : State) (a n : Nat) : List Byte :=
  if a < 2 ^ 51 then readBytes s.mem a n else readBytes s.hostMem (a - 2 ^ 51) n

/-! Keys of a boot (R490, R493). -/

/-- Attributes of a stall (R494). -/
def stallAttr (kind lc world masters use coach : Nat) : Word :=
  putB 63 true ||| put 60 kind ||| put 54 lc ||| put 48 world ||| put 43 masters ||| put 41 use ||| put 0 coach

/-- The alias key's seed in stall 0 and the import private key in stall 1, while those stalls hold a key. -/
def Stable.bootKey (t : Stable) (k : Nat) : Option (BitVec 256) :=
  let x := tget {} t.stalls k
  if x.attr.getLsbD 63 then some (x.key.truncate 256) else none
def Stable.aliasKey (t : Stable) : Option (BitVec 256) := t.bootKey 0

/-! Counters (R590). -/

/-- A cell counter goes up (R591: place in the table of cell counters). -/
def Cell.count (c : Cell) (i n : Nat) : Cell :=
  { c with ctrs := tset 0 c.ctrs i (tget 0 c.ctrs i + BitVec.ofNat 64 n) }
def State.countCell (s : State) (p i n : Nat) : State := s.setCell p ((s.cell p).count i n)

/-- A coach counter of slot n goes up; slots above 47 have none. -/
def State.countCoach (s : State) (n i k : Nat) : State :=
  if n ≥ 48 then s
  else
    let c := s.dbg.coachCtr
    { s with dbg := { s.dbg with coachCtr := tset 0 c (16 * n + i) (tget 0 c (16 * n + i) + BitVec.ofNat 64 k) } }

/-- A global counter goes up: its offset / 8 in the table of global counters. -/
def State.countGlobal (s : State) (i k : Nat) : State :=
  let c := s.dbg.globalCtr
  { s with dbg := { s.dbg with globalCtr := tset 0 c i (tget 0 c i + BitVec.ofNat 64 k) } }

/-! Messages, interrupts, free values. -/

/-- The home of a line (R278), and the TLB agent of a pcell's die (R119). -/
def homeEp (l : LineNo) : Nat := homeOf (lineAddr l)
def tlbEp (p : Nat) : Nat := epTlb (dieOf p)

/-- A message put in flight by an endpoint's port: it is delivered when its command comes. -/
def State.post (s : State) (a : Nat) (i : Instr) : State := { s with flight := s.flight ++ [(a, i)] }

/-- A message sent by the agent that sends messages of its kind. -/
def State.send (s : State) (i : Instr) : State := s.post (Instr.sender homeEp tlbEp i) i
def State.sendAll (s : State) (l : List Instr) : State := l.foldl State.send s

/-- The first entry that a test holds for, taken out. -/
def dropWhere {α : Type} (f : α → Bool) : List α → List α
  | [] => []
  | x :: l => if f x then l else x :: dropWhere f l

/-- The command that delivers a message takes it out of flight. -/
def State.take (s : State) (i : Instr) : State := { s with flight := dropWhere (fun e => e.2 == i) s.flight }

/-- Class and destination of a message (R152). -/
def Instr.way (i : Instr) : Option (Nat × Nat) := Instr.route homeEp tlbEp i

/-- A message may be delivered: none of its class that its port has sent to the same destination before it is still in flight
(R152). -/
def State.inOrder (s : State) (i : Instr) : Bool :=
  match s.flight.find? fun e => e.2 == i with
  | none => true
  | some (a, _) => match (s.flight.takeWhile fun e => e.2 != i).find? fun e => e.1 == a && Instr.way e.2 == Instr.way i with
    | none => true
    | some _ => false

/-- A message that a cell's Gig port sends, and one that it takes, counted by Gig messages (R282); other agents have no such
counters. -/
def State.sendFrom (s : State) (a : Nat) (i : Instr) : State :=
  (if isCellEp a then s.countCell a 5 (Instr.gigCount i) else s).post a i
def State.takeAt (s : State) (a : Nat) (i : Instr) : State :=
  let s := s.take i
  if isCellEp a then s.countCell a 6 (Instr.gigCount i) else s

def State.emit (s : State) (o : Output) : State := { s with outbox := s.outbox ++ [o] }

/-- Bytes written at a device physical address, or sent to host memory. -/
def State.writePhys (s : State) (a : Nat) (bs : List Byte) : State :=
  if a < 2 ^ 51 then s.writeMem a bs
  else (({ s with hostMem := writeBytes s.hostMem (a - 2 ^ 51) bs } : State).countGlobal 576 bs.length).emit (.hostWrite (a - 2 ^ 51) bs)

/-- Words of the MSI-X table at reset: PCI Express masks every vector (PRESUMED, log 40). -/
def msixReset (k : Nat) : Word := if k % 2 = 1 then 0x100000000 else 0
/-- Word k of the MSI-X table; the state holds how it differs from reset. -/
def State.msixWord (s : State) (k : Nat) : Word := tget 0 s.host.msixTable k ^^^ msixReset k
def State.setMsixWord (s : State) (k : Nat) (v : Word) : State :=
  { s with host := { s.host with msixTable := tset 0 s.host.msixTable k (v ^^^ msixReset k) } }

/-- The vector is masked in the MSI-X table (bit 32 of the entry's second word). -/
def State.msixMasked (s : State) (v : Nat) : Bool := (s.msixWord (2 * v + 1)).getLsbD 32

/-- Send an MSI-X vector (R345): a masked vector becomes pending. -/
def State.msix (s : State) (v : Nat) : State :=
  if s.msixMasked v then
    (if s.host.msixPending.contains v then s else { s with host := { s.host with msixPending := s.host.msixPending ++ [v] } })
  else s.emit (.msix v)

/-- A free value, and the state in which the next one is another. -/
def State.freeWord (s : State) : Word × State := (Config.freeWord s.free, { s with free := s.free + 1 })

/-! Faults (R463). -/

/-- SOURCE × 256 + KIND (R464). -/
def faultCode (source kind : Nat) : Nat := 256 * source + kind

/-- The FAULT message of a unit (R463): to DC_(n mod 8), with CODE and TAG. -/
def faultMsg (src slot : Nat) (hen : Nat) (code tag : Nat) : GigMsg :=
  { type := 0x20
    src := BitVec.ofNat 28 (2 ^ 27 + src)
    dst := BitVec.ofNat 28 (2 ^ 27 + epDc (slot % 8))
    coach := BitVec.ofNat 6 slot
    srcHen := BitVec.ofNat 2 hen
    dstHen := 0
    payload := BitVec.ofNat 48 (code + 2 ^ 16 * tag) }

/-- A cell's unit reports a fault on the fault path. -/
def State.cellFault (s : State) (p hen code tag : Nat) : State :=
  s.sendFrom p (.fault (faultMsg p (s.cell p).slot.toNat hen code tag))

/-- A step fault that a dispatch core reports internally (R463). -/
def State.stepFault (s : State) (n kind : Nat) : State := s.send (.fault (faultMsg (epDc (n % 8)) n 0 (faultCode 0 kind) 0))

def stepTimeout : Nat := 1
def stepBad : Nat := 2
def stepShape : Nat := 3
def stepTtMissing : Nat := 4
def stepStale : Nat := 5
def stepMoveOverrun : Nat := 6
def stepMoveEcc : Nat := 7
def stepMoveLost : Nat := 8
def stepSpillEcc : Nat := 9
def stepPageFault : Nat := 0xA
def stepPageTimeout : Nat := 0xB
def stepXltDrain : Nat := 0xC
def stepOverrun : Nat := 0xD
def stepCoachReset : Nat := 0xE

/-! The clean state (R204, R115). -/

/-- A Hen in the reset state of R115, with the trap registers of R614 and the registers whose tables give a reset value at it
(R111). What neither names it keeps: HEN_RESET_PC and SOFT_INT, its Gig queues, doorbell latch and yield request, the other
CSRs (DESIGN CHOICE, log 90). -/
def Hen.reset (x : Hen) : Hen :=
  { x with
    x := [], f := [], v := [], mmode := true, run := false, fresh := true, stall := none, fetchWait := false, xltFail := none
    amoChoice := 0, mstatus := 0x2200, mie := 0, mepc := 0, mcause := 0, mtval := 0, vl := 0, vtype := 0x8000000000000000
    vstart := 0, cycle := 0, instret := 0, mtimecmp := 0xFFFFFFFFFFFFFFFF, lastYield := 0, reserved := none, lrDefer := none }

/-- The Ox of the clean state; OX_BUSY is a count of the pcell and stays. -/
def Ox.clean (o : Ox) : Ox := { busy := o.busy }

/-- A cell in the clean state (R204): identity, hitch and clock fields stay. -/
def Cell.clean (c : Cell) : Cell :=
  { c with ox := c.ox.clean, hens := .replicate 4 {}, drays := .replicate 2 {}, sp := [], owner := [], handover := [],
           streamMap := [], unclaimed := [], stubQ := [], heldQ := [], image := none, imageSent := 0, imageGot := [],
           yieldFrom := none, yieldTold := false, tlb := [], misses := [], invs := [], abandoned := [], pred := [], far := [], stopped := false, ran := 0, live := 0, frozen := false, fifo := [], heldBy := none }

/-! Steps and contexts of a slot. -/

/-- The pcell is assigned to inheritance by some region (R414). -/
def State.isInheritCell (s : State) (p : Nat) : Bool := s.sched.inherit.any fun e => e.2.getLsbD 63 && bfield e.2 0 11 == p

/-- The context that runs on a slot (R379). -/
def State.runningCtx (s : State) (n : Nat) : Option Nat := (s.slotSched n).running

/-- The contexts of a slot that are HOLDING (R409). -/
def State.holdings (s : State) (n : Nat) : List Nat :=
  ((s.slotSched n).levels.toList.filterMap (·.ctx)).filter fun k => (s.ctx k).held == some .holding

/-- The context whose step runs on a pcell: on an inheritance cell, which is FREE, the HOLDING one (R409). -/
def State.cellCtx (s : State) (p : Nat) : Option Nat :=
  if s.cellState p == .free then (s.cell p).heldBy else s.runningCtx (s.cell p).slot.toNat

/-- The PASID under which a pcell's U-mode accesses are translated (R82): that of the running context's slice. -/
def State.pasidOf (s : State) (p : Nat) : BitVec 20 :=
  match s.cellCtx p with
  | some k => (s.slice (s.ctx k).slice).pasid
  | none => 0

/-- A step of the slot runs on its cells: it is not being pre-empted or resumed. -/
def State.stepRuns (s : State) (n : Nat) : Bool := (s.runningCtx n).isSome && (s.slotSched n).switch == .none

/-- The epoch of a slot (R206), zero for other numbers. -/
def State.epochOf (s : State) (n : Nat) : BitVec 32 := (s.coach n).epoch

/-- The current Stage frame and its first absolute cycle (R124). -/
def State.frameCycle (s : State) : Nat := 1024 * s.stage.frame

/-- A module-scope RESUME (R584). -/
def State.resumeModule (s : State) : State := { s with dbg := { s.dbg with module := false } }

/-- The clock of a pcell runs: no stop word has frozen it, nor the module (R582, R583). -/
def State.unfrozen (s : State) (p : Nat) : Bool := !s.dbg.module && !(s.cell p).frozen

/-- What a command answers. -/
abbrev Out := Host.Outcome State Fault Refusal

/-- The power stages run (R602, R603). -/
def Harness.powered (h : Harness) : Bool := h.pwrEn && h.inputOk && !h.tripped

/-- The module is in cold reset or unpowered: it answers nothing and holds no state (R552, R602, R605, R607). -/
def Harness.down (h : Harness) : Bool := !h.powered || h.perst || h.modRst || !h.refSys

/-- The module answers PCIe requests normally: it is ready, and not held after a life-cycle transition (R488, R553, R554). -/
def State.pcieOpen (s : State) : Bool := s.harness.ready && !s.stable.held

/-- A request that comes over PCIe: completed with Unsupported Request while the module does not take it (R488, R553). -/
def State.gate (s : State) (f : State → Out) : Out :=
  if s.pcieOpen then f s else if s.harness.down then .next s else .next (s.emit .unsupported)

/-- An access to BAR2 or BAR4: refused too while the module is stopped (R583). -/
def State.gateData (s : State) (f : State → Out) : Out :=
  s.gate fun s => if s.dbg.module then .next (s.emit .unsupported) else f s

/-- What a unit of a pcell does on its clock: nothing happens while the clock is stopped. -/
def State.onClock (s : State) (p : Nat) (f : State → Out) : Out := if s.unfrozen p then f s else .next s

/-- What a unit outside the cells does: nothing happens while the module is stopped (R583). -/
def State.onModule (s : State) (f : State → Out) : Out := if s.dbg.module then .next s else f s

/-- What the delivery of a message does; nothing while a message before it in its port's order is still in flight. -/
def State.delivered (s : State) (i : Instr) (f : State → Out) : Out := if s.inOrder i then f s else .next s

/-- A PCIe write to the window of a pcell: ignored where the pcell serves a coach of a sealed partition (R507). -/
def State.sealedCell (s : State) (p : Nat) : Bool :=
  s.stable.sealed.contains (s.partOf (s.cell p).slot.toNat) && (match s.cellState p with
    | .hitched | .joining | .moveIn | .moveOut => true
    | _ => false)
def State.gateCell (s : State) (p : Nat) (f : State → Out) : Out := s.gate fun s => if s.sealedCell p then .next s else f s

end Sys2Proof.Machine
end

