-- ==== Sys2Proof/Machine/AcCount.lean ====
section
/-! DEFINITION. The access counters (R337 to R341): how lines are counted and reported. -/
namespace Sys2Proof.Machine

/-- AC_CTRL fields. -/
def XltRegs.acEnabled (x : XltRegs) (g : Nat) : Bool := x.acCtrl.getLsbD g
def XltRegs.ringLog2 (x : XltRegs) : Nat := bfield x.acCtrl 3 5
def XltRegs.decayLog2 (x : XltRegs) : Nat := bfield x.acCtrl 32 6
def XltRegs.thresh (x : XltRegs) : Nat := bfield x.acCtrl 48 16

/-- A record for the access-counter ring (R340): written, or dropped and counted while the ring is full. -/
def State.acReport (s : State) (g : Nat) (e : AcEntry) : State :=
  let x := s.xlt
  let used := (x.acTail - x.acHead).toNat
  if used ≥ 2 ^ x.ringLog2 then { s with xlt := { x with acLost := .ofNat 32 (satInc 32 x.acLost.toNat) } }
  else
    let bs := natBytes 8 (e.region * 2 ^ 21) ++ natBytes 1 g ++ natBytes 1 e.part ++ natBytes 2 e.count ++ natBytes 4 s.tick
    let s := s.writePhys (2 ^ 51 + (x.acRingBase.toNat + x.acTail.toNat % 2 ^ x.ringLog2 * 16) % 2 ^ 64) bs
    let s := { s with xlt := { s.xlt with acTail := x.acTail + 1 } }
    if used = 0 then s.msix 3 else s

/-- The entry of a set that a region with no entry takes: a free way, else the lowest count, the lowest way among equals (R338). -/
def acVictim (l : List AcEntry) : Nat :=
  match (span 0 16).find? fun w => !l.any fun e => e.way == w with
  | some w => w
  | none => match (span 0 16).filterMap fun w => l.find? fun e => e.way == w with
    | [] => 0
    | e :: r => (r.foldl (fun (a b : AcEntry) => if b.count < a.count then b else a) e).way

/-- Lines of a region that a partition reads or writes are counted by a group (R337 to R341). The set is bits 28:21 of the address
XOR its bits 36:29 (R338). -/
def State.acTouch (s : State) (g part a lines : Nat) : State :=
  let x := s.xlt
  if !x.acEnabled g || decide (part ≥ 32) || s.stable.strict.contains part then s
  else
    let region := a / 2 ^ 21
    let k := g * 256 + (field region 0 8 ^^^ field region 8 8)
    let l := tget [] x.ac k
    let e : AcEntry := match l.find? fun e => e.region == region with
      | some e => e
      | none => { region, part, count := 0, way := acVictim l, reported := false }
    let e := { e with count := satAdd 16 e.count lines }
    let due := decide (x.thresh ≠ 0) && decide (e.count ≥ x.thresh) && !e.reported
    let e := { e with reported := e.reported || due }
    let s := { s with xlt := { x with ac := tset [] x.ac k (l.filter (fun y => y.way != e.way) ++ [e]) } }
    if due then s.acReport g e else s

end Sys2Proof.Machine
end

