-- ==== Sys2Proof/Machine/MuleNum.lean ====
section
/-! DEFINITION. Mule commands: fields, checks, and what each operation computes (05_mule_engines.md). Everything here is a
function of a ring entry and memory; the commands of the block that use it are in Mule.lean. -/
namespace Sys2Proof.Machine

/-- Fields of a ring entry (R177). -/
def muOp (c : Line) : Nat := bfield c 0 8
def muNotify (c : Line) : Bool := c.getLsbD 15
def muFlags (c : Line) : Nat := bfield c 8 7
def muTag (c : Line) : Nat := bfield c 16 16
def muFmt (c : Line) : Nat := bfield c 32 4
def muFmt2 (c : Line) : Nat := bfield c 36 4
def muMode (c : Line) : Nat := bfield c 40 8
def muOut (c : Line) : Nat := bfield c 48 6
def muA (c : Line) (k : Nat) : Nat := bfield c (64 + 64 * k) 64
def muN (c : Line) (k : Nat) : Nat := bfield c (320 + 32 * k) 32
def muX (c : Line) : Nat := bfield c 448 64

/-- Fault kinds. -/
def mIllegal : Nat := 1
def mRsvd : Nat := 2
def mBadFmt : Nat := 3
def mShape : Nat := 4
def mStack : Nat := 5
def mPartition : Nat := 6
def mNotMule : Nat := 7
def mIndex : Nat := 8
def mPage : Nat := 9
def mEcc : Nat := 0xA
def mIntegrity : Nat := 0xB
def mProgram : Nat := 0xC
def mAborted : Nat := 0xD

/-- Opcodes that a light Mule lacks (R177). -/
def muLacks (light : Bool) (op : Nat) : Bool := light && (op == 2 || op == 4 || op == 7)

/-- Size of an element (R178). -/
def muSize (f : Nat) : Nat := if f = 8 ∨ f = 9 then 2 else if f = 0 ∨ f = 1 then 1 else 4

/-- Fields that the opcode does not use, or that must be zero (R177, R179). A MODE outside its opcode's table counts as a reserved field set:
kind RSVD_SET (DESIGN CHOICE, log 116). -/
def muUnused (c : Line) : List Nat :=
  let hi (k : Nat) := muA c k / 2 ^ 52
  let dst := if muOut c = 0 then hi 2 else muA c 2
  [bfield c 54 2, bfield c 56 8] ++
  match muOp c with
  | 1 => [muFlags c, muFmt c, muFmt2 c, muMode c, hi 0, hi 1, dst, muA c 3, muX c]
  | 2 => [muFlags c, muFmt2 c, muMode c, muOut c, hi 0, hi 1, hi 2, muA c 3, muX c]
  | 3 => [muFlags c, muMode c / 3, hi 0, muA c 1, dst, muA c 3, muX c / 2 ^ 52]
  | 4 => [muFlags c / 2, muMode c / 3, hi 0, hi 1, dst, hi 3, if muFlags c % 2 = 1 then muX c / 2 ^ 52 else muX c]
  | 5 => [muFlags c, muFmt c, muFmt2 c, muMode c, hi 0, muA c 1, dst, muN c 0, muN c 1, muN c 2, muN c 3, muX c]
  | 6 => [muFlags c, muFmt c, muFmt2 c, muMode c, muOut c, muA c 0, muA c 1, hi 2, muN c 0, muN c 1, muN c 2, muN c 3]
  | 7 => [muFlags c, muMode c / 3, hi 0, hi 1, dst, muA c 3, muN c 2, muN c 3]
  | _ => [muFlags c, bfield c 32 480]

/-- Format codes out of their places (R178). -/
def muBadFmt (c : Line) : Bool :=
  let f := muFmt c
  let g := muFmt2 c
  let el (x : Nat) := x == 8 || x == 9 || x == 0xC
  match muOp c with
  | 2 => !(el f || f == 0xD)
  | 3 => !(el f || f == 0xD) || !(el g || (g == 0xD && f == 0xD))
  | 4 => !el f || !el g
  | 7 => !(f == 0 || f == 1 || f == 8 || f == 9) || !(g == 8 || g == 9)
  | _ => false

/-- Counts out of range, misaligned addresses, byte counts that are not whole elements (R179). -/
def muBadShape (c : Line) : Bool :=
  let n := muN c
  let rng (v lo hi : Nat) : Bool := decide (v < lo) || decide (v > hi)
  let mis (a k : Nat) : Bool := a % k != 0
  let s := muSize (muFmt c)
  let s2 := muSize (muFmt2 c)
  match muOp c with
  | 1 => rng (n 0) 1 16777216 || rng (n 1) 4 65536 || mis (n 1) 4 || decide (n 2 < n 1) || decide (n 3 < 1) || mis (muA c 1) 4
  | 2 => rng (n 0) 1 16777216 || rng (n 1) 4 65536 || mis (n 1) 4 || mis (n 1) s || decide (n 2 < n 1) || decide (n 3 < 1)
         || mis (muA c 0) s || mis (muA c 1) 4 || mis (muA c 2) s || mis (n 2) s
  | 3 => rng (n 0) 1 16777216 || rng (n 1) 1 65536 || rng (n 2) 1 16384 || mis (muA c 0) s || mis (n 3) s || mis (muX c) s
         || mis (muA c 2) s2
  | 4 => rng (n 0) 1 16777216 || rng (n 1) 1 16384 || decide (n 3 < 1) || mis (muA c 0) s || mis (n 2) s || mis (muA c 1) 4
         || mis (muA c 3) 4 || mis (muA c 2) s2 || mis (muX c) 4
  | 5 => rng (muA c 3) 1 (2 ^ 40 - 1)
  | 6 => rng (muA c 3) 1 (2 ^ 40 - 1)
  | 7 => rng (n 0) 1 65536 || rng (n 1) 1 32 || mis (muA c 0) 64 || mis (muA c 1) 8 || mis (muA c 2) 32
  | _ => false

/-- The checks that precede any access, in the order of the fault kinds. -/
def muCheck (light : Bool) (c : Line) : Option Nat :=
  if muOp c > 8 || muLacks light (muOp c) then some mIllegal
  else if (muUnused c).any (· != 0) then some mRsvd
  else if muBadFmt c then some mBadFmt
  else if muBadShape c then some mShape
  else none

/-- What a command runs against: the addresses that the engine reaches (R160), the fault kind of a line that it may not access (R160,
R161) and of one whose data does not come (R162, R451), and whether the results go to a stream. -/
structure MuCtx where
  reach : Nat → Bool
  bad : Nat → Option Nat
  lost : Nat → Option Nat
  mates : Nat → Option Nat
  stream : Bool

/-- A command in progress: memory, result bytes for its stream, what the commands before it sent on which stream (a RUN's built
commands, R192), the fault that has stopped it (R196), the line whose data it could not get, and the byte ranges read and written, latest
first. -/
structure MuRun where
  mem : SMap Byte
  out : List Byte := []
  sent : List (Nat × List Byte) := []
  fault : Option Nat := none
  lostLine : Option Nat := none
  reads : List (Nat × Nat) := []
  writes : List (Nat × Nat) := []

/-- The lines of n bytes at a. -/
def lineSpan (a n : Nat) : List Nat := if n = 0 then [] else span (a / 64) ((a + n - 1) / 64 - a / 64 + 1)

def MuRun.stop (r : MuRun) (k : Nat) : MuRun := match r.fault with
  | some _ => r
  | none => { r with fault := some k }

/-- Why a line cannot be read: checks first, then its data (R161, R162). -/
def MuCtx.unreadable (c : MuCtx) (l : Nat) : Option Nat := c.bad l <|> c.lost l

/-- The line, where its data is lost. -/
def MuCtx.lostAt (c : MuCtx) (l : Nat) : Option Nat := if (c.bad l).isNone && (c.lost l).isSome then some l else none

/-- Read n bytes at a, line by line; a faulted run reads nothing. -/
def MuRun.read (c : MuCtx) (r : MuRun) (a n : Nat) : MuRun × List Byte :=
  match r.fault with
  | some _ => (r, [])
  | none => match (lineSpan a n).find? fun l => (c.unreadable l).isSome with
    | some l => ({ r with fault := c.unreadable l, lostLine := c.lostAt l }, [])
    | none => ({ r with reads := (a, n) :: r.reads }, readBytes r.mem a n)

/-- Why bytes of a line cannot be written: a line written in part is read and merged (R451), and of an LPDDR5X line written whole the rest
of its unit is read for the tag (R162, R504). -/
def MuCtx.unwritable (c : MuCtx) (a n l : Nat) : Option Nat :=
  c.bad l <|> (if 64 * l < a ∨ a + n < 64 * l + 64 then c.lost l else c.mates l)

/-- Write bytes at a, line by line: what lies in the lines before one that faults stays written (R196). -/
def MuRun.write (c : MuCtx) (r : MuRun) (a : Nat) (bs : List Byte) : MuRun :=
  match r.fault with
  | some _ => r
  | none =>
    let put (r : MuRun) (bs : List Byte) : MuRun :=
      if bs.isEmpty then r else { r with mem := writeBytes r.mem a bs, writes := (a, bs.length) :: r.writes }
    match (lineSpan a bs.length).find? fun l => (c.unwritable a bs.length l).isSome with
    | none => put r bs
    | some l => { put r (bs.take (64 * l - a)) with fault := c.unwritable a bs.length l, lostLine := c.lostAt l }

/-- Results: to memory at a, or to the output stream (R188). -/
def MuRun.emit (c : MuCtx) (r : MuRun) (a : Nat) (bs : List Byte) : MuRun :=
  if c.stream then (match r.fault with | some _ => r | none => { r with out := r.out ++ bs }) else r.write c a bs

/-- Repeat a step for i = lo to lo + n - 1, until a fault. -/
def MuRun.each (f : MuRun → Nat → MuRun) : Nat → Nat → MuRun → MuRun
  | 0, _, r => r
  | n + 1, lo, r => match r.fault with
    | some _ => r
    | none => MuRun.each f n (lo + 1) (f r lo)

/-- An element of a Mule command: a number, or an integer for INT32 (R180). -/
def muNum (f v : Nat) : Num :=
  match f with
  | 0 => .decode fmtE4M3 v
  | 1 => .decode fmtE5M2 v
  | 8 => .decode fmtBF16 v
  | 9 => .decode fmtFP16 v
  | 0xD => if v ≥ 2 ^ 31 then .fin true (2 ^ 32 - v) 0 else .fin false v 0
  | _ => .decode fmtFP32 v

/-- A number rounded into a format (R71 rows for FP32, BF16 and FP16; INT32 wraps). -/
def muEnc (f : Nat) (x : Num) : Nat :=
  match f with
  | 8 => x.encode fmtBF16 .rne
  | 9 => x.encode fmtFP16 .rne
  | 0xD => match x with
    | .fin n m e => ((Num.floor n m e) % 2 ^ 32).toNat
    | _ => 0
  | _ => x.encode fmtFP32 .rne

/-- Elements of a row of bytes. -/
def muElems (f : Nat) (bs : List Byte) : List Num :=
  let s := muSize f
  (span 0 (bs.length / s)).map fun i => muNum f (leNat ((bs.drop (s * i)).take s))

def muPack (f : Nat) (l : List Num) : List Byte := l.flatMap fun x => natBytes (muSize f) (muEnc f x)

/-- Greater of two numbers under R180: NaN if either is NaN, −0 below +0. -/
def muMax (a b : Num) : Num :=
  match a, b with
  | .nan, _ => .nan
  | _, .nan => .nan
  | .fin true 0 _, .fin false 0 _ => b
  | a, b => if a.lt b then b else a

def muMin (a b : Num) : Num :=
  match a, b with
  | .nan, _ => .nan
  | _, .nan => .nan
  | .fin false 0 _, .fin true 0 _ => b
  | a, b => if b.lt a then b else a

/-- rne32 as a number. -/
def r32 (x : Num) : Num := dec32 (rne32 x)

/-- Addition of two elements as SUM adds them: rounded to FP32, or wrapping for INT32. -/
def muAdd (f : Nat) (a b : Num) : Num := if f = 0xD then muNum 0xD (muEnc 0xD (a.add b)) else r32 (a.add b)

/-- GATHER (R181). -/
def muGather (x : MuCtx) (c : Line) (r : MuRun) : MuRun :=
  MuRun.each (fun r i =>
    let (r, b) := r.read x (muA c 1 + 4 * i) 4
    let idx := leNat b
    if r.fault.isNone && decide (idx ≥ muN c 3) then r.stop mIndex
    else
      let (r, row) := r.read x (muA c 0 + idx * muN c 2) (muN c 1)
      r.emit x (muA c 2 + i * muN c 1) row) (muN c 0) 0 r

/-- SCATTER_ADD (R181). -/
def muScatter (x : MuCtx) (c : Line) (r : MuRun) : MuRun :=
  let f := muFmt c
  MuRun.each (fun r i =>
    let (r, b) := r.read x (muA c 1 + 4 * i) 4
    let idx := leNat b
    if r.fault.isNone && decide (idx ≥ muN c 3) then r.stop mIndex
    else
      let t := muA c 0 + idx * muN c 2
      let (r, src) := r.read x (muA c 2 + i * muN c 1) (muN c 1)
      let (r, old) := r.read x t (muN c 1)
      r.write x t (muPack f (List.zipWith Num.add (muElems f old) (muElems f src)))) (muN c 0) 0 r

/-- REDUCE (R181). -/
def muReduce (x : MuCtx) (c : Line) (r : MuRun) : MuRun :=
  let f := muFmt c
  let len := muN c 2
  let op := if muMode c = 0 then muAdd f else if muMode c = 1 then muMax else muMin
  let row (g k : Nat) := muA c 0 + g * muX c + k * muN c 3
  MuRun.each (fun r g =>
    let (r, first) := r.read x (row g 0) (len * muSize f)
    let acc := (span 1 (muN c 1 - 1)).foldl (fun (p : MuRun × List Num) k =>
      let (r, b) := p.1.read x (row g k) (len * muSize f)
      (r, List.zipWith op p.2 (muElems f b))) (r, muElems f first)
    acc.1.emit x (muA c 2 + g * len * muSize (muFmt2 c)) (muPack (muFmt2 c) acc.2)) (muN c 0) 0 r

/-- One bag of EMBED_BAG over index positions lo to lo + n - 1 (R181). -/
def muBag (x : MuCtx) (c : Line) (lo n : Nat) (r : MuRun) : MuRun × List Num :=
  let f := muFmt c
  let len := muN c 1
  let weighted := muFlags c % 2 = 1
  let start : MuRun × Option (List Num) := (r, none)
  let (r, acc) := (span lo n).foldl (fun (p : MuRun × Option (List Num)) j =>
    let (r, ib) := p.1.read x (muA c 1 + 4 * j) 4
    let idx := leNat ib
    let r := if r.fault.isNone && decide (idx ≥ muN c 3) then r.stop mIndex else r
    let (r, wb) := if weighted then r.read x (muX c + 4 * j) 4 else (r, natBytes 4 0x3F800000)
    let (r, row) := r.read x (muA c 0 + idx * muN c 2) (len * muSize f)
    let w := muNum 0xC (leNat wb)
    let prods := (muElems f row).map w.mul
    (r, some (match p.2 with
      | none => if muMode c = 2 then prods else prods.map fun q => r32 ((Num.fin false 0 0).add q)
      | some a => if muMode c = 2 then List.zipWith muMax a prods
                  else List.zipWith (fun u q => r32 (u.add q)) a prods))) start
  let zero := (span 0 len).map fun _ => Num.fin false 0 0
  (r, match acc with
    | none => zero
    | some a => if muMode c = 1 then a.map fun u => r32 (u.div 24 (.fin false n 0)) else a)

/-- EMBED_BAG (R181, R182): limit is the number of index entries that lie in the engine's memory. -/
def muEmbed (x : MuCtx) (limit : Nat) (c : Line) (r : MuRun) : MuRun :=
  MuRun.each (fun r b =>
    let (r, ob) := r.read x (muA c 3 + 4 * b) 8
    let lo := leNat (ob.take 4)
    let hi := leNat (ob.drop 4)
    if r.fault.isNone && (decide (hi < lo) || decide (hi > limit)) then r.stop mIndex
    else
      let (r, row) := muBag x c lo (hi - lo) r
      r.emit x (muA c 2 + b * muN c 1 * muSize (muFmt2 c)) (muPack (muFmt2 c) row)) (muN c 0) 0 r

/-- COPY (R181): the whole source is read before any byte is written. -/
def muCopy (x : MuCtx) (c : Line) (r : MuRun) : MuRun :=
  let (r, b) := r.read x (muA c 0) (muA c 3)
  r.emit x (muA c 2) b

/-- FILL (R181). -/
def muFill (x : MuCtx) (c : Line) (r : MuRun) : MuRun :=
  r.write x (muA c 2) ((span (muA c 2) (muA c 3)).map fun a => BitVec.ofNat 8 (field (muX c) (8 * (a % 8)) 8))

/-! ATTEND (R183 to R186). -/

def pieces32 {α : Type} : Nat → List α → List (List α)
  | 0, _ => []
  | n + 1, l => if l.isEmpty then [] else l.take 32 :: pieces32 n (l.drop 32)

/-- Group sums of 32, each added with rne32 in ascending order from +0. -/
def sum32 (l : List Num) : Num := (pieces32 l.length l).foldl (fun a g => r32 (a.add (Num.sum g))) (.fin false 0 0)

def dot32 (a b : List Num) : Num := sum32 (List.zipWith Num.mul a b)

/-- e^(−r / 2^256) × 2^256 for 0 ≤ r < 2^256, by its series: terms of 64 places. -/
def expSeries (r : Nat) : Nat :=
  ((span 1 63).foldl (fun (p : Int × Int) k => let t := -(p.2 * r) / (2 ^ 256 * k : Nat); (p.1 + t, t)) ((2 ^ 256 : Nat), (2 ^ 256 : Nat))).1.toNat

/-- e^(−x / 2^256) × 2^256: the argument is divided by 256, and the value squared eight times. -/
def expNeg (x : Nat) : Nat :=
  if x ≥ 2 ^ 264 then 0 else (span 0 8).foldl (fun v _ => v * v / 2 ^ 256) (expSeries (x / 256))

/-- An FP32 word of a positive number v × 2^−256 that is nearest to it, and one unit in the last place there, by the same measure. -/
def expNearest (v : Nat) : BitVec 32 := rne32 (.fin false v (-256))
def expUlp (w : BitVec 32) : Nat := 2 ^ (256 - 149 + (max 1 (bfield w 23 8) - 1))

/-- The word lies within 2 units in the last place of v × 2^−256 (R185). -/
def expWithin (w : BitVec 32) (v : Nat) : Bool :=
  !w.getLsbD 31 && decide (bfield w 23 8 < 255) && match dec32 w with
  | .fin false m e =>
    let x := if e ≥ -256 then m * 2 ^ (e + 256).toNat else m / 2 ^ (-(e + 256)).toNat
    decide (x ≤ v + 2 * expUlp w) && decide (v ≤ x + 2 * expUlp w)
  | _ => false

/-- exp32 of a negative number x = −m × 2^e: the device's value, which R185 leaves within 2 units in the last place of e^x; a free
value outside that bound stands for the nearest one. -/
def expBounded (m : Nat) (e : Int) (free : BitVec 32) : BitVec 32 :=
  let x := if e ≥ -256 then m * 2 ^ (min 600 (e + 256)).toNat else m / 2 ^ (-(e + 256)).toNat
  let v := expNeg x
  if expWithin free v then free else expNearest v

/-- exp32(a - b) (R185): exact at 0 and at −∞, and within 2 units in the last place elsewhere. ATTEND takes it of arguments that are not
positive only. -/
def expDiff (a b : Num) : Num :=
  match a, b with
  | .nan, _ => .nan
  | _, .nan => .nan
  | .inf true, .inf false => .fin false 0 0
  | .inf true, .fin _ _ _ => .fin false 0 0
  | .inf true, .inf true => .nan
  | .inf false, .inf false => .nan
  | .inf false, _ => .inf false
  | .fin _ _ _, .inf false => .fin false 0 0
  | .fin _ _ _, .inf true => .inf false
  | a, b => match a.add b.flip with
    | .fin neg m e =>
      let free := Config.exp32 (rne32 a) (rne32 b)
      if m = 0 then .fin false 1 0 else dec32 (if neg then expBounded m e free else free)
    | _ => .nan

/-- Running maximum, denominator and output of one head. -/
structure HeadAcc where
  m : Num := .inf true
  l : Num := .fin false 0 0
  o : List Num

/-- One page for one head (R185): keys and values of its n tokens. -/
def attendPage (scale : Num) (q : List Num) (ks vs : List (List Num)) (h : HeadAcc) : HeadAcc :=
  let s := ks.map fun k => r32 (scale.mul (dot32 q k))
  let mn := s.foldl muMax h.m
  if mn = .inf true then h
  else
    let c := expDiff h.m mn
    let p := s.map fun x => expDiff x mn
    { m := mn
      l := r32 ((h.l.mul c).add (sum32 p))
      o := (span 0 h.o.length).map fun d =>
        r32 (((nth .nan h.o d).mul c).add (sum32 (List.zipWith Num.mul p (vs.map fun v => nth .nan v d)))) }

def muHeadDim (c : Line) : Nat := 64 * 2 ^ (muMode c % 4)

/-- ATTEND: reads the queries and pages, and emits one record per head. -/
def muAttend (x : MuCtx) (c : Line) (r : MuRun) : MuRun :=
  let d := muHeadDim c
  let f := muFmt c
  let es := muSize f
  let t := 32768 / (d * es)
  let gq := muN c 1
  let (r, qb) := r.read x (muA c 0) (gq * d * 2)
  let q (h : Nat) := muElems (muFmt2 c) ((qb.drop (h * d * 2)).take (d * 2))
  let init : List HeadAcc := (span 0 gq).map fun _ => { o := (span 0 d).map fun _ => .fin false 0 0 }
  let scale := muNum 0xC (muX c % 2 ^ 32)
  let (r, hs) := (span 0 (muN c 0)).foldl (fun (p : MuRun × List HeadAcc) i =>
    let (r, eb) := p.1.read x (muA c 1 + 8 * i) 8
    let e := leNat eb
    let n := field e 0 10
    let r := if r.fault.isNone && (n == 0 || decide (n > t) || field e 10 6 != 0 || field e 52 12 != 0) then r.stop mPage else r
    let page := field e 16 36 * 65536
    let (r, kb) := r.read x page (n * d * es)
    let (r, vb) := r.read x (page + 32768) (n * d * es)
    let rows (b : List Byte) := (span 0 n).map fun k => muElems f ((b.drop (k * d * es)).take (d * es))
    match r.fault with
    | some _ => (r, p.2)
    | none => (r, (span 0 gq).map fun h => attendPage scale (q h) (rows kb) (rows vb) (nth { o := [] } p.2 h))) (r, init)
  let vscale := muNum 0xC (muX c / 2 ^ 32)
  let rec32 (h : HeadAcc) : List Byte :=
    natBytes 4 (muEnc 0xC h.m) ++ natBytes 4 (muEnc 0xC h.l) ++ natBytes 24 0
      ++ h.o.flatMap fun o => natBytes 4 (muEnc 0xC (r32 (o.mul vscale)))
  MuRun.each (fun r h => r.emit x (muA c 2 + h * (32 + 4 * d)) (rec32 (nth { o := [] } hs h))) gq 0 r

/-- The memory addresses that a command names (R160, R179). -/
def muNamed (c : Line) : List Nat :=
  let dst := if muOut c = 0 then [muA c 2] else []
  match muOp c with
  | 1 => [muA c 0, muA c 1] ++ dst
  | 2 => [muA c 0, muA c 1, muA c 2]
  | 3 => [muA c 0] ++ dst
  | 4 => [muA c 0, muA c 1] ++ dst ++ [muA c 3] ++ (if muFlags c % 2 = 1 then [muX c] else [])
  | 5 => [muA c 0] ++ dst
  | 6 => [muA c 2]
  | 7 => [muA c 0, muA c 1] ++ dst
  | _ => []

/-- A command after its checks: an address that it names outside the engine's memory stops it (R160), else the operation of its opcode
runs. limit bounds the index entries of EMBED_BAG. -/
def muExec (x : MuCtx) (limit : Nat) (c : Line) (r : MuRun) : MuRun :=
  if (muNamed c).any fun a => !x.reach a then r.stop mStack
  else match muOp c with
  | 1 => muGather x c r
  | 2 => muScatter x c r
  | 3 => muReduce x c r
  | 4 => muEmbed x limit c r
  | 5 => muCopy x c r
  | 6 => muFill x c r
  | 7 => muAttend x c r
  | _ => r

/-- A command's results go to its stream (R188); of one that faulted, the flits that were whole (R196). -/
def MuRun.finish (c : Line) (r : MuRun) : MuRun :=
  if muOut c = 0 then r
  else
    let out := if r.fault.isSome then r.out.take (r.out.length / 32 * 32) else r.out
    { r with sent := r.sent ++ (if out.isEmpty then [] else [(muOut c, out)]), out := [] }

/-! Sequencer programs (R190 to R193). -/

def runIterations (c : Line) : Nat := bfield c 32 32
def runProgram (c : Line) : Nat := bfield c 64 64
def runParam (c : Line) (k : Nat) : Nat := bfield c (128 + 64 * k) 64

/-- Patch k of a program header: template, offset, width in bytes, parameter, stride. -/
structure Patch where
  template : Nat
  offset : Nat
  width : Nat
  param : Nat
  stride : Int
  bad : Bool
  deriving DecidableEq, Repr

def patchAt (hdr : List Byte) (k : Nat) : Patch :=
  let v := leNat ((hdr.drop (8 + 8 * k)).take 8)
  let w := field v 16 2
  let off := field v 8 8
  let s := field v 32 32
  { template := field v 0 6, offset := off, width := 2 ^ (w + 1), param := field v 20 3
    stride := if s ≥ 2 ^ 31 then (s : Int) - 2 ^ 32 else s
    bad := field v 6 2 != 0 || field v 14 2 != 0 || w == 3 || field v 18 2 != 0 || field v 23 1 != 0 || field v 24 8 != 0
           || decide (field v 20 3 > 5) || decide (off < 4) || off % 2 ^ (w + 1) != 0 || decide (off + 2 ^ (w + 1) > 64) }

/-- A patch applied to a template's bytes at iteration i (R192). -/
def applyPatch (c : Line) (i : Nat) (t : List Byte) (p : Patch) : List Byte :=
  let old : Int := leNat ((t.drop p.offset).take p.width)
  let v := (old + runParam c p.param + i * p.stride) % (2 ^ (8 * p.width) : Nat)
  t.take p.offset ++ natBytes p.width v.toNat ++ t.drop (p.offset + p.width)

/-- The command of template k in iteration i. -/
def buildCmd (c : Line) (hdr : List Byte) (patches : Nat) (k i : Nat) (t : List Byte) : Line :=
  ofBytes 512 (((span 0 patches).map (patchAt hdr)).foldl
    (fun t p => if p.template = k then applyPatch c i t p else t) t)

/-- A header that breaks R191, or a bad patch or template (R193). -/
def badHeader (hdr : List Byte) : Bool :=
  let n := (nth 0 hdr 4).toNat
  let p := (nth 0 hdr 5).toNat
  leNat (hdr.take 4) != 1 || n == 0 || decide (n > 63) || decide (p > 7) || leNat ((hdr.drop 6).take 2) != 0
    || ((span 0 p).map (patchAt hdr)).any fun q => q.bad || decide (q.template ≥ n)

/-- What a run comes to: memory and output, the command that ran last or has faulted, and for a RUN with steps left its header and the next
of them. -/
structure RunResult where
  run : MuRun
  cmd : Line
  next : Option (List Byte × Nat) := none

/-- Built commands of a RUN from step j on (R192): each is built, checked and executed as a ring entry, and the next one waits until the flits
of the one before it have been injected (R173). A template whose opcode is RUN faults when its turn comes (R193; DESIGN CHOICE, log 113). -/
def muRunSteps (x : Line → MuCtx) (light : Bool) (limit : Line → Nat) (c : Line) (hdr : List Byte) : Nat → Nat → MuRun → Line → RunResult
  | 0, _, r, b => ⟨r, b, none⟩
  | left + 1, j, r, b =>
    if !r.sent.isEmpty then ⟨r, b, some (hdr, j)⟩
    else
      let n := (nth 0 hdr 4).toNat
      let (r, t) := r.read (x c) (runProgram c + 64 + 64 * (j % n)) 64
      match r.fault with
      | some _ => ⟨r, c, none⟩
      | none =>
        let b := buildCmd c hdr (nth 0 hdr 5).toNat (j % n) (j / n) t
        if muOp b = 8 then ⟨r.stop mProgram, c, none⟩
        else match muCheck light b with
          | some k => ⟨r.stop k, b, none⟩
          | none =>
            let r := (muExec (x b) (limit b) b r).finish b
            match r.fault with
            | some _ => ⟨r, b, none⟩
            | none => muRunSteps x light limit c hdr left (j + 1) r b

/-- The steps of a RUN from step j on. -/
def muRunFrom (x : Line → MuCtx) (light : Bool) (limit : Line → Nat) (c : Line) (hdr : List Byte) (j : Nat) (r : MuRun) : RunResult :=
  muRunSteps x light limit c hdr (runIterations c * (nth 0 hdr 4).toNat - j) j r c

/-- A RUN entry: its fields, its program header, and then its steps (R190 to R193). -/
def muRunProgram (x : Line → MuCtx) (light : Bool) (limit : Line → Nat) (c : Line) (r : MuRun) : RunResult :=
  let x0 := x c
  if muFlags c != 0 || runProgram c / 2 ^ 52 != 0 then ⟨r.stop mRsvd, c, none⟩
  else if runIterations c = 0 ∨ runIterations c > 65536 ∨ runProgram c % 64 ≠ 0 then ⟨r.stop mShape, c, none⟩
  else
    let (r, hdr) := r.read x0 (runProgram c) 64
    match r.fault with
    | some _ => ⟨r, c, none⟩
    | none => if badHeader hdr then ⟨r.stop mProgram, c, none⟩ else muRunFrom x light limit c hdr 0 r

/-! Far atomics (R194, R302). -/

def amoOp (b : BitVec 192) : Nat := bfield b 0 8
def amoRet (b : BitVec 192) : Bool := b.getLsbD 15
def amoSize (b : BitVec 192) : Nat := bfield b 8 2
def amoBytes (b : BitVec 192) : Nat := 2 ^ amoSize b
def amoOffset (b : BitVec 192) : Nat := bfield b 16 6
def amoOperand (b : BitVec 192) : Nat := bfield b 64 (8 * amoBytes b)
def amoCompare (b : BitVec 192) : Nat := bfield b 128 (8 * amoBytes b)

/-- A reserved OP, a size not allowed for it, a misaligned OFFSET or a non-zero reserved field (R302). -/
def amoBad (b : BitVec 192) : Bool :=
  let op := amoOp b
  let sz := amoSize b
  let okSize := if op ≤ 0xA then sz == 2 || sz == 3 else if op == 0x11 || op == 0x12 then sz == 1 else sz == 2
  !(decide (op ≤ 0xA) || (decide (0x10 ≤ op) && decide (op ≤ 0x14))) || !okSize
    || amoOffset b % amoBytes b != 0 || bfield b 10 5 != 0 || bfield b 22 42 != 0 || (op != 0xA && bfield b 128 64 != 0)

/-- The new value of a far or near atomic operation on n bytes (R302). -/
def amoNew (op n v operand cmp : Nat) : Nat :=
  let w := 8 * n
  let sg (u : Nat) : Int := if u ≥ 2 ^ (w - 1) then (u : Int) - 2 ^ w else u
  match op with
  | 2 => (v + operand) % 2 ^ w
  | 3 => v &&& operand
  | 4 => v ||| operand
  | 5 => v ^^^ operand
  | 6 => if sg v < sg operand then operand else v
  | 7 => if sg operand < sg v then operand else v
  | 8 => max v operand
  | 9 => min v operand
  | 0xA => if v = cmp then operand else v
  | 0x10 => ((Num.decode fmtFP32 v).add (.decode fmtFP32 operand)).encode fmtFP32 .rne
  | 0x11 => ((Num.decode fmtBF16 v).add (.decode fmtBF16 operand)).encode fmtBF16 .rne
  | 0x12 => ((Num.decode fmtFP16 v).add (.decode fmtFP16 operand)).encode fmtFP16 .rne
  | 0x13 => (muMax (.decode fmtFP32 v) (.decode fmtFP32 operand)).encode fmtFP32 .rne
  | 0x14 => (muMin (.decode fmtFP32 v) (.decode fmtFP32 operand)).encode fmtFP32 .rne
  | _ => operand

/-- A far atomic on a line: the old value and the new line. -/
def amoApply (b : BitVec 192) (line : Line) : Nat × Line :=
  let lo := 8 * amoOffset b
  let w := 8 * amoBytes b
  let v := bfield line lo w
  let new := amoNew (amoOp b) (amoBytes b) v (amoOperand b) (amoCompare b)
  (v, BitVec.ofNat 512 (line.toNat - v * 2 ^ lo + new * 2 ^ lo))

end Sys2Proof.Machine
end

