-- ==== Sys2Proof/Machine/Scratch.lean ====
section
/-! DEFINITION. The error log (R457, R458) and the scratchpad: reads, writes, ownership, SEC-DED words (R450 to R454). -/
namespace Sys2Proof.Machine

/-! The error log. -/

def errCe : Nat := 1
def errUe : Nat := 2
def errScrubCe : Nat := 3
def errScrubUe : Nat := 4
def errIntegrity : Nat := 5
def errCeiling : Nat := 6
def errMargin : Nat := 7
def errRetirePage : Nat := 8
def errRetireBank : Nat := 9
def errCellFailed : Nat := 0xA
def errSpareUsed : Nat := 0xB
def errSparesOut : Nat := 0xC
def errWarmReset : Nat := 0xD

/-- The bytes of an error log entry (R457). -/
def errEntry (tick kind struct_ unit count addr part pos value : Nat) : List Byte :=
  natBytes 8 tick ++ natBytes 1 kind ++ natBytes 1 struct_ ++ natBytes 2 unit ++ natBytes 4 count ++ natBytes 8 addr
    ++ natBytes 1 part ++ natBytes 1 pos ++ natBytes 2 value ++ natBytes 4 0

/-- An entry written to the ring, or dropped and counted while the ring is full (R457). -/
def State.putErr (s : State) (bs : List Byte) : State :=
  let e := s.errs
  if e.errTail - e.errHead = 65536 then
    { s with errs := { e with errLostCount := .ofNat 32 (satInc 32 e.errLostCount.toNat), errLost := true } }
  else
    let a := e.errBase.toNat + e.errTail.toNat % 65536 * 32
    let s := if s.lineBad (a / 64) then s else s.writeMem a bs
    { s with errs := { s.errs with errTail := e.errTail + 1 } }

/-- A count of the error summary of a partition goes up (R524): place 0 corrected, 1 uncorrectable, 2 INTEGRITY, 3 faults, 4 drops,
5 guarantee misses. -/
def State.summaryUp (s : State) (q place : Nat) : State :=
  if q ≥ 32 then s
  else
    let k := q * 8 + place
    let st := s.stable
    { s with stable := { st with
        errCount := tset 0 st.errCount k (.ofNat 32 (satInc 32 (tget 0 st.errCount k).toNat))
        errChanged := if st.errChanged.contains q then st.errChanged else st.errChanged ++ [q] } }

/-- The count of a memory line's error in the summary of its partition (R524). -/
def State.summaryError (s : State) (kind struct_ part : Nat) : State :=
  if struct_ ≠ 6 then s
  else if kind = errCe ∨ kind = errScrubCe then s.summaryUp part 0
  else if kind = errUe ∨ kind = errScrubUe then s.summaryUp part 1
  else if kind = errIntegrity then s.summaryUp part 2
  else s

/-- Log an error (R457, R458): CE and SCRUB_CE together at most once per unit and STRUCT in 100,000 ticks, with their count. -/
def State.logErr (s : State) (kind struct_ unit addr part pos value : Nat) : State :=
  let s := s.summaryError kind struct_ part
  if kind = errCe ∨ kind = errScrubCe then
    let k := unit * 16 + struct_
    let n := tget 0 s.errs.ceCount k + 1
    let at_ := tget 0 s.errs.ceAt k
    if at_ = 0 ∨ s.tick ≥ at_ - 1 + 100000 then
      let s := s.putErr (errEntry s.tick kind struct_ unit n addr part pos value)
      { s with errs := { s.errs with ceCount := tset 0 s.errs.ceCount k 0, ceAt := tset 0 s.errs.ceAt k (s.tick + 1) } }
    else { s with errs := { s.errs with ceCount := tset 0 s.errs.ceCount k n } }
  else s.putErr (errEntry s.tick kind struct_ unit 1 addr part pos value)

/-! The scratchpad. -/

/-- Partition of a pcell's coach slot. -/
def State.partOfCell (s : State) (p : Nat) : Nat := s.partOf (s.cell p).slot.toNat

def spWord (p w : Nat) : Nat := p * 2 ^ 18 + w

/-- The 64-bit words of n bytes at offset a. -/
def wordsOf (a n : Nat) : List Nat := if n = 0 then [] else span (a / 8) ((a + n - 1) / 8 - a / 8 + 1)

/-- The first word of a range with an uncorrectable error. -/
def State.spUncorr (s : State) (p a n : Nat) : Option Nat :=
  (wordsOf a n).find? fun w => tget 0 s.errs.spBad (spWord p w) == 2

/-- A scratchpad word read: an error that is corrected is logged and counted and the word rewritten (R452, R457); an uncorrectable
one is logged and counted. -/
def State.spTouchWord (s : State) (p w : Nat) : State :=
  let m := tget 0 s.errs.spBad (spWord p w)
  if m = 1 then
    let s := s.logErr errCe 0 p (8 * w) (s.partOfCell p) (tget 0xFF s.errs.spPos (spWord p w)).toNat 0
    let c := s.cell p
    let s := s.setCell p { c with ceCount := .ofNat 16 (satInc 16 c.ceCount.toNat) }
    { s with errs := { s.errs with spBad := tset 0 s.errs.spBad (spWord p w) 0 } }
  else if m = 2 then
    let s := s.logErr errUe 0 p (8 * w) (s.partOfCell p) 0xFF 0
    let c := s.cell p
    s.setCell p { c with ueCount := .ofNat 16 (satInc 16 c.ueCount.toNat) }
  else s

/-- The words of a range read. -/
def State.spTouch (s : State) (p : Nat) (a n : Nat) : State := (wordsOf a n).foldl (fun s w => s.spTouchWord p w) s

/-- 128-byte lines that n bytes at an offset touch, and the counters of accesses (R591). -/
def linesTouched (a n : Nat) : Nat := if n = 0 then 0 else (a + n - 1) / 128 - a / 128 + 1
def State.countSpRead (s : State) (p a n : Nat) : State := s.countCell p 3 (128 * linesTouched a n)

def State.spRead (s : State) (p a n : Nat) : List Byte := readBytes (s.cell p).sp a n

/-- The words that a write covers in part: it reads and merges them (R450). -/
def mergedWords (a n : Nat) : List Nat := (wordsOf a n).filter fun w => decide (8 * w < a) || decide (a + n < 8 * w + 8)

/-- A write that merges into a word whose read is uncorrectable is not performed (R450): the word. -/
def State.spMergeBad (s : State) (p a n : Nat) : Option Nat :=
  (mergedWords a n).find? fun w => tget 0 s.errs.spBad (spWord p w) == 2

/-- The failing bit of a single flip: data bits 0 to 63, then check bits. -/
def flippedBit (data : Word) (check : BitVec 8) : BitVec 8 :=
  match (span 0 64).find? data.getLsbD with
  | some i => BitVec.ofNat 8 i
  | none => match (span 0 8).find? check.getLsbD with
    | some i => BitVec.ofNat 8 (64 + i)
    | none => 0xFF

/-- The armed flip meets a write of n bytes at a that reaches its bank (R454): the write's first word in the bank is stored with flipped bits. A
word that reads as corrected is held as it is delivered, another as it is stored. Where three or more bits are flipped, what the code
takes them for is free (log 50). -/
def State.spFlipWrite (s : State) (p a n : Nat) : State :=
  let ctl := tget 0 s.errs.spFlip p
  let bank := bfield ctl 1 4
  if ctl.getLsbD 0 && decide (a < 131072 * (bank + 1)) && decide (131072 * bank < a + n) then
    let data := tget 0 s.errs.spFlipData p
    let check : BitVec 8 := BitVec.ofNat 8 (bfield ctl 8 8)
    let flips := popcount 64 data.toNat + popcount 8 check.toNat
    let mark : BitVec 2 := if flips = 0 then 0 else if flips = 1 then 1 else if flips = 2 then 2
      else Config.codeOutcome data check
    let pos := if flips = 1 then flippedBit data check else Config.codeBit data check
    let w := max a (131072 * bank) / 8
    let c := s.cell p
    let flip : Word := if mark ≠ 1 then data else if flips = 1 then 0 else data ^^^ put pos.toNat 1
    let stored := ofBytes 64 (readBytes c.sp (8 * w) 8) ^^^ flip
    let s := s.setCell p { c with sp := writeBytes c.sp (8 * w) (bytesOf 8 stored) }
    { s with errs := { s.errs with
        spFlip := tset 0 s.errs.spFlip p (ctl &&& ~~~1#64)
        spBad := tset 0 s.errs.spBad (spWord p w) mark
        spPos := tset 0xFF s.errs.spPos (spWord p w) (if mark = 1 then pos else 0xFF) } }
  else s

/-- Bytes written to the scratchpad of a pcell: words that it merges into are read, words written are whole again, and an armed
flip acts. -/
def State.spWrite (s : State) (p a : Nat) (bs : List Byte) : State :=
  if bs.isEmpty then s else
  let s := (mergedWords a bs.length).foldl (fun s w => s.spTouchWord p w) s
  let c := s.cell p
  let s := s.setCell p { c with sp := writeBytes c.sp a bs }
  let s := { s with errs := { s.errs with
    spBad := (wordsOf a bs.length).foldl (fun m w => tset 0 m (spWord p w) 0) s.errs.spBad } }
  (s.spFlipWrite p a bs.length).countCell p 4 (128 * linesTouched a bs.length)

/-- Owner of a bank (R250), and whether a unit owns every bank of n bytes at a. -/
def Cell.bankOwner (c : Cell) (b : Nat) : BitVec 3 := tget 1 c.owner b
def banksOf (a n : Nat) : List Nat := if n = 0 then [] else span (a / 131072) ((a + n - 1) / 131072 - a / 131072 + 1)
def Cell.ownsAll (c : Cell) (who : BitVec 3) (a n : Nat) : Bool := (banksOf a n).all fun b => c.bankOwner b == who

def ownerOx : BitVec 3 := 0
def ownerHen (h : HenIx) : BitVec 3 := BitVec.ofNat 3 (1 + h.val)
def ownerDray (d : DrayIx) : BitVec 3 := BitVec.ofNat 3 (5 + d.val)

/-- Scratchpad bytes (R16). -/
def spBytes : Nat := 0x200000

end Sys2Proof.Machine
end

