-- ==== Sys2Proof/Machine/Mem.lean ====
section
/-! DEFINITION. Lines at the memory controllers and in the LLC (R246 to R248, R451 to R455): demand reads, whole-line writes with
their armed flip, allocation and eviction. The LLC's data is kept in State.mem; State.llc says which lines it holds. -/
namespace Sys2Proof.Machine

/-- Stage cycles since reset (R10, R118): 20 a tick. -/
def State.stageNow (s : State) : Nat := 20 * s.tick

/-- Endpoint of a controller. -/
def ctlEp (c : Nat) : Nat := epEngine c

/-! Masters that are not coach slots (R268). -/

def mJbn : Nat := 48
def mPcie : Nat := 49
def mMule : Nat := 50
def mScrub : Nat := 51
def mSystem : Nat := 52

/-- A line moved at its controller is charged to a master, and its data bytes are counted, with the two tag bytes of an LPDDR5X line
(R2, R268, R591); an LPDDR5X line of a coach's request counts as an access to its region (R337). -/
def State.countMem (s : State) (l : Nat) (write : Bool) (m : Nat := mSystem) : State :=
  let c := ctlOf (64 * l)
  let w := if write then 1 else 0
  let x := s.mc c
  let s := s.setMc c { x with served := tset 0 x.served m (tget 0 x.served m + 1) }
  let s := (s.countGlobal (4 * c + w) 64).countCoach m ((if c < 20 then 3 else 5) + w) 64
  if c < 20 then s
  else
    let s := s.countGlobal (4 * c + 2) 2
    if m < 48 then s.acTouch 2 (s.partOf m) (64 * l) 1 else s

/-- k lines moved at controller c for a master that is no coach slot, charged and counted as countMem does each. -/
def State.countMemN (s : State) (c k : Nat) (write : Bool) (m : Nat) : State :=
  let x := s.mc c
  let s := s.setMc c { x with served := tset 0 x.served m (tget 0 x.served m + k) }
  let s := s.countGlobal (4 * c + if write then 1 else 0) (64 * k)
  if c < 20 then s else s.countGlobal (4 * c + 2) (2 * k)

/-- A line of a master's request hit or missed in the LLC slice that is its home (R591). -/
def State.countLlc (s : State) (l : Nat) (hit : Bool) (m : Nat := mSystem) : State :=
  if 64 * l ≥ hbmTop then s
  else
    let k := if hit then 0 else 1
    (s.countGlobal (640 + 2 * (ctlOf (64 * l) / 5) + k) 1).countCoach m (7 + k) 1

/-- What two XORed symbols leave of a line (R451): 0 whole, 1 + the symbol of a single error, 100 for two. -/
def flipMark (posA valA posB valB : Nat) : Nat :=
  if posA = posB then (if valA = valB ∨ posA ≥ 67 then 0 else 1 + posA)
  else
    let a := valA ≠ 0 ∧ posA < 67
    let b := valB ≠ 0 ∧ posB < 67
    if a ∧ b then 100 else if a then 1 + posA else if b then 1 + posB else 0

/-- A whole-line write that the controller performs leaves the line whole, or corrupted by the armed flip of R455. -/
def State.flipLine (s : State) (l : Nat) : State :=
  let c := ctlOf (64 * l)
  let ctl := tget 0 s.errs.mcFlip c
  if ctl.getLsbD 0 && (!ctl.getLsbD 1 || bfield (tget 0 s.errs.mcFlipAddr c) 6 46 == l) then
    { s with errs := { s.errs with
      mcFlip := tset 0 s.errs.mcFlip c (ctl &&& ~~~1#64)
      memBad := tset 0 s.errs.memBad l (flipMark (bfield ctl 8 8) (bfield ctl 16 8) (bfield ctl 24 8) (bfield ctl 32 8)) } }
  else { s with errs := { s.errs with memBad := tset 0 s.errs.memBad l 0 } }

/-- The first address of a controller's memory. -/
def ctlBase (c : Nat) : Nat := if c < 20 then c * 0x001400000000 else lpBase + (c - 20) * 0x001000000000

/-- n bytes at a written in bulk: an armed flip corrupts the first whole line that it selects (R455). -/
def State.flipRange (s : State) (a n : Nat) : State :=
  s.errs.mcFlip.foldl (fun s e =>
    let first := max ((a + 63) / 64) (ctlBase e.1 / 64)
    let l := if e.2.getLsbD 1 then bfield (tget 0 s.errs.mcFlipAddr e.1) 6 46 else first
    if e.2.getLsbD 0 && decide (first ≤ l) && decide (64 * l + 64 ≤ a + n) && ctlOf (64 * l) == e.1 then s.flipLine l else s) s

/-- A whole-line write of a master at its controller. -/
def State.ctlWritten (s : State) (l : Nat) (m : Nat := mSystem) : State := (s.countMem l true m).flipLine l

/-- MC_ECC_COUNT: a line corrected, or an uncorrectable one read (R484). -/
def State.countEcc (s : State) (c : Nat) (ce : Bool) : State :=
  let up (t : SMap (BitVec 32)) : SMap (BitVec 32) := tset 0 t c (.ofNat 32 (satInc 32 (tget 0 t c).toNat))
  { s with errs := if ce then { s.errs with mcCe := up s.errs.mcCe } else { s.errs with mcUe := up s.errs.mcUe } }

/-- A corrected line is rewritten as a scrubber write (R452, R456). -/
def State.scrubWrite (s : State) (l : Nat) : State := (s.countEcc (ctlOf (64 * l)) true).ctlWritten l mScrub

/-- What a demand read of a line from memory under a key meets (0: its chunk's key): a corrected symbol is logged, counted and rewritten
by the scrubber (R452); an uncorrectable line gives no data, nor does an LPDDR5X line whose tag does not match (R505); an HBM3E line written
under another key gives a free value (R502). -/
def State.memCheck (s : State) (l : Nat) (key : Nat := 0) : Option Line × State :=
  let bad := tget 0 s.errs.memBad l
  let c := ctlOf (64 * l)
  let log (kind pos : Nat) : State := s.logErr kind 6 (ctlEp c) (64 * l) (s.ownerOf (64 * l)) pos 0
  if bad = 100 then (none, (log errUe 0xFF).countEcc c false)
  else if s.tagBad l key then (none, (log errIntegrity 0xFF).countEcc c false)
  else if bad = 0 then
    if s.keyLost l key then (some (Config.freeLine s.free), { s with free := s.free + 1 }) else (some (s.readLine l), s)
  else (some (s.readLine l), (log errCe (bad - 1)).scrubWrite l)

/-- A demand read of a line from memory for a master. -/
def State.memDemand (s : State) (l : Nat) (key : Nat := 0) (m : Nat := mSystem) : Option Line × State := (s.countMem l false m).memCheck l key

/-- Bytes of a line replaced in the block's view of memory, without any controller write (LLC data). A write-back moves
contents that were noted when they were written, so it is not noted again (R88, R89). -/
def State.putLine (s : State) (l : Nat) (d : Line) (key : Nat := 0) : State :=
  if s.stable.noMem then s
  else { s.noteKey (64 * l) 64 key with mem := writeBytes s.mem (64 * l) (bytesOf 64 d) }

/-- The line written to memory by its controller. -/
def State.memPut (s : State) (l : Nat) (d : Line) (m : Nat := mSystem) : State := (s.putLine l d).ctlWritten l m

/-! The LLC. -/

def State.llcLine (s : State) (l : Nat) : Option LlcLine := (s.llc.find? fun e => e.1 == l).map (·.2)

/-- The way mask of a requester (R248): partitions 0 to 31, then the system. -/
def State.wayMask (s : State) (who : Nat) : Nat :=
  if who < 32 then (tget 0xFFFF s.llcWays who).toNat else if who = 0x3E then (tget 0xFFFF s.llcWays 32).toNat else 0

/-- A line leaves the LLC, written back if dirty under the master that caused it (R247, R268). -/
def State.llcDrop (s : State) (l : Nat) (m : Nat := mSystem) : State :=
  match s.llcLine l with
  | none => s
  | some e =>
    let s := { s with llc := s.llc.filter fun x => x.1 != l }
    if e.dirty then s.ctlWritten l m else s

/-- A line enters the LLC table. -/
def State.llcPlace (s : State) (l : Nat) (e : LlcLine) : State :=
  let rec ins : SMap LlcLine → SMap LlcLine
    | [] => [(l, e)]
    | (k, x) :: m => if l < k then (l, e) :: (k, x) :: m else if l = k then (l, e) :: m else (k, x) :: ins m
  { s with llc := ins s.llc }

/-- The set of a line in its slice: one of 2,048 (R246). -/
def llcSetOf (l : Nat) : Nat := Config.llcSet l % 2048

/-- Allocate a line for a requester (R247, R248): a free allowed way of its set, else the pseudo-LRU victim among the allowed
ways. HBM3E lines outside MULE regions only; a zero mask allocates nothing. under: what memory holds of a line made dirty. -/
def State.llcAlloc (s : State) (l who : Nat) (dirty : Bool) (under : Line) (m : Nat := mSystem) : State :=
  match s.llcLine l with
  | some e => s.llcPlace l { e with dirty := e.dirty || dirty, under := if e.dirty then e.under else under }
  | none =>
    let ways := bitsSet (s.wayMask who) 16
    if 64 * l ≥ hbmTop ∨ s.isMule (64 * l) ∨ ways.isEmpty then (if dirty then s.ctlWritten l m else s)
    else
      let home := homeOf (64 * l)
      let peers := s.llc.filter fun e => homeOf (64 * e.1) == home && llcSetOf e.1 == llcSetOf l
      match ways.find? fun w => !peers.any fun e => e.2.way == w with
      | some w => s.llcPlace l { way := w, part := who, dirty, under }
      | none =>
        let w := nth 0 ways (Config.plru s.free % ways.length)
        let s := { s with free := s.free + 1 }
        let s := match peers.find? fun e => e.2.way == w with
          | some e => s.llcDrop e.1 m
          | none => s
        s.llcPlace l { way := w, part := who, dirty, under }

/-- The data of a line at its home: the LLC copy, else memory (R288 serve); alloc: the requester allocates. -/
def State.homeRead (s : State) (l who : Nat) (alloc : Bool) (key : Nat := 0) (m : Nat := mSystem) : Option Line × State :=
  let s := s.countLlc l (s.llcLine l).isSome m
  if (s.llcLine l).isSome then (some (s.readLine l), s)
  else match s.memDemand l key m with
    | (none, s) => (none, s)
    | (some d, s) => (some d, if alloc then s.llcAlloc l who false d m else s)

/-- A line written at its home: into the LLC where it is held or may be allocated, else to memory. -/
def State.homeWrite (s : State) (l who : Nat) (alloc : Bool) (d : Line) (key : Nat := 0) (m : Nat := mSystem) : State :=
  let under := s.readLine l
  let s := s.countLlc l (s.llcLine l).isSome m
  let s := s.putLine l d key
  if (s.llcLine l).isSome || alloc then s.llcAlloc l who true under m else s.ctlWritten l m

/-- Lines of n bytes at a that the device itself moves for a master (R268, R573). -/
def State.chargeLines (s : State) (a n : Nat) (write : Bool) (m : Nat) : State :=
  if n = 0 ∨ a ≥ 2 ^ 51 then s
  else (span (a / 64) ((a + n - 1) / 64 - a / 64 + 1)).foldl (fun s l =>
    let s := s.countLlc l (s.llcLine l).isSome m
    if (s.llcLine l).isSome then s else s.countMem l write m) s

/-- Every LLC line is discarded (R480): what was dirty is lost, and memory shows what its controller holds. -/
def State.llcLose (s : State) : State :=
  let s := (s.llc.filter (·.2.dirty)).foldl (fun s e => s.putLine e.1 e.2.under) s
  { s with llc := [] }

end Sys2Proof.Machine
end

