-- ==== Sys2Proof/Machine/Coh.lean ====
section
/-! DEFINITION. The coherence protocol (R277 to R305): agents, homes, their tables, request entries, far atomics at a home.
A message is the command that delivers it; agents and homes send by putting messages in flight. -/
namespace Sys2Proof.Machine

/-! Agents (R279, R284). -/

def agentKey (a : Nat) (l : LineNo) : Nat := l.toNat * 2048 + a
def State.agent (s : State) (a : Nat) (l : LineNo) : AgentLine := tget {} s.agents (agentKey a l)
def State.setAgent (s : State) (a : Nat) (l : LineNo) (x : AgentLine) : State :=
  { s with agents := tset {} s.agents (agentKey a l) x }

/-- The state of a line at an agent replaced; a line in I keeps nothing. -/
def State.agentTo (s : State) (a : Nat) (l : LineNo) (st : AgentState) : State :=
  let x := s.agent a l
  s.setAgent a l (if st = .I then { deferred := x.deferred } else { x with st := st })

/-- The line may be read, and written after which no message is needed, at its agent. -/
def AgentState.readable : AgentState → Bool
  | .S | .E | .O | .M | .SM_D | .OM_A => true
  | _ => false
def AgentState.writable : AgentState → Bool
  | .E | .M => true
  | _ => false
def AgentState.stable : AgentState → Bool
  | .I | .S | .E | .O | .M => true
  | _ => false

/-- The line lies in an enabled sync page outside MULE regions (R297). -/
def State.ownerOrdered (s : State) (l : LineNo) : Bool :=
  !s.isMule (lineAddr l) && s.coh.syncPage.any fun e => e.2.getLsbD 0 && bfield e.2 16 36 == lineAddr l / 65536

/-- Requests of an agent that a home has refused with RETRY. -/
def State.refusedAt (s : State) (a h : Nat) : List Instr := tget [] s.refused (a * 2048 + h)

/-- A request from an agent to the line's home: held back while the home owes the agent a CREDIT (R293). -/
def State.request (s : State) (a : Nat) (l : LineNo) (i : Instr) : State :=
  let h := homeEp l
  let r := s.refusedAt a h
  if r.isEmpty then s.sendFrom a i else { s with refused := tset [] s.refused (a * 2048 + h) (r ++ [i]) }

/-- Far atomics of an agent that have no answer yet. -/
def State.farCount (s : State) (a : Nat) : Nat :=
  if isCellEp a then (s.cell a).far.length
  else match engineOfEp a with
    | some e => (s.engine e).far.length
    | none => 0

/-- Lines of an agent in a transient state, held lines and far atomics: a cell has at most 32, a Mule at most 8 (R303). -/
def State.outstanding (s : State) (a : Nat) : Nat :=
  (s.agents.filter fun e => e.1 % 2048 == a && (!e.2.st.stable || e.2.held)).length + s.farCount a
def State.mayRequest (s : State) (a : Nat) : Bool := decide (s.outstanding a < (if isCellEp a then 32 else 8))

/-- Reservations of a cell's Hens on a line that the cell has lost (R90). -/
def State.loseReservation (s : State) (a : Nat) (l : LineNo) : State :=
  if isCellEp a then
    let c := s.cell a
    s.setCell a { c with hens := c.hens.map fun x =>
      if x.reserved = some l then { x with reserved := none, lrDefer := none } else x }
  else s

/-- Forwards and snoops for the line wait (R295, R296): it is held, or an LR of the cell defers them. -/
def State.defers (s : State) (a : Nat) (l : LineNo) : Bool :=
  (s.agent a l).held || (isCellEp a && (s.cell a).hens.toList.any fun x => x.lrDefer == some l)

/-- Begin the replacement of a line that its agent holds in a stable state (Replace column of R284); a reservation on it is lost. A PUT
is no request, and no RETRY holds it back (R287, R293). -/
def State.replaceLine (s : State) (a : Nat) (l : LineNo) : State :=
  let x := s.agent a l
  let s := s.loseReservation a l
  match x.st with
  | .S => (s.agentTo a l .SI_A).sendFrom a (.putS a l)
  | .E => (s.agentTo a l .EI_A).sendFrom a (.putE a l)
  | .O => (s.agentTo a l .OI_A).sendFrom a (.putD a l x.data)
  | .M => (s.agentTo a l .MI_A).sendFrom a (.putD a l x.data)
  | _ => s

/-- The agent keeps the line for its write-back only: it has left its way. -/
def AgentState.leaving : AgentState → Bool
  | .MI_A | .OI_A | .EI_A | .SI_A | .II_A => true
  | _ => false

/-- A cell's L2 has 16 ways in each of its sets (R86): a line that finds its set full replaces a stable line of it, but not one for
which forwards wait; none: the line must wait. -/
def State.makeRoom (s : State) (a : Nat) (l : LineNo) : Option State :=
  let peers := s.agents.filter fun e =>
    e.1 % 2048 == a && e.2.st != .I && !e.2.st.leaving && e.1 / 2048 != l.toNat && Config.l2Set (e.1 / 2048) == Config.l2Set l.toNat
  if !isCellEp a ∨ peers.length < 16 then some s
  else
    let free := peers.filter fun e => e.2.st.stable && e.2.deferred.isEmpty && !s.defers a (BitVec.ofNat 46 (e.1 / 2048))
    match free[Config.plru s.free % free.length]? with
    | some e => some ({ s with free := s.free + 1 }.replaceLine a (BitVec.ofNat 46 (e.1 / 2048)))
    | none => none

/-- A load misses (Load column of R284); it waits while the agent may send no request or has no way for the line. -/
def State.wantRead (s : State) (a : Nat) (l : LineNo) (sharedOnly : Bool) : State :=
  if (s.agent a l).st = .I ∧ s.mayRequest a then
    match s.makeRoom a l with
    | some s => (s.agentTo a l .IS_D).request a l (.getS a l sharedOnly)
    | none => s
  else s

/-- A store misses or finds a shared copy (Store column of R284). -/
def State.wantWrite (s : State) (a : Nat) (l : LineNo) : State :=
  if !s.mayRequest a then s
  else match (s.agent a l).st with
    | .I => match s.makeRoom a l with
      | some s => (s.agentTo a l .IM_D).request a l (.getM a l)
      | none => s
    | .S => (s.agentTo a l .SM_D).request a l (.upgrade a l)
    | .O => (s.agentTo a l .OM_A).request a l (.upgrade a l)
    | _ => s

/-- An LR that does not find the line in E or M sends GET_M (R296). From S the agent drops its clean copy, as the home takes it (R290);
from O it holds the latest data, and upgrades (log 102). -/
def State.wantReserved (s : State) (a : Nat) (l : LineNo) : State :=
  if s.mayRequest a ∧ (s.agent a l).st = .S then ((s.loseReservation a l).agentTo a l .IM_D).request a l (.getM a l)
  else s.wantWrite a l

/-- The line goes to a state in which the agent no longer holds it. -/
def State.agentLose (s : State) (a : Nat) (l : LineNo) (st : AgentState) : State := (s.agentTo a l st).loseReservation a l

/-- A forward acted on (R284): the data to the requester, or R:MISS; then the answer and the next state. -/
def State.onFwdS (s : State) (a : Nat) (l : LineNo) (req : Nat) : State :=
  let x := s.agent a l
  let go (code : BitVec 2) (st : AgentState) : State := ((s.sendFrom a (.dataS req l x.data)).sendFrom a (.snpResp a l code)).agentTo a l st
  match x.st with
  | .E => go 1 .S
  | .O => go 2 .O
  | .M => go 2 .O
  | .OM_A => go 2 .OM_A
  | .MI_A => go 2 .OI_A
  | .OI_A => go 2 .OI_A
  | .EI_A => go 1 .SI_A
  | .I => s.sendFrom a (.snpResp a l 0)
  | _ => s

def State.onFwdM (s : State) (a : Nat) (l : LineNo) (req : Nat) (acks : Bool) : State :=
  let x := s.agent a l
  let go (st : AgentState) : State := ((s.sendFrom a (.dataM req l x.data true acks)).sendFrom a (.snpResp a l 3)).agentLose a l st
  match x.st with
  | .E | .O | .M => go .I
  | .OM_A => go .IM_D
  | .MI_A | .OI_A | .EI_A => go .II_A
  | .I => s.sendFrom a (.snpResp a l 0)
  | _ => s

def State.onSnpData (s : State) (a : Nat) (l : LineNo) : State :=
  let x := s.agent a l
  let wb (st : AgentState) : State := (s.sendFrom a (.wbData a l x.data)).agentTo a l st
  match x.st with
  | .E => (s.sendFrom a (.snpResp a l 1)).agentTo a l .S
  | .O | .M => wb .S
  | .OM_A => wb .SM_D
  | .MI_A | .OI_A => wb .SI_A
  | .EI_A => (s.sendFrom a (.snpResp a l 1)).agentTo a l .SI_A
  | .I => s.sendFrom a (.snpResp a l 0)
  | _ => s

def State.onSnpInv (s : State) (a : Nat) (l : LineNo) : State :=
  let x := s.agent a l
  let wb (st : AgentState) : State := (s.sendFrom a (.wbData a l x.data)).agentLose a l st
  match x.st with
  | .E => (s.sendFrom a (.snpResp a l 3)).agentLose a l .I
  | .O | .M => wb .I
  | .OM_A => wb .IM_D
  | .MI_A | .OI_A => wb .II_A
  | .EI_A => (s.sendFrom a (.snpResp a l 3)).agentLose a l .II_A
  | .I => s.sendFrom a (.snpResp a l 0)
  | _ => s

/-- A deferred forward or snoop acted on. -/
def State.actDeferred (s : State) (i : Instr) : State :=
  match i with
  | .fwdGetS a l r _ => s.onFwdS a l r
  | .fwdGetM a l r acks => s.onFwdM a l r acks
  | .snpData a l => s.onSnpData a l
  | .snpInv a l => s.onSnpInv a l
  | _ => s

/-- The agent is winning the line: a forward or snoop waits for it (R284; by a load, on an owner-ordered line, R298). -/
def AgentState.winning : AgentState → Bool
  | .IM_D | .IM_A | .IS_D => true
  | _ => false

/-- The line's deferred messages acted on in arrival order, once it is neither being won nor held nor deferred (R284, R295). -/
def State.drainDeferred (s : State) (a : Nat) (l : LineNo) : State :=
  let x := s.agent a l
  if !x.st.winning && !s.defers a l then
    x.deferred.foldl (fun s i => s.actDeferred i) (s.setAgent a l { x with deferred := [] })
  else s

/-- A forward or snoop that arrives: deferred for a line being won, held or reserved by an LR, else acted on; a line in a write-back
state answers at once (R284, R295, R296). -/
def State.forwarded (s : State) (a : Nat) (l : LineNo) (i : Instr) : State :=
  let x := s.agent a l
  if x.st.winning || (s.defers a l && x.st != .I && !x.st.leaving) || !x.deferred.isEmpty then
    s.setAgent a l { x with deferred := x.deferred ++ [i] }
  else s.actDeferred i

/-- INV at an agent (R284, R285): acknowledged in every state. -/
def State.invAgent (s : State) (a : Nat) (l : LineNo) : State :=
  let s := s.sendFrom a (.invAck a l)
  match (s.agent a l).st with
  | .S => s.agentLose a l .I
  | .IS_D => s.agentTo a l .IS_DI
  | .SM_D => s.agentLose a l .IM_D
  | .SI_A => s.agentLose a l .II_A
  | _ => s

/-! The recent filter (R305). -/

def State.home (s : State) (h : Nat) : Home := tget {} s.homes h
def State.setHome (s : State) (h : Nat) (x : Home) : State := { s with homes := tset {} s.homes h x }

/-- Another agent was served the line within the preceding 512 Stage cycles. -/
def State.recentOther (s : State) (h : Nat) (l : LineNo) (a : Nat) : Bool :=
  (s.home h).recent.any fun e => e.1 == l && e.2.1 != a && decide (e.2.2 + 512 ≥ s.stageNow)

/-- The filter keeps the last 64 lines served. -/
def State.noteServed (s : State) (h : Nat) (l : LineNo) (a : Nat) : State :=
  let x := s.home h
  s.setHome h { x with recent := ((l, a, s.stageNow) :: x.recent.filter fun e => e.1 != l).take 64 }

/-! Request entries (R293, R294). -/

def State.homeLine (s : State) (l : LineNo) : HomeLine := tget {} s.homeLines l.toNat
def State.setHomeLine (s : State) (l : LineNo) (x : HomeLine) : State := { s with homeLines := tset {} s.homeLines l.toNat x }

/-- Requests that a home works on or has queued. -/
def HomeReq.agent : HomeReq → Option Nat
  | .getS a _ => some a
  | .getM a => some a
  | .upgrade a => some a
  | .amo a _ => some a
  | _ => none

/-- The agent that a request message comes from; 0 for what no message brings. -/
def HomeReq.sender : HomeReq → Nat
  | .getS a _ => a
  | .getM a => a
  | .upgrade a => a
  | .amo a _ => a
  | .putS a => a
  | .putE a => a
  | .putD a _ => a
  | _ => 0

/-- The partition under which an agent's request is checked (R245): a cell's coach slot; a Mule's rings check for themselves. -/
def State.partOfAgent (s : State) (a : Nat) (l : LineNo) : Nat :=
  if isCellEp a then s.partOfCell a else s.ownerOf (lineAddr l)

/-- The pool of request entries that an agent's request for a line takes from: its partition's own in strict isolation mode, else the
shared one, 0x3F (R294). -/
def State.poolOf (s : State) (a : Nat) (l : LineNo) : Nat :=
  let q := s.partOfAgent a l
  if s.stable.strict.contains q then q else 0x3F

/-- Entries of a pool (R293, R294): 16 for each strict partition, the rest of 256 shared. -/
def State.poolSize (s : State) (q : Nat) : Nat := if q = 0x3F then 256 - 16 * s.stable.strict.length else 16

/-- Entries of a pool in use at a home, and those that are reserved for agents with a credit. -/
def State.poolUsed (s : State) (h q : Nat) : Nat :=
  (s.homeLines.filter fun e => homeOf (64 * e.1) == h).foldl (fun n e =>
    n + ((e.2.req.toList ++ e.2.queue).filter fun r =>
      match r.agent with
      | some a => s.poolOf a (BitVec.ofNat 46 e.1) == q
      | none => false).length) ((s.home h).reserved.filter (·.2 == q)).length

/-- A request from an agent finds an entry (R293, R294): the one reserved for it, or a free one of its pool. -/
def State.entryFor (s : State) (h a : Nat) (l : LineNo) : Bool :=
  let q := s.poolOf a l
  (s.home h).reserved.contains (a, q) || decide (s.poolUsed h q < s.poolSize q)

/-- An entry of a pool has been freed: it is reserved for the pool's next marked agent after the last one served, which gets CREDIT
(R293). -/
def State.freePool (s : State) (h q : Nat) (l : LineNo) : State :=
  let x := s.home h
  let marked := x.retryMap.filter (·.2 == q)
  match (marked.find? (·.1 > x.lastServed)) <|> marked.head? with
  | none => s
  | some m =>
    (s.setHome h { x with retryMap := x.retryMap.filter (· != m), reserved := x.reserved ++ [m], lastServed := m.1 }).send (.credit m.1 l)

/-- The line of the oldest request that an agent keeps for a home since its RETRY (R293). -/
def State.keptLine (s : State) (h a : Nat) : Option LineNo :=
  (s.refusedAt a h ++ tget [] s.retrying (a * 2048 + h)).findSome? fun i => match i with
    | .getS _ l _ | .getM _ l | .upgrade _ l | .amoFar _ l _ => some l
    | _ => none

/-- A pool's entry that was reserved for an agent has been freed (R293). -/
def State.freeReserved (s : State) (h q : Nat) : State :=
  match (s.home h).retryMap.findSome? fun m => if m.2 = q then s.keptLine h m.1 else none with
  | some l => s.freePool h q l
  | none => s

/-- The entry of an agent's request has been freed. -/
def State.freeEntry (s : State) (l : LineNo) (r : HomeReq) : State :=
  match r.agent with
  | some a => s.freePool (homeEp l) (s.poolOf a l) l
  | none => s

/-! Homes (R287 to R292, R298). -/

/-- A home serves a partition: one in strict isolation mode has its cycles of each round (R294; DEDUCED, log 120). -/
def State.homeTurn (s : State) (q : Nat) : Bool := !s.stable.strict.contains q || tget 0 s.coh.strict q != 0

/-- Agents that an INV for the entry goes to (R291), but for one. -/
def HomeLine.invTargets (x : HomeLine) (but : Option Nat) : List Nat :=
  let cells := x.sharers.filter isCellEp
  let all :=
    if x.coarse then
      let regions := distinct (cells.map regionOf)
      let dies := distinct (cells.map dieOf)
      (regions.flatMap fun r => span (72 * r) 72)
        ++ (dies.flatMap fun d => (span (5 * d) 5).map epEngine ++ (span (20 + 8 * d) 8).map epEngine)
        ++ (x.sharers.filter fun a => !isCellEp a && !dies.contains (if a < 1428 then (a - 1408) / 5 else (a - 1428) / 8))
    else x.sharers
  all.filter fun a => some a != but

/-- A sharer recorded: beyond four the entry names regions (R291). -/
def HomeLine.addSharer (x : HomeLine) (a : Nat) : HomeLine :=
  let l := if x.sharers.contains a then x.sharers else x.sharers ++ [a]
  { x with sharers := l, coarse := x.coarse || decide (l.length > 4) }

def HomeLine.isDI (x : HomeLine) : Bool := x.owner.isNone && x.sharers.isEmpty

/-- No agent holds the line, nor is it called to its home: it takes no directory entry (R278, R291). -/
def HomeLine.noEntry (x : HomeLine) : Bool :=
  x.isDI && x.tail.isNone && x.watchers.isEmpty && (match x.phase with | .oo _ _ => false | _ => true)
/-- DX with an owner and no sharers. -/
def HomeLine.ownedBy (x : HomeLine) (a : Nat) : HomeLine := { x with owner := some a, ownedO := false, sharers := [], coarse := false }

def State.sendInv (s : State) (l : LineNo) (t : List Nat) : State := s.sendAll (t.map fun a => .inv a l)

/-- The master that an agent's accesses are charged to (R268): the coach slot of a cell, the Mule of an engine. -/
def State.agentMaster (s : State) (a : Nat) : Nat :=
  if isCellEp a then (s.cell a).slot.toNat else if (engineOfEp a).isSome then mMule else mSystem

/-- Serve a line to an agent (R288): data in the message that mk makes, or REFUSE ECC. -/
def State.serve (s : State) (l : LineNo) (r : Nat) (mk : Line → Instr) : Bool × State :=
  match s.homeRead l.toNat (s.partOfAgent r l) (isCellEp r) 0 (s.agentMaster r) with
  | (some d, t) => (true, (t.noteServed (homeEp l) l r).send (mk d))
  | (none, t) => (false, t.send (.refuse r l 3))

/-- A line's data as bytes, with n bytes at offset o replaced. -/
def lineSet (d : Line) (o : Nat) (bs : List Byte) : Line :=
  let old := bytesOf 64 d
  ofBytes 512 (old.take o ++ bs ++ old.drop (o + bs.length))
def lineGet (d : Line) (o n : Nat) : List Byte := ((bytesOf 64 d).drop o).take n

/-- A far atomic applied to a line: the new line and the old value (R302). -/
def amoLine (b : BitVec 192) (d : Line) : Line × Nat :=
  let n := amoBytes b
  let v := leNat (lineGet d (amoOffset b) n)
  let new := if amoOp b ≤ 1 then amoOperand b else amoNew (amoOp b) n v (amoOperand b) (amoCompare b)
  (lineSet d (amoOffset b) (natBytes n new), v)

/-- The write of a far atomic to its line is noted (R89). -/
def State.noteAmo (s : State) (l : Nat) (b : BitVec 192) : State := s.noteWrite (64 * l + amoOffset b) (amoBytes b)

/-- The executor's answer: the old value where RET is set, else zero (R283). -/
def amoResult (b : BitVec 192) (v : Nat) : Word := if amoRet b then BitVec.ofNat 64 v else 0

/-- The store of a DONE word has been performed (R174): the windows that it and its ring's earlier ones close are over (R166). -/
def State.doneShown (s : State) (ep : Nat) (l : LineNo) (b : BitVec 192) : State :=
  match engineOfEp ep with
  | none => s
  | some e =>
    let rec go : List (LineNo × BitVec 192 × List (Nat × Nat)) → List (LineNo × BitVec 192 × List (Nat × Nat))
      | [] => []
      | x :: q => if x.1 = l ∧ x.2.1 = b then q else go q
    let x := s.engine e
    match x.rings.find? fun r => r.2.closing.any fun c => c.1 == l && c.2.1 == b with
    | some (n, r) => s.setEngine e (x.setRing n { r with closing := go r.closing })
    | none => s

/-- A home executes a far atomic on its own copy (R301): nothing is allocated. -/
def State.homeAmo (s : State) (l : LineNo) (r : Nat) (b : BitVec 192) (contended : Bool) : State :=
  let h := homeEp l
  let m := s.agentMaster r
  match s.homeRead l.toNat 0x3F false 0 m with
  | (none, t) => t.send (.refuse r l 3)
  | (some d, t) =>
    let (d', v) := amoLine b d
    let hot := contended || s.recentOther h l r
    let t := (t.homeWrite l.toNat 0x3F false d' 0 m).noteAmo l.toNat b
    ((t.noteServed h l r).doneShown r l b).send (.amoResp r l (amoResult b v) hot)

/-! Non-caching requests (R280). -/

def srOk : Nat := 0
def srPartition : Nat := 1
def srEcc : Nat := 2
def srAddr : Nat := 3
def srBad : Nat := 4
def srTimeout : Nat := 5

/-- A line of the request has been performed: with data, or with a status for its address; the first failing line is reported (R260). -/
def NcReq.performed (q : NcReq) (l : Nat) (d : Option Line) (status : Nat) : NcReq :=
  let first := decide (status ≠ srOk) && (q.status == srOk || decide (64 * l < q.failing))
  { q with
    started := true
    left := q.left.filter (· != l)
    got := match d with
      | some d => q.got ++ [(l, d)]
      | none => q.got
    status := if first then status else q.status
    failing := if first then 64 * l else q.failing }

def State.setNc (s : State) (q : NcReq) : State :=
  { s with nonCaching := s.nonCaching.map fun x => if x.id = q.id then q else x }

/-- The home performs a non-caching request on its own copy of the line (R288, R289, R302); one that has been discarded does nothing. -/
def State.ncPerform (s : State) (l : LineNo) (r : HomeReq) : State :=
  let run (id : Nat) (f : NcReq → State × Option Line × Nat × Word) : State :=
    match s.nonCaching.find? (·.id == id) with
    | none => s
    | some q =>
      let (t, d, st, old) := f q
      t.setNc { q.performed l.toNat d st with old := old }
  let read (q : NcReq) (alloc : Bool) : Option Line × State := s.homeRead l.toNat q.who alloc q.key q.charge
  let write (t : State) (q : NcReq) (alloc : Bool) (d : Line) : State := t.homeWrite l.toNat q.who alloc d q.key q.charge
  match r with
  | .read id => run id fun q => match read q q.alloc with
    | (some d, t) => (t, some d, srOk, 0)
    | (none, t) => (t, none, srEcc, 0)
  | .write id d n => run id fun q =>
    if n ≥ 64 then (write (s.noteWrite (lineAddr l) 64) q q.alloc d, none, srOk, 0)
    else match read q false with
      | (some old, t) => (write (t.noteWrite (lineAddr l) n) q q.alloc (lineSet old 0 ((bytesOf 64 d).take n)), none, srOk, 0)
      | (none, t) => (t, none, srEcc, 0)
  | .remote id b => run id fun q => match read q false with
    | (some old, t) =>
      let (d, v) := amoLine b old
      ((write t q false d).noteAmo l.toNat b, none, srOk, amoResult b v)
    | (none, t) => (t, none, srEcc, 0)
  | _ => s

/-- The check of R287 before a request is acted on: none passes. -/
def State.homeCheck (s : State) (l : LineNo) (r : HomeReq) : Option (BitVec 2) :=
  match r.agent with
  | none => none
  | some a =>
    let bad := match r with
      | .amo _ b => amoBad b
      | _ => false
    if bad then some 0
    else if !s.holdsMemory (lineAddr l) then some 2
    else if isCellEp a && !s.mayAccess (s.partOfCell a) (lineAddr l) then some 1
    else none

/-- Directory ways that a new entry of the line may take (R292). -/
def State.dirWays (s : State) (l : LineNo) : List Nat :=
  let m := s.wayMask (s.ownerOf (lineAddr l))
  if m ≠ 0 then bitsSet m 16
  else
    let taken := s.stable.strict.foldl (fun a q => a ||| s.wayMask q) 0
    (span 0 16).filter fun w => !taken.testBit w

/-- The set of a line in its home's directory: 4,096 sets in a slice, 8,192 in the home agent of an LPDDR5X controller (R291). -/
def dirSetOf (l : Nat) : Nat := Config.dirSet l % (if 64 * l < hbmTop then 4096 else 8192)

/-- A way for a line's directory entry: a free one, or the entry that must be recalled first. -/
def State.dirPlace (s : State) (l : LineNo) : Option Nat × Option Nat :=
  let h := homeEp l
  let peers := s.homeLines.filter fun e =>
    homeOf (64 * e.1) == h && e.1 != l.toNat && dirSetOf e.1 == dirSetOf l.toNat && !e.2.noEntry
  let ways := s.dirWays l
  match ways.find? fun w => !peers.any fun e => e.2.way == w with
  | some w => (some w, none)
  | none =>
    let mine := peers.filter fun e => ways.contains e.2.way
    match mine[Config.plru s.free % mine.length]? with
    | some e => (none, some e.1)
    | none => (some 0, none)

/-- A far atomic of a line of a MULE region goes to the engine that reaches the line (R194, R301); a fabric atomic names the FAB at which
its request stands. -/
def State.muleAmo (s : State) (l : LineNo) (r : HomeReq) (x : HomeLine) : State :=
  let e := ctlOf (lineAddr l)
  let go (a : Nat) (b : BitVec 192) : State :=
    if he : e < 52 then (s.send (.fwdAmo ⟨e, he⟩ l a b)).setHomeLine l { x with phase := .mule, req := some r } else s.setHomeLine l x
  match r with
  | .amo a b => go a b
  | .remote id b => match s.nonCaching.find? (·.id == id) with
    | some q => match q.src with
      | .fabric k .. => go (fabEp (portEast k)) b
      | .stream ep .. => go ep b
    | none => s.setHomeLine l x
  | _ => s.setHomeLine l x

/-- One request at the head of an ordinary line acted on (R288, R290), in a MULE region a Stage read or write without a snoop (R165, R280); x is the line with the request taken off its queue. -/
def State.homeAct (s : State) (l : LineNo) (x : HomeLine) (r : HomeReq) : State :=
  let h := homeEp l
  -- the agent that shows that it has dropped the line leaves the entry (R290)
  let x := match r with
    | .getS a _ | .getM a =>
      { x with owner := if x.owner = some a then none else x.owner, sharers := x.sharers.filter (· != a) }
    | .upgrade a =>
      if x.owner = some a && !x.ownedO then { x with owner := none } else x
    | _ => x
  let set (s : State) (x : HomeLine) : State := s.setHomeLine l x
  let phase (p : HomePhase) (x : HomeLine) : HomeLine := { x with phase := p, req := some r }
  let getM (a : Nat) : State :=
    match x.owner with
    | some o =>
      let t := x.invTargets (some a)
      let s := (s.send (.fwdGetM o l a (!t.isEmpty))).sendInv l t
      set (s.noteServed h l a) (phase (.hf true t.length (!t.isEmpty) true false) x)
    | none =>
      let t := x.invTargets (some a)
      let cont := !t.isEmpty || s.recentOther h l a
      match s.serve l a fun d => .dataM a l d cont (!t.isEmpty) with
      | (false, s) => set s x
      | (true, s) => if t.isEmpty then set s (x.ownedBy a) else set (s.sendInv l t) (phase (.ha t.length false) x)
  match r with
  | .getS a sharedOnly =>
    match x.owner with
    | some o => set ((s.send (.fwdGetS o l a false)).noteServed h l a) (phase (.hf false 0 false true false) x)
    | none =>
      if x.sharers.isEmpty && !sharedOnly then
        match s.serve l a fun d => .dataE a l d with
        | (true, s) => set s (x.ownedBy a)
        | (false, s) => set s x
      else match s.serve l a fun d => .dataS a l d with
        | (true, s) => set s (x.addSharer a)
        | (false, s) => set s x
  | .getM a => getM a
  | .upgrade a =>
    if x.owner = some a || (x.owner.isNone && x.sharers.contains a) then
      let t := x.invTargets (some a)
      let s := s.sendInv l t
      if t.isEmpty then set ((s.noteServed h l a).send (.grant a l (s.recentOther h l a))) (x.ownedBy a)
      else set s (phase (.ha t.length true) x)
    else getM a
  | .putS a =>
    set (s.send (.putAck a l)) (if x.owner = some a then x else
      let y := { x with sharers := x.sharers.filter (· != a) }
      if y.sharers.isEmpty then { y with coarse := false } else y)
  | .putE a => set (s.send (.putAck a l)) (if x.owner = some a && !x.ownedO then { x with owner := none } else x)
  | .putD a d =>
    if x.owner = some a then
      set ((s.homeWrite l.toNat (s.partOfAgent a l) true d 0 (s.agentMaster a)).send (.putAck a l)) { x with owner := none, ownedO := false }
    else set (s.send (.putAck a l)) x
  | .read _ =>
    match x.owner with
    | some o => if s.isMule (lineAddr l) then set (s.ncPerform l r) x else set (s.send (.snpData o l)) (phase (.hn 0 true) x)
    | none => set (s.ncPerform l r) x
  | .amo a b =>
    if x.isDI then if s.isMule (lineAddr l) then s.muleAmo l r x else set (s.homeAmo l a b false) x
    else
      let t := x.invTargets none
      let s := match x.owner with
        | some o => s.send (.snpInv o l)
        | none => s
      set (s.sendInv l t) (phase (.hn t.length x.owner.isSome) { x with contended := true })
  | .write .. | .remote .. | .recall =>
    let atomic := match r with
      | .remote .. => true
      | _ => false
    let write := match r with
      | .write .. => true
      | _ => false
    if s.isMule (lineAddr l) && (write || atomic && x.isDI) then if write then set (s.ncPerform l r) x else s.muleAmo l r x
    else if x.isDI then set (s.ncPerform l r) x
    else
      let t := x.invTargets none
      let s := match x.owner with
        | some o => s.send (.snpInv o l)
        | none => s
      set (s.sendInv l t) (phase (.hn t.length x.owner.isSome) x)

/-- One request of an owner-ordered line acted on (R298). -/
def State.homeActOO (s : State) (l : LineNo) (x : HomeLine) (r : HomeReq) : State :=
  let h := homeEp l
  let set (s : State) (x : HomeLine) : State := s.setHomeLine l x
  let wait (acks : Nat) (line : Bool) (x : HomeLine) : HomeLine := { x with phase := .oo acks line, req := some r, contended := true }
  -- the home invalidates its watchers before it passes the line on
  let clear (k : Unit → State) : State :=
    if x.watchers.isEmpty then k ()
    else set (s.sendInv l x.watchers) (wait x.watchers.length false { x with watchers := [] })
  -- the home brings the line to itself
  let bring (k : Unit → State) : State :=
    match x.tail with
    | none => k ()
    | some t => set (s.send (.fwdGetM t l h false)) (wait 0 true { x with tail := none, fwds := x.fwds ++ [(t, h)] })
  let y : HomeLine := { x with contended := false }
  let own (a : Nat) : State := match s.serve l a fun d => .dataM a l d (x.contended || s.recentOther h l a) false with
    | (true, s) => set s { y with tail := some a }
    | (false, s) => set s { y with tail := none }
  let pass (a : Nat) : State := clear fun _ =>
    match x.tail with
    | some t => if t = a then own a else set ((s.send (.fwdGetM t l a false)).noteServed h l a) { y with tail := some a, fwds := x.fwds ++ [(t, a)] }
    | none => own a
  match r with
  | .getS a true => bring fun _ => match s.serve l a fun d => .dataS a l d with
    | (true, s) => set s { y with watchers := if x.watchers.contains a then x.watchers else x.watchers ++ [a] }
    | (false, s) => set s y
  | .getS a false => pass a
  | .getM a => pass a
  | .upgrade a => pass a
  | .putS a | .putE a => set (s.send (.putAck a l)) x
  | .putD a d =>
    if x.tail = some a then set ((s.homeWrite l.toNat (s.partOfAgent a l) true d 0 (s.agentMaster a)).send (.putAck a l)) { x with tail := none }
    else set (s.send (.putAck a l)) x
  | .read _ => bring fun _ => set (s.ncPerform l r) y
  | .write .. | .remote .. | .recall => bring fun _ => clear fun _ => set (s.ncPerform l r) y
  | .amo a b => bring fun _ => clear fun _ => set (s.homeAmo l a b x.contended) y

/-- The request needs a directory entry that the line does not have (R291, R292). -/
def HomeReq.allocates : HomeReq → Bool
  | .getS .. => true
  | .getM .. => true
  | .upgrade .. => true
  | _ => false

/-- Lines that wait for the directory way that a line has (R292). -/
def State.wayWaiters (s : State) (l : LineNo) : List LineNo :=
  (s.homeLines.filter fun e => e.2.phase == .wantWay l.toNat).map fun e => BitVec.ofNat 46 e.1

/-- One request of a line acted on, at the head of its queue; x is the line with the request taken off. -/
def State.homeServe (s : State) (l : LineNo) (x : HomeLine) (r : HomeReq) : State :=
  let s := if s.ownerOrdered l then s.homeActOO l x r else s.homeAct l x r
  if (s.homeLine l).phase = .stable then s.freeEntry l r else s

/-- Work through a line's queue until a request leaves it in a transient state (R287). A line that holds no entry lets the lines that
waited for its directory way go on first (R292). -/
def State.homeRun (s : State) (l : LineNo) : Nat → State
  | 0 => s
  | k + 1 =>
    let free := (s.homeLine l).phase = .stable ∧ (s.homeLine l).noEntry
    let s := (if free then s.wayWaiters l else []).foldl (fun s w =>
      (s.setHomeLine w { s.homeLine w with phase := .stable }).homeRun w k) s
    let x := s.homeLine l
    match x.phase, x.queue with
    | .stable, r :: q =>
      let y := { x with queue := q }
      match s.homeCheck l r with
      | some code =>
        let s := s.setHomeLine l y
        let s := match r.agent with
          | some a => s.send (.refuse a l code)
          | none => s
        (s.freeEntry l r).homeRun l k
      | none =>
        if x.noEntry ∧ r.allocates then
          match s.dirPlace l with
          | (some w, _) => (s.homeServe l { y with way := w } r).homeRun l k
          | (none, some v) =>
            -- the victim's recall first; the request waits
            let s := { s with free := s.free + 1 }.setHomeLine l { x with phase := .wantWay v }
            let vl : LineNo := BitVec.ofNat 46 v
            let z := s.homeLine vl
            (s.setHomeLine vl { z with queue := z.queue ++ [.recall] }).homeRun vl k
          | (none, none) => s
        else (s.homeServe l y r).homeRun l k
    | _, _ => s

/-- Fuel for a home's queues: every waiting request of every line, and two more for each line. -/
def State.homeFuel (s : State) : Nat := s.homeLines.foldl (fun n e => n + e.2.queue.length + 2) 2

/-- The home goes on with a line whose transient state has ended. -/
def State.homeNext (s : State) (l : LineNo) : State := s.homeRun l s.homeFuel

/-- A request joins its line's queue (R287). -/
def State.homeJoin (s : State) (l : LineNo) (r : HomeReq) : State :=
  let x := s.homeLine l
  (s.setHomeLine l { x with queue := x.queue ++ [r] }).homeNext l

/-- A request message that reaches its home: it joins the line's queue, or is turned into a RETRY (R293). i is the message. -/
def State.atHome (s : State) (l : LineNo) (r : HomeReq) (i : Instr) : State :=
  let h := homeEp l
  match r.agent with
  | none => s.homeJoin l r
  | some a =>
    let q := s.poolOf a l
    if s.entryFor h a l then
      let x := s.home h
      (s.setHome h { x with reserved := dropFirst (a, q) x.reserved }).homeJoin l r
    else
      let x := s.home h
      let rec ins : List (Nat × Nat) → List (Nat × Nat)
        | [] => [(a, q)]
        | b :: m => if a < b.1 then (a, q) :: b :: m else if a = b.1 then b :: m else b :: ins m
      let s := s.setHome h { x with retryMap := ins x.retryMap }
      let k := a * 2048 + h
      let s := { s with retrying := tset [] s.retrying k (tget [] s.retrying k ++ [i]) }
      { s with coh := { s.coh with retries := .ofNat 32 (satInc 32 s.coh.retries.toNat) } }.send (.retry a l)

/-- A request that its home has served leaves its entry, and the home goes on with the line. -/
def State.homeEnd (s : State) (l : LineNo) (y : HomeLine) (r : HomeReq) : State :=
  ((s.setHomeLine l { y with phase := .stable, req := none, contended := false }).freeEntry l r).homeNext l

/-- An entry that names no agent. -/
def HomeLine.cleared (x : HomeLine) : HomeLine := { x with owner := none, ownedO := false, sharers := [], coarse := false }

/-- The transient state of a line ends when nothing is awaited any more (R289). -/
def State.homeFinish (s : State) (l : LineNo) : State :=
  let x := s.homeLine l
  match x.phase, x.req with
  | .hf true 0 acksSet false refused, some (.getM a) | .hf true 0 acksSet false refused, some (.upgrade a) =>
    if refused then s.homeEnd l x.cleared (.getM a)
    else (if acksSet then s.send (.done a l) else s).homeEnd l (x.ownedBy a) (.getM a)
  | .ha 0 up, some (.getM a) | .ha 0 up, some (.upgrade a) =>
    let s := if up then (s.noteServed (homeEp l) l a).send (.grant a l true) else s.send (.done a l)
    s.homeEnd l (x.ownedBy a) (.getM a)
  | .hn 0 false, some r =>
    match r with
    | .read _ =>
      let y := match x.owner with
        | some o => { x with owner := none, ownedO := false }.addSharer o
        | none => x
      (s.ncPerform l r).homeEnd l y r
    | .amo a b =>
      if s.isMule (lineAddr l) then s.muleAmo l r x.cleared else (s.homeAmo l a b true).homeEnd l x.cleared r
    | .remote .. => if s.isMule (lineAddr l) then s.muleAmo l r x.cleared else (s.ncPerform l r).homeEnd l x.cleared r
    | r => (s.ncPerform l r).homeEnd l x.cleared r
  | .oo 0 false, some r =>
    -- the line and its watchers are in; the request is acted on again
    (s.setHomeLine l { x with phase := .stable, req := none, queue := r :: x.queue }).homeNext l
  | _, _ => s

/-- INV_ACK at the home. -/
def State.homeInvAck (s : State) (l : LineNo) : State :=
  let x := s.homeLine l
  let y := match x.phase with
    | .hf f n k sn rf => { x with phase := .hf f (n - 1) k sn rf }
    | .ha n up => { x with phase := .ha (n - 1) up }
    | .hn n sn => { x with phase := .hn (n - 1) sn }
    | .oo n ln => { x with phase := .oo (n - 1) ln }
    | _ => x
  (s.setHomeLine l y).homeFinish l

/-- SNP_RESP to a forward of an owner-ordered line: one that has missed, and was for another agent, the home serves (R285, R298). -/
def State.homeFwd (s : State) (a : Nat) (l : LineNo) (code : BitVec 2) : State :=
  let x := s.homeLine l
  match x.fwds.find? (·.1 == a) with
  | none => s
  | some f =>
    let s := s.setHomeLine l { x with fwds := dropFirst f x.fwds }
    if code = 0 ∧ f.2 ≠ homeEp l then (s.serve l f.2 fun d => .dataM f.2 l d true false).2 else s

/-- SNP_RESP at the home (R289). -/
def State.homeSnp (s : State) (a : Nat) (l : LineNo) (code : BitVec 2) : State :=
  let s := if code = 0 then { s with coh := { s.coh with misses := .ofNat 16 (satInc 16 s.coh.misses.toNat) } } else s
  let s := s.homeFwd a l code
  let x := s.homeLine l
  match x.phase, x.req with
  | .hf false _ _ _ _, some (.getS r so) =>
    let fin (s : State) (y : HomeLine) : State := s.homeEnd l y (.getS r so)
    if code = 1 then fin s (({ x with owner := none, ownedO := false }.addSharer a).addSharer r)
    else if code = 2 then fin s ({ x with ownedO := true }.addSharer r)
    else match s.serve l r fun d => .dataS r l d with
      | (true, s) => fin s ({ x with owner := none, ownedO := false }.addSharer r)
      | (false, s) => fin s { x with owner := none, ownedO := false }
  | .hf true n k _ _, some q =>
    match code, q.agent with
    | 0, some r =>
      let (ok, s) := s.serve l r fun d => .dataM r l d true (decide (n ≠ 0))
      (s.setHomeLine l { x with phase := .hf true n k false (!ok) }).homeFinish l
    | _, _ => (s.setHomeLine l { x with phase := .hf true n k false false }).homeFinish l
  | .hn n _, _ => (s.setHomeLine l { x with
      phase := .hn n false
      owner := if code = 0 then none else x.owner }).homeFinish l
  | .mule, some r => s.homeEnd l x r
  | .oo n true, _ => if code = 0 ∧ !x.fwds.any (·.2 == homeEp l) then (s.setHomeLine l { x with phase := .oo n false }).homeFinish l else s
  | _, _ => s

/-- The master whose request a line is in service for (R268). -/
def State.reqMaster (s : State) (r : Option HomeReq) : Nat :=
  let nc (id : Nat) : Nat := match s.nonCaching.find? (·.id == id) with
    | some q => q.charge
    | none => mSystem
  match r with
  | some (.read id) => nc id
  | some (.write id ..) => nc id
  | some (.remote id _) => nc id
  | some r => match r.agent with
    | some a => s.agentMaster a
    | none => mSystem
  | none => mSystem

/-- WB_DATA at the home: written to the LLC or memory (R289). -/
def State.homeWb (s : State) (a : Nat) (l : LineNo) (d : Line) : State :=
  let x := s.homeLine l
  match x.phase with
  | .hn n _ => ((s.homeWrite l.toNat (s.partOfAgent a l) true d 0 (s.reqMaster x.req)).setHomeLine l { x with phase := .hn n false }).homeFinish l
  | _ => s

/-- DATA_M that an owner sends to the home itself (R298): the line has arrived. -/
def State.homeDataM (s : State) (l : LineNo) (d : Line) : State :=
  let x := s.homeLine l
  match x.phase with
  | .oo n true => ((s.homeWrite l.toNat 0x3F false d 0 (s.reqMaster x.req)).setHomeLine l { x with phase := .oo n false }).homeFinish l
  | _ => s

/-- A ring of the engine keeps its tail word in the line. -/
def State.tailIn (s : State) (e : Nat) (l : LineNo) : Bool :=
  (s.engine e).rings.any fun r => r.2.enabled && lineNo r.2.tailAddr.toNat == l

/-- An engine whose shared copy has gone reads the line again while a ring keeps its tail word there (R172). -/
def State.rereadTail (s : State) (a : Nat) (l : LineNo) : State :=
  match engineOfEp a with
  | some e => if s.tailIn e l then s.wantRead a l true else s
  | none => s

/-! Lines that no agent moves: the cache operations and recalls that act on every cache at once. -/

/-- No request for the line is in service, and no agent holds it in a transient state. -/
def State.quiet (s : State) (l : LineNo) : Bool :=
  let x := s.homeLine l
  x.phase == .stable && x.queue.isEmpty &&
    s.agents.all fun e => e.1 / 2048 != l.toNat || (e.2.st.stable && e.2.deferred.isEmpty)

/-- Dirty data of the line at its agents written home for a master (R268). -/
def State.writeBack (s : State) (l : LineNo) (m : Nat := mSystem) : State :=
  match s.agents.find? fun e => e.1 / 2048 == l.toNat && (e.2.st == .M || e.2.st == .O) with
  | some e => s.homeWrite l.toNat 0x3F false e.2.data 0 m
  | none => s

/-- The tail count that a ring's tail word shows now (R171). -/
def State.tailNow (s : State) (r : Ring) : BitVec 32 := BitVec.ofNat 32 (leNat (lineGet (s.lineView (r.tailAddr.toNat / 64)) (r.tailAddr.toNat % 64) 4))

/-- The command that the ring runs was visible when its tail count was t. -/
def Ring.sees (r : Ring) (t : BitVec 32) : Bool := decide ((t - r.head).toNat < 2 ^ 31)

/-- A line of a MULE region leaves the cells' caches: noted where commands are visible to its engine that have not retired (R166). -/
def State.uncache (s : State) (l : LineNo) : State :=
  if !s.muleCached.contains l.toNat then s
  else
    let rings := (s.engine (ctlOf (lineAddr l))).rings.filter fun r => r.2.enabled
    let open_ (g : Nat × SMap (BitVec 32)) : Bool := rings.any fun r => match g.2.find? (·.1 == r.1) with
      | some t => r.2.cur.isSome && r.2.sees t.2 || (decide (r.2.head ≠ t.2) && r.2.sees t.2)
      | none => false
    let g := (l.toNat, rings.map fun r => (r.1, s.tailNow r.2))
    { s with
      muleCached := s.muleCached.filter (· != l.toNat)
      muleGone := (s.muleGone.filter fun x => ctlOf (64 * x.1) != ctlOf (lineAddr l) || open_ x) ++ (if open_ g then [g] else []) }

/-- Every agent's copy, the directory entry and the LLC copy of the line go; dirty data is written back unless discarded. -/
def State.flushLine (s : State) (l : LineNo) (discard : Bool) (m : Nat := mSystem) : State :=
  let s := if discard then s else s.writeBack l m
  let held := s.agents.filter fun e => e.1 / 2048 == l.toNat && e.2.st != .I
  let s := held.foldl (fun s e => s.agentLose (e.1 % 2048) l .I) s
  let s := ((s.setHomeLine l {}).llcDrop l.toNat m).homeNext l
  -- an engine whose copy has gone reads its tail words again (R172)
  held.foldl (fun s e => s.rereadTail (e.1 % 2048) l) (s.uncache l)

/-- Dirty copies of the line are written back and stay clean (CBO.CLEAN). -/
def State.cleanLine (s : State) (l : LineNo) (m : Nat := mSystem) : State :=
  let s := s.writeBack l m
  let x := s.homeLine l
  let s := match x.owner with
    | some o =>
      match (s.agent o l).st with
      | .M => s.agentTo o l .E
      | .O => (s.agentTo o l .S).setHomeLine l ({ x with owner := none, ownedO := false }.addSharer o)
      | _ => s
    | none => s
  match s.llcLine l.toNat with
  | some e => if e.dirty then (s.llcPlace l.toNat { e with dirty := false }).ctlWritten l.toNat m else s
  | none => s

end Sys2Proof.Machine
end

