-- ==== Sys2Proof/Machine/OxNum.lean ====
section
/-! DEFINITION. Ox commands: their fields, the checks at dispatch, the streams they read and write, and what each computes
(01_cell_and_ox_engine.md, 02_number_formats.md). Everything here is a function of a command, the scratchpad bytes and the
Ox's own state; the commands of the block that use it are in Ox.lean. -/
namespace Sys2Proof.Machine

/-- Bits lo to lo + w - 1 of an Ox command (byte k bit b is bit 8k + b, R38). -/
def oxf (c : Unit32) (lo w : Nat) : Nat := bfield c lo w

def oxOpcode (c : Unit32) : Nat := oxf c 0 8
def oxNotify (c : Unit32) : Bool := c.getLsbD 15
def oxTag (c : Unit32) : Nat := oxf c 16 16
/-- FLAGS bit b of byte 1. -/
def oxFlag (c : Unit32) (b : Nat) : Bool := c.getLsbD (8 + b)
/-- The format code of byte 4. -/
def oxFmt (c : Unit32) : Nat := oxf c 32 4
/-- A 16-bit field at byte k. -/
def ox16 (c : Unit32) (k : Nat) : Nat := oxf c (8 * k) 16
/-- WB or the accumulator number named in FLAGS. -/
def oxWb (c : Unit32) : Nat := oxf c 12 1
def oxAcc (c : Unit32) : Nat := oxf c 8 1
/-- SPARSE of WLOAD and MMA. -/
def oxSparse (c : Unit32) : Bool := oxFlag c 2

/-- Pipelines of R39. -/
inductive OxPipe where
  | none | load | array | epilogue
  deriving DecidableEq, Repr

def oxPipe (c : Unit32) : OxPipe :=
  match oxOpcode c with
  | 1 => .load
  | 2 => .array
  | 3 => .epilogue
  | 4 => .load
  | 5 => .load
  | 6 => .epilogue
  | _ => .none

/-- Format classes of R20. -/
def isF8 (f : Nat) : Bool := decide (f ≤ 5)
def isF4 (f : Nat) : Bool := f == 6 || f == 0xB
def isI8 (f : Nat) : Bool := f == 7 || f == 0xA
def isH16 (f : Nat) : Bool := f == 8 || f == 9
/-- Formats with E8M0 scales (R40, R54). -/
def isMx (f : Nat) : Bool := decide (2 ≤ f) && decide (f ≤ 7)

/-- Bits of one stored element (R53). -/
def fmtBits (f : Nat) : Nat :=
  if f = 4 ∨ f = 5 then 6 else if isF4 f then 4 else if isH16 f then 16 else if f = 0xC then 32 else 8

/-- Kc of an operand pair (R20): none where the pair is not in the table. -/
def pairKc (a w : Nat) (sparse : Bool) : Option Nat :=
  if a = 6 ∧ isF4 w then some (if sparse then 256 else 128)
  else if (isF8 a || a == 6) && (isF8 w || w == 0xB) then some (if sparse then 128 else 64)
  else if isI8 a && isI8 w then some (if sparse then 128 else 64)
  else if isH16 a ∧ a = w then some 32
  else none

/-- Kmax of a weight format (R21). -/
def kmax (w : Nat) (sparse : Bool) : Nat :=
  if isF4 w then (if sparse then 256 else 128)
  else if isH16 w then 32
  else if sparse then 128 else 64

/-- Fault kinds (R36). -/
def kIllegal : Nat := 1
def kRsvd : Nat := 2
def kBadFmt : Nat := 3
def kPair : Nat := 4
def kRange : Nat := 5
def kNotOwner : Nat := 6
def kSparse : Nat := 7
def kCbSlot : Nat := 8
def kEcc : Nat := 9
def kShape : Nat := 0xA

/-- The bit ranges (low bit, width) that an opcode defines (R38, R41); every other bit is reserved. -/
def oxFields (op : Nat) : List (Nat × Nat) :=
  [(0, 8), (15, 1), (16, 16)] ++
  match op with
  | 1 => [(12, 1), (10, 1), (32, 4), (48, 112)]
  | 2 => [(12, 1), (10, 1), (9, 1), (8, 1), (32, 4), (48, 80)]
  | 3 => [(11, 4), (8, 1), (32, 4), (40, 2), (48, 128), (192, 32)]
  | 4 => [(8, 3), (32, 8), (80, 16)]
  | 5 => [(8, 2), (80, 16)]
  | 6 => [(8, 1), (48, 64)]
  | _ => []

/-- The mask of the defined bits. -/
def fieldMask : List (Nat × Nat) → Nat
  | [] => 0
  | (lo, w) :: l => (2 ^ w - 1) * 2 ^ lo ||| fieldMask l

/-- Fields that must be zero under the command's flags or formats (R41). -/
def oxZeroFields (c : Unit32) : List Nat :=
  match oxOpcode c with
  | 1 => (if oxSparse c then [] else [ox16 c 14])
         ++ (if isMx (oxFmt c) || oxFmt c == 0xB then [] else [ox16 c 16])
  | 2 => if isMx (oxFmt c) then [] else [ox16 c 12]
  | 3 => (if oxFlag c 3 then [] else [oxf c 40 2]) ++ (if oxFlag c 5 then [] else [ox16 c 14])
         ++ (if oxFlag c 4 then [] else [ox16 c 16]) ++ (if isMx (oxFmt c) then [] else [ox16 c 18])
  | _ => []

def oxReservedSet (c : Unit32) : Bool :=
  c.toNat &&& fieldMask (oxFields (oxOpcode c)) != c.toNat || (oxZeroFields c).any (· != 0)

/-- A format code reserved or not allowed where it stands, or SPARSE with an H16 format (R40, R23). -/
def oxBadFmt (c : Unit32) : Bool :=
  let f := oxFmt c
  match oxOpcode c with
  | 1 => decide (f > 0xB) || (oxSparse c && isH16 f)
  | 2 => decide (f > 0xA) || (oxSparse c && isH16 f)
  | 3 => !([0, 1, 2, 3, 6, 8, 9, 0xA, 0xC].contains f)
  | _ => false

/-- What an MMA finds in its weight buffer when it is dispatched: format, SPARSE, KC and NCOLS of the tile that the last
earlier WLOAD into the buffer leaves there. -/
structure WbMeta where
  fmt : Nat
  sparse : Bool
  kc : Nat
  ncols : Nat
  deriving DecidableEq, Repr

def Tile.info (t : Tile) : WbMeta := ⟨t.fmt.toNat, t.sparse, t.kc, t.ncols⟩
def wloadInfo (c : Unit32) : WbMeta := ⟨oxFmt c, oxSparse c, ox16 c 6, ox16 c 8⟩

def Ox.wb (o : Ox) (n : Nat) : Option Tile := if n = 0 then o.wb0 else o.wb1
def Ox.setWb (o : Ox) (n : Nat) (t : Option Tile) : Ox := if n = 0 then { o with wb0 := t } else { o with wb1 := t }

/-- The WLOADs into a buffer among dispatched commands that have not completed. -/
def Ox.pendingWloads (o : Ox) (n : Nat) : List Unit32 :=
  (o.inflight.filter fun e => !e.done && oxOpcode e.raw == 1 && oxWb e.raw == n).map (·.raw)

def Ox.wbInfo (o : Ox) (n : Nat) : Option WbMeta :=
  match (o.pendingWloads n).getLast? with
  | some c => some (wloadInfo c)
  | none => (o.wb n).map Tile.info

/-- A stream of an Ox command (R37): start and stride in 32-byte units, rows, bytes of one row. -/
structure OxStream where
  start : Nat
  rows : Nat
  stride : Nat
  rowBytes : Nat
  deriving DecidableEq, Repr

/-- The extent of a stream, in 32-byte units. -/
def OxStream.extent (t : OxStream) : Nat := t.start + (t.rows - 1) * t.stride + ceilDiv t.rowBytes 32

/-- First byte of row r. -/
def OxStream.rowAt (t : OxStream) (r : Nat) : Nat := 32 * t.start + 32 * r * t.stride

/-- The byte ranges (first, length) of a stream, row by row. -/
def OxStream.pieces (t : OxStream) : List (Nat × Nat) := (span 0 t.rows).map fun r => (t.rowAt r, t.rowBytes)

/-- The span (first byte, one past the last byte) of a stream. -/
def OxStream.bounds (t : OxStream) : Nat × Nat := (t.rowAt 0, t.rowAt (t.rows - 1) + t.rowBytes)

/-- Bytes of a stored column of a tile, and of a row of n elements. -/
def elemBytes (f n : Nat) : Nat := ceilDiv (n * fmtBits f) 8

/-- The streams that a command reads, in the order of their address fields. An MMA takes KC from its buffer. -/
def oxReads (kc : Nat) (c : Unit32) : List OxStream :=
  match oxOpcode c with
  | 1 =>
    let k := ox16 c 6
    let n := ox16 c 8
    let sp := oxSparse c
    [⟨ox16 c 10, n, ox16 c 12, elemBytes (oxFmt c) (if sp then k / 2 else k)⟩]
    ++ (if sp then [⟨ox16 c 14, 1, 0, n * ceilDiv k 8⟩] else [])
    ++ (if isMx (oxFmt c) then [⟨ox16 c 16, n, ox16 c 18, k / 32⟩]
        else if oxFmt c = 0xB then [⟨ox16 c 16, n, ox16 c 18, 1⟩] else [])
  | 2 =>
    [⟨ox16 c 8, ox16 c 6, ox16 c 10, elemBytes (oxFmt c) kc⟩]
    ++ (if isMx (oxFmt c) then [⟨ox16 c 12, ox16 c 6, ox16 c 14, kc / 32⟩] else [])
  | 3 =>
    (if oxFlag c 5 then [⟨ox16 c 14, 1, 0, 4 * ox16 c 8⟩] else [])
    ++ (if oxFlag c 4 then [⟨ox16 c 16, 1, 0, 4 * ox16 c 8⟩] else [])
  | 4 => [⟨ox16 c 10, 1, 0, 32 * oxf c 32 8⟩]
  | 5 => [⟨ox16 c 10, 1, 0, 288⟩]
  | 6 => [⟨ox16 c 10, ox16 c 6, ox16 c 12, 4 * ox16 c 8⟩]
  | _ => []

/-- The streams that an EPI writes: its output rows and output scales (R33, R73). -/
def oxWrites (c : Unit32) : List OxStream :=
  if oxOpcode c = 3 then
    [⟨ox16 c 10, ox16 c 6, ox16 c 12, elemBytes (oxFmt c) (ox16 c 8)⟩]
    ++ (if isMx (oxFmt c) then [⟨ox16 c 18, ox16 c 6, ox16 c 20, ox16 c 8 / 32⟩] else [])
  else []

/-- All streams in the order of their address fields (R612). -/
def oxStreams (kc : Nat) (c : Unit32) : List OxStream :=
  if oxOpcode c = 3 then
    match oxWrites c with
    | [] => oxReads kc c
    | o :: rest => o :: oxReads kc c ++ rest
  else oxReads kc c

/-- A count outside its range or not of its required multiple (R21, R25). -/
def oxBadShape (m : Option WbMeta) (c : Unit32) : Bool :=
  let f := oxFmt c
  let bad (v hi : Nat) : Bool := v == 0 || decide (v > hi)
  match oxOpcode c with
  | 1 =>
    let k := ox16 c 6
    bad k (kmax f (oxSparse c)) || bad (ox16 c 8) 64
      || ((isMx f || f == 0xB) && k % 32 != 0) || (oxSparse c && k % 4 != 0)
  | 2 =>
    match m with
    | none => true
    | some w =>
      bad (ox16 c 6) 64 || decide (w.kc > (pairKc f w.fmt w.sparse).getD 0) || (isMx f && w.kc % 32 != 0)
  | 3 => bad (ox16 c 6) 64 || bad (ox16 c 8) 64 || (isMx f && ox16 c 8 % 32 != 0)
  | 4 => bad (oxf c 32 8) 8
  | 6 => bad (ox16 c 6) 64 || bad (ox16 c 8) 64
  | _ => false

/-- The lowest 32-byte unit that a command reads in a bank that the Ox does not own (R34, R612). -/
def lowestNotOwned (owned : Nat → Bool) (l : List OxStream) : Option Nat :=
  let units := l.flatMap fun t => t.pieces.flatMap fun (a, n) => span (a / 32) (if n = 0 then 0 else (a + n - 1) / 32 - a / 32 + 1)
  let badUnits := units.filter fun u => !owned (u / 4096)
  badUnits.foldl (fun b u => match b with | none => some u | some w => some (min w u)) none

/-- The checks of R35 in their order: the kind and address (R612) of the first that fails. owned tells whether the Ox
owns a bank. -/
def oxCheck (owned : Nat → Bool) (o : Ox) (c : Unit32) : Option (Nat × Nat) :=
  let m := o.wbInfo (oxWb c)
  let kc := (m.map WbMeta.kc).getD 0
  let mma := oxOpcode c == 2
  if oxOpcode c > 7 then some (kIllegal, 0)
  else if oxReservedSet c then some (kRsvd, 0)
  else if oxBadFmt c then some (kBadFmt, 0)
  else if mma && m.isNone then some (kShape, 0)
  else if mma && (m.any fun w => (pairKc (oxFmt c) w.fmt w.sparse).isNone) then some (kPair, 0)
  else if mma && (m.any fun w => w.sparse != oxSparse c) then some (kSparse, 0)
  else if oxBadShape m c then some (kShape, 0)
  else if oxOpcode c = 4 ∧ oxf c 8 3 + oxf c 32 8 > 8 then some (kCbSlot, 0)
  else match (oxStreams kc c).find? (fun t => decide (t.extent > 65536)) with
    | some t => some (kRange, t.start)
    | none => (lowestNotOwned owned (oxReads kc c)).map fun u => (kNotOwner, u)

/-! Hazards (R31, R32). -/

def meets (a b : Nat × Nat) : Bool := decide (a.1 < b.2) && decide (b.1 < a.2)

/-- The write range of an EPI: from its lowest to its highest byte, output scales included (R32). -/
def epiRange (c : Unit32) : Nat × Nat :=
  match (oxWrites c).map OxStream.bounds with
  | [] => (0, 0)
  | b :: l => l.foldl (fun r x => (min r.1 x.1, max r.2 x.2)) b

/-- What an entry reads, each stream as the span from its first byte to its last (R32; DESIGN CHOICE, log 85). -/
def OxEntry.readSpans (e : OxEntry) : List (Nat × Nat) := (oxReads e.kc e.raw).map OxStream.bounds

/-- A command (c) waits for an earlier entry (e) before it starts, under the table of R31 and the write ranges of R32: an EPI that
has started holds its range until it retires. The wait of an EPI for the rows of an MMA is OxEntry.rowWait. -/
def oxConflict (e c : OxEntry) : Bool :=
  let oa := oxOpcode e.raw
  let ob := oxOpcode c.raw
  (oa == 7)
  || (!e.done &&
      ((oa == 1 && ob == 2 && oxWb e.raw == oxWb c.raw) || (oa == 2 && ob == 1 && oxWb e.raw == oxWb c.raw)
       || (oa == 2 && ob == 6 && oxAcc e.raw == oxAcc c.raw)
       || (oa == 3 && (ob == 2 || ob == 6) && oxAcc e.raw == oxAcc c.raw)
       || (oa == 6 && (ob == 2 || ob == 3) && oxAcc e.raw == oxAcc c.raw)
       || (oa == 1 && oxFmt e.raw == 0xB && ob == 4) || (oa == 4 && ob == 1 && oxFmt c.raw == 0xB)
       || (oa == 3 && oxFlag e.raw 3 && ob == 5 && oxf e.raw 40 2 == oxf c.raw 8 2)
       || (oa == 5 && ob == 3 && oxFlag c.raw 3 && oxf e.raw 8 2 == oxf c.raw 40 2)
       || (ob == 3 && e.readSpans.any (meets (epiRange c.raw)))))
  || ((e.started || e.done) && oa == 3 && c.readSpans.any (meets (epiRange e.raw)))

/-- An EPI reads row r no earlier than the cycle in which row r of the last earlier MMA on its accumulator commits (R31). The
rows of an MMA commit together, in the MMA's own command, so that is the condition for every row. -/
def OxEntry.rowWait (e c : OxEntry) : Bool :=
  !e.done && oxOpcode e.raw == 2 && oxOpcode c.raw == 3 && oxAcc e.raw == oxAcc c.raw

/-- The entries before the first that a predicate picks, with that entry and the rest. -/
def splitFirst (p : OxEntry → Bool) : List OxEntry → Option (List OxEntry × OxEntry × List OxEntry)
  | [] => none
  | e :: l => if p e then some ([], e, l) else
    match splitFirst p l with
    | none => none
    | some (a, x, b) => some (e :: a, x, b)

/-- The command at the head of a pipeline: its first command that has not completed. -/
def Ox.head (o : Ox) (p : OxPipe) : Option (List OxEntry × OxEntry × List OxEntry) :=
  splitFirst (fun e => !e.done && oxPipe e.raw == p) o.inflight

/-- An entry starts (R29): it stands at the head of its pipeline and every hazard on it has cleared. A pre-empted Ox starts only
the commands that it still lets complete (R44). -/
def oxMayStart (frozen : Bool) (before : List OxEntry) (e : OxEntry) : Bool :=
  !e.started && !e.done && oxPipe e.raw != .none && !(before.any fun b => !b.done && oxPipe b.raw == oxPipe e.raw)
    && !(before.any fun b => oxConflict b e) && (!frozen || e.last)

/-- Every command that may start has started, oldest first. -/
def oxStartAll (frozen : Bool) : List OxEntry → List OxEntry → List OxEntry
  | before, [] => before
  | before, e :: l => oxStartAll frozen (before ++ [if oxMayStart frozen before e then { e with started := true } else e]) l

/-- The Ox with every command started that may start. -/
def Ox.startHeads (o : Ox) : Ox := { o with inflight := oxStartAll o.frozen [] o.inflight }

/-- The command that a pipeline executes, if any: it has started and not completed. -/
def Ox.started (o : Ox) (p : OxPipe) : Option OxEntry := o.inflight.find? fun e => e.started && !e.done && oxPipe e.raw == p

/-- A pipeline's head can run to completion: it has started, and an EPI's accumulator rows have committed (R29, R31). -/
def oxReady (before : List OxEntry) (e : OxEntry) : Bool := e.started && !before.any fun b => b.rowWait e

/-- Commands in a pipeline's input queue (R29): the command at its head counts until it has completed, started or not (DESIGN CHOICE,
log 110). -/
def Ox.waiting (o : Ox) (p : OxPipe) : Nat :=
  (o.inflight.filter fun e => !e.done && oxPipe e.raw == p).length

/-! Decoding (R49 to R62). -/

/-- Element i of packed elements of w bits from byte a (R53). -/
def elemAt (sp : Nat → Byte) (a w i : Nat) : Nat :=
  let bit := w * i
  let first := bit / 8
  let v := leNat ((span (a + first) 3).map sp)
  field v (bit % 8) w

/-- The value of a stored element of a format other than CB4. -/
def elemNum (f v : Nat) : Num :=
  match f with
  | 0 => .decode fmtE4M3 v
  | 1 => .decode fmtE5M2 v
  | 2 => .decode fmtE4M3 v
  | 3 => .decode fmtE5M2 v
  | 4 => .decode fmtE3M2 v
  | 5 => .decode fmtE2M3 v
  | 6 => .decode fmtE2M1 v
  | 7 => .fin (decide (v ≥ 128)) (if v ≥ 128 then 256 - v else v) (-6)
  | 8 => .decode fmtBF16 v
  | 9 => .decode fmtFP16 v
  | 0xA => .fin (decide (v ≥ 128)) (if v ≥ 128 then 256 - v else v) 0
  | _ => .decode fmtFP32 v

/-- An element under a block scale (R56). -/
def scaleNum (scale : Nat) (n : Num) : Num :=
  if scale = 0xFF then .nan else n.mul (.fin false 1 ((scale : Int) - 127))

/-- Row or column r of a stream as values: n elements of format f, with its E8M0 scale run where the format has one. The
scale of a stored element is that of the block of its K position pos. -/
def rowNums (sp : Nat → Byte) (f : Nat) (v s : OxStream) (r n : Nat) (pos : Nat → Nat) : List (Nat × Num) :=
  (span 0 n).map fun i =>
    let k := pos i
    let x := elemNum f (elemAt sp (v.rowAt r) (fmtBits f) i)
    (k, if isMx f then scaleNum (sp (s.rowAt r + k / 32)).toNat x else x)

/-- The K position of stored value i of column n of a sparse tile (R63, R64). -/
def sparsePos (sp : Nat → Byte) (metaAddr kc n i : Nat) : Nat :=
  let g := i / 2
  let m := elemAt sp (32 * metaAddr + n * ceilDiv kc 8) 4 g
  4 * g + field m (2 * (i % 2)) 2

/-- The tile that a WLOAD decodes (R21, R22, R59 to R65). -/
def wloadTile (sp : Nat → Byte) (o : Ox) (c : Unit32) : Tile :=
  let f := oxFmt c
  let kc := ox16 c 6
  let n := ox16 c 8
  let sparse := oxSparse c
  let v : OxStream := ⟨ox16 c 10, n, ox16 c 12, 0⟩
  let s : OxStream := ⟨ox16 c 16, n, ox16 c 18, 0⟩
  let stored := if sparse then kc / 2 else kc
  let col (j : Nat) : List (Nat × Num) :=
    let pos (i : Nat) := if sparse then sparsePos sp (ox16 c 14) kc j i else i
    if f = 0xB then
      let book := tget 0 o.cbk ((sp (s.rowAt j)).toNat % 8)
      (span 0 stored).map fun i => (pos i, .decode fmtBF16 (bfield book (16 * elemAt sp (v.rowAt j) 4 i) 16))
    else rowNums sp f v s j stored pos
  ⟨.ofNat 4 f, sparse, kc, n, (span 0 n).map col⟩

/-- The value at a K position of an A row, zero past its end. -/
def atPos (row : List (Nat × Num)) (k : Nat) : Num :=
  match row.find? (fun e => e.1 == k) with
  | some e => e.2
  | none => .fin false 0 0

/-- Consecutive pieces of eight entries (R67): the accumulation groups of a column, dense or sparse. -/
def groups8 {α : Type} : Nat → List α → List (List α)
  | 0, _ => []
  | n + 1, l => if l.isEmpty then [] else l.take 8 :: groups8 n (l.drop 8)

/-- The entry of the accumulator after an MMA's groups (R68). -/
def mmaEntry (a : List (Nat × Num)) (col : List (Nat × Num)) (start : BitVec 32) : BitVec 32 :=
  (groups8 col.length col).foldl
    (fun acc g => rneAcc ((dec32 acc).add (Num.sum (g.map fun e => (atPos a e.1).mul e.2)))) start

def accKey (m r n : Nat) : Nat := 4096 * m + 64 * r + n

/-- A list of updates applied to the accumulators. -/
def accWrite (acc : SMap (BitVec 32)) (l : List (Nat × BitVec 32)) : SMap (BitVec 32) :=
  l.foldl (fun m e => tset 0 m e.1 e.2) acc

/-- The accumulators after the first rows of an MMA (R24, R68 to R70). -/
def mmaRun (sp : Nat → Byte) (o : Ox) (t : Tile) (c : Unit32) (rows : Nat) : SMap (BitVec 32) :=
  let f := oxFmt c
  let v : OxStream := ⟨ox16 c 8, rows, ox16 c 10, 0⟩
  let s : OxStream := ⟨ox16 c 12, rows, ox16 c 14, 0⟩
  let clear := oxFlag c 1
  let m := oxAcc c
  accWrite o.acc ((span 0 rows).flatMap fun r =>
    let a := rowNums sp f v s r t.kc id
    (span 0 t.ncols).map fun n =>
      (accKey m r n, mmaEntry a (nth [] t.cols n) (if clear then 0 else tget 0 o.acc (accKey m r n))))

/-- The array cycles of the first rows of an MMA (R42, R43): the distinct 128-byte lines of each row of A and its scale run. -/
def mmaCycles (t : Tile) (c : Unit32) (rows : Nat) : Nat :=
  let lines (a n : Nat) : List Nat := if n = 0 then [] else span (a / 128) ((a + n - 1) / 128 - a / 128 + 1)
  ((span 0 rows).map fun r =>
    (distinct (((oxReads t.kc c).flatMap fun st => lines (st.rowAt r) st.rowBytes))).length).sum

/-- Field i of a function table (R26), as FP32. -/
def tblField (t : BitVec 2304) (byte : Nat) : BitVec 32 := .ofNat 32 (bfield t (8 * byte) 32)

/-- The function table at x (R27). -/
def tblEval (t : BitVec 2304) (x : BitVec 32) : BitVec 32 :=
  let nan : BitVec 32 := 0x7FC00000
  let xmin := tblField t 0
  let width := tblField t 4
  let q := mul32 (sub32 x xmin) (tblField t 8)
  let line (a b : BitVec 32) := if (dec32 a).eqv (.fin false 0 0) then (if (dec32 b).isNan then nan else b) else fma32 a x b
  let seg (s : Nat) : BitVec 32 :=
    let u := sub32 x (fma32 (rne32 (.fin false s 0)) width xmin)
    let k (i : Nat) := tblField t (32 + 16 * s + 4 * i)
    fma32 (fma32 (fma32 (k 3) u (k 2)) u (k 1)) u (k 0)
  match dec32 x, dec32 q with
  | .nan, _ => nan
  | _, .nan => nan
  | _, .inf true => line (tblField t 12) (tblField t 16)
  | _, .inf false => line (tblField t 20) (tblField t 24)
  | _, .fin neg m e =>
    let s := Num.floor neg m e
    if s < 0 then line (tblField t 12) (tblField t 16)
    else if s > 15 then line (tblField t 20) (tblField t 24)
    else seg s.toNat

/-- v of R25 for one accumulator entry: scale, column scale, bias, table. -/
def epiValue (c : Unit32) (tbl : BitVec 2304) (acc colscale bias : BitVec 32) : BitVec 32 :=
  let v := mul32 acc (.ofNat 32 (oxf c 192 32))
  let v := if oxFlag c 4 then mul32 v colscale else v
  let v := if oxFlag c 5 then add32 v bias else v
  if oxFlag c 3 then tblEval tbl v else v

/-- A step of the stochastic rounding generator (R74). -/
def srStep (x : BitVec 32) : BitVec 32 :=
  let x := if x = 0 then 0x9E3779B9 else x
  let x := x ^^^ (x <<< 13)
  let x := x ^^^ (x >>> 17)
  x ^^^ (x <<< 5)

/-- The outputs of n steps and the last state (R75). -/
def srDraw : Nat → BitVec 32 → List (BitVec 32) × BitVec 32
  | 0, x => ([], x)
  | n + 1, x => let y := srStep x
    let (l, z) := srDraw n y
    (y :: l, z)

/-- The random value of column n from a row's 32 output words (R75). -/
def srValue (words : List (BitVec 32)) (n : Nat) : Nat := bfield (nth 0 words (n / 2)) (16 * (n % 2)) 16

/-- The rounding of one element: stochastic where SR is set and |v| does not exceed the format's largest finite value
(R76, R77), else to nearest even. -/
def epiMode (sr : Option Nat) (x : Num) (big : Num) : Rounding :=
  match sr with
  | none => .rne
  | some r => match x with
    | .fin _ m e => if Num.lt big (.fin false m e) then .rne else .stochastic r
    | _ => .rne

/-- Conversion of v to a non-MX format (R71). Stochastic rounding to INT8 takes 128 as the largest finite value of a negative v (R77;
DESIGN CHOICE, log 97). -/
def convert (f : Nat) (sr : Option Nat) (v : BitVec 32) : Nat :=
  let x := dec32 v
  let into (g : FloatFmt) : Nat := x.encode g (epiMode sr x (.decode g g.maxMag))
  match f with
  | 0 => match x with
    | .nan => 0x7F
    | .inf n => signed fmtE4M3 n 0x7E
    | .fin n m e => encodeSat fmtE4M3 (epiMode sr x (.decode fmtE4M3 0x7E)) n m e
  | 1 => match x with
    | .nan => 0x7F
    | .inf n => signed fmtE5M2 n 0x7C
    | .fin n m e => encodeSat fmtE5M2 (epiMode sr x (.decode fmtE5M2 0x7B)) n m e
  | 8 => into fmtBF16
  | 9 => into fmtFP16
  | 0xA => match x with
    | .nan => 0
    | .inf n => if n then 0x80 else 0x7F
    | .fin n m e =>
      let i := clampInt (-128) 127 (roundInt (epiMode sr x (.fin false (if n then 128 else 127) 0)) n m e)
      (i % 256).toNat
  | _ => match x with
    | .nan => 0x7FC00000
    | _ => v.toNat

/-- emax of an MX output format, and its element format (R72). -/
def mxEmax (f : Nat) : Int := if f = 2 then 8 else if f = 3 then 15 else 2
def mxElem (f : Nat) : FloatFmt := if f = 2 then fmtE4M3 else if f = 3 then fmtE5M2 else fmtE2M1

/-- One block of 32 values as scale byte and element encodings (R72). Values come with their random draws. -/
def mxBlock (f : Nat) (vs : List (Option Nat × BitVec 32)) : Nat × List Nat :=
  let xs := vs.map fun e => (e.1, dec32 e.2)
  let special (e : Option Nat × Num) : Bool := match e.2 with | .fin _ _ _ => false | _ => true
  if xs.any special then (0xFF, vs.map fun _ => 0)
  else
    let lg : Option Int := xs.foldl (fun b e => match e.2 with
      | .fin _ m x => if m = 0 then b else
        let l := (Nat.log2 m : Int) + x
        match b with | none => some l | some k => some (max k l)
      | _ => b) none
    let s : Int := match lg with | none => -127 | some l => max (-127) (l - mxEmax f)
    let g := mxElem f
    ((s + 127).toNat, xs.map fun e => match e.2 with
      | .fin n m x => encodeSat g (epiMode e.1 (.fin n m (x - s)) (.decode g g.maxMag)) n m (x - s)
      | _ => 0)

/-- Encodings of w bits packed into bytes (R53). -/
def packBits (w : Nat) (l : List Nat) : List Byte :=
  natBytes (ceilDiv (w * l.length) 8) (l.foldr (fun v acc => v + 2 ^ w * acc) 0)

/-- Pieces of 32 entries. -/
def blocks32 {α : Type} : Nat → List α → List (List α)
  | 0, _ => []
  | n + 1, l => if l.isEmpty then [] else l.take 32 :: blocks32 n (l.drop 32)

/-- The bytes that an EPI writes for one row: output elements, and scale bytes for an MX format (R71 to R73). -/
def epiRow (f : Nat) (vs : List (Option Nat × BitVec 32)) : List Byte × List Byte :=
  if isMx f then
    let bs := (blocks32 vs.length vs).map (mxBlock f)
    (packBits (fmtBits f) (bs.flatMap (·.2)), bs.map fun b => BitVec.ofNat 8 b.1)
  else (packBits (fmtBits f) (vs.map fun e => convert f e.1 e.2), [])

/-- The FP32 at byte a of the scratchpad. -/
def sp32 (sp : Nat → Byte) (a : Nat) : BitVec 32 := ofBytes 32 ((span a 4).map sp)

/-- Rows r to r + n - 1 of an EPI: the writes (address, bytes) in order, each row's elements before its scale bytes (R73; DESIGN
CHOICE, log 98), and the generator after them. -/
def epiRows (sp : Nat → Byte) (o : Ox) (c : Unit32) : Nat → Nat → BitVec 32 → List (Nat × List Byte) × BitVec 32
  | 0, _, seed => ([], seed)
  | k + 1, r, seed =>
    let f := oxFmt c
    let n := ox16 c 8
    let (words, seed') := if oxFlag c 6 then srDraw 32 seed else ([], seed)
    let tbl := tget 0 o.tbl (oxf c 40 2)
    let vs := (span 0 n).map fun j =>
      ((if oxFlag c 6 then some (srValue words j) else none),
       epiValue c tbl (tget 0 o.acc (accKey (oxAcc c) r j)) (sp32 sp (32 * ox16 c 16 + 4 * j))
         (sp32 sp (32 * ox16 c 14 + 4 * j)))
    let (out, sc) := epiRow f vs
    let (rest, last) := epiRows sp o c k (r + 1) seed'
    ((32 * ox16 c 10 + 32 * r * ox16 c 12, out) :: (if isMx f then [(32 * ox16 c 18 + 32 * r * ox16 c 20, sc)] else [])
      ++ rest, last)

/-- The accumulators after the first rows of an ACCLOAD (R41). -/
def accloadRun (sp : Nat → Byte) (o : Ox) (c : Unit32) (rows : Nat) : SMap (BitVec 32) :=
  let t : OxStream := ⟨ox16 c 10, ox16 c 6, ox16 c 12, 0⟩
  accWrite o.acc ((span 0 rows).flatMap fun r =>
    (span 0 (ox16 c 8)).map fun n => (accKey (oxAcc c) r n, sp32 sp (t.rowAt r + 4 * n)))

/-- The codebook slots after a CBLOAD has loaded n codebooks (R61). -/
def cbloadRun (sp : Nat → Byte) (o : Ox) (c : Unit32) (n : Nat) : SMap (BitVec 256) :=
  (span 0 n).foldl (fun m i =>
    tset 0 m (oxf c 8 3 + i) (ofBytes 256 ((span (32 * ox16 c 10 + 32 * i) 32).map sp))) o.cbk

/-- The function tables after a TLOAD has loaded the first n bytes of its table (R26). -/
def tloadRun (sp : Nat → Byte) (o : Ox) (c : Unit32) (n : Nat) : SMap (BitVec 2304) :=
  let old := bytesOf 288 (tget 0 o.tbl (oxf c 8 2))
  tset 0 o.tbl (oxf c 8 2) (ofBytes 2304 ((span (32 * ox16 c 10) n).map sp ++ old.drop n))

/-- An EPI whose source and destination regions overlap (R33), judged row by row: two regions overlap where a row's bytes of one
meet a row's bytes of the other (DESIGN CHOICE, log 85). -/
def oxOverlap (c : Unit32) : Bool :=
  let src := (oxReads 0 c).flatMap OxStream.pieces
  let dst := (oxWrites c).flatMap OxStream.pieces
  oxOpcode c == 3 && dst.any fun d => src.any fun s => meets (d.1, d.1 + d.2) (s.1, s.1 + s.2)

/-- The banks that an EPI writes. -/
def oxWriteBanks (c : Unit32) : List Nat :=
  distinct ((oxWrites c).flatMap fun t => t.pieces.flatMap fun (a, n) =>
    if n = 0 then [] else span (a / 131072) ((a + n - 1) / 131072 - a / 131072 + 1))

end Sys2Proof.Machine
end

