-- ==== Sys2Proof/Machine/Ox.lean ====
section
/-! DEFINITION. The commands of the Ox engine (R28 to R47): dispatch, the commands that its pipelines run, retirement, flush
and the seed. A pipeline's head runs to completion in one command of the block; it has started when it stands at the head
with every hazard cleared (R29). -/
namespace Sys2Proof.Machine


/-- OX_FAULT (R612). -/
def oxFaultWord (c : Unit32) (kind addr : Nat) : Word :=
  put 48 (oxTag c) ||| put 40 (oxOpcode c) ||| put 36 kind ||| put 20 addr ||| 1

/-- An EPI with SR set is executing (R47). -/
def Ox.srRunning (o : Ox) : Bool :=
  match o.started .epilogue with
  | some e => oxOpcode e.raw == 3 && oxFlag e.raw 6
  | none => false

/-- A FLUSH at once: queued and waiting commands are discarded, started ones stay and are waited for (OX_CTRL). An EPI that has started stays too where the
MMA whose rows it waits for is discarded, and then reads the accumulator as it stands (R31; DESIGN CHOICE, log 109). -/
def Ox.discard (o : Ox) : Ox :=
  { o with queue := [], inflight := (o.inflight.filter fun e => e.done || e.started).map fun e => { e with late := false }, flushPending := true }

/-- What waited for a stochastically rounding EPI takes effect once none is executing (R47). -/
def Ox.afterEpi (o : Ox) : Ox :=
  if o.srRunning then o
  else
    let o := match o.seedPending with
      | some v => { o with seed := v, seedPending := none }
      | none => o
    if o.flushAfterEpi then Ox.discard { o with flushAfterEpi := false } else o

/-- Once every earlier command has completed, the buffers of a faulted WLOAD are empty (R619); once those that were executing at a FLUSH
have, it clears HALT and OX_FAULT (R36, OX_CTRL). -/
def Ox.endFlush (o : Ox) : Ox :=
  let o := if o.inflight.all (·.done) then { o with
      wb0 := if o.emptyAfter.contains 0 then none else o.wb0
      wb1 := if o.emptyAfter.contains 1 then none else o.wb1
      emptyAfter := [] }
    else o
  if o.flushPending && o.inflight.all (fun e => e.done || e.late) then { o with halt := false, fault := 0, flushPending := false } else o

/-- What follows every change of the commands under way: a write that waited for an EPI, the end of a FLUSH, and the start of every
command whose hazards have cleared (R29). -/
def Ox.settle (o : Ox) : Ox := o.afterEpi.endFlush.startHeads

/-- The Ox after a fault of a command: earlier commands stay, later ones are discarded (R36). While the Ox is already halted, an
earlier command that faults is recorded in OX_FAULT over the later one, and reported too (DESIGN CHOICE, log 86). -/
def Ox.faulted (o : Ox) (earlier : List OxEntry) (c : Unit32) (kind addr : Nat) : Ox :=
  Ox.settle { o with
    queue := [], inflight := earlier, halt := true, fault := oxFaultWord c kind addr
    emptyAfter := if oxOpcode c = 1 then o.emptyAfter ++ [BitVec.ofNat 1 (oxWb c)] else o.emptyAfter }

/-- A command faults: the Ox halts and the cell reports the fault (R36, R463). -/
def State.oxFault (s : State) (p : Nat) (earlier : List OxEntry) (c : Unit32) (kind addr : Nat) : State :=
  (s.setOx p ((s.ox p).faulted earlier c kind addr)).cellFault p 0 (faultCode 1 kind) (oxTag c)

/-- OX_DISPATCH (R29, R35): the head command leaves the queue, is checked, and joins its pipeline's input queue. It stalls
while four commands wait there, while the Ox is halted, and while the cell is pre-empted. -/
def execOxDispatch (p : Pcell) (s : State) : Out := s.onClock p fun s =>
  let o := s.ox p
  match o.queue with
  | [] => .next s
  | c :: q =>
    if o.halt || o.frozen then .next s
    else if oxPipe c ≠ .none ∧ o.waiting (oxPipe c) ≥ 4 then .next s
    else match oxCheck (fun b => (s.cell p).bankOwner b == ownerOx) o c with
      | some (kind, addr) => .next (s.oxFault p o.inflight c kind addr)
      | none =>
        let kc := if oxOpcode c = 2 then ((o.wbInfo (oxWb c)).map WbMeta.kc).getD 0 else 0
        .next (s.setOx p (Ox.settle { o with queue := q, inflight := o.inflight ++ [{ raw := c, kc, late := o.flushPending }] }))

/-- A command that uses no pipeline completes unless a BARRIER is ahead of it; a BARRIER once every earlier command has
retired (R31). -/
def Ox.finishFirst (o : Ox) (op : Nat) : Ox :=
  match splitFirst (fun e => !e.done && oxOpcode e.raw == op) o.inflight with
  | none => o
  | some (before, e, after) =>
    let free := if op = 7 then before.isEmpty else !before.any fun b => oxOpcode b.raw == 7
    if free then Ox.settle { o with inflight := before ++ { e with done := true } :: after } else o

/-- OX_NOP (R39). -/
def execOxNop (p : Pcell) (s : State) : Out := s.onClock p fun s => .next (s.setOx p ((s.ox p).finishFirst 0))

/-- BARRIER (R31). -/
def execBarrier (p : Pcell) (s : State) : Out := s.onClock p fun s => .next (s.setOx p ((s.ox p).finishFirst 7))

/-- The byte ranges (first, length) of a command's reads in the order in which it makes them: row by row, and within a row in the
order of the address fields (DESIGN CHOICE, log 87: the order decides which of several bad words R612 names). -/
def oxPieces (l : List OxStream) : List (Nat × Nat) :=
  (span 0 (l.foldl (fun n t => max n t.rows) 0)).flatMap fun r =>
    l.filterMap fun t => if r < t.rows then some (t.rowAt r, t.rowBytes) else none

/-- The ranges read up to the first word with an uncorrectable error, and that word (R35, R36). -/
def State.oxReadTo (s : State) (p : Nat) : List (Nat × Nat) → List (Nat × Nat) × Option Nat
  | [] => ([], none)
  | (a, n) :: l => match s.spUncorr p a n with
    | some w => ([(a, 8 * w + 8 - a)], some w)
    | none => let (ps, bad) := s.oxReadTo p l
      ((a, n) :: ps, bad)

/-- The distinct 128-byte lines of ranges. -/
def distinctLines (ps : List (Nat × Nat)) : Nat := (distinct (ps.flatMap fun e => span (e.1 / 128) (linesTouched e.1 e.2))).length

/-- Lines that rows of m ranges each read, a row reading each of its lines once. -/
def rowLines (m : Nat) : Nat → List (Nat × Nat) → Nat
  | 0, _ => 0
  | k + 1, ps => if ps.isEmpty then 0 else distinctLines (ps.take m) + rowLines m k (ps.drop m)

/-- Lines that the ranges of a command's reads take (R42, R43): a WLOAD reads a line that holds more than one of its parts once, and
a row of an MMA a line that holds values and scales. -/
def oxLines (e : OxEntry) (ps : List (Nat × Nat)) : Nat :=
  match oxOpcode e.raw with
  | 1 => distinctLines ps
  | 2 => rowLines (oxReads e.kc e.raw).length ps.length ps
  | _ => ps.foldl (fun t x => t + linesTouched x.1 x.2) 0

/-- A command reads its operands: what it has read, the first uncorrectable word, and the state with every word touched (R452,
R457) and the lines counted. -/
def State.oxRead (s : State) (p : Nat) (e : OxEntry) : List (Nat × Nat) × Option Nat × State :=
  let (ps, bad) := s.oxReadTo p (oxPieces (oxReads e.kc e.raw))
  let s := ps.foldl (fun s x => s.spTouch p x.1 x.2) s
  (ps, bad, s.countCell p 3 (128 * oxLines e ps))

/-- What a command computes when it runs to its end: rows of an MMA or ACCLOAD, codebooks, bytes of a table, a tile. -/
def oxWhole (c : Unit32) : Nat :=
  match oxOpcode c with
  | 2 => ox16 c 6
  | 4 => oxf c 32 8
  | 5 => 288
  | 6 => ox16 c 6
  | _ => 1

/-- The rows, or 128-byte lines of codebooks and tables, that a command has read before a bad word. -/
def oxBefore (e : OxEntry) (ps : List (Nat × Nat)) (w : Nat) : Nat :=
  match oxOpcode e.raw with
  | 2 => (ps.length - 1) / (oxReads e.kc e.raw).length
  | 4 => w / 16 - ox16 e.raw 10 / 4
  | 5 => w / 16 - ox16 e.raw 10 / 4
  | 6 => ps.length - 1
  | _ => 0

/-- What k rows or lines make of oxWhole. -/
def oxAmount (c : Unit32) (k : Nat) : Nat :=
  let bytes := 128 * (ox16 c 10 / 4 + k) - 32 * ox16 c 10
  match oxOpcode c with
  | 2 => k
  | 4 => bytes / 32
  | 5 => bytes
  | 6 => k
  | _ => 0

/-- Cycles for which rows held a pcell's array, counted for the step that runs there (R386). -/
def State.chargeBusy (s : State) (p k : Nat) : State :=
  match s.cellCtx p with
  | none => s
  | some j =>
    let c := s.ctx j
    s.setCtx j { c with step := c.step.map fun st => { st with busy := st.busy + k } }

/-- Run the head of a pipeline to completion if it can and has the given opcode: body gives the Ox after an amount of its work, and
cycles the cycles for which rows held the array. A read with an uncorrectable error faults the command with kind ECC; it stops
at once, and how much of what it had read before has reached the Ox is a free value (R36; DESIGN CHOICE, log 88). An MMA so
stopped counts in OX_BUSY the cycles of its rows up to the failing one, and every conflict of the operand (R46; DESIGN CHOICE,
log 88). -/
def State.oxRun (s : State) (p : Nat) (pipe : OxPipe) (op : Nat) (body : (Nat → Byte) → Ox → Unit32 → Nat → Ox)
    (cycles : Ox → Unit32 → Nat → Nat := fun _ _ _ => 0) : State :=
  match (s.ox p).head pipe with
  | none => s
  | some (before, e, after) =>
    if oxOpcode e.raw = op ∧ oxReady before e then
      let sp (a : Nat) : Byte := tget 0 (s.cell p).sp a
      let n := (s.cell p).slot.toNat
      let (ps, bad, s) := s.oxRead p e
      let o := s.ox p
      let busy (s : State) (rows : Nat) : State :=
        let k := cycles o e.raw rows
        ((s.setOx p { s.ox p with busy := (s.ox p).busy + BitVec.ofNat 64 k }).countCoach n 11 k).chargeBusy p k
      match bad with
      | some w =>
        let k := oxBefore e ps w
        let (v, s) := s.freeWord
        let s := s.setOx p (body sp o e.raw (oxAmount e.raw (v.toNat % (k + 1))))
        (busy s (k + 1)).oxFault p before e.raw kEcc (w / 4)
      | none =>
        let o' := body sp { o with inflight := before ++ { e with done := true } :: after } e.raw (oxWhole e.raw)
        busy (s.setOx p o'.settle) (oxWhole e.raw)
    else s

/-- WLOAD (R21, R22). -/
def execWload (p : Pcell) (s : State) : Out := s.onClock p fun s =>
  .next (s.oxRun p .load 1 fun sp o c k => if k = 0 then o else o.setWb (oxWb c) (some (wloadTile sp o c)))

/-- CBLOAD (R61). -/
def execCbload (p : Pcell) (s : State) : Out := s.onClock p fun s =>
  .next (s.oxRun p .load 4 fun sp o c k => { o with cbk := cbloadRun sp o c k })

/-- TLOAD (R26). -/
def execTload (p : Pcell) (s : State) : Out := s.onClock p fun s =>
  .next (s.oxRun p .load 5 fun sp o c k => { o with tbl := tloadRun sp o c k })

/-- The array cycles of the first rows of an MMA, with those that its A-row reads lose to the other pipelines (R43). -/
def oxMmaCycles (conflicts : Nat) (o : Ox) (c : Unit32) (rows : Nat) : Nat :=
  match o.wb (oxWb c) with
  | none => 0
  | some t => mmaCycles t c rows + conflicts

/-- MMA (R24, R66 to R70). conflicts is the number of array cycles that its A-row reads lose to the other pipelines (R43). -/
def execMma (p : Pcell) (conflicts : Nat) (s : State) : Out := s.onClock p fun s =>
  .next (s.oxRun p .array 2 (fun sp o c k =>
    match o.wb (oxWb c) with
    | none => o
    | some t => { o with acc := mmaRun sp o t c k }) (oxMmaCycles conflicts))

/-- ACCLOAD (R41). -/
def execAccload (p : Pcell) (s : State) : Out := s.onClock p fun s =>
  .next (s.oxRun p .epilogue 6 fun sp o c k => { o with acc := accloadRun sp o c k })

/-- The command that the epilogue pipe would now run to completion is an EPI that overlaps its own sources (R33), or that writes a
bank that the Ox does not own (R253). -/
def State.epiUndefined (s : State) (p : Nat) : Option Fault :=
  match (s.ox p).head .epilogue with
  | none => none
  | some (before, e, _) =>
    if !oxReady before e then none
    else if oxOverlap e.raw then some .oxOverlap
    else if oxOpcode e.raw = 3 ∧ !((oxWriteBanks e.raw).all fun b => (s.cell p).bankOwner b == ownerOx) then some .bankNotOwned
    else none

/-- The writes of an EPI in order. One that merges into a word with an uncorrectable error stops the EPI (R450): the words before it
are written. It answers that word and the number of writes left out after it. -/
def State.epiWrite (s : State) (p : Nat) : List (Nat × List Byte) → Option (Nat × Nat) × State
  | [] => (none, s)
  | (a, bs) :: l => match s.spMergeBad p a bs.length with
    | some w => (some (w, l.length), (s.spWrite p a (bs.take (8 * w - a))).spTouchWord p w)
    | none => (s.spWrite p a bs).epiWrite p l

/-- The head of the epilogue pipe runs if it is an EPI that can (R25, R71 to R77): it reads bias and column scales before its first
row (R42), then writes row by row. One that a bad word stops has stepped the generator for the rows that it has converted: those up
to the one that it was writing (R36, R75; DESIGN CHOICE, log 88). -/
def State.epiRun (s : State) (p : Nat) : State :=
  match (s.ox p).head .epilogue with
  | none => s
  | some (before, e, after) =>
    if oxOpcode e.raw = 3 ∧ oxReady before e then
      let c := e.raw
      let (_, bad, s) := s.oxRead p e
      match bad with
      | some w => s.oxFault p before c kEcc (w / 4)
      | none =>
        let o := s.ox p
        let rows (k : Nat) : List (Nat × List Byte) × BitVec 32 := epiRows (fun a => tget 0 (s.cell p).sp a) o c k 0 o.seed
        let (out, seed) := rows (ox16 c 6)
        match s.epiWrite p out with
        | (some (w, left), s) =>
          let seed := (rows (ox16 c 6 - left / (oxWrites c).length)).2
          (s.setOx p { s.ox p with seed }).oxFault p before c kEcc (w / 4)
        | (none, s) => s.setOx p (Ox.settle { s.ox p with seed, inflight := before ++ { e with done := true } :: after })
    else s

/-- EPI (R25, R71 to R77). -/
def execEpi (p : Pcell) (s : State) : Out := s.onClock p fun s =>
  match s.epiUndefined p with
  | some f => .fault f
  | none => .next (s.epiRun p)

/-- OX_RETIRE (R30): the oldest command retires once it has completed. -/
def execOxRetire (p : Pcell) (s : State) : Out := s.onClock p fun s =>
  let o := s.ox p
  match o.inflight with
  | [] => .next s
  | e :: rest =>
    if e.done then
      .next (s.setOx p (Ox.settle { o with
        inflight := rest
        retiredTag := BitVec.ofNat 16 (oxTag e.raw)
        doneCount := if oxNotify e.raw then o.doneCount + 1 else o.doneCount }))
    else .next s

/-- A FLUSH at once (OX_CTRL). -/
def Ox.flush (o : Ox) : Ox := o.discard.settle

/-- A write of OX_CTRL.FLUSH, put off while a stochastically rounding EPI runs (R47). -/
def Ox.flushWrite (o : Ox) : Ox := if o.srRunning then { o with flushAfterEpi := true } else o.flush

/-- OX_FLUSH (R36). -/
def execOxFlush (p : Pcell) (s : State) : Out := s.gateCell p fun s => .next (s.setOx p (s.ox p).flushWrite)

/-- A write of OX_SR_SEED (R47). -/
def Ox.writeSeed (o : Ox) (v : Word) : Ox :=
  let x : BitVec 32 := BitVec.ofNat 32 v.toNat
  if o.srRunning then { o with seedPending := some x } else { o with seed := x }

/-- OX_SR_SEED_WRITE (R47). -/
def execOxSrSeedWrite (p : Pcell) (v : Word) (s : State) : Out := s.gateCell p fun s => .next (s.setOx p ((s.ox p).writeSeed v))

/-- The commands, newest first, that a pre-empted Ox still lets complete: the heads of the pipelines, and what an EPI that has
started waits for, directly or through others (R44; DEDUCED, log 89). kept are those found so far. -/
def oxLast : List OxEntry → List OxEntry → List OxEntry
  | kept, [] => kept
  | kept, e :: older =>
    let head := oxPipe e.raw != .none && !older.any fun b => !b.done && oxPipe b.raw == oxPipe e.raw
    let waited := kept.any fun c => c.last && (e.rowWait c || (!c.started && (oxConflict e c || oxPipe e.raw == oxPipe c.raw)))
    oxLast ({ e with last := !e.done && (head || waited) } :: kept) older

/-- The dispatcher pre-empts the cell (R44): nothing further is dispatched, and the commands at the heads of the pipelines
run to completion. -/
def Ox.freeze (o : Ox) : Ox := { o with frozen := true, inflight := oxLast [] o.inflight.reverse }

/-- Work goes on after a pre-emption or move. -/
def Ox.thaw (o : Ox) : Ox := Ox.settle { o with frozen := false, inflight := o.inflight.map fun e => { e with last := false } }

/-- A frozen Ox has no command that still runs (R44). -/
def Ox.drained (o : Ox) : Bool := o.inflight.all fun e => e.done || !e.started

/-- The Ox is idle: queue empty and every command retired, and so not halted (OX_STATUS.IDLE; DEDUCED, log 81). -/
def Ox.idle (o : Ox) : Bool := o.queue.isEmpty && o.inflight.isEmpty && !o.halt

/-- OX_STATUS. -/
def Ox.status (o : Ox) : Word :=
  put 48 o.retiredTag.toNat ||| put 32 o.queue.length ||| putB 4 (o.started .load).isSome
    ||| putB 3 (o.started .array).isSome ||| putB 2 (o.started .epilogue).isSome ||| putB 1 o.halt ||| putB 0 o.idle

end Sys2Proof.Machine
end

