-- ==== Sys2Proof/Machine/Log.lean ====
section
/-! DEFINITION. The change log (R572 to R577), and the device's own reads and writes of memory, which are coherent. -/
namespace Sys2Proof.Machine

/-! The device's own accesses. -/

/-- Bytes that the device reads at a device physical address, or at a host address (R311). -/
def State.devRead (s : State) (a n : Nat) : List Byte :=
  if n = 0 then []
  else if a ≥ 2 ^ 51 then readBytes s.hostMem (a - 2 ^ 51) n
  else (((span (a / 64) ((a + n - 1) / 64 - a / 64 + 1)).flatMap fun l => bytesOf 64 (s.lineView l)).drop (a % 64)).take n

def State.devWord (s : State) (a : Nat) : Nat := leNat (s.devRead a 8)

/-- What a read of the device itself does beside giving its bytes: each line is charged to the master (R268), and one that comes from memory
is corrected and logged as a demand read is (R452, R457). -/
def State.devTouch (s : State) (a n : Nat) (m : Nat := mSystem) : State :=
  if n = 0 ∨ a ≥ 2 ^ 51 then s
  else (span (a / 64) ((a + n - 1) / 64 - a / 64 + 1)).foldl (fun s l =>
    let s := s.countLlc l (s.llcLine l).isSome m
    if (s.llcLine l).isSome then s else (s.memDemand l 0 m).2) s

/-- Before the device writes a line for a master, every cached copy of it goes; a line in motion has its copies changed where they are. -/
def State.devOwn (s : State) (l : Nat) (a : Nat) (bs : List Byte) (m : Nat) : State :=
  let ln : LineNo := BitVec.ofNat 46 l
  let holders := s.agents.filter fun e => e.1 / 2048 == l && e.2.st != .I
  if holders.isEmpty then s
  else if s.quiet ln then s.flushLine ln false m
  else
    let lo := max a (64 * l)
    let hi := min (a + bs.length) (64 * l + 64)
    holders.foldl (fun s e =>
      let x := s.agent (e.1 % 2048) ln
      s.setAgent (e.1 % 2048) ln { x with data := lineSet x.data (lo % 64) ((bs.drop (lo - a)).take (hi - lo)) }) s

/-- The bytes of a device write at a that lie in line l: into the LLC's copy where there is one; else a whole line is written by its controller
(R455), and part of one is read, merged and written, unless the read meets an uncorrectable error (R451). -/
def State.devLine (s : State) (a : Nat) (bs : List Byte) (m l : Nat) : State :=
  let s := s.devOwn l a bs m
  let lo := max a (64 * l)
  let part := (bs.drop (lo - a)).take (64 * l + 64 - lo)
  let put (s : State) : State := { s.noteKey lo part.length 0 with mem := writeBytes s.mem lo part }
  let s := s.countLlc l (s.llcLine l).isSome m
  match s.llcLine l with
  | some e => put (s.llcPlace l { e with dirty := true, under := if e.dirty then e.under else s.readLine l })
  | none =>
    if part.length = 64 then (put s).ctlWritten l m
    else match s.memDemand l 0 m with
      | (some _, s) => (put s).ctlWritten l m
      | (none, s) => s

/-- Bytes that the device writes for a master, to its memory or over PCIe to the host's. -/
def State.devWrite (s : State) (a : Nat) (bs : List Byte) (m : Nat := mSystem) : State :=
  if a ≥ 2 ^ 51 then s.writePhys a bs
  else if bs.isEmpty || s.stable.noMem then s
  else (span (a / 64) ((a + bs.length - 1) / 64 - a / 64 + 1)).foldl (fun s l => s.devLine a bs m l) (s.noteWrite a bs.length)

/-- The lines of a range may be reached as requests of a partition (R243, R245, R354); host memory always may. -/
def State.partMay (s : State) (q a n : Nat) : Bool :=
  (decide (2 ^ 51 ≤ a) && decide (a + n ≤ 2 ^ 52)) ||
    (span (a / 64) ((a + n - 1) / 64 - a / 64 + 1)).all fun l => s.holdsMemory (64 * l) && s.mayAccess q (64 * l)

/-- Bytes of a step ring or a fence table (R354). What the dispatch core makes of a refused read the spec does not say: free bytes (DESIGN CHOICE,
log 107). -/
def State.partRead (s : State) (q a n : Nat) : List Byte :=
  if s.partMay q a n then s.devRead a n else (span 0 n).map fun i => Config.refusedByte s.tick (a + i)

/-- The reads of partRead where they are not refused: charged, corrected and logged. -/
def State.partTouch (s : State) (q a n : Nat) : State := if s.partMay q a n then s.devTouch a n else s

/-- A record or an entry written as a request of a partition (R354): a refused write changes nothing (R245). -/
def State.partWrite (s : State) (q a : Nat) (bs : List Byte) : State :=
  if s.partMay q a bs.length then s.devWrite a bs else s

/-! The change log. -/

def ascii (t : String) : List Byte := t.toList.map fun c => BitVec.ofNat 8 c.toNat

/-- C_−1 (R575). -/
def chainStart (nonce : BitVec 256) : BitVec 192 :=
  (Config.sha512 (ascii "IGN4820 LOG" ++ bytesOf 32 nonce)).truncate 192

def oPcie : Nat := 0
def oMctp : Nat := 1
def oFabric : Nat := 2
def oHarness : Nat := 3
def oDispatch : Nat := 4
def oDebug : Nat := 6

/-- ORIGIN_ID (R574): the PCIe requester ID or the MCTP EID, which no command carries and so is free (DESIGN CHOICE, log
108), and zero for the others. -/
def originId (origin : Nat) (seq : Word) : BitVec 24 :=
  if origin = oPcie ∨ origin = oMctp then Config.senderId origin seq else 0

/-- An entry enters the on-die buffer (R573 to R575). -/
def State.logPush (s : State) (kind origin part coach piece : Nat) (arg0 arg1 : Word) : State :=
  let h := s.harness
  let head : List Byte := natBytes 8 s.tick ++ natBytes 8 h.logSeq.toNat ++ natBytes 1 kind ++ natBytes 1 origin
    ++ bytesOf 3 (originId origin h.logSeq)
    ++ natBytes 1 part ++ natBytes 1 coach ++ natBytes 1 piece ++ bytesOf 8 arg0 ++ bytesOf 8 arg1
  let c : BitVec 192 := (Config.sha512 (head ++ bytesOf 24 h.chain)).truncate 192
  { s with harness := { h with logBuf := h.logBuf ++ [head ++ bytesOf 24 c], logSeq := h.logSeq + 1, chain := c } }

/-- The oldest entry drains to the ring (R573); an entry not yet consumed may be overwritten (R577). -/
def State.logDrain (s : State) : State :=
  match s.harness.logBuf with
  | [] => s
  | e :: rest =>
    let h := s.harness
    let n := h.logTail.toNat
    let s := { s with harness := { h with logBuf := rest, logTail := h.logTail + 1 } }
    let s := s.devWrite (h.logBase.toNat + n % 2 ^ 20 * 64) e
    if n - h.logHead.toNat < 2 ^ 20 then s
    else
      let s := { s with harness := { s.harness with
        overwritten := .ofNat 32 (satInc 32 h.overwritten.toNat), overTotal := h.overTotal + 1 } }
      if h.overSpan = n / 65536 + 1 then s
      else
        let s := { s with harness := { s.harness with overSpan := n / 65536 + 1 } }
        s.logPush 0x7E oHarness 0x3E 63 0 s.harness.overTotal 0

/-- Room for one more entry: a change that finds the buffer full waits until an entry has drained (R573). -/
def State.logRoom (s : State) : State :=
  let s := if s.harness.logBuf.length < 4096 then s else s.logDrain
  if s.harness.logBuf.length < 4096 then s else s.logDrain

/-- The Harness signs the latest entry with the alias key (R576); not once that key is destroyed (R495). -/
def State.logSignNow (s : State) : State :=
  let h := s.harness
  match s.stable.aliasKey with
  | none => s
  | some key =>
  let sig := Config.ed25519Sign key
    (ascii "IGN4820 LOG" ++ bytesOf 32 s.stable.bootNonce ++ natBytes 8 (h.logSeq - 1).toNat ++ bytesOf 24 h.chain)
  let w (i : Nat) : Word := BitVec.ofNat 64 (bfield sig (64 * i) 64)
  let s := (span 0 4).foldl (fun s k => (s.logRoom).logPush 0x7F oHarness 0x3E 63 k (w (2 * k)) (w (2 * k + 1))) s
  s.msix 4

/-- The log signs once an entry whose SEQ mod 65,536 is 65,535 has entered it since entry n (R576). -/
def State.logSpan (s : State) (n : Nat) : State := if n / 65536 < s.harness.logSeq.toNat / 65536 then s.logSignNow else s

/-- A change is written to the change log (R572). A partition of 0x3F is none, a coach slot of 63 none. -/
def State.log (s : State) (kind origin part coach : Nat) (arg0 arg1 : Word) : State :=
  (s.logRoom.logPush kind origin part coach 0 arg0 arg1).logSpan s.harness.logSeq.toNat

/-- A write of a register in a protected window is logged (R572): its BAR0 offset and the value. -/
def State.logWindow (s : State) (off : Nat) (v : Word) : State := s.log 0x16 oPcie 0x3F 63 (BitVec.ofNat 64 off) v

/-- CHANGE_LOG_DRAIN (R573). -/
def execChangeLogDrain (s : State) : Out := .next (s.logDrain.logSpan s.harness.logSeq.toNat)

/-- A write of LOG_SIGN (R576). -/
def State.logSignWrite (s : State) (v : Word) : State :=
  if !v.getLsbD 0 then s
  else
    let s := s.logWindow 0x120 v
    s.logSignNow.logSpan s.harness.logSeq.toNat

/-- LOG_SIGN (R576). -/
def execLogSign (v : Word) (s : State) : Out := s.gate fun s => .next (s.logSignWrite v)

end Sys2Proof.Machine
end

