-- ==== Sys2Proof/Machine/AcRegs.lean ====
section
/-! DEFINITION. The access counters' decay and registers (R339, R342). -/
namespace Sys2Proof.Machine

/-- COUNT_DECAY (R339): at each multiple of 2^DECAY_LOG2 ticks every count is halved. -/
def execCountDecay (s : State) : Out := s.onModule fun s =>
  let x := s.xlt
  if s.tick % 2 ^ x.decayLog2 ≠ 0 then .next s
  else
    let half (e : AcEntry) : AcEntry :=
      { e with count := e.count / 2, reported := e.reported && decide (e.count / 2 ≥ x.thresh) }
    .next { s with xlt := { x with ac := tmap [] x.ac fun _ l => l.map half } }

/-- A write of AC_CTRL: a DECAY_LOG2 or RING_LOG2 outside its range is kept; the ring restarts (R342). -/
def State.acCtrlWrite (s : State) (v : Word) : State :=
  let x := s.xlt
  let decay := if 10 ≤ bfield v 32 6 ∧ bfield v 32 6 ≤ 40 then bfield v 32 6 else x.decayLog2
  let ring := if 8 ≤ bfield v 3 5 ∧ bfield v 3 5 ≤ 16 then bfield v 3 5 else x.ringLog2
  let s := s.logWindow 0x380100 v
  { s with xlt := { s.xlt with
    acCtrl := put 48 (bfield v 48 16) ||| put 32 decay ||| put 3 ring ||| put 0 (bfield v 0 3), acTail := x.acHead } }

/-- A write of AC_RING_BASE. -/
def State.acBaseWrite (s : State) (v : Word) : State :=
  let s := s.logWindow 0x380108 v
  { s with xlt := { s.xlt with acRingBase := v &&& ~~~0xFFF#64, acTail := s.xlt.acHead } }

/-- AC_RING_RESET (R342): a write of AC_RING_BASE, or of AC_CTRL with its RING_LOG2. -/
def execAcRingReset (base : Bool) (v : Word) (s : State) : Out := s.gate fun s => .next (if base then s.acBaseWrite v else s.acCtrlWrite v)

end Sys2Proof.Machine
end

