-- ==== Sys2Proof/Machine/MemReg.lean ====
section
/-! DEFINITION. Regulation of the memory controllers (R268 to R275), their shares, and the way masks (R248, R249). -/
namespace Sys2Proof.Machine

/-- The share of a master that holds from the next window on. -/
def Mc.nextShare (x : Mc) (m : Nat) : Nat :=
  match x.sharePending.reverse.find? fun e => e.1 == m with
  | some e => e.2.toNat
  | none => (tget 0 x.share m).toNat

/-- The sum of the shares that hold from the next window on, with one replaced. -/
def Mc.shareSum (x : Mc) (m v : Nat) : Nat := (span 0 64).foldl (fun t k => t + (if k = m then v else x.nextShare k)) 0

/-- A share set from the next window on (R234, R273). -/
def State.setShare (s : State) (c m v : Nat) : State :=
  let x := s.mc c
  s.setMc c { x with sharePending := x.sharePending ++ [(m, BitVec.ofNat 7 v)] }

/-- Guaranteed lines per share and window (R269). -/
def guaranteeLines (c : Nat) : Nat := if c < 20 then 344 else 16

/-- A guarantee miss of a master (R273). -/
def State.guaranteeMiss (s : State) (c m : Nat) : State :=
  let x := s.mc c
  let w := x.window.toNat
  let fresh := !x.missLast.getLsbD 0
  let last := tget 0 x.missLogged m
  let since := tget 0 x.missSince m + 1
  let due := decide (last = 0) || decide (w ≥ last - 1 + 1000)
  let s := s.setMc c { x with
    miss := tset 0 x.miss m (.ofNat 32 (satInc 32 (tget 0 x.miss m).toNat))
    missLast := if fresh then put 16 (s.tick % 2 ^ 48) ||| put 8 m ||| 1 else x.missLast
    missSince := tset 0 x.missSince m (if due then 0 else since)
    missLogged := if due then tset 0 x.missLogged m (w + 1) else x.missLogged }
  let part := if m < 48 then s.partOf m else 0x3E
  let s := if m < 48 then s.summaryUp part 5 else s
  let s := if fresh then s.msix 2 else s
  if due then s.log 0x19 oHarness part (if m < 48 then m else 63) (BitVec.ofNat 64 m) (BitVec.ofNat 64 since) else s

/-- The number of the regulation window that runs: windows of 1 µs from module reset (R10, R269). -/
def State.windowNow (s : State) : Nat := s.tick / 100

/-- REGULATION_WINDOW (R269, R273): the window has ended. waited lists the masters that kept requests waiting throughout, with the
lines that each was served; a master was served at least what has been charged to it. -/
def execRegulationWindow (c : CtlIx) (waited : List (Nat × Nat)) (s : State) : Out := s.onModule fun s =>
  let x := s.mc c
  if s.windowNow ≤ x.window.toNat then .next s else
  let missed := waited.filter fun e =>
    decide (max e.2 (tget 0 x.served e.1) < (tget 0 x.share e.1).toNat * guaranteeLines c)
  let s := missed.foldl (fun s e => s.guaranteeMiss c e.1) s
  let x := s.mc c
  .next (s.setMc c { x with
    window := BitVec.ofNat 64 s.windowNow
    served := []
    share := x.sharePending.foldl (fun m e => tset 0 m e.1 e.2) x.share
    sharePending := [] })

/-- A write of MC_MISS_LAST: VALID is cleared by a one. -/
def State.missLastWrite (s : State) (c : Nat) (v : Word) : State :=
  let x := s.mc c
  if v.getLsbD 0 then s.setMc c { x with missLast := x.missLast &&& ~~~1#64 } else s

/-- MC_MISS_LAST_CLEAR (R274). -/
def execMcMissLastClear (c : CtlIx) (v : Word) (s : State) : Out := s.gate fun s => .next (s.missLastWrite c v)

/-- A write of MC_SHARE_m: only for the masters that are not coaches; the sum may not exceed 64. -/
def State.mcShareWrite (s : State) (c m : Nat) (v : Word) : State :=
  let n := bfield v 0 7
  if !(m = 48 ∨ m = 49 ∨ m = 50 ∨ m = 52) then s
  else if n > 64 ∨ (s.mc c).shareSum m n > 64 then s.setMc c { s.mc c with overcommit := true }
  else s.setShare c m n

/-- MC_SHARE_WRITE (R274). -/
def execMcShareWrite (c : CtlIx) (m : Nat) (v : Word) (s : State) : Out := s.gate fun s => .next (s.mcShareWrite c m v)

/-- REFRESH_CHANGE (R272): an HBM3E stack's refresh rate. -/
def execRefreshChange (c : CtlIx) (mode : BitVec 2) (s : State) : Out := s.onModule fun s =>
  .next (if c.val < 20 ∧ mode ≠ 3 then s.setMc c { s.mc c with refresh := mode } else s)

/-- The masks of partitions and the system (32), with one replaced, keep strict partitions apart (R249). -/
def State.waysApart (s : State) (k mask : Nat) (strict : List Nat) : Bool :=
  let m (i : Nat) : Nat := if i = k then mask else (tget 0xFFFF s.llcWays i).toNat
  strict.all fun q => (span 0 33).all fun i => i == q || m q &&& m i == 0

/-- A write of a way mask (R249, R275): k is a partition, or 32 for the system. -/
def State.llcWaysWrite (s : State) (k : Nat) (v : Word) : State :=
  let mask := bfield v 0 16
  if k > 32 then s
  else if s.waysApart k mask s.stable.strict then
    let s := s.logWindow (0x302000 + 8 * k) v
    { s with llcWays := tset 0xFFFF s.llcWays k (BitVec.ofNat 16 mask) }
  else { s with wayConflict := true }

/-- LLC_WAYS_WRITE (R249). -/
def execLlcWaysWrite (k : Nat) (v : Word) (s : State) : Out := s.gate fun s => .next (s.llcWaysWrite k v)

/-- A partition enters strict isolation mode (R249): lines of others in its ways, and its lines outside them, leave the LLC. -/
def State.llcStrict (s : State) (q : Nat) : State :=
  let mask := s.wayMask q
  let out := s.llc.filter fun e => (s.ownerOf (64 * e.1) == q) != mask.testBit e.2.way
  out.foldl (fun s e => s.llcDrop e.1) s

/-- MC_STATUS, MC_SHARE_m. -/
def State.mcStatus (s : State) (c : Nat) : Word :=
  let x := s.mc c
  put 16 (s.windowNow % 2 ^ 48) ||| put 8 x.refresh.toNat ||| putB 1 x.overcommit ||| putB 0 x.ready

def State.mcShareRead (s : State) (c m : Nat) : Word :=
  putB 8 (m < 48 && s.stable.strict.contains (s.partOf m)) ||| BitVec.ofNat 64 (tget 0 (s.mc c).share m).toNat

end Sys2Proof.Machine
end

