-- ==== Sys2Proof/Machine/Operands.lean ====
section
/-! DEFINITION. The operand forms of a Hen's instructions: integer, floating-point and vector registers, immediates, elements
of a vector register group, values of a format in a floating-point register. -/
namespace Sys2Proof.Machine

/-! Registers. -/

/-- x register, x0 reads zero. -/
def Hen.getX (x : Hen) (r : Reg) : Word := if r = 0 then 0 else tget 0 x.x r
/-- A write to x0 is discarded. -/
def Hen.setX (x : Hen) (r : Reg) (v : Word) : Hen := if r = 0 then x else { x with x := tset 0 x.x r v }
def Hen.getF (x : Hen) (r : Reg) : Word := tget 0 x.f r
/-- A write to an f register sets mstatus.FS to Dirty. -/
def Hen.setF (x : Hen) (r : Reg) (v : Word) : Hen := { x with f := tset 0 x.f r v, mstatus := x.mstatus ||| 0x6000 }
def Hen.getV (x : Hen) (r : Nat) : Line := tget 0 x.v (r % 32)
/-- A write to a v register sets mstatus.VS to Dirty. -/
def Hen.setV (x : Hen) (r : Nat) (v : Line) : Hen := { x with v := tset 0 x.v (r % 32) v, mstatus := x.mstatus ||| 0x600 }

/-- Sign extension of the low n bits of a number to 64 bits. -/
def sext (n v : Nat) : Word := if v % 2 ^ n ≥ 2 ^ (n - 1) then BitVec.ofNat 64 (v % 2 ^ n + 2 ^ 64 - 2 ^ n) else BitVec.ofNat 64 (v % 2 ^ n)

/-- A base register and a sign-extended immediate. -/
def addImm (b : Word) (imm : BitVec 12) : Word := b + sext 12 imm.toNat

/-! Vector elements (V 1.0: VLEN 512). -/

def Hen.vill (x : Hen) : Bool := x.vtype.getLsbD 63
/-- log2 of SEW / 8. -/
def Hen.sewLog (x : Hen) : Nat := bfield x.vtype 3 3
/-- Registers of a group at the current LMUL (at least one). -/
def Hen.lmulRegs (x : Hen) : Nat := let l := bfield x.vtype 0 3; if l ≤ 3 then 2 ^ l else 1

/-- Element i of 2^lg bytes of the register group at r. -/
def Hen.getElem (x : Hen) (r lg i : Nat) : Nat :=
  let per := 64 / 2 ^ lg
  bfield (x.getV (r + i / per)) (8 * 2 ^ lg * (i % per)) (8 * 2 ^ lg)

def Hen.setElem (x : Hen) (r lg i v : Nat) : Hen :=
  let per := 64 / 2 ^ lg
  let w := 8 * 2 ^ lg
  let lo := w * (i % per)
  let old := x.getV (r + i / per)
  x.setV (r + i / per) (BitVec.ofNat 512 (old.toNat - bfield old lo w * 2 ^ lo + v % 2 ^ w * 2 ^ lo))

/-- Elements from vstart written from bytes. -/
def Hen.setElems (x : Hen) (r lg : Nat) : Nat → List Byte → Nat → Hen
  | _, _, 0 => x
  | i, bs, n + 1 => Hen.setElems (x.setElem r lg i (leNat (bs.take (2 ^ lg)))) r lg (i + 1) (bs.drop (2 ^ lg)) n

/-! Floating-point operands (F, D, Zfh, Zfbfmin). -/

def fpFmt : FpFmt → FloatFmt
  | .h => fmtFP16
  | .s => fmtFP32
  | .d => fmtFP64
  | .bf16 => fmtBF16

/-- A value of a format in an f register: a value that is not NaN-boxed reads as the canonical NaN. -/
def Hen.getFp (x : Hen) (f : FpFmt) (r : Reg) : Nat :=
  let w := (fpFmt f).width
  let v := (x.getF r).toNat
  if v / 2 ^ w = 2 ^ (64 - w) - 1 then v % 2 ^ w else canonNan (fpFmt f)

/-- A value written to an f register is NaN-boxed. -/
def Hen.setFp (x : Hen) (f : FpFmt) (r : Reg) (v : Nat) : Hen :=
  let w := (fpFmt f).width
  x.setF r (BitVec.ofNat 64 ((2 ^ (64 - w) - 1) * 2 ^ w + v % 2 ^ w))

end Sys2Proof.Machine
end

