-- ==== Sys2Proof/Machine/Flags.lean ====
section
/-! DEFINITION. The floating-point flags of a Hen (R84: IEEE 754 as F, D and Zfh give it): rounding modes, the result and the
flags of a rounding, the flags of invalid operations, and their accrual in fcsr. -/
namespace Sys2Proof.Machine

/-- fflags: NV, DZ, OF, UF, NX. -/
def flagNX : BitVec 5 := 1
def flagUF : BitVec 5 := 2
def flagOF : BitVec 5 := 4
def flagDZ : BitVec 5 := 8
def flagNV : BitVec 5 := 16

/-- A value with the flags that it raises. -/
abbrev Flagged := Nat × BitVec 5

/-- The rounding mode of an instruction: its rm field, or fcsr.frm where rm is 7; none where the mode is reserved. -/
def Hen.rounding (x : Hen) (rm : BitVec 3) : Option Rounding :=
  match (if rm = 7 then bfield x.fcsr 5 3 else rm.toNat) with
  | 0 => some .rne
  | 1 => some .rtz
  | 2 => some .rdn
  | 3 => some .rup
  | 4 => some .rmm
  | _ => none

/-- The magnitude rounds to less than the smallest normal number even with an unbounded exponent (tininess after rounding). -/
def tinyAfter (f : FloatFmt) (mode : Rounding) (neg : Bool) (m : Nat) (e : Int) : Bool :=
  if m = 0 then false else
  let emin : Int := 1 - (f.bias : Int)
  let top : Int := (Nat.log2 m : Int) + e
  if top ≥ emin then false
  else if top < emin - 1 then true
  else
    let q : Int := top - f.mb
    if q ≤ e then true
    else
      let sh := (q - e).toNat
      decide (m / 2 ^ sh + (if mode.up neg m sh then 1 else 0) < 2 ^ (f.mb + 1))

/-- Round a number to a format, with OF, UF and NX. -/
def roundFp (f : FloatFmt) (mode : Rounding) (n : Num) : Flagged :=
  let v := n.encode f mode
  match n with
  | .fin neg m e =>
    let (a, inexact) := roundMag f mode neg m e
    if a ≥ f.infMag then (v, flagOF ||| flagNX)
    else if inexact then (v, if tinyAfter f mode neg m e then flagUF ||| flagNX else flagNX)
    else (v, 0)
  | _ => (v, 0)

/-- An encoding is a signalling NaN. -/
def isSnan (f : FloatFmt) (v : Nat) : Bool := (Num.decode f v).isNan && field v (f.mb - 1) 1 == 0

/-- A NaN result that no operand gives, or a signalling operand, raises NV. -/
def invalidIf (b : Bool) : BitVec 5 := if b then flagNV else 0

/-- The flags accrue in fcsr; a flag raised sets mstatus.FS to Dirty. -/
def Hen.accrue (x : Hen) (fl : BitVec 5) : Hen :=
  if fl = 0 then x else { x with fcsr := x.fcsr ||| fl.setWidth 8, mstatus := x.mstatus ||| 0x6000 }

/-- mstatus.FS or VS is Off. -/
def Hen.fsOff (x : Hen) : Bool := bfield x.mstatus 13 2 == 0
def Hen.vsOff (x : Hen) : Bool := bfield x.mstatus 9 2 == 0

end Sys2Proof.Machine
end

