-- ==== Sys2Proof/Machine/Hen.lean ====
section
/-! DEFINITION. A Hen's instructions of Xcarkan, its traps and interrupts, and its control block (R80 to R117). Every Hen
instruction goes through Hen.step: a held Hen executes nothing, a Hen stalled in one instruction executes only that one
again, and the fetch is translated (R82) and may not meet modified code (R89). -/
namespace Sys2Proof.Machine

/-! Yield points (R104, R105). -/

/-- The id of the YIELD in which a Hen stalls; a YIELD whose fetch waits has not begun. -/
def Hen.yieldId (x : Hen) : Option (BitVec 12) :=
  match x.stall with
  | some (.yield _ _ id) => if x.fetchWait then none else some id
  | _ => none

/-- The id of the yield point that the cell has reached (R105): every Hen that runs is stalled in YIELD with this id. -/
def Cell.yieldPoint (c : Cell) : Option (BitVec 12) :=
  match c.hens.toList.filter (·.run) with
  | [] => none
  | x :: l => match x.yieldId with
    | none => none
    | some id => if l.all fun y => y.yieldId == some id then some id else none

/-- The cell is at a yield point: also when none of its Hens runs any more (R105, R613). -/
def Cell.atYield (c : Cell) : Bool := c.yieldPoint.isSome || c.hens.toList.all (fun x => !x.run && x.stall.isNone)

/-- YIELD_AT of a pcell to the dispatch core that sent the pending YIELD_REQ (R148, R150); its PAYLOAD has no meaning. -/
def yieldAtMsg (p dc : Nat) (slot : BitVec 6) : GigMsg :=
  { type := 0x21, dst := BitVec.ofNat 28 (2 ^ 27 + dc), src := BitVec.ofNat 28 (2 ^ 27 + p), coach := slot, payload := 0, dstHen := 0, srcHen := 0 }

/-- The forwards for the lines whose deferral a change of the cell's Hens, from s to t, has ended are acted on (R296). -/
def State.released (s t : State) (p : Nat) : State :=
  let lines (s : State) : List LineNo := (s.cell p).hens.toList.filterMap (·.lrDefer)
  ((lines s).filter fun l => !(lines t).contains l).foldl (fun t l => t.drainDeferred p l) t

/-- The cell's LR reservations are cleared (R105), and with them its deferrals (R296). -/
def Cell.clearReserved (c : Cell) : Cell := { c with hens := c.hens.map fun x => { x with reserved := none, lrDefer := none } }
def State.clearReserved (s : State) (p : Nat) : State := s.released (s.setCell p (s.cell p).clearReserved) p

/-- A cell that has reached a yield point: the LR reservations are cleared (R105), and its port tells the dispatch core that asked
with YIELD_AT, once (R150). The dispatch core takes the message at once and holds it until the cell leaves the yield point. -/
def State.noteYield (s : State) (p : Nat) : State :=
  let c := s.cell p
  if !c.atYield then s
  else match c.yieldFrom with
    | none => s.clearReserved p
    | some dc =>
      if c.yieldTold then s.clearReserved p
      else
        let s := s.clearReserved p
        let s := s.setCell p { (s.cell p).count 5 1 with yieldTold := true }
        { s with sched := { s.sched with yieldAt := s.sched.yieldAt ++ [yieldAtMsg p dc c.slot] } }

/-! Traps (R112 to R114). -/

def causeFetchFault : Nat := 1
def causeIllegal : Nat := 2
def causeBreak : Nat := 3
def causeLoadMis : Nat := 4
def causeLoadFault : Nat := 5
def causeStoreMis : Nat := 6
def causeStoreFault : Nat := 7
def causeSpRange : Nat := 24
def causeSpOwner : Nat := 25
def causeBankGive : Nat := 26
def causeOxHalted : Nat := 27
def causeEcc : Nat := 28

/-- A trap to M mode (R112, RISC-V privileged): mepc, mcause, mtval, mstatus.MPIE, MIE and MPP; the pc goes to mtvec, or for
an interrupt under a vectored mtvec to its entry. -/
def Hen.trap (x : Hen) (interrupt : Bool) (cause : Nat) (tval : Word) : Hen :=
  let base := x.mtvec &&& ~~~3#64
  let mst := x.mstatus &&& ~~~0x1888#64
  { x with
    mepc := x.pc
    mcause := putB 63 interrupt ||| BitVec.ofNat 64 cause
    mtval := tval
    mstatus := mst ||| (if x.mstatus.getLsbD 3 then 0x80 else 0) ||| (if x.mmode then 0x1800 else 0)
    mmode := true
    stall := none
    fetchWait := false
    xltFail := none
    amoChoice := 0
    pc := if interrupt && x.mtvec.getLsbD 0 then base + BitVec.ofNat 64 (4 * cause) else base }

/-- An exception of a Hen's instruction. In U mode, but for ECALL and EBREAK, the cell monitor reports it on the fault path
and holds the Hen (R113, R614), whose absence may bring the others to a yield point (R105). -/
def State.raise (s : State) (p : Nat) (h : HenIx) (cause : Nat) (tval : Word) : State :=
  let x := s.hen p h
  let t := x.trap false cause tval
  if x.mmode || cause = 8 || cause = causeBreak then s.setHen p h t
  else ((s.setHen p h { t with run := false }).cellFault p h (faultCode 2 cause) 0).noteYield p

/-! Address translation of a Hen (R82, R310 to R325). -/

/-- Kinds of access (R320). -/
inductive Acc where
  | load | store | amo | lr | sc | fetch
  deriving DecidableEq, Repr

def Acc.cause : Acc → Nat
  | .load => causeLoadFault
  | .store => causeStoreFault
  | .amo => causeStoreFault
  | .lr => causeLoadFault
  | .sc => causeStoreFault
  | .fetch => causeFetchFault

def Acc.needsR : Acc → Bool
  | .store => false
  | _ => true
def Acc.needsW : Acc → Bool
  | .store => true
  | .amo => true
  | .lr => true
  | .sc => true
  | _ => false
def Acc.needsX : Acc → Bool
  | .fetch => true
  | _ => false

/-- log2 of a page of a SIZE code (R315, R316). -/
def pageLog2 (size : BitVec 2) : Nat := 12 + 9 * size.toNat

/-- The address that an entry gives a virtual address under a PASID: none where it does not hold the page or lacks a
permission (R316, R320). -/
def TlbEntry.look (e : TlbEntry) (pasid : BitVec 20) (r w x : Bool) (va : Nat) : Option Nat :=
  let lg := pageLog2 e.size
  let page := va / 2 ^ lg
  if e.pasid == pasid && page / 16 == e.vgroup && e.mask.getLsbD (page % 16) && (!r || e.rd) && (!w || e.wr) && (!x || e.ex) then
    some ((e.pbase.toNat * 4096 + page % 16 * 2 ^ lg) % 2 ^ 52 + va % 2 ^ lg)
  else none

def tlbLook (l : List TlbEntry) (pasid : BitVec 20) (r w x : Bool) (va : Nat) : Option Nat :=
  l.findSome? fun e => e.look pasid r w x va

/-- Bits 63:57 equal bit 56 (R310). -/
def canonicalVa (va : Word) : Bool := va == sext 57 va.toNat

/-- The result of translating an access: a physical address, an exception, or a miss for which the Hen waits. -/
inductive Xlat where
  | ok (a : Nat)
  | fail
  | miss (s : State)

/-- L1 miss of a cell by a Hen (0 to 3) or a Dray (4, 5): shared by accesses to one group under one PASID, at most eight
outstanding (R322). The request goes to the die's agent. -/
def State.l1Miss (s : State) (p : Nat) (pasid : BitVec 20) (va : Nat) (w x : Bool) (who : Nat) : State :=
  let c := s.cell p
  let vpn : BitVec 45 := BitVec.ofNat 45 (va / 4096)
  let shared (m : L1Miss) : Bool := m.pasid == pasid && m.vpn.toNat / 16 == vpn.toNat / 16
  if c.misses.any shared then
    let join (m : L1Miss) : L1Miss :=
      if shared m && !m.waiters.contains who then { m with waiters := m.waiters ++ [who] } else m
    s.setCell p { c with misses := c.misses.map join }
  else match (span 0 8).find? fun t => !(c.misses.any fun m => m.tag.toNat == t) with
    | none => s
    | some t =>
      let tag : BitVec 3 := BitVec.ofNat 3 t
      let s := s.setCell p { c with misses := c.misses ++ [{ tag, pasid, vpn, w, x, waiters := [who] }] }
      if h : p < 1152 then s.sendFrom p (.xltReq ⟨p, h⟩ vpn w x pasid tag) else s

/-- A Hen (0 to 3) or a Dray (4, 5) waits for no miss any more. -/
def State.unwait (s : State) (p who : Nat) : State :=
  let c := s.cell p
  s.setCell p { c with misses := c.misses.map fun (m : L1Miss) => { m with waiters := m.waiters.filter (· != who) } }

/-- An access goes untranslated: in M mode, but for loads and stores under mstatus.MPRV with MPP = U (RISC-V privileged). -/
def Hen.physical (x : Hen) (acc : Acc) : Bool :=
  x.mmode && (acc == .fetch || !x.mstatus.getLsbD 17 || bfield x.mstatus 11 2 == 3)

/-- The page of an access under way for which its Hen has asked for lines (R332). -/
def Hen.keptPage (x : Hen) (pasid : BitVec 20) (v : Nat) : Option KeptPage :=
  if x.stall.isSome then x.kept.find? fun e => e.pasid == pasid && e.vpage == v / 4096 else none

/-- log2 of the page that a cell's L1 TLB holds for a virtual address. -/
def Cell.pageLg (c : Cell) (pasid : BitVec 20) (v : Nat) : Nat :=
  match c.tlb.find? fun e => (e.look pasid false false false v).isSome with
  | some e => pageLog2 e.size
  | none => 12

/-- Translate an access of a Hen. In M mode addresses are 52-bit physical addresses (R82). One that has asked for its lines keeps its
pages (R332). -/
def State.xlat (s : State) (p : Nat) (h : HenIx) (acc : Acc) (va : Word) : Xlat :=
  let x := s.hen p h
  if x.physical acc then (if va.toNat < 2 ^ 52 then .ok va.toNat else .fail)
  else if !canonicalVa va then .fail
  else
    let v := va.toNat % 2 ^ 57
    match (if acc = .fetch then none else x.keptPage (s.pasidOf p) v) with
    | some e => .ok (e.ppage * 4096 + v % 4096)
    | none =>
    match tlbLook (s.cell p).tlb (s.pasidOf p) acc.needsR acc.needsW acc.needsX v with
    | some a => if a < 2 ^ 50 then .ok a else .fail
    | none => if x.xltFail = some (v / 4096) then .fail else .miss (s.l1Miss p (s.pasidOf p) v acc.needsW acc.needsX h.val)

/-! Invalidations (R332). -/

/-- The range of an invalidation touches the page, of 2^lg bytes, that holds a virtual address: it is removed whole (R331). -/
def invCovers (q : XltInvReq) (pasid : BitVec 20) (va : Nat) (lg : Nat := 12) : Bool :=
  let n := max q.log2.toNat (lg - 12)
  (q.allPasid || q.pasid == pasid) && q.vpn.toNat / 2 ^ n == va % 2 ^ 57 / 4096 / 2 ^ n

/-- A request of a Dray has been issued under a translation that an invalidation removes. -/
def DrayReq.covered (r : DrayReq) (q : XltInvReq) : Bool := match r.pasid with
  | some k => invCovers q k r.va r.lg
  | none => false

/-- The Hen waits for lines under a translation that an invalidation removes. -/
def Hen.covered (x : Hen) (q : XltInvReq) : Bool := x.stall.isSome && x.kept.any fun e => invCovers q e.pasid (e.vpage * 4096) e.lg

/-- A transfer issued under a translation that an invalidation removes has not completed (R332): a Dray's request, a Hen's access, or a far
atomic. -/
def Cell.invBlocked (c : Cell) (q : XltInvReq) : Bool :=
  (c.far.any fun f => match f.2.2 with
    | some (k, va, lg) => invCovers q k va lg
    | none => false) || (c.hens.toList.any fun x => x.covered q) || c.drays.toList.any fun y => y.out.any fun r => r.covered q

/-- Acknowledge every XLT_INV whose transfers have completed. -/
def State.checkInvs (s : State) (p : Nat) : State :=
  let c := s.cell p
  let done := c.invs.filter fun q => !c.invBlocked q
  if done.isEmpty then s
  else
    let s := s.setCell p { c with invs := c.invs.filter fun q => c.invBlocked q }
    if h : p < 1152 then (s.sendAll (done.map fun q => .xltInvAck ⟨p, h⟩ q.seq)).countCell p 5 done.length else s

/-! The step of a Hen. -/

def Instr.henStalls (x : Hen) (i : Instr) : Bool :=
  match x.stall with
  | none => false
  | some j => j != i

/-- One of n bytes at an address has been written after the Hen's last FENCE.I (R89). -/
def State.modified (s : State) (x : Hen) (a n : Nat) : Bool :=
  s.written.any fun w => decide (w.2.2 > x.fenceSeq) && decide (w.1 < a + n) && decide (a < w.2.1)

/-- The result of translating an instruction's fetch: where its bytes lie, the address that faults, or a miss. -/
inductive Fetched where
  | ok (runs : List (Nat × Nat))
  | fail (va : Word)
  | miss (s : State)

/-- The fetch of an instruction of len bytes: one whose second half lies in another page is translated for both halves, and a
fault names the half that it meets (R82, R112). -/
def State.fetch (s : State) (p : Nat) (h : HenIx) (pc : Word) (len : Nat) : Fetched :=
  match s.xlat p h .fetch pc with
  | .fail => .fail pc
  | .miss t => .miss t
  | .ok a =>
    if pc.toNat % 4096 + len ≤ 4096 then .ok [(a, len)]
    else match s.xlat p h .fetch (pc + 2) with
      | .fail => .fail (pc + 2)
      | .miss t => .miss t
      | .ok b => .ok [(a, 2), (b, len - 2)]

/-- The Hen executes the instruction in which it stalled, again. -/
def Hen.unstall (x : Hen) : Hen := { x with stall := none, fetchWait := false }

/-- A Hen executes instructions: it runs, or has still to retire the one that RUN = 0 met (R116); its clock runs, and its cell has
not left for another pcell (R218). -/
def State.henRuns (s : State) (p : Nat) (h : HenIx) : Bool :=
  ((s.hen p h).run || (s.hen p h).stall.isSome) && s.unfrozen p && s.cellState p != .moveOut

/-- Execute an instruction of a Hen: nothing on a held Hen or one stalled in another instruction; the fetch of its len
bytes first. body sees the Hen with its stall cleared. -/
def State.henStep (s : State) (p : Nat) (h : HenIx) (i : Instr) (len : Nat) (body : State → Out) : Out :=
  let x := s.hen p h
  if !s.henRuns p h || Instr.henStalls x i then .next s
  else match s.fetch p h x.pc len with
    | .fail va => .next (s.raise p h causeFetchFault va)
    | .miss t => .next (t.setHen p h { t.hen p h with stall := some i, fetchWait := true })
    | .ok runs =>
      if runs.any fun r => s.modified x r.1 r.2 then .fault .modifiedCode
      else body (s.setHen p h x.unstall)

/-- The Hen stalls in the instruction. -/
def State.stallIn (s : State) (p : Nat) (h : HenIx) (i : Instr) : Out :=
  .next (s.setHen p h { s.hen p h with stall := some i })

/-- The instruction retires: pc moves on by its length, instret counts (unless inhibited). -/
def Hen.retire (x : Hen) (len : Nat) : Hen :=
  { x with
    pc := x.pc + BitVec.ofNat 64 len
    stall := none
    fetchWait := false
    xltFail := none
    instret := if x.mcountinhibit.getLsbD 2 then x.instret else x.instret + 1 }

/-- The instruction retires after its effect on the Hen. -/
def State.done (s : State) (p : Nat) (h : HenIx) (len : Nat) (f : Hen → Hen) : State :=
  (s.setHen p h ((f (s.hen p h)).retire len)).countCell p 7 1

/-! Scratchpad accesses (R92 to R94). -/

/-- A load of n bytes: range, ownership, code, then the value under f. mtval of HEN_ECC is the offset of the access's first byte, here
and in the other scratchpad accesses (R112; DESIGN CHOICE, log 95). -/
def spLoad (p : Pcell) (h : HenIx) (i : Instr) (rd rs1 : Reg) (imm : BitVec 12) (n : Nat) (f : Nat → Word) (s : State) : Out :=
  s.henStep p h i 4 fun s =>
    let a := addImm ((s.hen p h).getX rs1) imm
    if a.toNat + n > spBytes then .next (s.raise p h causeSpRange a)
    else if !(s.cell p).ownsAll (ownerHen h) a.toNat n then .next (s.raise p h causeSpOwner a)
    else
      let bad := s.spUncorr p a.toNat n
      let s := s.spTouch p a.toNat n
      match bad with
      | some _ => .next (s.raise p h causeEcc a)
      | none => .next ((s.countSpRead p a.toNat n).done p h 4 fun x => x.setX rd (f (leNat (s.spRead p a.toNat n))))

/-- A store of n bytes. A store into a bank that the Hen does not own is undefined (R94, R253). -/
def spStore (p : Pcell) (h : HenIx) (i : Instr) (rs2 rs1 : Reg) (imm : BitVec 12) (n : Nat) (s : State) : Out :=
  s.henStep p h i 4 fun s =>
    let x := s.hen p h
    let a := addImm (x.getX rs1) imm
    if a.toNat + n > spBytes then .next (s.raise p h causeSpRange a)
    else if !(s.cell p).ownsAll (ownerHen h) a.toNat n then .fault .bankNotOwned
    else match s.spMergeBad p a.toNat n with
      | some w => .next ((s.spTouchWord p w).raise p h causeEcc a)
      | none => .next ((s.spWrite p a.toNat (natBytes n (x.getX rs2).toNat)).done p h 4 id)

/-- SPL_B (R92). -/
def execSplB (p : Pcell) (h : HenIx) (rd rs1 : Reg) (imm : BitVec 12) (s : State) : Out :=
  spLoad p h (.splB p h rd rs1 imm) rd rs1 imm 1 (sext 8) s
/-- SPL_H (R92). -/
def execSplH (p : Pcell) (h : HenIx) (rd rs1 : Reg) (imm : BitVec 12) (s : State) : Out :=
  spLoad p h (.splH p h rd rs1 imm) rd rs1 imm 2 (sext 16) s
/-- SPL_W (R92). -/
def execSplW (p : Pcell) (h : HenIx) (rd rs1 : Reg) (imm : BitVec 12) (s : State) : Out :=
  spLoad p h (.splW p h rd rs1 imm) rd rs1 imm 4 (sext 32) s
/-- SPL_D (R92). -/
def execSplD (p : Pcell) (h : HenIx) (rd rs1 : Reg) (imm : BitVec 12) (s : State) : Out :=
  spLoad p h (.splD p h rd rs1 imm) rd rs1 imm 8 (BitVec.ofNat 64) s
/-- SPL_BU (R92). -/
def execSplBu (p : Pcell) (h : HenIx) (rd rs1 : Reg) (imm : BitVec 12) (s : State) : Out :=
  spLoad p h (.splBu p h rd rs1 imm) rd rs1 imm 1 (BitVec.ofNat 64) s
/-- SPL_HU (R92). -/
def execSplHu (p : Pcell) (h : HenIx) (rd rs1 : Reg) (imm : BitVec 12) (s : State) : Out :=
  spLoad p h (.splHu p h rd rs1 imm) rd rs1 imm 2 (BitVec.ofNat 64) s
/-- SPL_WU (R92). -/
def execSplWu (p : Pcell) (h : HenIx) (rd rs1 : Reg) (imm : BitVec 12) (s : State) : Out :=
  spLoad p h (.splWu p h rd rs1 imm) rd rs1 imm 4 (BitVec.ofNat 64) s
/-- SPS_B (R92). -/
def execSpsB (p : Pcell) (h : HenIx) (rs2 rs1 : Reg) (imm : BitVec 12) (s : State) : Out :=
  spStore p h (.spsB p h rs2 rs1 imm) rs2 rs1 imm 1 s
/-- SPS_H (R92). -/
def execSpsH (p : Pcell) (h : HenIx) (rs2 rs1 : Reg) (imm : BitVec 12) (s : State) : Out :=
  spStore p h (.spsH p h rs2 rs1 imm) rs2 rs1 imm 2 s
/-- SPS_W (R92). -/
def execSpsW (p : Pcell) (h : HenIx) (rs2 rs1 : Reg) (imm : BitVec 12) (s : State) : Out :=
  spStore p h (.spsW p h rs2 rs1 imm) rs2 rs1 imm 4 s
/-- SPS_D (R92). -/
def execSpsD (p : Pcell) (h : HenIx) (rs2 rs1 : Reg) (imm : BitVec 12) (s : State) : Out :=
  spStore p h (.spsD p h rs2 rs1 imm) rs2 rs1 imm 8 s

/-- VSPL_V (R93, R94). mstatus.VS is not checked, and an unaligned group is illegal (DESIGN CHOICE, log 94). -/
def execVsplV (p : Pcell) (h : HenIx) (vd rs1 : Reg) (s : State) : Out :=
  s.henStep p h (.vsplV p h vd rs1) 4 fun s =>
    let x := s.hen p h
    let lg := x.sewLog
    let st := x.vstart.toNat
    let n := (x.vl.toNat - st) * 2 ^ lg
    let a := x.getX rs1 + BitVec.ofNat 64 (st * 2 ^ lg)
    if x.vill || vd.val % x.lmulRegs != 0 then .next (s.raise p h causeIllegal 0)
    else if n ≠ 0 ∧ a.toNat + n > spBytes then .next (s.raise p h causeSpRange a)
    else if !(s.cell p).ownsAll (ownerHen h) a.toNat n then .next (s.raise p h causeSpOwner a)
    else
      let bad := s.spUncorr p a.toNat n
      let s := s.spTouch p a.toNat n
      match bad with
      | some _ => .next (s.raise p h causeEcc a)
      | none => .next ((s.countSpRead p a.toNat n).done p h 4 fun x =>
          { x.setElems vd lg st (s.spRead p a.toNat n) (x.vl.toNat - st) with vstart := 0 })

/-- VSPS_V (R93, R94). -/
def execVspsV (p : Pcell) (h : HenIx) (vs3 rs1 : Reg) (s : State) : Out :=
  s.henStep p h (.vspsV p h vs3 rs1) 4 fun s =>
    let x := s.hen p h
    let lg := x.sewLog
    let st := x.vstart.toNat
    let n := (x.vl.toNat - st) * 2 ^ lg
    let a := x.getX rs1 + BitVec.ofNat 64 (st * 2 ^ lg)
    if x.vill || vs3.val % x.lmulRegs != 0 then .next (s.raise p h causeIllegal 0)
    else if n ≠ 0 ∧ a.toNat + n > spBytes then .next (s.raise p h causeSpRange a)
    else if !(s.cell p).ownsAll (ownerHen h) a.toNat n then .fault .bankNotOwned
    else match s.spMergeBad p a.toNat n with
      | some w => .next ((s.spTouchWord p w).raise p h causeEcc a)
      | none =>
        let bs := (span st (x.vl.toNat - st)).flatMap fun i => natBytes (2 ^ lg) (x.getElem vs3 lg i)
        .next ((s.spWrite p a.toNat bs).done p h 4 fun x => { x with vstart := 0 })

/-! Ox, Drays, Gig, banks (R95 to R102). -/

/-- OX_ISSUE (R95, R28). -/
def execOxIssue (p : Pcell) (h : HenIx) (vs2 : Reg) (s : State) : Out :=
  s.henStep p h (.oxIssue p h vs2) 4 fun s =>
    let o := s.ox p
    if o.halt then .next (s.done p h 4 id)
    else if o.queue.length ≥ 64 then s.stallIn p h (.oxIssue p h vs2)
    else .next ((s.setOx p { o with queue := o.queue ++ [BitVec.ofNat 256 ((s.hen p h).getV vs2).toNat] }).done p h 4 id)

/-- The count has reached the awaited value, modulo 2^32 (R96). -/
def countReached (count : BitVec 32) (v : Word) : Bool := decide ((count - BitVec.ofNat 32 v.toNat).toNat < 2 ^ 31)

/-- OX_WAIT (R96). -/
def execOxWait (p : Pcell) (h : HenIx) (rs1 : Reg) (s : State) : Out :=
  s.henStep p h (.oxWait p h rs1) 4 fun s =>
    let o := s.ox p
    if o.halt then .next (s.raise p h causeOxHalted o.fault)
    else if countReached o.doneCount ((s.hen p h).getX rs1) then .next (s.done p h 4 id)
    else s.stallIn p h (.oxWait p h rs1)

/-- DRAY_ISSUE (R97, R255). A halted Dray discards the descriptor (R266). -/
def execDrayIssue (p : Pcell) (h : HenIx) (vs2 : Reg) (d : DrayIx) (s : State) : Out :=
  s.henStep p h (.drayIssue p h vs2 d) 4 fun s =>
    let c := s.cell p
    let y := c.dray d
    let x := s.hen p h
    if y.halt then .next (s.done p h 4 id)
    else if y.queue.length ≥ 16 then s.stallIn p h (.drayIssue p h vs2 d)
    else
      let q := y.queue ++ [{ raw := x.getV vs2, umode := !x.mmode, pasid := s.pasidOf p }]
      .next ((s.setCell p (c.setDray d { y with queue := q })).done p h 4 id)

/-- DRAY_WAIT (R97). -/
def execDrayWait (p : Pcell) (h : HenIx) (rs1 : Reg) (d : DrayIx) (s : State) : Out :=
  s.henStep p h (.drayWait p h rs1 d) 4 fun s =>
    if countReached ((s.cell p).dray d).doneCount ((s.hen p h).getX rs1) then .next (s.done p h 4 id)
    else s.stallIn p h (.drayWait p h rs1 d)

/-- The 128 bits of a Gig message (R148), and the message that 128 bits spell. -/
def gigBits (m : GigMsg) : Nat :=
  m.type.toNat + m.dstHen.toNat * 2 ^ 8 + m.srcHen.toNat * 2 ^ 10 + m.coach.toNat * 2 ^ 12 + m.dst.toNat * 2 ^ 20
    + m.src.toNat * 2 ^ 48 + m.payload.toNat * 2 ^ 80

def gigOfBits (v : Nat) : GigMsg :=
  { type := BitVec.ofNat 8 (field v 0 8), dstHen := BitVec.ofNat 2 (field v 8 2), srcHen := BitVec.ofNat 2 (field v 10 2)
    coach := BitVec.ofNat 6 (field v 12 6), dst := BitVec.ofNat 28 (field v 20 28), src := BitVec.ofNat 28 (field v 48 28)
    payload := BitVec.ofNat 48 (field v 80 48) }

/-- The command that delivers a SEM_OP (R406): by its OP; a reserved OP goes as ACQUIRE, which answers BAD. -/
def semCommand (east : Bool) (m : GigMsg) : Instr :=
  match bfield m.payload 4 3 with
  | 1 => .release east m
  | 2 => .semTry east m
  | 3 => .semRead east m
  | 4 => .semSet east m
  | _ => .acquire east m

/-- A port discards a message of a reserved coherence type: counted in COH_STATUS (R282). -/
def State.countDiscard (s : State) (type : Nat) : State :=
  if (0x47 ≤ type ∧ type ≤ 0x4F) ∨ type = 0x5F ∨ (0x64 ≤ type ∧ type ≤ 0x6E) then
    { s with coh := { s.coh with discards := .ofNat 8 (satInc 8 s.coh.discards.toNat) } }
  else s

/-- The head of a Hen's send queue leaves (R151, R156): USER messages wait at the head until they are taken; the port of
an inheritance cell (R409) discards USER messages. -/
def State.gigPump (s : State) (p : Nat) (h : HenIx) : Nat → State
  | 0 => s
  | k + 1 =>
    let c := s.cell p
    let x := s.hen p h
    match x.sendQ with
    | [] => s
    | m :: q =>
      if x.gigOut || x.gigNack || c.stopped then s
      else
        let phys := { m with coach := c.slot, srcHen := BitVec.ofNat 2 h.val, src := BitVec.ofNat 28 (2 ^ 27 + p) }
        let drop := s.setHen p h { x with sendQ := q }
        let reject := ((drop.setCell p { drop.cell p with rejects := .ofNat 16 (satInc 16 c.rejects.toNat) }).countDiscard m.type.toNat).gigPump p h k
        let sem (east : Bool) := (drop.sendFrom p (semCommand east phys)).gigPump p h k
        if m.type = 1 then
          if m.dst.getLsbD 27 || s.cellState p == .free then reject
          else match x.gigTo <|> s.placed c.slot.toNat (BitVec.ofNat 27 m.dst.toNat) with
            | none => reject
            | some q' =>
              if hq : q' < 1152 then
                (s.setHen p h { x with gigOut := true, gigTo := some q' }).sendFrom p (.user ⟨q', hq⟩ { phys with src := BitVec.ofNat 28 c.lcell.toNat })
              else reject
        else if m.type = 0x23 ∧ m.dst = BitVec.ofNat 28 (2 ^ 27 + epSem false) then sem false
        else if m.type = 0x23 ∧ m.dst = BitVec.ofNat 28 (2 ^ 27 + epSem true) then sem true
        else if m.type = 0x20 then (drop.sendFrom p (.fault phys)).gigPump p h k
        else reject

/-- GIG_SEND (R98, R151): a FAULT that U mode sends is discarded and counted, and the instruction retires. -/
def execGigSend (p : Pcell) (h : HenIx) (vs2 : Reg) (s : State) : Out :=
  s.henStep p h (.gigSend p h vs2) 4 fun s =>
    let x := s.hen p h
    if x.sendQ.length ≥ 8 then s.stallIn p h (.gigSend p h vs2)
    else if !x.mmode && (gigOfBits (x.getV vs2).toNat).type == 0x20 then
      let s := s.done p h 4 id
      .next (s.setCell p { s.cell p with rejects := .ofNat 16 (satInc 16 (s.cell p).rejects.toNat) })
    else .next ((s.done p h 4 fun x => { x with sendQ := x.sendQ ++ [gigOfBits (x.getV vs2).toNat] }).gigPump p h 8)

/-- GIG_RECV (R98). -/
def execGigRecv (p : Pcell) (h : HenIx) (vd : Reg) (s : State) : Out :=
  s.henStep p h (.gigRecv p h vd) 4 fun s =>
    match (s.hen p h).recvQ with
    | [] => s.stallIn p h (.gigRecv p h vd)
    | m :: q => .next (s.done p h 4 fun x => { x.setV vd (BitVec.ofNat 512 (gigBits m)) with recvQ := q })

/-- The owner that the handovers accepted for a bank leave (R101). -/
def Cell.nextOwner (c : Cell) (b : Nat) : BitVec 3 :=
  match (tget [] c.handover b).getLast? with
  | some e => e.1
  | none => c.bankOwner b

/-- BANK_GIVE (R100, R101): the check against the owner that the handovers accepted before leave, then a handover that BANK_HANDOVER
ends. A bank that another Hen owns raises cause 26 also where it is given to that Hen (R100; DESIGN CHOICE, log 111). -/
def execBankGive (p : Pcell) (h : HenIx) (rd rs1 rs2 : Reg) (s : State) : Out :=
  s.henStep p h (.bankGive p h rd rs1 rs2) 4 fun s =>
    let x := s.hen p h
    let c := s.cell p
    let b := (x.getX rs1).toNat % 16
    let new : BitVec 3 := BitVec.ofNat 3 (x.getX rs2).toNat
    let old := c.nextOwner b
    if (tget [] c.handover b).any fun e => e.2 == h.val then s.stallIn p h (.bankGive p h rd rs1 rs2)
    else if new = 7 ∨ !(old == ownerHen h || old == 0 || old == 5 || old == 6) then
      .next (s.raise p h causeBankGive (BitVec.ofNat 64 b))
    else if new = old then .next (s.done p h 4 fun x => x.setX rd (BitVec.ofNat 64 old.toNat))
    else (s.setCell p { c with handover := tset [] c.handover b (tget [] c.handover b ++ [(new, h.val)]) }).stallIn p h (.bankGive p h rd rs1 rs2)

/-- The BANK.GIVE in which a Hen stalls retires with the previous owner's code. -/
def State.endGive (s : State) (p : Nat) (h : HenIx) (old : BitVec 3) : State :=
  match (s.hen p h).stall with
  | some (.bankGive _ _ rd _ _) => s.done p h 4 fun x => x.setX rd (BitVec.ofNat 64 old.toNat)
  | _ => s

/-- BANK_HANDOVER (R252): the oldest handover of a bank takes effect. -/
def execBankHandover (p : Pcell) (b : BankIx) (s : State) : Out := s.onClock p fun s =>
  let c := s.cell p
  match tget [] c.handover b with
  | [] => .next s
  | (new, h) :: rest =>
    let old := c.bankOwner b
    let s := s.setCell p { c with owner := tset 1 c.owner b new, handover := tset [] c.handover b rest }
    .next (if hh : h < 4 then s.endGive p ⟨h, hh⟩ old else s)

/-- A bank handed over without a check on its owner, after every handover that has been accepted; the reserved code is
ignored (R251), and a bank's own owner changes nothing (R100). -/
def State.bankOwnWrite (s : State) (p b : Nat) (v : Word) : State :=
  let c := s.cell p
  let new : BitVec 3 := BitVec.ofNat 3 v.toNat
  if new = 7 ∨ new = c.nextOwner b then s else s.setCell p { c with handover := tset [] c.handover b (tget [] c.handover b ++ [(new, 4)]) }

/-- BANK_OWN_WRITE (R251). -/
def execBankOwnWrite (p : Pcell) (b : BankIx) (v : Word) (s : State) : Out :=
  s.gateCell p fun s => .next (s.bankOwnWrite p b v)

/-- BANK_OWNER (R102). -/
def execBankOwner (p : Pcell) (h : HenIx) (rd rs1 : Reg) (s : State) : Out :=
  s.henStep p h (.bankOwner p h rd rs1) 4 fun s =>
    .next (s.done p h 4 fun x => x.setX rd (BitVec.ofNat 64 ((s.cell p).bankOwner ((x.getX rs1).toNat % 16)).toNat))

/-! Epochs and yield points (R103 to R105). -/

/-- EPOCH_GET (R103). -/
def execEpochGet (p : Pcell) (h : HenIx) (rd : Reg) (s : State) : Out :=
  s.henStep p h (.epochGet p h rd) 4 fun s =>
    .next (s.done p h 4 fun x => x.setX rd (BitVec.ofNat 64 (s.epochOf (s.cell p).slot.toNat).toNat))

/-- The dispatch cores' YIELD_AT messages of a pcell are past. -/
def State.yieldEnded (s : State) (p : Nat) : State :=
  { s with sched := { s.sched with yieldAt := s.sched.yieldAt.filter fun m => m.src != BitVec.ofNat 28 (2 ^ 27 + p) } }

/-- YIELD (R104, R105). -/
def execYield (p : Pcell) (h : HenIx) (id : BitVec 12) (s : State) : Out :=
  s.henStep p h (.yield p h id) 4 fun s =>
    if (s.hen p h).yieldPend then
      .next ((s.setHen p h { s.hen p h with stall := some (.yield p h id) }).noteYield p)
    else .next (s.done p h 4 fun x => { x with lastYield := id })

/-- A YIELD retires when the cell leaves the yield point: the id is recorded and the request is cleared. -/
def Hen.leaveYield (x : Hen) : Hen :=
  match x.yieldId with
  | some id => { x.retire 4 with lastYield := id, yieldPend := false }
  | none => { x with yieldPend := false }

def Cell.leaveYield (c : Cell) : Cell :=
  { c.count 7 (c.hens.toList.filter fun x => x.yieldId.isSome).length with hens := c.hens.map Hen.leaveYield, yieldFrom := none, yieldTold := false }

/-- The cell of a pcell leaves its yield point. -/
def State.leaveYield (s : State) (p : Nat) : State := (s.setCell p (s.cell p).leaveYield).yieldEnded p

/-! ECALL, EBREAK, interrupts, WFI, MRET (R106, R112 to R116). -/

/-- ECALL (R113): cause 8 from U mode, 11 from M mode. -/
def execEcall (p : Pcell) (h : HenIx) (s : State) : Out :=
  s.henStep p h (.ecall p h) 4 fun s => .next (s.setHen p h ((s.hen p h).trap false (if (s.hen p h).mmode then 11 else 8) 0))

/-- EBREAK (R113); c marks the compressed form. mtval is 0, as for an illegal instruction (R112; DESIGN CHOICE, log 95). -/
def execEbreak (p : Pcell) (h : HenIx) (c : Bool) (s : State) : Out :=
  s.henStep p h (.ebreak p h c) (if c then 2 else 4) fun s => .next (s.raise p h causeBreak 0)

/-- mip at a tick (R114). -/
def Hen.mip (x : Hen) (tick : Nat) (oxHalt : Bool) : Word :=
  putB 3 x.softInt ||| putB 7 (decide (x.mtimecmp.toNat ≤ tick % 2 ^ 64)) ||| putB 11 x.bellPending ||| putB 16 (!x.recvQ.isEmpty) ||| putB 17 oxHalt
    ||| putB 18 x.yieldPend

def State.mip (s : State) (p : Nat) (h : HenIx) : Word := (s.hen p h).mip s.tick (s.ox p).halt

/-- Interrupt numbers in their order of priority (R114). -/
def intPriority : List Nat := [11, 3, 7, 18, 17, 16]

/-- The interrupt that a Hen takes: pending, enabled in mie, and in M mode under mstatus.MIE. -/
def State.interruptOf (s : State) (p : Nat) (h : HenIx) : Option Nat :=
  let x := s.hen p h
  if x.mmode && !x.mstatus.getLsbD 3 then none
  else intPriority.find? fun n => (s.mip p h &&& x.mie).getLsbD n

/-- The Hen is in WFI. -/
def Hen.inWfi (x : Hen) : Bool := !x.fetchWait &&
  match x.stall with
  | some (.wfi _ _) => true
  | _ => false

/-- A Hen stalled in an Xcarkan instruction, YIELD or WFI takes an enabled interrupt; one that waits for memory or for a
translation, that of its fetch included, does not (R82, R106). -/
def Hen.interruptible (x : Hen) : Bool := !x.fetchWait &&
  match x.stall with
  | none => true
  | some (.oxIssue ..) => true
  | some (.oxWait ..) => true
  | some (.drayIssue ..) => true
  | some (.drayWait ..) => true
  | some (.gigSend ..) => true
  | some (.gigRecv ..) => true
  | some (.yield ..) => true
  | some (.wfi ..) => true
  | _ => false

/-- A cell that a Hen's interrupt takes out of its yield point reaches it anew later, and as a source of a batch that has not taken
effect it is no longer quiesced (R106, R217). -/
def State.unquiesce (s : State) (p : Nat) : State :=
  let s := (s.setCell p { s.cell p with yieldTold := false }).yieldEnded p
  let n := (s.cell p).slot.toNat
  let b := s.coach n
  if b.phase = 1 ∧ b.moves.any (fun m => m.src == p && m.quiesced) then
    s.setCoach n { b with moves := b.moves.map fun m => if m.src = p then { m with quiesced := false } else m, quiescedAt := none }
  else s

/-- INTERRUPT (R114, R106). A WFI retires, and the interrupt is taken after it, unless RUN = 0 stops the Hen there (R116). -/
def execInterrupt (p : Pcell) (h : HenIx) (s : State) : Out := s.onClock p fun s =>
  let x := s.hen p h
  match s.interruptOf p h with
  | none => .next s
  | some n =>
    if !s.henRuns p h || !x.interruptible then .next s
    else
      let s := (if x.yieldId.isSome then s.unquiesce p else s).unwait p h
      let s := if x.inWfi then s.done p h 4 id else s
      .next (if x.run then s.setHen p h ((s.hen p h).trap true n 0) else s)

/-- MTIP (R114): bit 7 of mip follows time ≥ mtimecmp at every read, so what the instant brings is the end of a WFI whose timer
interrupt is enabled. -/
def execMtip (p : Pcell) (h : HenIx) (s : State) : Out := s.onClock p fun s =>
  if s.henRuns p h && (s.hen p h).inWfi && (s.mip p h &&& (s.hen p h).mie).getLsbD 7 then .next (s.done p h 4 id) else .next s

/-- WFI (R116): the Hen waits until an interrupt is pending, whatever mstatus.MIE holds; in U mode it is legal, as
mstatus.TW does not exist here. -/
def execWfi (p : Pcell) (h : HenIx) (s : State) : Out :=
  s.henStep p h (.wfi p h) 4 fun s =>
    if s.mip p h &&& (s.hen p h).mie ≠ 0 then .next (s.done p h 4 id)
    else s.stallIn p h (.wfi p h)

/-- MRET: the mode from MPP, MIE from MPIE, MPIE set, MPP to U, the pc from mepc; illegal in U mode. -/
def execMret (p : Pcell) (h : HenIx) (s : State) : Out :=
  s.henStep p h (.mret p h) 4 fun s =>
    let x := s.hen p h
    if !x.mmode then .next (s.raise p h causeIllegal 0)
    else
      let mst := x.mstatus &&& ~~~0x1888#64
      let toM := bfield x.mstatus 11 2 == 3
      .next ((s.setHen p h { x.retire 4 with
        pc := x.mepc
        mmode := toM
        mstatus := (mst ||| 0x80 ||| (if x.mstatus.getLsbD 7 then 0x8 else 0)) &&& (if toM then ~~~0#64 else ~~~0x20000#64) }).countCell p 7 1)

/-- FINISH_PROGRAM (R613): the Hen returns to the cell monitor, which clears RUN; registers stay. -/
def execFinishProgram (p : Pcell) (h : HenIx) (s : State) : Out := s.onClock p fun s =>
  let x := s.hen p h
  if !x.run || x.stall.isSome then .next s
  else
    .next ((s.setHen p h { x with run := false, mmode := true }).noteYield p)

/-! The control block (R115 to R117). -/

/-- No handover waits for a Hen any more: those that it was given are carried out all the same. -/
def Cell.forgetGives (c : Cell) (h : Nat) : Cell :=
  { c with handover := tmap [] c.handover fun _ l => l.map fun e => if e.2 = h then (e.1, 4) else e }

/-- The invalidation of a Hen's I-cache counts as having seen every write so far (R88, R115). -/
def State.henFresh (s : State) (x : Hen) : Hen := { x.reset with fenceSeq := s.writeSeq - 1 }

/-- A start after reset: RUN set on a Hen in the reset state fetches from HEN_RESET_PC (R117). -/
def State.henStart (s : State) (x : Hen) : Hen :=
  if x.run then x
  else if x.fresh then { x with run := true, fresh := false, pc := x.resetPc, fenceSeq := s.writeSeq - 1 }
  else { x with run := true }

/-- A Hen stopped by RUN = 0 (R116): an instruction of R106, or one that has not been fetched, restarts when RUN is set again; an
access to memory, a BANK.GIVE or a WFI in progress still goes on until it retires. -/
def Hen.halted (x : Hen) : Hen :=
  if x.fetchWait || (x.interruptible && !x.inWfi) then { x with run := false, stall := none, fetchWait := false } else { x with run := false }

/-- A Hen stopped where it stands: its program goes on elsewhere, or nowhere. -/
def Hen.ended (x : Hen) : Hen := { x with run := false, stall := none, fetchWait := false }

/-- A write of HEN_CTRL: SOFT_INT, then RESET, then RUN (R116). -/
def State.henCtrl (s : State) (p : Nat) (h : HenIx) (v : Word) : State :=
  let x := { s.hen p h with softInt := v.getLsbD 2 }
  let x := if v.getLsbD 1 then s.henFresh x else x
  let x := if v.getLsbD 0 then s.henStart x else x.halted
  let s := if v.getLsbD 1 then (s.setCell p ((s.cell p).forgetGives h)).unwait p h else s
  let s := (s.setHen p h x).noteYield p
  if v.getLsbD 1 then s.checkInvs p else s

/-- HEN_RESET (R116): a write of HEN_CTRL with RESET set. -/
def execHenReset (p : Pcell) (h : HenIx) (v : Word) (s : State) : Out := s.gateCell p fun s => .next (s.henCtrl p h (v ||| 2))
/-- HEN_RUN (R117): a write of HEN_CTRL with RUN set and RESET clear. -/
def execHenRun (p : Pcell) (h : HenIx) (v : Word) (s : State) : Out := s.gateCell p fun s => .next (s.henCtrl p h ((v ||| 1) &&& ~~~2#64))
/-- HEN_STOP (R116): a write of HEN_CTRL with RUN and RESET clear. -/
def execHenStop (p : Pcell) (h : HenIx) (v : Word) (s : State) : Out := s.gateCell p fun s => .next (s.henCtrl p h (v &&& ~~~3#64))
/-- SOFT_INT (R116): the bit of HEN_CTRL that drives mip.MSIP. -/
def execSoftInt (p : Pcell) (h : HenIx) (b : Bool) (s : State) : Out := s.gateCell p fun s => .next (s.setHen p h { s.hen p h with softInt := b })

/-- HEN_STATUS (R116): a Hen that RUN = 0 has not stopped yet, for its instruction has still to retire, is not held. -/
def Hen.status (x : Hen) : Word :=
  let st : Nat :=
    if !x.run && x.stall.isNone then 0
    else if x.fetchWait then 1
    else match x.stall with
      | some (.yield ..) => 3
      | some (.wfi ..) => 4
      | some (.oxIssue ..) => 2
      | some (.oxWait ..) => 2
      | some (.drayIssue ..) => 2
      | some (.drayWait ..) => 2
      | some (.gigSend ..) => 2
      | some (.gigRecv ..) => 2
      | some (.bankGive ..) => 2
      | _ => 1
  put 32 x.lastYield.toNat ||| putB 8 x.mmode ||| BitVec.ofNat 64 st

end Sys2Proof.Machine
end

