-- ==== Sys2Proof/Machine/HenCsr.lean ====
section
/-! DEFINITION. The CSRs of a Hen (R111 to R115 and the standard ones of RV64GCV, Zicntr and Zihpm) and CSR_ACCESS. -/
namespace Sys2Proof.Machine

/-- mstatus as read: SD from FS and VS, UXL 64 bits. -/
def Hen.mstatusRead (x : Hen) : Word :=
  x.mstatus ||| 0x200000000 ||| putB 63 (bfield x.mstatus 13 2 == 3 || bfield x.mstatus 9 2 == 3)

/-- A write of mstatus: MIE, MPIE, VS, MPP (0 or 3), FS, MPRV. -/
def Hen.mstatusWrite (x : Hen) (v : Word) : Hen :=
  let mpp := bfield v 11 2
  let keep := if mpp = 0 ∨ mpp = 3 then v else (v &&& ~~~0x1800#64) ||| (x.mstatus &&& 0x1800)
  { x with mstatus := keep &&& 0x27E88 }

/-- misa: RV64 with A, C, D, F, I, M, U, V and a non-standard extension. -/
def misaValue : Word := 0x8000000000B0112D

/-- The bits of mie that exist (R114). -/
def mieMask : Word := 0x70888

/-- A counter's read: what software last wrote, plus a count that the manual leaves open. -/
def State.readCycle (s : State) (p : Nat) (h : HenIx) : Word × State :=
  let (f, t) := s.freeWord
  let x := s.hen p h
  if x.mcountinhibit.getLsbD 0 then (x.cycle, s) else (x.cycle + f, t)

/-- mhpmcounter n: with no event chosen it holds; what events count is open. -/
def State.readHpm (s : State) (p : Nat) (h : HenIx) (n : Nat) : Word × State :=
  let x := s.hen p h
  if tget 0 x.hpm (32 + n) = 0 || x.mcountinhibit.getLsbD n then (tget 0 x.hpm n, s) else s.freeWord

/-- U mode reads a counter only where mcounteren allows it. -/
def Hen.counterOk (x : Hen) (n : Nat) : Bool := x.mmode || x.mcounteren.getLsbD n

/-- Read a CSR: none where it does not exist or may not be read. hframe is the number of the frame in progress (R111; DESIGN CHOICE,
log 96). -/
def State.csrRead (s : State) (p : Nat) (h : HenIx) (csr : Nat) : Option (Word × State) :=
  let x := s.hen p h
  let c := s.cell p
  let r (v : Word) : Option (Word × State) := some (v, s)
  let n (v : Nat) : Option (Word × State) := some (BitVec.ofNat 64 v, s)
  let fs (v : Nat) : Option (Word × State) := if x.fsOff then none else n v
  let vs (v : Nat) : Option (Word × State) := if x.vsOff then none else n v
  match csr with
  | 0x001 => fs (bfield x.fcsr 0 5)
  | 0x002 => fs (bfield x.fcsr 5 3)
  | 0x003 => fs x.fcsr.toNat
  | 0x008 => vs x.vstart.toNat
  | 0x009 => vs (bfield x.vcsr 0 1)
  | 0x00A => vs (bfield x.vcsr 1 2)
  | 0x00F => vs x.vcsr.toNat
  | 0xC20 => vs x.vl.toNat
  | 0xC21 => vs x.vtype.toNat
  | 0xC22 => vs 64
  | 0x300 => r x.mstatusRead
  | 0x301 => r misaValue
  | 0x304 => r x.mie
  | 0x305 => r x.mtvec
  | 0x306 => n x.mcounteren.toNat
  | 0x30A => r 0x50
  | 0x320 => n x.mcountinhibit.toNat
  | 0x340 => r x.mscratch
  | 0x341 => r x.mepc
  | 0x342 => r x.mcause
  | 0x343 => r x.mtval
  | 0x344 => r (s.mip p h)
  | 0xB00 => some (s.readCycle p h)
  | 0xB02 => r x.instret
  | 0xC00 => if x.counterOk 0 then some (s.readCycle p h) else none
  | 0xC01 => if x.counterOk 1 then n s.tick else none
  | 0xC02 => if x.counterOk 2 then r x.instret else none
  | 0xF11 => r 0
  | 0xF12 => r 0x8000000000004E01
  | 0xF13 => r 0x100
  | 0xF14 => n (4 * p + h.val)
  | 0xF15 => r 0
  | 0xCC0 => n c.lcell.toNat
  | 0xCC1 => n (s.coach c.slot.toNat).coachId.toNat
  | 0xCC2 => n (s.epochOf c.slot.toNat).toNat
  | 0xCC3 => n c.ox.doneCount.toNat
  | 0xCC4 => n (c.dray 0).doneCount.toNat
  | 0xCC5 => n (c.dray 1).doneCount.toNat
  | 0xCC6 => n x.recvQ.length
  | 0xCC7 => n s.stage.frame
  | 0xCC8 => n h.val
  | 0x800 => n c.ox.seed.toNat
  | 0x7C0 => r x.mtimecmp
  | 0x7C1 => r (put 16 x.lastYield.toNat ||| putB 0 x.yieldPend)
  | 0x7C2 => r 0
  | 0xFC0 => n p
  | k =>
    if 0x323 ≤ k ∧ k ≤ 0x33F then r (tget 0 x.hpm (32 + (k - 0x320)))
    else if 0xB03 ≤ k ∧ k ≤ 0xB1F then some (s.readHpm p h (k - 0xB00))
    else if 0xC03 ≤ k ∧ k ≤ 0xC1F then (if x.counterOk (k - 0xC00) then some (s.readHpm p h (k - 0xC00)) else none)
    else none

/-- Write a CSR that csrRead has found to exist and that is not read-only; bits that do not exist are ignored. -/
def State.csrWrite (s : State) (p : Nat) (h : HenIx) (csr : Nat) (v : Word) : State :=
  let x := s.hen p h
  let w (y : Hen) : State := s.setHen p h y
  let fd := x.mstatus ||| 0x6000
  let vd := x.mstatus ||| 0x600
  let b8 : BitVec 8 := BitVec.ofNat 8 v.toNat
  match csr with
  | 0x001 => w { x with fcsr := (x.fcsr &&& 0xE0) ||| (b8 &&& 0x1F), mstatus := fd }
  | 0x002 => w { x with fcsr := (x.fcsr &&& 0x1F) ||| (b8 <<< 5), mstatus := fd }
  | 0x003 => w { x with fcsr := b8, mstatus := fd }
  | 0x008 => w { x with vstart := v &&& 0x1FF, mstatus := vd }
  | 0x009 => w { x with vcsr := (x.vcsr &&& 6) ||| (BitVec.ofNat 3 v.toNat &&& 1), mstatus := vd }
  | 0x00A => w { x with vcsr := (x.vcsr &&& 1) ||| (BitVec.ofNat 3 v.toNat <<< 1), mstatus := vd }
  | 0x00F => w { x with vcsr := BitVec.ofNat 3 v.toNat, mstatus := vd }
  | 0x300 => w (x.mstatusWrite v)
  | 0x304 => w { x with mie := v &&& mieMask }
  | 0x305 => w { x with mtvec := v &&& ~~~2#64 }
  | 0x306 => w { x with mcounteren := BitVec.ofNat 32 v.toNat }
  | 0x320 => w { x with mcountinhibit := BitVec.ofNat 32 v.toNat &&& ~~~2#32 }
  | 0x340 => w { x with mscratch := v }
  | 0x341 => w { x with mepc := v &&& ~~~1#64 }
  | 0x342 => w { x with mcause := v }
  | 0x343 => w { x with mtval := v }
  | 0xB00 => w { x with cycle := v }
  | 0xB02 => w { x with instret := v }
  | 0x800 => s.setOx p ((s.ox p).writeSeed v)
  | 0x7C0 => w { x with mtimecmp := v }
  | 0x7C2 => if v.getLsbD 0 then s.setOx p (s.ox p).flushWrite else s
  | k =>
    if 0x323 ≤ k ∧ k ≤ 0x33F then w { x with hpm := tset 0 x.hpm (32 + (k - 0x320)) v }
    else if 0xB03 ≤ k ∧ k ≤ 0xB1F then w { x with hpm := tset 0 x.hpm (k - 0xB00) v }
    else s

/-- A CSR number may be accessed: bits 9:8 name the lowest privilege, bits 11:10 both set mean read-only. -/
def csrAllowed (mmode writes : Bool) (csr : Nat) : Bool :=
  (mmode || csr / 256 % 4 == 0) && !(writes && csr / 1024 == 3)

/-- CSR_ACCESS (R111): CSRRW, CSRRS, CSRRC and their immediate forms, in which rs1 is the value. -/
def execCsrAccess (p : Pcell) (h : HenIx) (op : CsrOp) (imm : Bool) (csr : BitVec 12) (rd rs1 : Reg) (s : State) : Out :=
  s.henStep p h (.csrAccess p h op imm csr rd rs1) 4 fun s =>
    let x := s.hen p h
    let arg : Word := if imm then BitVec.ofNat 64 rs1.val else x.getX rs1
    let writes := op == .rw || rs1 != 0
    if !csrAllowed x.mmode writes csr.toNat then .next (s.raise p h causeIllegal 0)
    else match s.csrRead p h csr.toNat with
      | none => .next (s.raise p h causeIllegal 0)
      | some (old, s) =>
        let new := match op with
          | .rw => arg
          | .rs => old ||| arg
          | .rc => old &&& ~~~arg
        let s := s.done p h 4 fun x => x.setX rd old
        .next (if writes then s.csrWrite p h csr.toNat new else s)

end Sys2Proof.Machine
end

