-- ==== Sys2Proof/Machine/Gig.lean ====
section
/-! DEFINITION. Gig messages at a cell (R148 to R158, R213, R227, R541): USER, SEM_REPLY, DOORBELL, YIELD_REQ, EPOCH_SET,
CLOCK_SET, NACK, the resend after a NACK, and the doorbell latch. -/
namespace Sys2Proof.Machine

/-- Two messages agree in what a Hen writes of them: the sending port fills SRC_HEN, COACH and SRC (R148). -/
def gigSame (a b : GigMsg) : Bool :=
  a.type == b.type && a.dst == b.dst && a.dstHen == b.dstHen && a.payload == b.payload

/-- The message at the head of a Hen's send queue has been taken at its destination. -/
def Hen.gigTaken (x : Hen) (m : GigMsg) : Hen :=
  match x.sendQ with
  | a :: q => if x.gigOut && gigSame a m then { x with sendQ := q, gigOut := false, gigTo := none } else x
  | [] => x

/-- The Hen of the lcell that sent a USER message: on its cell, or in the move image on its way to the cell. -/
def State.gigTakenAt (s : State) (m : GigMsg) : State :=
  let h : HenIx := ⟨m.srcHen.toNat, m.srcHen.isLt⟩
  match s.placed m.coach.toNat (BitVec.ofNat 27 m.src.toNat) with
  | none => s
  | some p =>
    let c := s.cell p
    match c.image with
    | some im => s.setCell p { c with image := some { im with hens := im.hens.set h (im.hens[h].gigTaken m) } }
    | none => (s.setHen p h ((s.hen p h).gigTaken m)).gigPump p h 8

/-- The pcell whose port holds a USER message that was sent under an lcell. -/
def State.gigSender (s : State) (m : GigMsg) : Option Nat :=
  s.placed m.coach.toNat (BitVec.ofNat 27 m.src.toNat)

/-- Why a message for a Hen receive queue is refused (R156, R227): some true with MOVED, some false with FULL. A source of a move refuses from M0
on. -/
def State.gigRefused (s : State) (p : Nat) (m : GigMsg) (user : Bool) : Option Bool :=
  let c := s.cell p
  let h : HenIx := ⟨m.dstHen.toNat, m.dstHen.isLt⟩
  match s.cellState p with
  | .moveOut => some true
  | .vacated => some true
  | .moveIn => if c.slot == m.coach && BitVec.ofNat 28 c.lcell.toNat == m.dst then some false else some true
  | st =>
    if user && !(st == .hitched && c.slot == m.coach && BitVec.ofNat 28 c.lcell.toNat == m.dst) then some true
    else if (s.hen p h).recvQ.length ≥ 16 then some false else none

/-- A message enters the receive queue of its Hen. -/
def State.gigDeliver (s : State) (p : Nat) (m : GigMsg) : State :=
  let h : HenIx := ⟨m.dstHen.toNat, m.dstHen.isLt⟩
  let x := s.hen p h
  s.setHen p h { x with recvQ := x.recvQ ++ [m] }

/-- USER (R150, R156). -/
def execUser (p : Pcell) (m : GigMsg) (s : State) : Out := s.onModule fun s =>
  s.delivered (.user p m) fun s =>
  let s := s.takeAt p (.user p m)
  match s.gigRefused p m true with
  | none => .next ((s.gigDeliver p m).gigTakenAt m)
  | some moved => match s.gigSender m with
    | none => .next s
    | some q => if hq : q < 1152 then .next (s.sendFrom p (.nack ⟨q, hq⟩ ⟨m.srcHen.toNat, m.srcHen.isLt⟩ moved)) else .next s

/-- The replies in flight from a unit to one Hen of an lcell. -/
def sameReply (m : GigMsg) : Instr → Bool
  | .semReply _ r => r.coach == m.coach && r.dst == m.dst && r.dstHen == m.dstHen && r.src == m.src
  | _ => false

/-- The replies still in flight from the unit of a reply to its Hen. -/
def State.repliesBehind (s : State) (m : GigMsg) : List GigMsg :=
  (s.flight.filter fun e => sameReply m e.2).map fun e => match e.2 with
    | .semReply _ r => r
    | _ => m

/-- SEM_REPLY (R150, R156, R227): a refused reply goes back to its unit, which sends it again 64 Stage cycles after the NACK, four ticks on, to
the cell on which its lcell then runs; later replies to the same Hen wait behind it, those on their way among them (DESIGN CHOICE, log
119). A context that has been torn down has no replies. -/
def execSemReply (p : Pcell) (m : GigMsg) (s : State) : Out := s.onModule fun s => s.delivered (.semReply p m) fun s =>
  match s.gigRefused p m false with
  | none => .next ((s.takeAt p (.semReply p m)).gigDeliver p m)
  | some _ =>
    let behind := (s.take (.semReply p m)).repliesBehind m
    let s := (((s.take (.semReply p m)).countCell p 6 1).countCell p 5 1)
    let s := { s with flight := s.flight.filter fun e => !sameReply m e.2 }
    let n := m.coach.toNat
    match (match s.cellCtx p with
      | some k => some k
      | none => s.runningCtx n) with
    | some k => .next { s with sched := { s.sched with
        replies := (m :: behind).map (fun r => (bfield m.src 0 27 == epSem true, k, s.tick + 4, r)) ++ s.sched.replies } }
    | none => .next s

/-- NACK (R156, R227): the sending port holds the message. -/
def Hen.gigRefuse (x : Hen) (moved : Bool) : Hen :=
  if x.gigOut then { x with gigOut := false, gigNack := true, gigTo := if moved then none else x.gigTo } else x

/-- The pcell that holds the Hens of the lcell to whose port a message was sent: the target of its move, once M0 has come. -/
def State.movedTo (s : State) (p : Nat) : Nat :=
  let b := s.coach (s.cell p).slot.toNat
  if s.cellState p == .moveOut then
    match (b.moves ++ b.lastBatch).find? fun m => m.src == p with
    | some m => m.dst
    | none => p
  else p

def execNack (p : Pcell) (h : HenIx) (moved : Bool) (s : State) : Out := s.onModule fun s =>
  s.delivered (.nack p h moved) fun s =>
  let s := s.takeAt p (.nack p h moved)
  let p := s.movedTo p
  let c := s.cell p
  match c.image with
  | some im => .next (s.setCell p { c with image := some { im with hens := im.hens.set h (im.hens[h].gigRefuse moved) } })
  | none => .next (s.setHen p h ((s.hen p h).gigRefuse moved))

/-- GIG_RESEND (R156): the held message leaves again. -/
def execGigResend (p : Pcell) (h : HenIx) (s : State) : Out := s.onClock p fun s =>
  let x := s.hen p h
  if !x.gigNack || (s.cell p).stopped then .next s
  else
    let s := s.setHen p h { x with gigNack := false }
    let c := s.cell p
    .next ((s.setCell p { c with retries := .ofNat 16 (satInc 16 c.retries.toNat) }).gigPump p h 8)

/-- DOORBELL (R150, R158). -/
def execDoorbell (p : Pcell) (m : GigMsg) (s : State) : Out := s.onModule fun s =>
  s.delivered (.doorbell p m) fun s =>
  let s := s.takeAt p (.doorbell p m)
  let h : HenIx := ⟨m.dstHen.toNat, m.dstHen.isLt⟩
  let x := s.hen p h
  .next (s.setHen p h { x with bellOverrun := x.bellOverrun || x.bellPending, bellPending := true, bellPayload := m.payload })

/-- GIG_DOORBELL_n as it reads. -/
def Hen.bell (x : Hen) : Word := putB 49 x.bellOverrun ||| putB 48 x.bellPending ||| put 0 x.bellPayload.toNat

/-- A read of GIG_DOORBELL_n clears OVERRUN and PENDING. -/
def Hen.bellRead (x : Hen) : Hen := { x with bellOverrun := false, bellPending := false }

/-- GIG_DOORBELL_READ (R158): the cell monitor reads its own Hen's latch, by M-mode physical access to the cell window; in U mode no
address reaches it. The row names no register, so the value stands in Hen.windowRead (DESIGN CHOICE, log 101). -/
def execGigDoorbellRead (p : Pcell) (h : HenIx) (s : State) : Out := s.onClock p fun s =>
  let x := s.hen p h
  .next (if s.henRuns p h && x.mmode then s.setHen p h { x.bellRead with windowRead := x.bell } else s)

/-- A yield request reaches a cell (R104). -/
def State.askYield (s : State) (p dc : Nat) : State :=
  let c := s.cell p
  (s.setCell p { c with yieldFrom := some dc, yieldTold := false, hens := c.hens.map fun (x : Hen) => { x with yieldPend := true } }).noteYield p

/-- YIELD_REQ (R150): a cell already at a yield point answers again. -/
def execYieldReq (p : Pcell) (m : GigMsg) (s : State) : Out := s.onModule fun s =>
  s.delivered (.yieldReq p m) fun s => .next (((s.takeAt p (.yieldReq p m)).yieldEnded p).askYield p (bfield m.src 0 11))

/-- EPOCH_SET (R213). -/
def execEpochSet (p : Pcell) (m : GigMsg) (s : State) : Out := s.onModule fun s =>
  s.delivered (.epochSet p m) fun s =>
  let s := s.takeAt p (.epochSet p m)
  .next (s.setCell p { s.cell p with portEpoch := BitVec.ofNat 32 (bfield m.payload 0 32) })

/-- Fused and current ceilings of a cell in MHz (R17). -/
def State.ceilFusedOf (s : State) (p : Nat) : Nat := (tget 2500 s.ceilFused p).toNat
def State.ceilNow (s : State) (p : Nat) : Nat := s.ceilFusedOf p - (s.cell p).ceilDrop

/-- The cell's clock runs: it is in a state of a hitched cell. -/
def State.clocked (s : State) (p : Nat) : Bool :=
  match s.cellState p with
  | .hitched | .joining | .moveIn | .moveOut => true
  | _ => (s.cell p).slot != 63

/-- The frequency that a cell takes for a target (R18, R541). -/
def State.freqFor (s : State) (p target : Nat) : Nat :=
  if s.clocked p then max 1000 (min target (s.ceilNow p) / 25 * 25) else 0

def State.setFreq (s : State) (p target : Nat) : State :=
  s.setCell p { s.cell p with freq := BitVec.ofNat 16 (s.freqFor p target) }

/-- CLOCK_SET (R541). -/
def execClockSet (p : Pcell) (m : GigMsg) (s : State) : Out := s.onModule fun s =>
  s.delivered (.clockSet p m) fun s =>
  let s := s.takeAt p (.clockSet p m)
  .next (s.setFreq p (bfield m.payload 0 16))

end Sys2Proof.Machine
end

