-- ==== Sys2Proof/Machine/JbnBase.lean ====
section
/-! DEFINITION. The Jombitin ports' egress, the route tables and fabric keys, and the notes of an epoch advance (R415 to R436). -/
namespace Sys2Proof.Machine

/-! Life-cycle state and stalls (R486, R494). -/

/-- LC_i as it reads: the majority of its three copies. -/
def Stable.lcBlown (t : Stable) (i : Nat) : Bool := decide (2 ≤ popcount 3 (bfield t.lcFuses (3 * i) 3))

/-- The code of the life-cycle state: fuses blown from LC_0 upward; a gap reads as SCRAPPED. -/
def Stable.lcState (t : Stable) : Nat :=
  match ((span 0 5).map fun i => if t.lcBlown i then 2 ^ i else 0).sum with
  | 0 => 0
  | 1 => 1
  | 3 => 2
  | 7 => 3
  | 15 => 4
  | _ => 5

def Stall.kind (x : Stall) : Nat := bfield x.attr 60 3
def Stall.valid (x : Stall) : Bool := x.attr.getLsbD 63
def Stall.world (x : Stall) : Nat := bfield x.attr 48 6
def Stall.coachId (x : Stall) : BitVec 20 := BitVec.ofNat 20 x.attr.toNat

/-- An engine may use a stall: its master class, the world of the request, the life-cycle state (R494). -/
def Stable.mayUse (t : Stable) (x : Stall) (master world : Nat) : Bool :=
  x.valid && x.attr.getLsbD (43 + master) && x.world == world && x.attr.getLsbD (54 + t.lcState)

/-- The stall that holds the fabric key of a coach slot (R422, R423). -/
def State.fabricStall (s : State) (n : Nat) : Option (Nat × Stall) :=
  let id := (s.coach n).coachId
  s.stable.stalls.find? fun e => e.2.kind == 5 && e.2.coachId == id && s.stable.mayUse e.2 1 (s.partOf n)
def State.fabricKey (s : State) (n : Nat) : Option (BitVec 256) := (s.fabricStall n).map fun e => e.2.key.truncate 256

/-! Counts of JBN_DROPS. -/

def State.dropMisrouted (s : State) : State := { s with jbn := { s.jbn with misrouted := .ofNat 16 (satInc 16 s.jbn.misrouted.toNat) } }
def State.dropNotMember (s : State) : State := { s with jbn := { s.jbn with notMember := .ofNat 16 (satInc 16 s.jbn.notMember.toNat) } }
def State.dropFull (s : State) : State := { s with jbn := { s.jbn with ingressFull := .ofNat 16 (satInc 16 s.jbn.ingressFull.toNat) } }
def State.dropAuth (s : State) : State := { s with jbn := { s.jbn with authDrops := .ofNat 16 (satInc 16 s.jbn.authDrops.toNat) } }

/-! Route tables (R430 to R432). -/

def State.routeArea (s : State) (n : Nat) : Nat := s.jbn.routeBase.toNat + n * 0x200000
def State.routeShift (s : State) (n : Nat) : Nat := s.devWord (s.routeArea n) % 16

/-- Member entry i: epoch, VALID, module. -/
def State.memberEntry (s : State) (n i : Nat) : BitVec 32 × Bool × BitVec 17 :=
  let w := s.devWord (s.routeArea n + 0x100000 + 8 * i)
  (BitVec.ofNat 32 (field w 32 32), field w 17 1 == 1, BitVec.ofNat 17 (field w 0 17))

/-- The VALID member entry of an lcell. -/
def State.memberOf (s : State) (n : Nat) (l : BitVec 27) : Option (BitVec 32 × BitVec 17) :=
  let i := l.toNat / 2 ^ s.routeShift n
  if i ≥ 131072 then none
  else
    let (e, v, m) := s.memberEntry n i
    if v then some (e, m) else none

/-- Member entries that hold anything but zeros. -/
def State.membersListed (s : State) (n : Nat) : List Nat :=
  let base := s.routeArea n + 0x100000
  distinct ((s.mem.filter fun c => decide (base ≤ c.1) && decide (c.1 < base + 0x100000)).map fun c => (c.1 - base) / 8)

/-- Egress stream entry t: VALID, port, stream at the receiver, lcell. -/
def State.streamEntry (s : State) (n t : Nat) : Bool × Nat × Nat × BitVec 27 :=
  let w := s.devWord (s.routeArea n + 0x200 + 8 * t)
  (field w 63 1 == 1, field w 59 4, field w 53 6, BitVec.ofNat 27 (field w 0 27))

/-- A remote map entry. -/
structure RemoteEntry where
  win : Nat
  log2 : Nat
  portW : Nat
  portE : Nat
  module : BitVec 17
  valid : Bool
  server : Nat
  epoch : BitVec 32
  deriving DecidableEq, Repr

def State.remoteEntry (s : State) (n e : Nat) : RemoteEntry :=
  let a := s.routeArea n + 0x800 + 32 * e
  let w := leNat (s.devRead a 32)
  { win := field w 30 20 * 2 ^ 30, log2 := field w 64 6, portW := field w 72 4, portE := field w 76 4
    module := BitVec.ofNat 17 (field w 80 17), valid := field w 104 1 == 1, server := field w 128 52
    epoch := BitVec.ofNat 32 (field w 192 32) }

/-- VALID remote map entries of a slot. -/
def State.remotes (s : State) (n : Nat) : List RemoteEntry := ((span 0 64).map (s.remoteEntry n)).filter (·.valid)

/-- The remote map entry whose range holds an address of the remote window. -/
def State.remoteOf (s : State) (n a : Nat) : Option RemoteEntry :=
  (s.remotes n).find? fun e =>
    let w := 0x4000000000000 + e.win
    decide (w ≤ a) && decide (a < w + 2 ^ e.log2)

/-- A module is a member of the slot's coach, or serves one of its remote ranges (R432). -/
def State.isMember (s : State) (n : Nat) (m : BitVec 17) : Bool :=
  (s.membersListed n).any fun i => let e := s.memberEntry n i; e.2.1 && e.2.2 == m
def State.isServer (s : State) (n : Nat) (m : BitVec 17) : Bool := (s.remotes n).any (·.module == m)

/-! Ports (R417, R424 to R426). -/

def State.jport (s : State) (k : Nat) : JbnPort := tget {} s.jbn.ports k
def State.setJport (s : State) (k : Nat) (x : JbnPort) : State := { s with jbn := { s.jbn with ports := tset {} s.jbn.ports k x } }
def JbnPort.up (x : JbnPort) : Bool := x.lanes == 0xFF && x.credits && !x.disabled

/-- Link credits of a class that a slot holds, and all that the port's switch has given of the class. -/
def JbnPort.heldBy (x : JbnPort) (n cls : Nat) : Nat := x.held.foldl (fun t e => if e.1 = n * 4 + cls then t + e.2 else t) 0
def JbnPort.total (x : JbnPort) (cls : Nat) : Nat :=
  x.held.foldl (fun t e => if e.1 % 4 = cls then t + e.2 else t) (tget 0 x.left cls)

/-- A coach holds no more REQ and RESP credits of a port than a share allows (R425). -/
def State.linkWithin (s : State) (n k share : Nat) : Bool :=
  let x := s.jport k
  (span 0 2).all fun cls => decide (x.heldBy n cls * 64 ≤ share * x.total cls)

/-- Credits that a packet takes (R424). -/
def Packet.credits (p : Packet) : Nat := ceilDiv (64 + p.payload.length) 64

/-- A packet of a slot (62 for CTRL and MGMT) may leave now: the port is up, and its class has credits, of which the slot holds no
more than its share allows. -/
def State.mayLeave (s : State) (k n : Nat) (p : Packet) : Bool :=
  let x := s.jport k
  let c := Packet.credits p
  let cls := p.cls.toNat
  let share := (tget 0 (s.coach n).linkShare k).toNat
  x.up && decide (c ≤ tget 0 x.left cls) && (n == 62 || decide ((x.heldBy n cls + c) * 64 ≤ share * x.total cls))

/-- Packets that may leave a port do so: of each slot and class in order (R426). -/
def State.jbnPump (s : State) (k : Nat) : Nat → List (Nat × Packet) → List (Nat × Packet) → State
  | 0, kept, rest => s.setJport k { s.jport k with egress := kept ++ rest }
  | _, kept, [] => s.setJport k { s.jport k with egress := kept }
  | f + 1, kept, (n, p) :: rest =>
    if s.mayLeave k n p && !kept.any (fun e => e.1 == n && e.2.cls == p.cls) then
      let x := s.jport k
      let cls := p.cls.toNat
      let s := s.setJport k { x with
        left := tset 0 x.left cls (tget 0 x.left cls - Packet.credits p), held := x.held ++ [(n * 4 + cls, Packet.credits p)] }
      let bytes := p.payload.length
      let s := ((s.countGlobal (512 + 4 * k) bytes).countGlobal (514 + 4 * k) 1).countCoach n 9 bytes
      State.jbnPump (s.emit (.packet k p)) k f kept rest
    else State.jbnPump s k f (kept ++ [(n, p)]) rest

def State.portPump (s : State) (k : Nat) : State :=
  let q := (s.jport k).egress
  s.jbnPump k q.length [] q

/-- A packet queued at a port's egress. -/
def State.queuePacket (s : State) (k n : Nat) (p : Packet) : State :=
  let x := s.jport k
  (s.setJport k { x with egress := x.egress ++ [(n, p)] }).portPump k

/-- A packet of a coach made and queued (R422): under the coach's fabric key, with the key's next SEQ; without the key it is dropped
(R494). Nothing leaves before SET_ID. owner: the slot whose credits it takes, 62 for CTRL. -/
def State.sendPacket (s : State) (k n owner : Nat) (p : Packet) : State :=
  match s.jbn.moduleId, s.fabricStall n with
  | none, _ => s
  | _, none => s.dropAuth
  | some me, some (i, x) =>
    let s := { s with stable := { s.stable with stalls := tset {} s.stable.stalls i { x with counter := x.counter + 1 } } }
    s.queuePacket k owner { p with src := me, coachId := (s.coach n).coachId, seq := x.counter, auth := some (x.key.truncate 256) }

/-- Packets of a request that have not left are taken back. -/
def State.recallTag (s : State) (n : Nat) (tag : BitVec 16) : State :=
  let keep (e : Nat × Packet) : Bool := !(e.1 == n && e.2.cls == 0 && e.2.type != 4 && e.2.tag == tag)
  { s with jbn := { s.jbn with ports := tmap {} s.jbn.ports fun _ (x : JbnPort) => { x with egress := x.egress.filter keep } } }

/-- Requests of a slot that FAB egress holds and that have not left are discarded (R333, R478). -/
def State.dropUnsent (s : State) (n : Nat) : State :=
  let unsent (e : Nat × Packet) : Bool := e.1 == n && e.2.cls == 0 && e.2.type != 4 && e.2.attempt == 0
  let tags := s.jbn.ports.flatMap fun x => (x.2.egress.filter unsent).map (·.2.tag)
  { s with jbn := { s.jbn with
      reqs := s.jbn.reqs.filter fun r => !(r.slot == n && tags.contains r.tag)
      ports := tmap {} s.jbn.ports fun _ (x : JbnPort) => { x with egress := x.egress.filter fun e => !unsent e } } }

/-! Epoch notes (R436). -/

/-- The other modules that hear of an advance. -/
def State.noteTargets (s : State) (n : Nat) : List Nat :=
  let m := (s.membersListed n).filterMap fun i => let e := s.memberEntry n i; if e.2.1 then some e.2.2.toNat else none
  (distinct (m ++ (s.remotes n).map (·.module.toNat))).filter fun x => s.jbn.moduleId != some (BitVec.ofNat 17 x)

/-- EPOCH_NOTE to every one of them, on every port that is up. -/
def State.sendNotes (s : State) (n : Nat) : State :=
  let c := s.coach n
  let base := if c.localCells = 0 then 2 ^ 27 - 1 else c.base.toNat
  let up := (span 0 9).filter fun k => (s.jport k).up
  (s.noteTargets n).foldl (fun s m => up.foldl (fun s k => s.sendPacket k n 62
    { type := 0x20, dst := BitVec.ofNat 17 m, src := 0, cls := 2, epoch := c.epoch, addr := BitVec.ofNat 64 (base + c.localCells * 2 ^ 32)
      auth := none }) s) s

end Sys2Proof.Machine
end

