-- ==== Sys2Proof/Machine/Mule.lean ====
section
/-! DEFINITION. The Mule engines (R160 to R199): rings, commands, retirement, faults and the MULE map. A command runs in one
command of the block; its output flits wait at the engine's endpoint until the timetable injects them. -/
namespace Sys2Proof.Machine

/-! Access checks. -/

/-- Why an engine may not access a line under a partition (R160, R161): outside its memory, outside the partition, outside
MULE regions. -/
def State.muBad (s : State) (e part : Nat) (l : Nat) : Option Nat :=
  let a := 64 * l
  if !s.holdsMemory a || ctlOf a != e then some mStack
  else if !s.mayAccess part a then some mPartition
  else if !s.isMule a then some mNotMule
  else none

/-- Why the data of a line does not come to an engine: an uncorrectable error, or on LPDDR5X a tag that does not match (R162, R505). -/
def State.muLost (s : State) (l : Nat) : Option Nat :=
  if s.lineBad l then some mEcc else if s.tagBad l 0 then some mIntegrity else none

/-- Why an engine may not write a whole line of an LPDDR5X unit: another line of the unit does not match its tag (R162, R504, R505). -/
def State.muMates (s : State) (l : Nat) : Option Nat := if s.unitBad l 0 fun k => k != l then some mIntegrity else none

def State.muCtx (s : State) (e n : Nat) (c : Line) : MuCtx :=
  { reach := fun a => s.holdsMemory a && ctlOf a == e, bad := s.muBad e (s.partOf n), lost := s.muLost, mates := s.muMates, stream := decide (muOut c ≠ 0) }

/-- 4-byte entries from an address to the end of the engine's memory: what the spec calls the length of IDX that the command can read
(R182; DEDUCED, log 112). -/
def State.muLimit (s : State) (e a : Nat) : Nat :=
  let top := if e < 20 then (e + 1) * 0x001400000000 else lpBase + (e - 20) * 0x001000000000 + s.lpGiB * 2 ^ 30
  (top - a) / 4

/-! Rings. -/

/-- Bytes of a ring. -/
def Ring.sizeLog2 (r : Ring) : Nat := bfield r.cfg 1 5
def Ring.weight (r : Ring) : Nat := bfield r.cfg 16 8
def Ring.tslots (r : Ring) : Nat := bfield r.cfg 24 7
def Ring.entryAddr (r : Ring) (i : Nat) : Nat := r.base.toNat + i % 2 ^ r.sizeLog2 * 64

/-- The DONE word (R174). -/
def Ring.doneWord (r : Ring) (tag : Nat) : Word :=
  putB 63 r.halt ||| put 48 (if r.halt then bfield r.fault 33 4 else 0) ||| put 32 tag ||| BitVec.ofNat 64 r.retired.toNat

/-- The stores of DONE words that wait are sent while the engine may have another request outstanding (R303). -/
def State.storePump (s : State) (e : Nat) : Nat → State
  | 0 => s
  | k + 1 =>
    let x := s.engine e
    match x.stores with
    | (l, b) :: q =>
      if s.mayRequest (epEngine e) then
        ((s.setEngine e { x with stores := q, far := x.far ++ [(l, b)] }).request (epEngine e) l (.amoFar (epEngine e) l b)).storePump e k
      else s
    | [] => s

/-- The store of a DONE word has been answered: one that waits may go. -/
def State.storeAnswered (s : State) (e : Nat) (l : LineNo) : State :=
  let x := s.engine e
  (s.setEngine e { x with far := dropWhere (fun f => f.1 == l) x.far }).storePump e 1

/-- The DONE word written as a coherent store: a far atomic STORE of 8 bytes to its home (R174, R302). The windows of the ring's commands
close once it is performed (R166). -/
def State.storeDone (s : State) (e n : Nat) (tag : Nat) : State :=
  let x := s.engine e
  let r := x.ring n
  let a := r.doneAddr.toNat
  let b := BitVec.ofNat 192 (3 * 2 ^ 8 + a % 64 * 2 ^ 16 + (r.doneWord tag).toNat * 2 ^ 64)
  (s.setEngine e { x.setRing n { r with window := [], closing := r.closing ++ [(lineNo a, b, r.window)] } with stores := x.stores ++ [(lineNo a, b)] }).storePump e (x.stores.length + 1)

def State.setRing (s : State) (e n : Nat) (r : Ring) : State := s.setEngine e ((s.engine e).setRing n r)

/-- Flits in a ring's output buffer (R188). -/
def ringBuffer : Nat := 64

/-- Flits that a ring's output buffer holds: what a command makes beyond them, it has not made yet (R188). -/
def Ring.room (r : Ring) : Nat := max ringBuffer r.stale

/-- A fault of a ring (R196): recorded, halted, DONE word written, reported; of the command's flits those in the output buffer remain. c is
the command it is recorded for. Where no command has been read, or none runs, the record names command 0 and the last entry read (DESIGN
CHOICE, log 114). -/
def State.ringFault (s : State) (e n kind : Nat) (c : Line) : State :=
  let r := (s.engine e).ring n
  let f := put 48 (muTag c) ||| put 40 (muOp c) ||| put 33 kind ||| put 32 1 ||| BitVec.ofNat 64 (r.head - 1).toNat
  let out := r.out.take r.room
  let s := s.setRing e n { r with
    fault := f, halt := true, cur := none, curDone := false, doom := none, prog := none, out, stale := out.length }
  (s.storeDone e n (muTag c)).post (epEngine e) (.fault (faultMsg (epEngine e) n 0 (faultCode 4 kind) (muTag c)))

/-- Slices per window that an engine's rings hold of the partitions in strict isolation mode (R175). -/
def State.strictSlices (s : State) (e : Nat) : Nat :=
  (s.engine e).rings.foldl (fun t x => if s.stable.strict.contains (s.partOf x.1) then t + bfield x.2.cfg 24 7 else t) 0

/-- A ring gets time (R175): in strict isolation mode its own slices, else a share of the slices that strict partitions leave. -/
def State.ringHasTime (s : State) (e n : Nat) : Bool :=
  if s.stable.strict.contains (s.partOf n) then decide (bfield ((s.engine e).ring n).cfg 24 7 > 0) else decide (s.strictSlices e < 64)

/-- RING_FETCH (R172, R173): the next entry is read and checked, and begins to run. With none left, a tail word whose copy the engine has
lost, and could not ask for at once, is read again. -/
def execRingFetch (e : EngineIx) (n : Slot) (s : State) : Out := s.onModule fun s =>
  let r := (s.engine e).ring n
  if !r.enabled || r.halt || r.cur.isSome || !s.ringHasTime e n then .next s
  else if r.head == r.tail then .next (s.rereadTail (epEngine e) (lineNo r.tailAddr.toNat))
  else
    let a := r.entryAddr r.head.toNat
    let c : Line := s.readLine (a / 64)
    let bad := s.muBad e (s.partOf n) (a / 64) <|> s.muLost (a / 64)
    let s := ((s.memDemand (a / 64) 0 mMule).2).countCoach n 12 64
    let s := s.setRing e n { r with head := r.head + 1, cur := some c, curDone := false }
    match bad with
    | some k => .next (s.ringFault e n k 0)
    | none => match (if muOp c = 8 then none else muCheck (decide (20 ≤ e.val)) c) with
      | some k => .next (s.ringFault e n k c)
      | none => .next s

/-- Lines that a run has read or written. -/
def MuRun.touches (r : MuRun) (l : Nat) : Bool :=
  (r.reads ++ r.writes).any fun x => x.2 != 0 && decide (x.1 / 64 ≤ l) && decide (l ≤ (x.1 + x.2 - 1) / 64)

/-- A cell has fetched a line that the ring's command reads or writes into its cache, and has not flushed it before the tail store that made
the command visible (R166, R167). -/
def State.muCached (s : State) (e n : Nat) (r : MuRun) : Bool :=
  let x := (s.engine e).ring n
  s.muleCached.any r.touches ||
    s.muleGone.any (fun g => r.touches g.1 && g.2.any fun t => t.1 == n && x.sees t.2) || s.agents.any fun x => isCellEp (x.1 % 2048) && x.2.st != .I && r.touches (x.1 / 2048)

/-- 32-byte flits of a byte string, the last padded with zeros (R188). -/
def flitsOf : Nat → List Byte → List Unit32
  | 0, _ => []
  | k + 1, bs => if bs.isEmpty then [] else ofBytes 256 (bs.take 32) :: flitsOf k (bs.drop 32)

/-- Key of a stream's queue at an endpoint. -/
def streamKey (ep coach stream : Nat) : Nat := ep * 4096 + coach * 64 + stream

def State.pushOut (s : State) (ep coach stream : Nat) (f : List Unit32) : State :=
  let k := streamKey ep coach stream
  { s with stage := { s.stage with outQ := tset [] s.stage.outQ k (tget [] s.stage.outQ k ++ f) } }

/-- The flits of a run's results, with their streams, a padded last flit for each command (R188). -/
def MuRun.flits (r : MuRun) : List (Nat × Unit32) := r.sent.flatMap fun x => (flitsOf (x.2.length + 1) x.2).map fun f => (x.1, f)

/-- A run's flits join the ring's output, and its ranges the open windows (R166, R188). -/
def State.muSend (s : State) (e n : Nat) (r : MuRun) : State :=
  let x := (s.engine e).ring n
  s.setRing e n { x with out := x.out ++ r.flits, window := x.window ++ (r.reads ++ r.writes).filter (·.2 != 0) }

/-- Whole lines among the lines of n bytes at a. -/
def wholeLines (a n : Nat) : Nat := (a + n) / 64 - (a + 63) / 64

/-- Memory after a run: every line access charged to the engine (R268), corrected lines logged and rewritten (R452), a line whose data was
lost logged (R457), written lines whole again, writes noted. -/
def State.muCommit (s : State) (e n : Nat) (r : MuRun) : State :=
  let sum (f : Nat × Nat → Nat) (l : List (Nat × Nat)) : Nat := l.foldl (fun t x => t + f x) 0
  let lines (x : Nat × Nat) : Nat := (lineSpan x.1 x.2).length
  let nw := sum lines r.writes
  -- a line written in part is read first (R451)
  let nr := sum lines r.reads + (nw - sum (fun x => wholeLines x.1 x.2) r.writes)
  let s := ((s.countMemN e nr false mMule).countMemN e nw true mMule).countCoach n 12 (sum (·.2) r.reads + sum (·.2) r.writes)
  let marked := s.errs.memBad.map (·.1)
  let part (x : Nat × Nat) (l : Nat) : Bool := (lineSpan x.1 x.2).contains l && (decide (64 * l < x.1) || decide (x.1 + x.2 < 64 * l + 64))
  let met := marked.filter fun l => r.reads.any (fun x => (lineSpan x.1 x.2).contains l) || r.writes.any (part · l)
  let s := (met ++ r.lostLine.toList.filter fun l => !met.contains l).foldl (fun s l => (s.memCheck l).2) s
  let s := { s with mem := r.mem }
  r.writes.foldr (fun x s => (lineSpan x.1 x.2).foldl (fun s l =>
    if x.1 ≤ 64 * l ∧ 64 * l + 64 ≤ x.1 + x.2 then s.flipLine l else s) ((s.noteWrite x.1 x.2).noteKey x.1 x.2 0)) s

/-- Every flit of the ring's command that has been made has been injected. -/
def Ring.sent (r : Ring) : Bool := decide (r.out.length ≤ r.stale)

/-- A fault that waits for the flits before it takes effect once the buffer has room for them. -/
def State.ringDoom (s : State) (e n : Nat) : State :=
  let r := (s.engine e).ring n
  match r.doom with
  | some (k, c) => if r.out.length ≤ r.room then s.ringFault e n k c else s
  | none => s

/-- What the ring's command does now: a RUN that has begun goes on with its next step. -/
def State.muResult (s : State) (e : EngineIx) (n : Slot) (c : Line) : RunResult :=
  let ctx := s.muCtx e n
  let limit (c : Line) : Nat := s.muLimit e (muA c 1)
  let start : MuRun := { mem := s.mem }
  if muOp c = 8 then
    match ((s.engine e).ring n).prog with
    | some (hdr, j, _) => muRunFrom ctx (decide (20 ≤ e.val)) limit c hdr j start
    | none => muRunProgram ctx (decide (20 ≤ e.val)) limit c start
  else ⟨(muExec (ctx c) (limit c) c start).finish c, c, none⟩

/-- Run the ring's current command, if it has the given opcode and has not run: memory, flits, and a fault's effect. A RUN goes on at its row
once the flits of the commands built so far have been injected (DESIGN CHOICE, log 113). -/
def State.muleRun (s : State) (e : EngineIx) (n : Slot) (op : Nat) : Out :=
  let r := (s.engine e).ring n
  match r.cur with
  | none => .next s
  | some c =>
    if muOp c ≠ op ∨ r.curDone ∨ !r.enabled ∨ r.halt ∨ r.doom.isSome ∨ !s.ringHasTime e n ∨ (r.prog.isSome ∧ !r.sent) then .next s
    else
      let res := s.muResult e n c
      if s.muCached e n res.run then .fault .muleCached
      else
        let s := (s.muCommit e n res.run).muSend e n res.run
        let r := (s.engine e).ring n
        .next (match res.run.fault with
        | some k => (s.setRing e n { r with doom := some (k, res.cmd) }).ringDoom e n
        | none => s.setRing e n { r with
            curDone := res.next.isNone, prog := if op = 8 then some ((res.next.getD ([], 0)).1, (res.next.getD ([], 0)).2, res.cmd) else none })

/-- MULE_NOP (R177). -/
def execMuleNop (e : EngineIx) (n : Slot) (s : State) : Out := s.onModule fun s => s.muleRun e n 0
/-- GATHER (R181). -/
def execGather (e : EngineIx) (n : Slot) (s : State) : Out := s.onModule fun s => s.muleRun e n 1
/-- SCATTER_ADD (R181). -/
def execScatterAdd (e : EngineIx) (n : Slot) (s : State) : Out := s.onModule fun s => s.muleRun e n 2
/-- REDUCE (R181). -/
def execReduce (e : EngineIx) (n : Slot) (s : State) : Out := s.onModule fun s => s.muleRun e n 3
/-- EMBED_BAG (R181, R182). -/
def execEmbedBag (e : EngineIx) (n : Slot) (s : State) : Out := s.onModule fun s => s.muleRun e n 4
/-- COPY (R181). -/
def execCopy (e : EngineIx) (n : Slot) (s : State) : Out := s.onModule fun s => s.muleRun e n 5
/-- FILL (R181). -/
def execFill (e : EngineIx) (n : Slot) (s : State) : Out := s.onModule fun s => s.muleRun e n 6
/-- ATTEND (R183 to R187). -/
def execAttend (e : EngineIx) (n : Slot) (s : State) : Out := s.onModule fun s => s.muleRun e n 7
/-- RUN (R190 to R193). -/
def execRun (e : EngineIx) (n : Slot) (s : State) : Out := s.onModule fun s => s.muleRun e n 8

/-- MULE_RETIRE (R173, R174): the current command retires once its writes are done and its flits have been injected. -/
def execMuleRetire (e : EngineIx) (n : Slot) (s : State) : Out := s.onModule fun s =>
  let r := (s.engine e).ring n
  match r.cur with
  | none => .next s
  | some c =>
    if r.curDone && r.sent then
      let s := s.setRing e n { r with cur := none, curDone := false, prog := none, retired := r.retired + 1, tag := BitVec.ofNat 16 (muTag c) }
      .next (if muNotify c then s.storeDone e n (muTag c) else s)
    else .next s

/-! Ring registers (R198, R199). -/

/-- A word of the partition outside MULE regions, 8-byte aligned (R171). -/
def State.ringWordOk (s : State) (part a : Nat) : Bool := a % 8 == 0 && s.holdsMemory a && s.mayAccess part a && !s.isMule a

/-- The first failing check of an enable (R199). -/
def State.ringCheck (s : State) (e n : Nat) (r : Ring) : Nat :=
  let part := s.partOf n
  let bytes := 2 ^ r.sizeLog2 * 64
  let used := (s.engine e).rings.foldl (fun t x => if x.1 != n then t + x.2.tslots else t) 0
  if !(s.coach n).valid then 5
  else if r.sizeLog2 < 6 ∨ r.sizeLog2 > 16 ∨ r.weight = 0 then 3
  else if (lineSpan r.base.toNat bytes).any fun l => (s.muBad e part l).isSome then 1
  else if !s.ringWordOk part r.tailAddr.toNat || !s.ringWordOk part r.doneAddr.toNat then 2
  else if (r.tslots ≠ 0 ∧ !s.stable.strict.contains part) ∨ used + r.tslots > 64 then 4
  else 0

/-- The engine reads the ring's tail word through a shared copy of its line (R172). -/
def State.readTail (s : State) (e : Nat) (r : Ring) : State :=
  let l := lineNo r.tailAddr.toNat
  if (s.agent (epEngine e) l).st = .S then s.setEngine e (s.engine e) else s.wantRead (epEngine e) l true

/-- The tail counts of an engine's rings taken from its copy of a line. -/
def State.takeTails (s : State) (e : Nat) (l : LineNo) : State :=
  let d := (s.agent (epEngine e) l).data
  let x := s.engine e
  s.setEngine e { x with rings := x.rings.map fun r =>
    if r.2.enabled && lineNo r.2.tailAddr.toNat == l then
      (r.1, { r.2 with tail := BitVec.ofNat 32 (leNat (lineGet d (r.2.tailAddr.toNat % 64) 4)) })
    else r }

/-- A write of RING_CFG (R198, R199): while the ring is enabled only WEIGHT changes, a zero kept as written (DESIGN CHOICE, log 115); ENABLE runs the checks. A ring that has halted stays
halted until FLUSH (R196). -/
def State.ringCfgWrite (s : State) (e n : Nat) (v : Word) : State :=
  let r := (s.engine e).ring n
  if r.enabled then
    s.setRing e n { r with cfg := (r.cfg &&& ~~~0xFF0000#64) ||| (v &&& 0xFF0000) }
  else
    let r := { r with cfg := v &&& 0x7FFF003E }
    if !v.getLsbD 0 then s.setRing e n r
    else match s.ringCheck e n r with
      | 0 =>
        let r := { r with enabled := true, error := 0, head := 0, tail := 0, retired := 0, cur := none, curDone := false, doom := none, prog := none }
        let s := (s.setRing e n r).readTail e r
        if (s.agent (epEngine e) (lineNo r.tailAddr.toNat)).st = .S then s.takeTails e (lineNo r.tailAddr.toNat) else s
      | k => s.setRing e n { r with error := BitVec.ofNat 8 k }

/-- RING_ENABLE (R199): a write of RING_CFG with ENABLE set. -/
def execRingEnable (e : EngineIx) (n : Slot) (v : Word) (s : State) : Out := s.gate fun s => .next (s.ringCfgWrite e n (v ||| 1))

/-- ABORT (R197): the running command faults with kind ABORTED, recorded for the built command where a RUN runs (R193). -/
def State.ringAbort (s : State) (e n : Nat) : State :=
  let r := (s.engine e).ring n
  match r.cur with
  | some c => s.ringFault e n mAborted (match r.prog with
    | some (_, _, b) => b
    | none => c)
  | none => s

/-- FLUSH (R198): while halted, the ring goes on at the tail count last read. -/
def State.ringFlush (s : State) (e n : Nat) : State :=
  let r := (s.engine e).ring n
  if r.halt then s.setRing e n { r with head := r.tail, halt := false, fault := 0 } else s

/-- DISABLE (R198). -/
def State.ringDisable (s : State) (e n : Nat) : State :=
  let s := s.ringAbort e n
  s.setRing e n { (s.engine e).ring n with enabled := false }

/-- A write of RING_CTRL: FLUSH, ABORT, DISABLE. -/
def State.ringCtrlWrite (s : State) (e n : Nat) (v : Word) : State :=
  let s := if v.getLsbD 0 then s.ringFlush e n else s
  let s := if v.getLsbD 1 then s.ringAbort e n else s
  if v.getLsbD 2 then s.ringDisable e n else s

/-- RING_DISABLE (R198). -/
def execRingDisable (e : EngineIx) (n : Slot) (s : State) : Out := s.gate fun s => .next (s.ringDisable e n)
/-- RING_ABORT (R197). -/
def execRingAbort (e : EngineIx) (n : Slot) (s : State) : Out := s.gate fun s => .next (s.ringAbort e n)
/-- RING_FLUSH (R196, R198). -/
def execRingFlush (e : EngineIx) (n : Slot) (s : State) : Out := s.gate fun s => .next (s.ringFlush e n)

/-- RING_STATUS. -/
def Ring.status (r : Ring) : Word :=
  put 32 r.head.toNat ||| put 8 r.error.toNat ||| putB 2 r.halt ||| putB 1 r.cur.isSome ||| putB 0 r.enabled

/-! The MULE map (R163, R164). -/

/-- MULE map registers of an engine's memory. -/
def State.mapCount (s : State) (e : Nat) : Nat := if e < 20 then 640 else if s.isL1 then 256 else 512

/-- MULE_MAP_WRITE (R164): clearing takes effect at once, newly set bits wait; a write while BUSY is ignored. -/
def State.mapWrite (s : State) (e k : Nat) (v : Word) : State :=
  let x := s.engine e
  if k ≥ s.mapCount e then s
  else if !x.mapPending.isEmpty then s.setEngine e { x with mapOverrun := true }
  else
    let old := tget 0 x.map k
    s.setEngine e { x with map := tset 0 x.map k (old &&& v), mapPending := tset 0 x.mapPending k (v &&& ~~~old) }

def execMuleMapWrite (e : EngineIx) (k : Nat) (v : Word) (s : State) : Out := s.gate fun s => .next (s.mapWrite e k v)

/-- Lines that some agent, home entry or LLC slice knows, that f selects. -/
def State.knownLines (s : State) (f : Nat → Bool) : List Nat :=
  let a : List Nat := s.agents.map fun e => e.1 / 2048
  let h : List Nat := s.homeLines.map fun e => e.1
  let c : List Nat := s.llc.map fun e => e.1
  distinct ((a ++ h ++ c).filter f)

/-- The line lies in a region whose MULE bit waits. -/
def State.mapWaits (s : State) (e : Nat) (l : Nat) : Bool :=
  let a := 64 * l
  let off := if a < hbmTop then a % 0x001400000000 else (a - lpBase) % 0x001000000000
  let r := off / 2 ^ 21
  ctlOf a == e && (tget 0 (s.engine e).mapPending (r / 64)).getLsbD (r % 64)

/-- MULE_MAP_TAKE_EFFECT (R164): once no line of the regions is in motion, every cached line of them is written back and
invalidated, and the bits take effect. -/
def execMuleMapTakeEffect (e : EngineIx) (s : State) : Out := s.onModule fun s =>
  let x := s.engine e
  let lines := s.knownLines (s.mapWaits e)
  if x.mapPending.isEmpty || lines.any fun l => !s.quiet (BitVec.ofNat 46 l) then .next s
  else
    let s := lines.foldl (fun s l => s.flushLine (BitVec.ofNat 46 l) false) s
    .next (s.setEngine e { x with
      map := x.mapPending.foldl (fun m (b : Nat × Word) => tset 0 m b.1 (tget 0 m b.1 ||| b.2)) x.map
      mapPending := [] })

end Sys2Proof.Machine
end

