-- ==== Sys2Proof/Machine/Dray.lean ====
section
/-! DEFINITION. The Drays (R255 to R267, R435): descriptors, their checks, requests on the cell's streams, replies, completion,
flush; and the acknowledgement of invalidations (R332). -/
namespace Sys2Proof.Machine

/-! Descriptor fields (R256). -/

def dKind (c : Line) : Nat := bfield c 0 8
def dDone (c : Line) : Bool := c.getLsbD 15
def dAlloc (c : Line) : Bool := c.getLsbD 9
def dStream (c : Line) : Nat := bfield c 16 6
def dRows (c : Line) : Nat := bfield c 32 32
def dRowBytes (c : Line) : Nat := bfield c 64 32
def dSp (c : Line) : Nat := bfield c 96 32
def dSpStride (c : Line) : Nat := bfield c 128 32
def dTag (c : Line) : Nat := bfield c 160 16
def dMem (c : Line) : Nat := bfield c 192 64
def dMemStride (c : Line) : Int := (BitVec.ofNat 64 (bfield c 256 64)).toInt

def dkRsvd : Nat := 1
def dkShape : Nat := 2
def dkSpRange : Nat := 3
def kNoRoute : Nat := 4
def kStream : Nat := 5
def kNotOwned : Nat := 6
def kXlt : Nat := 0xB

/-- The kind of a status flit that is not OK (R260, R266, R443). -/
def statusKind (st : Nat) : Nat := match st with
  | 1 => 7
  | 2 => 8
  | 3 => 9
  | 5 => 0xC
  | _ => 0xA

/-- Reserved fields and fields that the KIND does not use (R256). -/
def dReserved (c : Line) : Bool :=
  let k := dKind c
  let nz (lo w : Nat) : Bool := bfield c lo w != 0
  let memKind := k == 1 || k == 2 || k == 5
  k == 0 || decide (k > 7) || nz 8 1 || nz 10 5 || nz 22 2 || nz 24 8 || nz 176 16 || nz 320 192
    || (!memKind && nz 9 1) || (k != 3 && k != 4 && nz 16 6)
    || (k == 5 && (nz 96 32 || nz 128 32)) || ((k == 6 || k == 7) && nz 128 32)
    || ((k == 3 || k == 4 || k == 6) && (nz 192 64 || nz 256 64)) || (k == 7 && nz 256 64)

/-- Fields out of range or alignment. -/
def dBadShape (c : Line) : Bool :=
  let k := dKind c
  let rows := dRows c
  let rb := dRowBytes c
  let memKind := k == 1 || k == 2 || k == 5
  rows == 0 || decide (rows > 65536) || ((k == 6 || k == 7) && rows != 1)
    || decide (rb < 32) || decide (rb > 65536) || rb % 32 != 0 || (memKind && rb % 64 != 0) || (k == 6 && rb != 256) || (k == 7 && rb != 32)
    || dSp c % 32 != 0 || dSpStride c % 32 != 0 || dMem c % 64 != 0 || dMemStride c % 64 != 0
    || ((k == 3 || k == 4) && (dStream c == 0 || decide (dStream c > 61)))

/-- A row passes the end of the scratchpad. -/
def dBadRange (c : Line) : Bool :=
  dKind c != 5 && decide (dSp c + (dRows c - 1) * dSpStride c + dRowBytes c > spBytes)

/-! The stream map (R258). -/

/-- The entry of a stream: VALID, Dray, reply stream, endpoint. -/
def Cell.mapEntry (c : Cell) (st : Nat) : Bool × Nat × Nat × Nat :=
  let w := bfield (tget 0 c.streamMap (st / 2)) (32 * (st % 2)) 32
  (field w 31 1 == 1, field w 24 1, field w 16 6, field w 0 11)

def Cell.mapValid (c : Cell) (st : Nat) : Bool := (c.mapEntry st).1

/-- What a write leaves of a STREAM_MAP_j word: streams 0, 62 and 63 are never VALID. -/
def mapWord (j : Nat) (v : Word) : Word :=
  let v := v &&& 0x813F07FF813F07FF
  let v := if j = 0 then v &&& ~~~0x80000000#64 else v
  if j = 31 then v &&& ~~~0x8000000080000000#64 else v

/-- The route of a request to one of some endpoints: the lowest stream whose entry names it for the Dray. -/
def Cell.route (c : Cell) (d : Nat) (eps : List Nat) : Option Nat :=
  (span 1 61).find? fun st => let e := c.mapEntry st; e.1 && e.2.1 == d && eps.contains e.2.2.2

/-! Pieces (R257). -/

/-- A row's memory range cut at 4 KiB boundaries: address, lines, scratchpad offset. -/
def cutRow : Nat → Nat → Nat → Nat → List (Nat × Nat × Nat)
  | 0, _, _, _ => []
  | k + 1, a, n, sp =>
    if n = 0 then [] else
    let m := min n (4096 - a % 4096)
    (a, m / 64, sp) :: cutRow k (a + m) (n - m) (sp + m)

/-- The pieces of a LOAD, STORE or PREFETCH, in order. Addresses wrap at 64 bits. -/
def dPieces (c : Line) : List (Nat × Nat × Nat) :=
  (span 0 (dRows c)).flatMap fun (r : Nat) =>
    let k : Nat := r
    let a : Int := (dMem c : Int) + (k : Int) * dMemStride c
    let sp : Nat := dSp c + k * dSpStride c
    cutRow 18 (a % (2 ^ 64 : Int)).toNat (dRowBytes c) sp

/-! Requests. -/

/-- A request flit (R259). -/
def requestFlit (op reply lines flags a : Nat) : Unit32 :=
  BitVec.ofNat 256 (op + reply * 2 ^ 8 + lines * 2 ^ 16 + flags * 2 ^ 32 + a * 2 ^ 64)

/-- Flits of the reply to a request (R260, R435). -/
def replyFlits (op lines : Nat) : Nat := if op = 1 then 2 * lines + 1 else if op = 4 then 2 else 1

/-- Endpoints that serve an address for a Dray (R257, R312): its home, FAB_W or FAB_E, PCI; none for a hole. -/
def serversOf (a : Nat) : List Nat :=
  if a < hbmTop ∨ (lpBase ≤ a ∧ a < 0x060000000000) then [homeOf a]
  else if 0x4000000000000 ≤ a ∧ a < 0x8000000000000 then [epFabW, epFabE]
  else if 0x8000000000000 ≤ a ∧ a < 2 ^ 52 then [epPci]
  else []

/-- Translate a Dray's address (R256, R310, R320). -/
inductive DXlat where
  | ok (a : Nat)
  | fail
  | wait (s : State)

def State.drayXlat (s : State) (p : Nat) (d : DrayIx) (q : DrayDesc) (va : Nat) (w : Bool) : DXlat :=
  if !q.umode then (if va < 2 ^ 52 then .ok va else .fail)
  else if !canonicalVa (BitVec.ofNat 64 va) then .fail
  else
    let v := va % 2 ^ 57
    match tlbLook (s.cell p).tlb q.pasid (!w) w false v with
    | some a => .ok a
    | none => if ((s.cell p).dray d).xltFail = some (v / 4096) then .fail else .wait (s.l1Miss p q.pasid v w false (4 + d.val))

/-! Faults and flush (R266, R267). -/

def State.dray (s : State) (p : Nat) (d : DrayIx) : Dray := (s.cell p).dray d
def State.setDray (s : State) (p : Nat) (d : DrayIx) (y : Dray) : State := s.setCell p ((s.cell p).setDray d y)

/-- The descriptor with number seq faults: later ones are discarded, replies still to come are ignored. -/
def State.drayFault (s : State) (p : Nat) (d : DrayIx) (seq kind : Nat) (tag : Nat) : State :=
  let y := s.dray p d
  let y := { y with
    halt := true
    fault := put 48 tag ||| put 40 kind ||| 1
    queue := []
    running := y.running.filter (·.seq < seq)
    out := y.out.map fun r => if r.seq ≥ seq then { r with dead := true } else r
    xltFail := none }
  (s.setDray p d y).cellFault p 0 (faultCode 3 kind) tag

/-- A flush ends once no reply is outstanding. -/
def Dray.settle (y : Dray) : Dray :=
  if y.flushPending && y.out.isEmpty then { y with flushPending := false, halt := false, fault := 0 } else y

/-- DRAY_CTRL.FLUSH. -/
def Dray.flush (y : Dray) : Dray :=
  Dray.settle { y with
    queue := [], running := [], flushPending := true, xltFail := none
    out := y.out.map fun r => { r with dead := true } }

/-- DRAY_FLUSH (R267). -/
def execDrayFlush (p : Pcell) (d : DrayIx) (s : State) : Out := s.gateCell p fun s => .next (s.setDray p d (s.dray p d).flush)

/-! Starting and running descriptors. -/

/-- Flits of a stream that the running RECVs of a cell still have to place (R262). -/
def Cell.recvWant (c : Cell) (st : Nat) : Nat :=
  (c.drays.toList.flatMap (·.running)).foldl (fun n r =>
    if dKind r.desc.raw = 3 ∧ dStream r.desc.raw = st then n + (dRows r.desc.raw * dRowBytes r.desc.raw - r.moved) / 32 else n) 0

/-- The first n entries of a stream in the unclaimed buffer, taken out. -/
def takeUnclaimed (st : Nat) : Nat → List (Nat × Unit32) → List Unit32 × List (Nat × Unit32)
  | 0, l => ([], l)
  | _, [] => ([], [])
  | k + 1, e :: l =>
    if e.1 = st then let (a, b) := takeUnclaimed st k l; (e.2 :: a, b)
    else let (a, b) := takeUnclaimed st (k + 1) l; (a, e :: b)

/-- A RECV has started: it takes the flits of its stream from the unclaimed buffer first (R262). -/
def State.recvClaim (s : State) (p st : Nat) : State :=
  let c := s.cell p
  let k := streamKey p c.slot.toNat st
  let q := tget [] s.stage.inQ k
  let (a, b) := takeUnclaimed st (c.recvWant st - q.length) c.unclaimed
  let s := s.setCell p { c with unclaimed := b }
  { s with stage := { s.stage with inQ := tset [] s.stage.inQ k (q ++ a) } }

/-- The cell's Drays wait: it has stopped, or it is an inheritance cell, which has no Stage slots (R409). -/
def Cell.drayWaits (c : Cell) : Bool := c.stopped || c.heldBy.isSome

/-- Start the head of the queue if it has the kind (R255): checks, then it runs beside at most three others. -/
def State.drayStart (s : State) (p : Nat) (d : DrayIx) (kind : Nat) : State :=
  let y := s.dray p d
  match y.queue with
  | [] => s
  | q :: rest =>
    let c := q.raw
    let k := dKind c
    let mine := k = kind ∨ (kind = 1 ∧ (k = 0 ∨ k > 7))
    if y.halt ∨ y.flushPending ∨ y.running.length ≥ 4 ∨ ¬ mine ∨ (s.cell p).drayWaits ∨ (s.cell p).ox.frozen then s
    else
      let bad :=
        if dReserved c then some dkRsvd
        else if dBadShape c then some dkShape
        else if dBadRange c then some dkSpRange
        else if (k = 3 ∨ k = 4) ∧ (s.cell p).mapValid (dStream c) then some kStream
        else none
      let s := s.setDray p d { y with queue := rest, nextSeq := y.nextSeq + 1, running := y.running ++ [{ seq := y.nextSeq, desc := q }] }
      match bad with
      | some f => s.drayFault p d y.nextSeq f (dTag c)
      | none => if k = 3 then s.recvClaim p (dStream c) else s

def State.setRun (s : State) (p : Nat) (d : DrayIx) (r : DrayRun) : State :=
  let y := s.dray p d
  s.setDray p d { y with running := y.running.map fun x => if x.seq = r.seq then r else x }

/-- The pieces of a running descriptor that make requests. -/
def DrayRun.pieces (r : DrayRun) : List (Nat × Nat × Nat) :=
  let c := r.desc.raw
  let k := dKind c
  if k = 1 ∨ k = 2 ∨ k = 5 then dPieces c else if k = 7 then [(dMem c, 0, dSp c)] else []

/-- Flits of reply buffer that a Dray's requests reserve and that data waiting for its bank holds, and its outstanding writes
(R263, R264). -/
def Dray.reserved (y : Dray) : Nat :=
  y.out.foldl (fun n r => n + (if r.op = 2 then 0 else replyFlits r.op r.lines)) 0
    + (y.running.flatMap (·.waiting)).foldl (fun n e => n + (e.2.length + 31) / 32) 0
def Dray.writes (y : Dray) : Nat := (y.out.filter (·.op == 2)).length

/-- The request operation of a kind. -/
def dOp (k : Nat) : Nat := match k with
  | 2 => 2
  | 5 => 3
  | 7 => 4
  | _ => 1

/-- Send the requests of a running descriptor as far as room, translation and ownership allow; true where none is left. -/
def State.drayPump (s : State) (p : Nat) (d : DrayIx) (seq : Nat) : List (Nat × Nat × Nat) → State × Bool
  | [] => (s, true)
  | (va, lines, sp) :: rest =>
    let c := s.cell p
    let y := c.dray d
    match y.running.find? (·.seq == seq) with
    | none => (s, false)
    | some r =>
      let q := r.desc
      let k := dKind q.raw
      let op := dOp k
      let room := if op = 2 then decide (y.writes < 16) else decide (y.reserved + replyFlits op lines ≤ 512)
      if !room || c.drayWaits then (s, false)
      else match s.drayXlat p d q va (op == 2 || op == 4) with
      | .fail => (s.drayFault p d seq kXlt (dTag q.raw), false)
      | .wait t => (t, false)
      | .ok a =>
        let remote := decide (0x4000000000000 ≤ a) && decide (a < 0x8000000000000)
        if k = 7 && !remote then (s.drayFault p d seq dkShape (dTag q.raw), false)
        else match c.route d.val (serversOf a) with
        | none => (s.drayFault p d seq kNoRoute (dTag q.raw), false)
        | some st =>
          let bytes := if op = 2 then 64 * lines else if op = 4 then 32 else 0
          if bytes ≠ 0 && !c.ownsAll (ownerDray d) sp bytes then (s.drayFault p d seq kNotOwned (dTag q.raw), false)
          else
            let bad := s.spUncorr p sp bytes
            let s := s.spTouch p sp bytes
            match bad with
            | some _ => (s.drayFault p d seq 8 (dTag q.raw), false)
            | none =>
              let reply := (c.mapEntry st).2.2.1
              let flits := requestFlit op reply lines (if dAlloc q.raw then 1 else 0) a
                :: flitsOf (bytes / 32 + 1) (s.spRead p sp bytes)
              let s := s.pushOut p c.slot.toNat st flits
              let y := s.dray p d
              let req : DrayReq := { seq, op, stream := st, lines, sp, pasid := if q.umode then some q.pasid else none, va, lg := c.pageLg q.pasid (va % 2 ^ 57), addr := a }
              let s := s.setDray p d { y with
                out := y.out ++ [req]
                running := y.running.map fun x => if x.seq = seq then { x with next := x.next + 1 } else x }
              State.drayPump s p d seq rest

/-- Data that waits for a bank is written once the Dray owns it (R263). -/
def State.drayDeliver (s : State) (p : Nat) (d : DrayIx) (r : DrayRun) : State :=
  match r.waiting with
  | [] => s
  | _ =>
    let ok (e : Nat × List Byte) : Bool := (s.cell p).ownsAll (ownerDray d) e.1 e.2.length
    let s' := (r.waiting.filter ok).foldl (fun s e => s.spWrite p e.1 e.2) s
    match (s'.dray p d).running.find? (·.seq == r.seq) with
    | some x => s'.setRun p d { x with waiting := r.waiting.filter fun e => !ok e }
    | none => s'

/-- Run the Dray's descriptors of one kind that make requests, in queue order; none overtakes an earlier descriptor that still
has requests to send (R265). -/
def State.drayRequests (s : State) (p : Nat) (d : DrayIx) (kind : Nat) : List DrayRun → State
  | [] => s
  | r :: rest =>
    let s := s.drayDeliver p d r
    if dKind r.desc.raw = kind then
      let (s, all) := s.drayPump p d r.seq (r.pieces.drop r.next)
      if all then State.drayRequests s p d kind rest else s
    else if r.pieces.length > r.next then s
    else State.drayRequests s p d kind rest

/-- A row for DRAY_LOAD, DRAY_STORE, PREFETCH, RATOMIC: start the queue's head if it has the kind, then send requests. -/
def State.drayMemory (s : State) (p : Nat) (d : DrayIx) (kind : Nat) : State :=
  let s := s.drayStart p d kind
  s.drayRequests p d kind (s.dray p d).running

/-- DRAY_LOAD (R257, R263, R264). -/
def execDrayLoad (p : Pcell) (d : DrayIx) (s : State) : Out := s.onClock p fun s => .next (s.drayMemory p d 1)
/-- DRAY_STORE (R257, R263 to R265). -/
def execDrayStore (p : Pcell) (d : DrayIx) (s : State) : Out := s.onClock p fun s => .next (s.drayMemory p d 2)
/-- PREFETCH (R257, R264). -/
def execPrefetch (p : Pcell) (d : DrayIx) (s : State) : Out := s.onClock p fun s => .next (s.drayMemory p d 5)
/-- RATOMIC (R435). -/
def execRatomic (p : Pcell) (d : DrayIx) (s : State) : Out := s.onClock p fun s => .next (s.drayMemory p d 7)

/-- The scratchpad offset of byte k of a descriptor's rows. -/
def dByte (c : Line) (k : Nat) : Nat := dSp c + k / dRowBytes c * dSpStride c + k % dRowBytes c

/-- The oldest running descriptor of a kind that still moves flits. -/
def Dray.mover (y : Dray) (kind : Nat) : Option DrayRun :=
  y.running.find? fun r => dKind r.desc.raw == kind && decide (r.moved < dRows r.desc.raw * dRowBytes r.desc.raw)

/-- Flits that wait at the cell for the RECVs of a stream, in order of arrival. -/
def State.recvFlits (s : State) (p st : Nat) : List Unit32 := tget [] s.stage.inQ (streamKey p (s.cell p).slot.toNat st)

/-- Take n waiting flits of a stream. -/
def State.takeFlits (s : State) (p st n : Nat) : State :=
  let k := streamKey p (s.cell p).slot.toNat st
  { s with stage := { s.stage with inQ := tset [] s.stage.inQ k ((tget [] s.stage.inQ k).drop n) } }

/-- Place arriving flits into scratchpad, one after another, while the Dray owns their banks. -/
def State.recvPlace (s : State) (p : Nat) (d : DrayIx) (r : DrayRun) : List Unit32 → State
  | [] => s
  | f :: rest =>
    let c := r.desc.raw
    let a := dByte c r.moved
    if r.moved ≥ dRows c * dRowBytes c || !(s.cell p).ownsAll (ownerDray d) a 32 then s
    else
      let s := (s.takeFlits p (dStream c) 1).spWrite p a (bytesOf 32 f)
      let r := { r with moved := r.moved + 32 }
      State.recvPlace (s.setRun p d r) p d r rest

/-- RECV (R262, R263). -/
def execRecv (p : Pcell) (d : DrayIx) (s : State) : Out := s.onClock p fun s =>
  let s := s.drayStart p d 3
  if (s.cell p).drayWaits then .next s
  else match (s.dray p d).mover 3 with
  | none => .next s
  | some r => .next (s.recvPlace p d r (s.recvFlits p (dStream r.desc.raw)))

/-- Send the flits of a running SEND from the k-th on: one in a bank that the Dray does not own, or uncorrectable, faults (R263). -/
def State.sendFrom32 (s : State) (p : Nat) (d : DrayIx) (seq : Nat) (c : Line) : List Nat → State
  | [] => s
  | k :: rest =>
    let a := dByte c (32 * k)
    if !(s.cell p).ownsAll (ownerDray d) a 32 then s.drayFault p d seq kNotOwned (dTag c)
    else
      let bad := s.spUncorr p a 32
      let s := s.spTouch p a 32
      match bad with
      | some _ => s.drayFault p d seq 8 (dTag c)
      | none =>
        let s := s.pushOut p (s.cell p).slot.toNat (dStream c) [ofBytes 256 (s.spRead p a 32)]
        match (s.dray p d).running.find? (·.seq == seq) with
        | some r => State.sendFrom32 (s.setRun p d { r with moved := 32 * (k + 1) }) p d seq c rest
        | none => s

/-- SEND (R262, R263): the rows go out as flits, as far as the Dray owns their banks. -/
def execSend (p : Pcell) (d : DrayIx) (s : State) : Out := s.onClock p fun s =>
  let s := s.drayStart p d 4
  if (s.cell p).drayWaits then .next s
  else match (s.dray p d).mover 4 with
  | none => .next s
  | some r =>
    let c := r.desc.raw
    .next (s.sendFrom32 p d r.seq c (span (r.moved / 32) ((dRows c * dRowBytes c - r.moved) / 32)))

/-- MAP (R258): the 256 bytes are read once the Dray owns their bank; the map takes them when the MAP completes. -/
def execStreamMap (p : Pcell) (d : DrayIx) (s : State) : Out := s.onClock p fun s =>
  let s := s.drayStart p d 6
  match (s.dray p d).mover 6 with
  | none => .next s
  | some r =>
    let c := r.desc.raw
    if !(s.cell p).ownsAll (ownerDray d) (dSp c) 256 then .next s
    else
      let bad := s.spUncorr p (dSp c) 256
      let s := s.spTouch p (dSp c) 256
      match bad with
      | some _ => .next (s.drayFault p d r.seq 8 (dTag c))
      | none =>
        let sp := (s.cell p).sp
        .next (s.setRun p d { r with moved := 256, map := (span 0 32).map fun j => ofBytes 64 (readBytes sp (dSp c + 8 * j) 8) })

/-! Replies. -/

/-- STATUS_FLIT (R258, R260, R263): the oldest reply on a stream has arrived whole; its data goes to scratchpad, or waits for
its bank. -/
def execStatusFlit (p : Pcell) (stream : Nat) (s : State) : Out := s.onClock p fun s =>
  let c := s.cell p
  let e := c.mapEntry stream
  let d : DrayIx := if e.2.1 = 0 then 0 else 1
  let y := c.dray d
  match y.out.find? (·.stream == stream) with
  | none => .next s
  | some r =>
    let k := streamKey p c.slot.toNat stream
    let q := tget [] s.stage.inQ k
    let n := replyFlits r.op r.lines
    if q.length < n then .next s
    else
      let s := { s with stage := { s.stage with inQ := tset [] s.stage.inQ k (q.drop n) } }
      let s := s.setDray p d { y with out := dropFirst r y.out }
      let status := bfield (nth 0 q (n - 1)) 8 8
      let data := ((q.take (n - 1)).flatMap (bytesOf 32))
      let s :=
        if r.dead then s
        else match (s.dray p d).running.find? (·.seq == r.seq) with
        | none => s
        | some run =>
          if status ≠ 0 then s.drayFault p d r.seq (statusKind status) (dTag run.desc.raw)
          else
            let w : List (Nat × List Byte) :=
              if r.op = 1 then [(r.sp, data)] else if r.op = 4 then [(r.sp + 24, data.take 8)] else []
            let run := { run with acked := run.acked + 1, waiting := run.waiting ++ w }
            (s.setRun p d run).drayDeliver p d run
      let s := s.setDray p d (s.dray p d).settle
      .next (s.checkInvs p)

/-! Completion. -/

/-- A running descriptor has done everything it has to do. -/
def State.runDone (s : State) (p : Nat) (r : DrayRun) : Bool :=
  let c := r.desc.raw
  match dKind c with
  | 3 => decide (r.moved ≥ dRows c * dRowBytes c)
  | 4 => decide (r.moved ≥ dRows c * dRowBytes c) && (tget [] s.stage.outQ (streamKey p (s.cell p).slot.toNat (dStream c))).isEmpty
  | 6 => decide (r.moved ≥ 256)
  | _ => r.next == r.pieces.length && r.acked == r.next && r.waiting.isEmpty

/-- The stream map once a descriptor has completed: a MAP's words replace it (R258). -/
def DrayRun.mapped (r : DrayRun) (m : SMap Word) : SMap Word :=
  if r.map.isEmpty then m else (span 0 32).foldl (fun m j => tset 0 m j (mapWord j (nth 0 r.map j))) m

/-- DESCRIPTOR_COMPLETE (R255, R258): descriptors complete in queue order, and a MAP takes effect. -/
def execDescriptorComplete (p : Pcell) (d : DrayIx) (s : State) : Out := s.onClock p fun s =>
  let y := s.dray p d
  match y.running with
  | [] => .next s
  | r :: rest =>
    let s := s.drayDeliver p d r
    match (s.dray p d).running with
    | x :: _ =>
      if s.runDone p x then
        .next ((s.setCell p { s.cell p with streamMap := x.mapped (s.cell p).streamMap }).setDray p d { s.dray p d with
          running := rest, doneCount := if dDone x.desc.raw then y.doneCount + 1 else y.doneCount })
      else .next s
    | [] => .next s

/-- DRAY_STATUS. -/
def Dray.status (y : Dray) : Word :=
  put 48 y.drops.toNat ||| put 32 y.queue.length ||| putB 1 y.halt ||| putB 0 (y.queue.isEmpty && y.running.isEmpty)

end Sys2Proof.Machine
end

