-- ==== Sys2Proof/Machine/Events.lean ====
section
/-! DEFINITION. Event rings (R370 to R373) and fences (R364 to R369, R617). -/
namespace Sys2Proof.Machine

/-! Fences. -/

def fenceKey (q f : Nat) : Nat := q * 2 ^ 20 + f

def Fence.bytes (x : Fence) : List Byte :=
  bytesOf 8 x.value ++ bytesOf 8 x.target
    ++ natBytes 4 (x.owner.toNat + (if x.noOwner then 2 ^ 30 else 0) + (if x.valid then 2 ^ 31 else 0))
    ++ bytesOf 4 x.stale ++ natBytes 4 (if x.abandoned then 1 else 0) ++ natBytes 4 0

def fenceOf (bs : List Byte) : Fence :=
  let v := leNat bs
  { value := BitVec.ofNat 64 (field v 0 64), target := BitVec.ofNat 64 (field v 64 64), owner := BitVec.ofNat 16 (field v 128 16)
    noOwner := field v 158 1 == 1, valid := field v 159 1 == 1, stale := BitVec.ofNat 32 (field v 160 32)
    abandoned := field v 192 1 == 1 }

/-- Address of a fence's entry: none where the partition has no table or the number lies past it (R364). -/
def State.fenceAddr (s : State) (q f : Nat) : Option Nat :=
  let t : FenceTable := tget {} s.host.tables q
  match t.base with
  | some b => if f < 2 ^ t.log2 then some (b.toNat + 32 * f) else none
  | none => none

def State.setFence (s : State) (q f : Nat) (x : Fence) : State :=
  { s with host := { s.host with fences := tset {} s.host.fences (fenceKey q f) x } }

/-- A cached fence leaves the cache: its entry is written back (R364). -/
def State.fenceEvict (s : State) (key : Nat) : State :=
  let x : Fence := tget {} s.host.fences key
  let s := match s.fenceAddr (key / 2 ^ 20) (key % 2 ^ 20) with
    | some a => s.partWrite (key / 2 ^ 20) a x.bytes
    | none => s
  { s with host := { s.host with fences := tset {} s.host.fences key {}, cached := dropFirst key s.host.cached } }

/-- The fence brought into the device's cache of 1,024 (R364, R617). -/
def State.fenceLoad (s : State) (q f : Nat) : State :=
  let key := fenceKey q f
  match s.fenceAddr q f with
  | none => s
  | some a =>
    if s.host.cached.contains key then s
    else
      let s := match s.host.cached with
        | old :: _ => if s.host.cached.length ≥ 1024 then s.fenceEvict old else s
        | [] => s
      let s := (s.setFence q f (fenceOf (s.partRead q a 32))).partTouch q a 32
      { s with host := { s.host with cached := s.host.cached ++ [key] } }

/-- The fence as the device counts it: default and so invalid where it does not exist. -/
def State.fence (s : State) (q f : Nat) : Fence :=
  let key := fenceKey q f
  match s.fenceAddr q f with
  | none => {}
  | some a => if s.host.cached.contains key then tget {} s.host.fences key else fenceOf (s.partRead q a 32)

/-! Event rings. -/

def evStepDone : BitVec 8 := 1
def evFence : BitVec 8 := 2
def evValue : BitVec 8 := 3
def evTeardown : BitVec 8 := 4
def evNoRoom : BitVec 8 := 5
def evOverflow : BitVec 8 := 6

/-- The 32 bytes of record n of a slice's ring (R370). -/
def eventBytes (e : EventRec) (n lg tick : Nat) : List Byte :=
  let phase : BitVec 8 := if n / 2 ^ lg % 2 = 0 then 0x80 else 0
  bytesOf 4 e.cookie ++ [e.kind, e.flags ||| phase] ++ bytesOf 2 e.ctx ++ bytesOf 8 e.value ++ natBytes 4 e.fence.toNat
    ++ natBytes 4 0 ++ natBytes 8 tick

def Slice.full (x : Slice) : Bool := x.tail - x.head == BitVec.ofNat 32 (2 ^ x.eventLog2)

/-- The armed vector goes out once a record lies between HEAD and TAIL (R373). -/
def State.eventArmed (s : State) (k : Nat) : State :=
  let x := s.slice k
  if x.armed && x.head != x.tail then (s.setSlice k { x with armed := false }).msix x.vector else s

/-- A record as it is written: ABANDONED is the fence's flag at that time (R370); of a fence that is no more, what it was. -/
def State.eventNow (s : State) (q : Nat) (e : EventRec) : EventRec :=
  let x := s.fence q e.fence.toNat
  if x.valid && (e.kind == evFence || e.kind == evValue || e.kind == evNoRoom) then { e with flags := if x.abandoned then 1 else 0 } else e

/-- A record written to the ring. -/
def State.eventPut (s : State) (k : Nat) (e : EventRec) : State :=
  let x := s.slice k
  let n := x.tail.toNat
  let s := s.partWrite x.partition.toNat (x.eventBase.toNat + n % 2 ^ x.eventLog2 * 32) (eventBytes (s.eventNow x.partition.toNat e) n x.eventLog2 s.tick)
  (s.setSlice k { x with tail := x.tail + 1 }).eventArmed k

/-- A record for a slice (R370, R371): written, kept while the ring is full, or dropped and counted. -/
def State.event (s : State) (k : Nat) (e : EventRec) : State :=
  let x := s.slice k
  if !x.valid then s
  else if !x.full && x.kept.isEmpty && x.dropped == 0 then s.eventPut k e
  else if x.kept.length < 64 then s.setSlice k { x with kept := x.kept ++ [e] }
  else s.setSlice k { x with dropped := x.dropped + 1 }

/-- Kept records are written once room returns, then an OVERFLOW record if any was dropped (R371). -/
def State.eventDrain (s : State) (k : Nat) : Nat → State
  | 0 => s
  | f + 1 =>
    let x := s.slice k
    if x.full then s
    else match x.kept with
      | e :: rest => ((s.setSlice k { x with kept := rest }).eventPut k e).eventDrain k f
      | [] =>
        if x.dropped = 0 then s
        else (s.setSlice k { x with dropped := 0 }).eventPut k
          { cookie := 0, kind := evOverflow, flags := 0, ctx := 0, value := BitVec.ofNat 64 x.dropped, fence := 0 }

/-! Waits and signals. -/

/-- A waited value is reached (R365). -/
def reached (value v : Word) : Bool := decide ((value - v).toNat < 2 ^ 63)

/-- A wait is answered (R365, R366). One that lies more than 2^62 ahead of the fence is undefined (R9, R367): it is answered or
not, a free choice. -/
def waitMet (value v : Word) : Bool := reached value v || (decide (2 ^ 62 < (v - value).toNat) && Config.gapMet value v)

/-- A value lies ahead: 1 to 2^63 − 1 above. -/
def ahead (s v : Word) : Bool := decide (1 ≤ (s - v).toNat) && decide ((s - v).toNat < 2 ^ 63)

/-- The FENCE record of a wait. -/
def fenceEvent (cookie : BitVec 32) (f : Nat) (x : Fence) : EventRec :=
  { cookie, kind := evFence, flags := if x.abandoned then 1 else 0, ctx := 0, value := x.value, fence := BitVec.ofNat 20 f }

/-- Host waits that a fence has reached are answered (R366). -/
def State.answerWaits (s : State) (q f : Nat) : State :=
  let x := s.fence q f
  let hit (w : HostWait) : Bool := w.part == q && w.fence == f && waitMet x.value w.value
  let ws := s.host.waits.filter hit
  let s := { s with host := { s.host with waits := s.host.waits.filter fun w => !hit w } }
  ws.foldl (fun s w => s.event w.slice (fenceEvent w.cookie f x)) s

/-- A signal of a fence (R366). -/
def State.fenceSignal (s : State) (q f : Nat) (v : Word) : State :=
  let s := s.fenceLoad q f
  let x := s.fence q f
  if !x.valid ∨ v = x.value then s
  else if ahead v x.value then (s.setFence q f { x with value := v }).answerWaits q f
  else s.setFence q f { x with stale := .ofNat 32 (satInc 32 x.stale.toNat) }

/-- TARGET raised by a SIGNAL action that the dispatch core reads from a step of the owner (R368). -/
def State.fenceTarget (s : State) (q f ctx : Nat) (v : Word) : State :=
  let s := s.fenceLoad q f
  let x := s.fence q f
  if x.valid && !x.noOwner && x.owner.toNat == ctx && ahead v x.target then s.setFence q f { x with target := v } else s

/-- Fences that a context owns: of every valid entry, whoever wrote it (R364, R617). -/
def State.ownedFences (s : State) (q ctx : Nat) : List Nat :=
  let t : FenceTable := tget {} s.host.tables q
  if t.base.isNone then []
  else (span 0 (2 ^ t.log2)).filter fun f =>
    let x := s.fence q f
    x.valid && !x.noOwner && x.owner.toNat == ctx

/-- Abandonment of a fence (R375): ABANDONED, then its TARGET signalled. -/
def State.fenceAbandon (s : State) (q f : Nat) : State :=
  let s := s.fenceLoad q f
  let x := s.fence q f
  (s.setFence q f { x with abandoned := true }).fenceSignal q f x.target

end Sys2Proof.Machine
end

