-- ==== Sys2Proof/Machine/Stage.lean ====
section
/-! DEFINITION. The Stage network (R118 to R146, R615, R616): lanes, flits, timetables and their loader, block ownership. A node is
a switch by its number SW, or 2048 + an endpoint number. -/
namespace Sys2Proof.Machine

/-! Lanes (R118 to R120, R127). -/

def epNode (e : Nat) : Nat := 2048 + e
def nodeEp (n : Nat) : Option Nat := if n ≥ 2048 then some (n - 2048) else none

/-- Where an endpoint's lanes join: switch, first lane, lanes, latency. -/
def epAttach (e : Nat) : Option (Nat × Nat × Nat × Nat) :=
  if e < 1152 then some (e / 72, e % 72, 1, 2)
  else if e < 1408 then
    let i := e - 1152
    some (i / 64 * 4 + i % 64 / 16, 72 + 2 * (i % 16), 2, 2)
  else if e < 1428 then let n := e - 1408; some (16 + n / 5, 512 + 2 * (n % 5), 2, 6)
  else if e < 1460 then let n := e - 1428; some (20 + n / 16, 64 + 2 * (n % 16), 2, 2)
  else if e = 1460 then some (20, 96, 16, 2)
  else if e = 1461 then some (21, 96, 16, 2)
  else if e = 1462 then some (20, 112, 4, 2)
  else if e = 1463 then some (20, 116, 2, 2)
  else if e = 1464 then some (21, 116, 2, 2)
  else none

/-- Lanes of a switch (R118). Lanes 112 to 115 of ISW_E join nothing: no record may name them, SLOT_OWN_CMD may (DESIGN CHOICE, log
92). -/
def swLanes (sw : Nat) : Nat := if sw < 16 then 232 else if sw < 20 then 1066 else if sw < 22 then 118 else 0

/-- Lanes of a node. -/
def nodeLanes (n : Nat) : Nat :=
  match nodeEp n with
  | some e => match epAttach e with
    | some (_, _, k, _) => k
    | none => 0
  | none => swLanes n

/-- The lane that a lane of a switch joins: node, lane, latency. -/
def swPartner (sw lane : Nat) : Option (Nat × Nat × Nat) :=
  if lane ≥ swLanes sw then none
  else if sw < 16 then
    if lane < 72 then some (epNode (72 * sw + lane), 0, 2)
    else if lane < 104 then some (epNode (epSlice (sw / 4) (sw % 4 * 16 + (lane - 72) / 2)), (lane - 72) % 2, 2)
    else some (16 + sw / 4, 128 * (sw % 4) + (lane - 104), 4)
  else if sw < 20 then
    let die := sw - 16
    if lane < 512 then some (4 * die + lane / 128, 104 + lane % 128, 4)
    else if lane < 522 then some (epNode (epEngine (5 * die + (lane - 512) / 2)), lane % 2, 6)
    else if lane < 778 then some (16 + (die ^^^ 1), lane, 12)
    else if lane < 1034 then some (16 + (die ^^^ 2), lane, 12)
    else some (20 + die % 2, (if die < 2 then 0 else 32) + (lane - 1034), 14)
  else
    let io := sw - 20
    if lane < 32 then some (16 + io, 1034 + lane, 14)
    else if lane < 64 then some (18 + io, 1034 + (lane - 32), 14)
    else if lane < 96 then some (epNode (1428 + 16 * io + (lane - 64) / 2), lane % 2, 2)
    else if lane < 112 then some (epNode (1460 + io), lane - 96, 2)
    else if lane < 116 then (if io = 0 then some (epNode epPci, lane - 112, 2) else none)
    else some (epNode (1463 + io), lane - 116, 2)

/-- The lane that a lane of a node joins. -/
def lanePartner (n lane : Nat) : Option (Nat × Nat × Nat) :=
  match nodeEp n with
  | some e => match epAttach e with
    | some (sw, first, k, lat) => if lane < k then some (sw, first + lane, lat) else none
    | none => none
  | none => swPartner n lane

/-! Blocks (R125, R140). -/

def blockKey (n lane b : Nat) : Nat := (n * 2048 + lane) * 64 + b
def State.blockOwner (s : State) (n lane b : Nat) : Nat := (tget 63 s.stage.owner (blockKey n lane b)).toNat
def State.blockLendee (s : State) (n lane b : Nat) : Nat := (tget 63 s.stage.lendee (blockKey n lane b)).toNat

/-- The coach is parked; it stands in the guard frame of a parking or unparking. -/
def Stage.lent (g : Stage) (n : Nat) : Bool := n < 48 && g.parkPrev.testBit n
def Stage.guardFrame (g : Stage) (n : Nat) : Bool := n < 48 && (g.parkPrev.testBit n != g.parkInForce.testBit n)

/-- The coach in force for a block (R123, R140): the owner, but the lendee, if there is one, from the frame after a parking to
the end of the guard frame of the unparking. -/
def State.coachInForce (s : State) (n lane b : Nat) : Nat :=
  let o := s.blockOwner n lane b
  let l := s.blockLendee n lane b
  if s.stage.lent o && l != 63 then l else o

/-! Timetables (R130, R131, R136). -/

def TtRecord.cycles (r : TtRecord) : List Nat := (span 0 r.count).map fun i => (r.start + i * r.step) % 1024
def TtRecord.covers (r : TtRecord) (c : Nat) : Bool := r.cycles.contains c

def TtBuffers.buf (b : TtBuffers) (tt : Bool) : List TtRecord := if tt then b.b else b.a
def TtBuffers.setBuf (b : TtBuffers) (tt : Bool) (l : List TtRecord) : TtBuffers := if tt then { b with b := l } else { b with a := l }

/-- The record of a kind for a unit's lane in a cycle. -/
def ttFind (l : List TtRecord) (kind unit out c : Nat) : Option TtRecord :=
  l.find? fun r => r.kind == kind && r.unit == unit && r.out == out && r.covers c

/-- The absolute cycle c of the current frame. -/
def State.cycleNow (s : State) (c : Nat) : Nat := 1024 * s.stage.frame + c % 1024

/-! Injection. -/

/-- A step of the coach runs, and so faults. -/
def State.runningFault (s : State) (n kind : Nat) : State :=
  if n < 48 ∧ (s.runningCtx n).isSome then s.stepFault n kind else s

/-- Flits of a move image of a source's target (R219, R221): 128 KiB and 128 KiB for each live bank. -/
def imageFlits (live : Nat) : Nat := 4096 * (1 + popcount 16 live)

/-- The move of a slot whose source is a pcell. -/
def State.moveFrom (s : State) (p : Nat) : Option Move := (s.coach (s.cell p).slot.toNat).moves.find? (·.src == p)

/-- A flit of a stream leaves: the part of ingress that its STREAM packet holds is free once all of the packet has left (R427). -/
def leaveIngress (key : Nat) : List Arriving → List Arriving
  | [] => []
  | x :: rest => if x.key = key then (if x.left ≤ 1 then rest else { x with left := x.left - 1 } :: rest) else x :: leaveIngress key rest
def State.flitLeft (s : State) (key : Nat) : State := { s with jbn := { s.jbn with arriving := leaveIngress key s.jbn.arriving } }

/-- A cell is the source of a move of the coach, and its STUB is set (R223). -/
def State.stubOf (s : State) (p n : Nat) : Bool := (s.cell p).stub && (s.cell p).stubCoach.toNat == n

/-- The next flit of a stream at an endpoint, taken: an image flit and a stub flit at a source cell, else the stream's queue, else at an
engine's endpoint the output of the coach's ring. -/
def State.nextFlit (s : State) (ep coach stream : Nat) (tt : Bool) : Option Flit × State :=
  let stamp : BitVec 16 := if coach = 62 then 0 else BitVec.ofNat 16 (s.epochOf coach).toNat
  let mk (f : Unit32) : Flit := { payload := f, stream := BitVec.ofNat 6 stream, epoch := stamp, tt, coach := BitVec.ofNat 6 coach, src := ep }
  if isCellEp ep && s.cellState ep == .moveOut && stream == 62 then
    match s.moveFrom ep with
    | none => (none, s)
    | some m =>
      let t := s.cell m.dst
      match t.image with
      | none => (none, s)
      | some im =>
        if t.imageSent < imageFlits im.live then
          (some { mk (Config.imageFlit t.imageSent) with idx := t.imageSent }, s.setCell m.dst { t with imageSent := t.imageSent + 1, imageLast := s.stage.frame })
        else (none, s)
  else if isCellEp ep && s.stubOf ep coach && stream == 63 then
    let c := s.cell ep
    match c.stubQ with
    | [] => (none, s)
    | f :: q => (some { f with tt, coach := BitVec.ofNat 6 coach, src := ep }, s.setCell ep { c with stubQ := q })
  else
    let k := streamKey ep coach stream
    match tget [] s.stage.outQ k with
    | [] => match engineOfEp ep with
      | none => (none, s)
      | some e =>
        -- a ring's flits leave in their order (R188)
        let r := (s.engine e).ring coach
        match r.out with
        | (st, f) :: q => if st = stream then (some (mk f), (s.setRing e coach { r with out := q, stale := r.stale - 1 }).ringDoom e coach) else (none, s)
        | [] => (none, s)
    | f :: q => (some (mk f), { s with stage := { s.stage with outQ := tset [] s.stage.outQ k q } }.flitLeft k)

/-- The overlap window of a slot is open. -/
def State.windowOpen (s : State) (n : Nat) : Bool :=
  match (s.coach n).closeFrame with
  | some f => decide (s.stage.frame < f)
  | none => false

/-- The coach whose INJECT entries fire in a block, and whether its LENT ones do (R140). -/
def State.injector (s : State) (n lane b : Nat) : Option (Nat × Bool) :=
  let o := s.blockOwner n lane b
  let l := s.blockLendee n lane b
  if o = 63 ∨ s.stage.guardFrame o then none
  else if s.stage.lent o then (if l != 63 then some (l, true) else none)
  else some (o, false)

/-- The lane into an input carries no flit in the absolute cycle of an arrival there: it carries at most one (R118). -/
def State.laneFree (s : State) (node lane at_ : Nat) : Bool :=
  s.stage.flits.all fun y => y.node != node || y.lane != lane || y.at_ != at_

/-- The flit that an endpoint's lane sends in a cycle for a coach, taken: the active buffer's entry names its stream (R131, R136). -/
def State.laneFlit (s : State) (ep lane c n : Nat) (lent : Bool) : Option Flit × State :=
  let t := s.tt n
  match (t.buf t.activeB).find? fun r => r.kind == 1 && r.unit == ep && r.out == lane && r.lent == lent && r.covers c with
  | some r => s.nextFlit ep n r.inn t.activeB
  | none => (none, s)

/-- INJECT (R131, R136, R140, R208). -/
def execInject (ep lane cyc : Nat) (s : State) : Out := s.onModule fun s =>
  let c := cyc % 1024
  match lanePartner (epNode ep) lane, s.injector (epNode ep) lane (c / 16) with
  | some (sw, l, lat), some (n, lent) =>
    if (isCellEp ep && (s.cell ep).frozen) || !s.laneFree sw l (s.cycleNow c + lat) then .next s else
    match s.laneFlit ep lane c n lent with
    | (none, s) => .next s
    | (some f, s) =>
      let s := (if isCellEp ep then s.countCell ep 1 1 else s).countCoach n 0 1
      .next { s with stage := { s.stage with
        flits := s.stage.flits ++ [{ node := sw, lane := l, at_ := s.cycleNow c + lat, flit := f }] } }
  | _, _ => .next s

/-! Switches. -/

/-- A flit discarded, counted against the owner of an output block (R123). -/
def State.discard (s : State) (o : Nat) : State := s.countCoach o 2 1

/-- A flit whose code shows an error that it corrects leaves whole, and the event is noted with STRUCT Stage flit (R121, R458). -/
def State.corrected (s : State) (unit : Nat) (f : Flit) : State × Flit :=
  if f.code = 1 then (s.logErr errCe 7 unit 0 0x3F 0xFF 0, { f with code := 0 }) else (s, f)

/-- HOP (R122, R123, R136, R139): in a cycle the entries of the coach in force for an output lane, under the buffer that each
arriving flit names; the flit of the buffer that was active first goes, and every other one is discarded. -/
def execHop (sw lane cyc : Nat) (s : State) : Out := s.onModule fun s =>
  let c := cyc % 1024
  let t := s.cycleNow c
  match swPartner sw lane with
  | none => .next s
  | some (node, l, lat) =>
    if !s.laneFree node l (t + lat) then .next s else
    let n := s.coachInForce sw lane (c / 16)
    let o := s.blockOwner sw lane (c / 16)
    let b := s.tt n
    let arriving (tt : Bool) : List Flit :=
      match ttFind (b.buf tt) 2 sw lane c with
      | none => []
      | some r => (s.stage.flits.filter fun x =>
          x.node == sw && x.lane == r.inn && x.at_ + 2 == t && x.flit.tt == tt).map (·.flit)
    let all := arriving (!b.activeB) ++ arriving b.activeB
    let mine := all.filter fun f => f.coach.toNat == n && f.code != 2
    let lost := all.length - min 1 mine.length
    let s := (span 0 lost).foldl (fun s _ => s.discard o) s
    match mine with
    | [] => .next s
    | f :: _ =>
      let (s, f) := s.corrected (2048 + sw) f
      .next { s with stage := { s.stage with flits := s.stage.flits ++ [{ node, lane := l, at_ := t + lat, flit := f }] } }

/-! Ejection (R209 to R211, R223 to R226, R261, R262). -/

/-- R209: a flit's epoch is acceptable at its coach. -/
def State.epochOk (s : State) (n : Nat) (e : BitVec 16) : Bool :=
  let cur := s.epochOf n
  e == BitVec.ofNat 16 cur.toNat || (s.windowOpen n && e == BitVec.ofNat 16 (cur - 1).toNat)

def State.staleDrop (s : State) (n : Nat) : State :=
  let c := s.coach n
  let s := s.summaryUp (s.partOf n) 4
  (s.setCoach n { c with staleDrops := .ofNat 32 (satInc 32 c.staleDrops.toNat) }).runningFault n stepStale

def State.moveDrop (s : State) (n : Nat) : State :=
  let c := s.coach n
  let s := s.summaryUp (s.partOf n) 4
  (s.setCoach n { c with moveDrops := .ofNat 32 (satInc 32 c.moveDrops.toNat) }).runningFault n stepMoveOverrun

def State.pushIn (s : State) (k : Nat) (f : Unit32) : State :=
  { s with stage := { s.stage with inQ := tset [] s.stage.inQ k (tget [] s.stage.inQ k ++ [f]) } }

/-- A flit that a cell cannot take: DRAY_STATUS.DROPS of the Dray that the stream's map entry names (R262). -/
def State.streamDrop (s : State) (p st : Nat) : State :=
  let c := s.cell p
  let d : DrayIx := if (c.mapEntry st).2.1 = 0 then 0 else 1
  let y := s.dray p d
  (s.setDray p d { y with drops := .ofNat 16 (satInc 16 y.drops.toNat) }).runningFault c.slot.toNat stepOverrun

/-- Deliver a flit to a stream of a cell (R262). -/
def State.deliverCell (s : State) (p st : Nat) (f : Unit32) : State :=
  let c := s.cell p
  let k := streamKey p c.slot.toNat st
  if c.mapValid st then
    let want := (c.drays.toList.flatMap (·.out)).foldl (fun n r => if r.stream = st then n + replyFlits r.op r.lines else n) 0
    if (tget [] s.stage.inQ k).length < want then s.pushIn k f
    else if c.abandoned.contains st then s
    else s.streamDrop p st
  else if decide ((tget [] s.stage.inQ k).length < c.recvWant st) then s.pushIn k f
  else if c.unclaimed.length < 64 then s.setCell p { c with unclaimed := c.unclaimed ++ [(st, f)] }
  else s.streamDrop p st

/-- Flits of a coach that wait inbound at an endpoint. -/
def State.inboundAt (s : State) (ep n : Nat) : Nat :=
  s.stage.inQ.foldl (fun t e => if e.1 / 64 = ep * 64 + n then t + e.2.length else t) 0

/-- Deliver an accepted flit at its endpoint: while STUB is set, a source's stub queue takes every flit of the coach (R223). st is the
EJECT record's stream. One at an LPDDR5X controller is the controller's and
not the light Mule's there (R189; DEDUCED, log 103). -/
def State.deliver (s : State) (ep st : Nat) (f : Flit) : State :=
  let n := f.coach.toNat
  if isCellEp ep then
    let own := if st = 63 then f.stream.toNat else st
    let c := s.cell ep
    if s.stubOf ep n then
      if c.stubQ.length < 32 then s.setCell ep { c with stubQ := c.stubQ ++ [f] } else s.moveDrop n
    else match s.cellState ep with
    | .moveOut | .joining | .vacated => s.moveDrop n
    | .moveIn =>
      if st = 62 then (if c.imageGot.contains f.idx then s else s.setCell ep { c with imageGot := c.imageGot ++ [f.idx] })
      else if c.heldQ.length < 64 then s.setCell ep { c with heldQ := c.heldQ ++ [(own, f.payload)] }
      else s.moveDrop n
    | .hitched => if st = 62 then s else s.deliverCell ep own f.payload
    | _ => s
  else if 1408 ≤ ep ∧ ep < 1428 then
    -- an HBM3E Mule takes no flits (R188)
    let x := s.engine (ep - 1408)
    s.setEngine (ep - 1408) { x with rxDiscards := .ofNat 16 (satInc 16 x.rxDiscards.toNat) }
  else if ep < 1460 ∧ s.inboundAt ep n ≥ 256 then
    ({ s with stage := { s.stage with epDrops := tset 0 s.stage.epDrops ep (tget 0 s.stage.epDrops ep + 1) } }).runningFault n stepOverrun
  else s.pushIn (streamKey ep n st) f.payload

/-- A flit ejected at its endpoint (R209): a stale one is dropped. -/
def State.accept (s : State) (ep n st : Nat) (f : Flit) : State :=
  let s := (if isCellEp ep then s.countCell ep 2 1 else s).countCoach n 1 1
  if n ≠ 62 && !s.epochOk n f.epoch then s.staleDrop n else s.deliver ep st f

/-- A flit arrives at a stopped pcell (R582): its inbound FIFO takes 32, and every one beyond is discarded. -/
def State.stopFifo (s : State) (ep n st : Nat) (f : Flit) : State :=
  let c := s.cell ep
  if c.fifo.length < 32 then s.setCell ep { c with fifo := c.fifo ++ [(st, f)] }
  else (s.countCell ep 10 1).countCoach n 2 1

/-- EJECT (R131, R136, R209): a flit whose code shows an uncorrectable error is discarded here as at a switch (DEDUCED, log 100). -/
def execEject (ep lane cyc : Nat) (s : State) : Out := s.onModule fun s =>
  let c := cyc % 1024
  let t := s.cycleNow c
  match s.stage.flits.find? fun x => x.node == epNode ep && x.lane == lane && x.at_ == t && !x.taken with
  | none => .next s
  | some x =>
    let n := x.flit.coach.toNat
    let s := { s with stage := { s.stage with
      flits := s.stage.flits.map fun (y : FlitInFlight) => if y.node = epNode ep ∧ y.lane = lane ∧ y.at_ = t then { y with taken := true } else y } }
    if x.flit.code = 2 then .next (s.discard n) else
    let (s, f) := s.corrected ep x.flit
    match ttFind ((s.tt n).buf f.tt) 3 ep lane c with
    | none => .next s
    | some r =>
      if isCellEp ep && (s.cell ep).frozen then .next (s.stopFifo ep n r.inn f)
      else .next (s.accept ep n r.inn f)

/-! The loader (R129, R130, R134, R615). -/

def ttErrCrc : Nat := 1
def ttErrVersion : Nat := 2
def ttErrRecord : Nat := 3
def ttErrOwned : Nat := 4
def ttErrHitched : Nat := 5
def ttErrCollision : Nat := 6
def ttErrTurn : Nat := 7
def ttErrArmed : Nat := 8
def ttErrEmpty : Nat := 9
def ttErrInUse : Nat := 0xA
def ttErrIsolation : Nat := 0xB
def ttErrRange : Nat := 0xC
def ttErrLendee : Nat := 0xD

/-- CRC-32 with the IEEE 802.3 polynomial, bits of a byte from the least significant one, all ones before and after. -/
def crcByte (c : BitVec 32) (b : Byte) : BitVec 32 :=
  (span 0 8).foldl (fun c _ => if c.getLsbD 0 then (c >>> 1) ^^^ 0xEDB88320#32 else c >>> 1) (c ^^^ b.zeroExtend 32)
def crc32 (bs : List Byte) : BitVec 32 := ~~~(bs.foldl crcByte 0xFFFFFFFF#32)

/-- A record from its 16 bytes, and whether its format is valid (R130). -/
def ttDecode (bs : List Byte) : TtRecord × Bool :=
  let v := leNat bs
  let r : TtRecord := { kind := field v 0 8, lent := field v 8 1 == 1, unit := field v 16 16, out := field v 32 16
                        inn := field v 48 16, start := field v 64 16, count := field v 80 16, step := field v 96 16 }
  let node := if r.kind = 2 then r.unit else epNode r.unit
  let lanes := if r.kind = 2 ∧ r.unit > 21 then 0 else nodeLanes node
  let inOk := if r.kind = 2 then decide (r.inn < lanes) && (lanePartner node r.inn).isSome else decide (1 ≤ r.inn) && decide (r.inn ≤ 63)
  let ok := decide (1 ≤ r.kind) && decide (r.kind ≤ 3) && field v 9 7 == 0 && field v 112 16 == 0 && decide (r.out < lanes)
    && (lanePartner node r.out).isSome && inOk && decide (r.start < 1024) && decide (1 ≤ r.count) && decide (r.count ≤ 1024)
    && decide (1 ≤ r.step) && decide (r.step < 1024) && decide (r.count * Nat.gcd r.step 1024 ≤ 1024)
  (r, ok)

/-- What a record drives in a covered cycle: node, lane, cycle (R134). -/
def TtRecord.drives (r : TtRecord) : List (Nat × Nat × Nat) :=
  match r.kind with
  | 1 => r.cycles.map fun c => (epNode r.unit, r.out, c)
  | 2 => r.cycles.map fun c => (r.unit, r.out, c)
  | _ => match lanePartner (epNode r.unit) r.out with
    | some (sw, l, lat) => r.cycles.map fun c => (sw, l, (c + 1024 - lat) % 1024)
    | none => []

/-- What feeds a HOP in its covered cycles. -/
def TtRecord.feeds (r : TtRecord) : List (Nat × Nat × Nat) :=
  if r.kind = 2 then
    match swPartner r.unit r.inn with
    | some (n, l, lat) => r.cycles.map fun c => (n, l, (c + 1022 - lat) % 1024)
    | none => []
  else []

/-- What a record claims for the collision check (DEDUCED, log 78): an EJECT shares its lane and cycle with the last HOP of its
route, as in the example of R139, and collides with EJECT records only; the others collide with one another. -/
def TtRecord.claims (r : TtRecord) : List (Bool × Nat × Nat × Nat) := r.drives.map fun x => (r.kind == 3, x)

/-- A HOP on an ISW that joins its two bridges (R120). -/
def TtRecord.turnsBridge (r : TtRecord) : Bool :=
  r.kind == 2 && decide (r.unit ≥ 20) && decide (r.inn < 64) && decide (r.out < 64) && r.inn / 32 != r.out / 32

/-- The checks of one record against the coach and the lower-numbered records (R615): none passes. -/
def State.ttRecordBad (s : State) (n : Nat) (r : TtRecord) (lower : List (Bool × Nat × Nat × Nat)) : Option Nat :=
  let holds (x : Nat × Nat × Nat) : Bool :=
    if r.lent then s.blockLendee x.1 x.2.1 (x.2.2 / 16) == n else s.blockOwner x.1 x.2.1 (x.2.2 / 16) == n
  let fed (x : Nat × Nat × Nat) : Bool :=
    s.blockLendee x.1 x.2.1 (x.2.2 / 16) == n || s.blockOwner x.1 x.2.1 (x.2.2 / 16) == n
  if !(r.drives.all holds && r.feeds.all fed) then some ttErrOwned
  else if r.kind ≠ 2 && isCellEp r.unit && !s.hitchedTo r.unit n then some ttErrHitched
  else if r.claims.any lower.contains then some ttErrCollision
  else if r.turnsBridge then some ttErrTurn
  else none

def State.ttCheckAll (s : State) (n : Nat) : List TtRecord → Nat → List (Bool × Nat × Nat × Nat) → Option (Nat × Nat)
  | [], _, _ => none
  | r :: rest, i, lower =>
    match s.ttRecordBad n r lower with
    | some e => some (e, i)
    | none => State.ttCheckAll s n rest (i + 1) (r.claims ++ lower)

/-- Groups of 16 bytes. -/
def chunks16 : Nat → List Byte → List (List Byte)
  | 0, _ => []
  | k + 1, bs => bs.take 16 :: chunks16 k (bs.drop 16)

/-- The timetable loader's read of an image (R268). -/
def State.ttTouch (s : State) (a : Nat) : State :=
  let s := s.devTouch a 32
  let k := field (leNat (s.devRead a 32)) 32 32
  if k > 1048576 then s else s.devTouch (a + 32) (16 * k)

/-- Check an image in memory for a coach: the records, or an error and the record at fault (R615). -/
def State.ttImage (s : State) (n a : Nat) : Except (Nat × Nat) (List TtRecord) :=
  let h := leNat (s.devRead a 32)
  let k := field h 32 32
  if field h 0 32 ≠ 1 ∨ k = 0 ∨ k > 1048576 ∨ field h 96 160 ≠ 0 then .error (ttErrVersion, 0)
  else
    let bs := s.devRead (a + 32) (16 * k)
    if (crc32 bs).toNat ≠ field h 64 32 then .error (ttErrCrc, 0)
    else
      let rs := (chunks16 k bs).map ttDecode
      match ((span 0 k).zip rs).find? fun e => !e.2.2 with
      | some e => .error (ttErrRecord, e.1)
      | none =>
        let l := rs.map (·.1)
        match s.ttCheckAll n l 0 [] with
        | some e => .error e
        | none => .ok l

/-! Loads, clears and swaps (R136 to R138, R145). -/

def Stage.result (g : Stage) (coach err at_ : Nat) : Stage :=
  { g with lastCoach := coach, ttError := BitVec.ofNat 8 err, ttRecord := BitVec.ofNat 32 at_ }

/-- A swap of the slot is armed by TT_SWAP, or a batch is pending or running: the loader answers ARMED (R137, R228). -/
def State.swapArmed (s : State) (n : Nat) : Bool := (s.tt n).armed.isSome || (s.coach n).phase != 0

/-- A timetable buffer names the pcell in an INJECT or EJECT record. -/
def TtBuffers.names (b : TtBuffers) (p : Nat) : Bool := (b.a ++ b.b).any fun r => r.kind != 2 && r.unit == p

/-- Presented cell count: 1,024 less the cells lost without a spare. -/
def State.presented (s : State) : Nat := 1024 - s.errs.presentedDrop

/-- Spares of a region, rising. -/
def State.sparesOf (s : State) (r : Nat) : List Nat := (span (72 * r) 72).filter fun p => s.cellState p == .spare

/-- No spare is left: the presented count falls (R233, R462). -/
def State.sparesOut (s : State) (p : Nat) : State :=
  let s := { s with errs := { s.errs with presentedDrop := s.errs.presentedDrop + 1 } }
  s.logErr errSparesOut 8 p p 0x3F 0xFF s.presented

/-- A FREE or vacated pcell that has failed becomes RETIRED; the lowest spare of its region becomes FREE (R462), and RETIRED in its turn
where it has failed itself. -/
def State.retireFreeN (s : State) (p : Nat) : Nat → State
  | 0 => s
  | f + 1 =>
  let s := s.setCell p { s.cell p with
    st := .retired, slot := 63, lcell := 0, peer := 0, portEpoch := 0, leaving := false, failed := false }
  match s.sparesOf (regionOf p) with
  | q :: _ =>
    let t := (s.setCell q { (s.cell q).clean with st := .free }).logErr errSpareUsed 8 q q 0x3F 0xFF p
    if (s.cell q).failed then t.retireFreeN q f else t
  | [] => s.sparesOut p

/-- A region has 72 pcells, so no more of them retire in a row. -/
def State.retireFree (s : State) (p : Nat) : State := s.retireFreeN p 73

/-- STUB of a pcell clears: what its stub queue holds counts as dropped (R223). -/
def State.clearStub (s : State) (p : Nat) : State :=
  let c := s.cell p
  if !c.stub then s
  else
    let s := c.stubQ.foldl (fun s _ => s.moveDrop c.stubCoach.toNat) s
    s.setCell p { s.cell p with stub := false, stubCoach := 63, stubLcell := 0, stubQ := [] }

/-- VACATED pcells that no loaded buffer names become FREE, or RETIRED where they have failed (R205, R462). -/
def State.freeVacated (s : State) : State :=
  let l := s.cells.filter fun e => e.2.st == .vacated && !s.stage.tt.any fun b => b.2.names e.1
  l.foldl (fun s e =>
    if (s.cell e.1).failed then s.retireFree e.1
    else s.setCell e.1 { s.cell e.1 with st := .free, slot := 63, lcell := 0, peer := 0, portEpoch := 0 }) s

/-- The inactive buffer replaced; loaded tells whether a load did it. -/
def State.ttReplace (s : State) (n : Nat) (l : List TtRecord) (loaded : Bool) (image : Option Nat := none) : State :=
  let b := s.tt n
  (s.setTt n { b.setBuf (!b.activeB) l with loaded, nextImage := image.map fun a => (BitVec.ofNat 64 a, s.epochOf n) }).freeVacated

/-- The loader may write the inactive buffer: 64 Stage cycles after the last swap (R137). -/
def State.ttMayWrite (s : State) (n : Nat) : Bool :=
  match (s.tt n).lastSwap with
  | none => true
  | some t => decide (s.stageNow ≥ t + 64)

/-- A write of TT_LOAD. -/
def State.ttLoadWrite (s : State) (coach : Nat) (clear : Bool) : State :=
  if s.stage.loading.isSome then { s with stage := { s.stage with overrun := true } }
  else if h : coach < 48 then
    if s.swapArmed coach then { s with stage := s.stage.result coach ttErrArmed 0 }
    else
      let s := { s with stage := s.stage.result coach 0 0 }
      if clear && s.ttMayWrite coach then s.ttReplace coach [] false
      else { s with stage := { s.stage with loading := some (⟨coach, h⟩, clear, s.stage.ttImage.toNat) } }
  else { s with stage := s.stage.result coach ttErrRange 0 }

/-- TT_LOAD (R137). -/
def execTtLoad (coach : BitVec 6) (s : State) : Out := s.gate fun s => .next (s.ttLoadWrite coach.toNat false)

/-- TT_CLEAR (R137): at once, unless the coach's last swap is too recent. -/
def execTtClear (coach : BitVec 6) (s : State) : Out := s.gate fun s => .next (s.ttLoadWrite coach.toNat true)

/-- TT_LOAD_BEGIN (R134, R137, R146, R615): the load or clear that waits is carried out. -/
def execTtLoadBegin (n : Slot) (s : State) : Out := s.onModule fun s =>
  match s.stage.loading with
  | none => .next s
  | some (m, clear, a) =>
    if m ≠ n || !s.ttMayWrite n then .next s
    else
      let s := { s with stage := { s.stage with loading := none } }
      if clear then .next (s.ttReplace n [] false)
      else
        let image := s.ttImage n a
        let s := s.ttTouch a
        match image with
        | .error (e, i) => .next { s with stage := s.stage.result n e i }
        | .ok l => .next (s.ttReplace n l true (some a))

/-- A load or clear of the slot's inactive buffer is in progress. -/
def State.ttLoading (s : State) (n : Nat) : Bool :=
  match s.stage.loading with
  | some (m, _, _) => m.val == n
  | none => false

/-- A write of TT_SWAP (R138). FRAME gives the low 50 bits of the frame. -/
def State.ttSwapWrite (s : State) (v : Word) : State :=
  let n := bfield v 50 6
  let s := { s with stage := { s.stage with ttSwap := v &&& 0x00FFFFFFFFFFFFFF } }
  if !v.getLsbD 63 then s
  else if n ≥ 48 then { s with stage := s.stage.result n ttErrRange 0 }
  else if s.swapArmed n then { s with stage := s.stage.result n ttErrArmed 0 }
  else if !(s.tt n).loaded || s.ttLoading n then { s with stage := s.stage.result n ttErrEmpty 0 }
  else
    let s := s.setTt n { s.tt n with armed := some (s.stage.frame / 2 ^ 50 * 2 ^ 50 + bfield v 0 50) }
    { s with stage := s.stage.result n 0 0 }

/-- TT_SWAP (R138). -/
def execTtSwap (v : Word) (s : State) : Out := s.gate fun s => .next (s.ttSwapWrite v)

/-- The slot's active buffer flips (R138). -/
def State.ttFlip (s : State) (n : Nat) : State :=
  let b := s.tt n
  s.setTt n { b with
    activeB := !b.activeB, loaded := false, armed := none, lastSwap := some s.stageNow, image := b.nextImage, nextImage := b.image }

/-- At the start of a frame: armed swaps whose frame has come. -/
def State.swapsDue (s : State) : State :=
  let l := s.stage.tt.filter fun e => match e.2.armed with
    | some f => decide (f ≤ s.stage.frame)
    | none => false
  l.foldl (fun s e =>
    let late := match e.2.armed with
      | some f => decide (f < s.stage.frame)
      | none => false
    let s := s.ttFlip e.1
    if late then { s with stage := { s.stage with late := true } } else s) s

/-- The frame counter and the parked masks move on; flits that no entry took are gone (R124, R140). -/
def State.nextFrame (s : State) : State :=
  let g := s.stage
  let f := g.frame + 1
  { s with stage := { g with
      frame := f, parkPrev := g.parkInForce, parkInForce := g.park
      flits := g.flits.filter fun x => decide (x.at_ + 2 ≥ 1024 * f) } }

/-- COACH_PARK (R140): from the next frame boundary. -/
def execCoachPark (v : Word) (s : State) : Out := s.gate fun s => .next { s with stage := { s.stage with park := bfield v 0 48 } }

/-! Ownership (R126, R141, R616). -/

/-- The blocks that a SLOT_OWN_CMD names: node, lane, block. -/
def State.ownBlocks (s : State) (count first unit : Nat) : List (Nat × Nat × Nat) :=
  let node := if unit < 2048 then epNode unit else unit - 2048
  let bs := bitsSet s.stage.ownMask.toNat 64
  (span first count).flatMap fun l => bs.map fun b => (node, l, b)

/-- A timetable buffer of a coach uses a block (R126). -/
def State.blockUsed (s : State) (n : Nat) (x : Nat × Nat × Nat) : Bool :=
  let t := s.tt n
  (t.a ++ t.b).any fun r => (r.drives ++ r.feeds).any fun d => d.1 == x.1 && d.2.1 == x.2.1 && d.2.2 / 16 == x.2.2

/-- A SLOT_OWN_CMD: op 0 sets the owner, 1 the lendee, 2 frees, 3 clears the lendee. Where OWN_IN_USE, LENDEE and ISOLATION hold
together the first of them shows (R616; DESIGN CHOICE, log 93). -/
def State.slotOwn (s : State) (op : Nat) (coach count first unit : Nat) : State :=
  let fail (e : Nat) : State := { s with stage := s.stage.result coach e 0 }
  let node := if unit < 2048 then epNode unit else unit - 2048
  let lanes := if unit ≥ 2048 + 22 then 0 else nodeLanes node
  if s.stage.loading.isSome then { s with stage := { s.stage with overrun := true } }
  else if count = 0 ∨ first + count > lanes ∨ (op ≤ 1 ∧ coach > 47) then fail ttErrRange
  else
    let bs := s.ownBlocks count first unit
    let newOwner (o : Nat) : Nat := if op = 0 then coach else if op = 2 then 63 else o
    let newLendee : Nat := if op = 1 then coach else 63
    let owner (x : Nat × Nat × Nat) := s.blockOwner x.1 x.2.1 x.2.2
    let lendee (x : Nat × Nat × Nat) := s.blockLendee x.1 x.2.1 x.2.2
    let changes (x : Nat × Nat × Nat) : Bool := newOwner (owner x) != owner x || newLendee != lendee x
    let used (x : Nat × Nat × Nat) : Bool :=
      (owner x != 63 && s.blockUsed (owner x) x) || (lendee x != 63 && s.blockUsed (lendee x) x)
    if bs.any fun x => owner x == 62 || (changes x && used x) then fail ttErrInUse
    else if op = 1 && bs.any fun x => owner x == 63 || owner x == coach then fail ttErrLendee
    else if op = 1 && bs.any fun x => s.partOf (owner x) != s.partOf coach
        && (s.stable.strict.contains (s.partOf (owner x)) || s.stable.strict.contains (s.partOf coach)) then fail ttErrIsolation
    else
      let g := bs.foldl (fun (g : Stage) x =>
        let k := blockKey x.1 x.2.1 x.2.2
        { g with
          owner := tset 63 g.owner k (BitVec.ofNat 6 (newOwner (owner x)))
          lendee := tset 63 g.lendee k (BitVec.ofNat 6 (newLendee)) }) s.stage
      { s with stage := g.result coach 0 0 }

/-- SET_OWNER (R616). -/
def execSetOwner (coach : BitVec 6) (laneCount laneFirst : BitVec 11) (unit : BitVec 12) (s : State) : Out := s.gate fun s =>
  .next (s.slotOwn 0 coach.toNat laneCount.toNat laneFirst.toNat unit.toNat)
/-- SET_LENDEE (R141, R616). -/
def execSetLendee (coach : BitVec 6) (laneCount laneFirst : BitVec 11) (unit : BitVec 12) (s : State) : Out := s.gate fun s =>
  .next (s.slotOwn 1 coach.toNat laneCount.toNat laneFirst.toNat unit.toNat)
/-- FREE_BLOCKS (R616). -/
def execFreeBlocks (coach : BitVec 6) (laneCount laneFirst : BitVec 11) (unit : BitVec 12) (s : State) : Out := s.gate fun s =>
  .next (s.slotOwn 2 coach.toNat laneCount.toNat laneFirst.toNat unit.toNat)
/-- CLEAR_LENDEE (R616). -/
def execClearLendee (coach : BitVec 6) (laneCount laneFirst : BitVec 11) (unit : BitVec 12) (s : State) : Out := s.gate fun s =>
  .next (s.slotOwn 3 coach.toNat laneCount.toNat laneFirst.toNat unit.toNat)

/-- A partition enters strict isolation mode (R141): no lending to or from its coaches, LENT entries in those blocks go. -/
def State.clearLending (s : State) (q : Nat) : State :=
  let hit := s.stage.lendee.filter fun e =>
    s.partOf (tget 63 s.stage.owner e.1).toNat == q || s.partOf e.2.toNat == q
  let keys : List Nat := hit.map fun e => e.1
  let keep (r : TtRecord) : Bool := !(r.lent && r.drives.any fun d => keys.contains (blockKey d.1 d.2.1 (d.2.2 / 16)))
  { s with stage := { s.stage with
      lendee := s.stage.lendee.filter fun e => !keys.contains e.1
      tt := tmap {} s.stage.tt fun _ (b : TtBuffers) => { b with a := b.a.filter keep, b := b.b.filter keep } } }

/-- TT_STATUS. -/
def State.ttStatus (s : State) : Word :=
  let g := s.stage
  put 32 g.ttRecord.toNat ||| put 8 g.ttError.toNat ||| putB 3 g.late ||| putB 2 g.overrun
    ||| putB 1 (s.tt g.lastCoach).activeB ||| putB 0 g.loading.isSome

/-- MARGIN_LOSS (R128, R457): unit is an endpoint number, or 2048 + SW. -/
def execMarginLoss (unit lane : Nat) (s : State) : Out :=
  .next (if s.harness.ready then s.logErr errMargin 8 unit lane 0x3F 0xFF 0 else s)

end Sys2Proof.Machine
end

