-- ==== Sys2Proof/Machine/Faults.lean ====
section
/-! DEFINITION. The fault queue and its collectors (R463 to R471), retirement (R459 to R462), the scrubber and the checkers' test
registers (R454 to R456), the crash area's slots. -/
namespace Sys2Proof.Machine

/-! Collectors and the fault queue. -/

/-- A fault record's 64 bytes (R467). -/
def faultBytes (c : Collector) (seq : Nat) : List Byte :=
  let r := c.report
  natBytes 8 c.opened ++ natBytes 8 c.last ++ natBytes 4 c.count
    ++ natBytes 4 (c.coachId.toNat + r.slot.toNat * 2 ^ 20 + (if c.ctx.isNone then 2 ^ 31 else 0))
    ++ bytesOf 4 c.epoch ++ natBytes 2 (c.ctx.getD 0) ++ bytesOf 2 r.code ++ bytesOf 4 c.step ++ natBytes 4 r.lcell.toNat
    ++ natBytes 2 r.unit ++ bytesOf 2 r.tag ++ bytesOf 1 c.partition ++ natBytes 3 0 ++ bytesOf 8 r.detail ++ natBytes 4 seq
    ++ natBytes 4 0

/-- The bit of FQ_PENDING of a slot (R470). -/
def pendingBit (slot : Nat) : Nat := if slot < 48 then slot else 63

/-- A record has been written: FQ_PENDING and the fault notice (R470). -/
def State.faultNotice (s : State) (b : Nat) : State :=
  let e := s.errs
  let s := { s with errs := { e with fqPending := e.fqPending ||| putB b true } }
  let at_ := tget 0 e.noticeAt b
  if at_ = 0 ∨ s.tick ≥ at_ - 1 + 100000 then
    ({ s with errs := { s.errs with noticeAt := tset 0 s.errs.noticeAt b (s.tick + 1) } }).msix 1
  else { s with errs := { s.errs with noticeDue := if e.noticeDue.contains b then e.noticeDue else e.noticeDue ++ [b] } }

/-- A collector closes (R468, R469): its record goes to the queue, or is lost. -/
def State.collectorClose (s : State) (i : Nat) : State :=
  match tget none s.errs.collectors i with
  | none => s
  | some c =>
    let e := s.errs
    let s := { s with errs := { e with collectors := tset none e.collectors i none, fqSeq := e.fqSeq + 1 } }
    if e.fqTail - e.fqHead = 512 then
      { s with errs := { s.errs with
          fqLostCount := .ofNat 32 (satAdd 32 e.fqLostCount.toNat c.count), fqLost := true } }
    else
      let s := s.devWrite (e.fqBase.toNat + e.fqTail.toNat % 512 * 64) (faultBytes c e.fqSeq.toNat)
      ({ s with errs := { s.errs with fqTail := e.fqTail + 1 } }).faultNotice (pendingBit c.report.slot.toNat)

/-- COLLECTOR_CLOSE (R468): 100,000 ticks after it opened. -/
def execCollectorClose (i : Nat) (s : State) : Out :=
  match tget none s.errs.collectors i with
  | none => .next s
  | some c => .next (if s.tick ≥ c.opened + 100000 then s.collectorClose i else s)

/-- FAULT_NOTICE (R470): a notice that was held back goes out. -/
def execFaultNotice (b : Nat) (s : State) : Out :=
  let e := s.errs
  if e.noticeDue.contains b ∧ s.tick ≥ tget 0 e.noticeAt b - 1 + 100000 then
    .next (({ s with errs := { e with
      noticeDue := e.noticeDue.filter (· != b), noticeAt := tset 0 e.noticeAt b (s.tick + 1) } }).msix 1)
  else .next s

/-- A fault enters the collectors (R467, R468): ctx and step are those to which it is attributed. -/
def State.recordFault (s : State) (r : FaultReport) (ctx : Option Nat) (step : BitVec 32) : State :=
  let n := r.slot.toNat
  let x := s.coach n
  let epoch := s.epochOf n
  let same (c : Collector) : Bool :=
    c.report.slot == r.slot && c.report.code == r.code && c.epoch == epoch && c.ctx == ctx && c.step == step
  let open_ := s.errs.collectors.filterMap fun e => e.2.map fun c => (e.1, c)
  match open_.find? fun e => same e.2 with
  | some (i, c) =>
    { s with errs := { s.errs with
        collectors := tset none s.errs.collectors i (some { c with count := c.count + 1, last := s.tick }) } }
  | none =>
    let oldest := open_.foldl (fun (b : Option (Nat × Nat)) e => match b with
      | some (_, t) => if e.2.opened < t then some (e.1, e.2.opened) else b
      | none => some (e.1, e.2.opened)) none
    let s := if open_.length < 64 then s else match oldest with
      | some (i, _) => s.collectorClose i
      | none => s
    match (span 0 64).find? fun i => (tget none s.errs.collectors i).isNone with
    | none => s
    | some i =>
      let c : Collector := { report := r, epoch, ctx, step, partition := if x.valid then BitVec.ofNat 8 x.partition.toNat else 0x3F
                             coachId := x.coachId, opened := s.tick, last := s.tick, count := 1 }
      { s with errs := { s.errs with collectors := tset none s.errs.collectors i (some c) } }

/-- DETAIL of a fault (R467): the unit's fault register, mtval, or the failing address of a step fault. Of two halted Drays the one
whose fault has the TAG reports. -/
def State.faultDetail (s : State) (unit code hen tag slot : Nat) : Word :=
  if isCellEp unit then
    let c := s.cell unit
    match code / 256 with
    | 1 => c.ox.fault
    | 2 => if h : hen < 4 then c.hens[hen].mtval else 0
    | 3 => match c.drays.toList.find? fun y => y.halt && bfield y.fault 40 8 == code % 256 && bfield y.fault 48 16 == tag with
      | some y => y.fault
      | none => 0
    | _ => 0
  else if code / 256 = 0 then tget 0 (s.slotSched slot).failAt (code % 256) else 0

/-- The report that a FAULT message gives (R463). -/
def State.reportOf (s : State) (m : GigMsg) : FaultReport :=
  let unit := bfield m.src 0 11
  let code := bfield m.payload 0 16
  let detail := match engineOfEp unit with
    | some e => ((s.engine e).ring m.coach.toNat).fault
    | none => s.faultDetail unit code m.srcHen.toNat (bfield m.payload 16 16) m.coach.toNat
  { slot := m.coach, code := BitVec.ofNat 16 code, tag := BitVec.ofNat 16 (bfield m.payload 16 16), unit
    lcell := if isCellEp unit then (s.cell unit).lcell else BitVec.ofNat 27 (2 ^ 27 - 1), detail }

/-! Failed and retired pcells (R459 to R462). -/

/-- Mark a pcell failed (R461, R462). cause: 0 command, 1 bank, 2 ceiling, 3 no stop. -/
def State.markFailed (s : State) (p cause : Nat) : State :=
  if (s.cell p).failed ∨ s.cellState p = .retired then s
  else
    let s := s.logErr errCellFailed 8 p p (s.partOfCell p) 0xFF cause
    let s := s.setCell p { s.cell p with failed := true, failCause := BitVec.ofNat 2 cause }
    if s.cellState p = .free then s.retireFree p else s

/-- A write of RETIRE_CMD (R459 to R461). -/
def State.retireWrite (s : State) (v : Word) : State :=
  let op := bfield v 62 2
  let pcell := bfield v 12 11
  let addr := bfield v 12 40 * 4096
  let e := s.errs
  let refuse : State := { s with errs := { e with retireRefused := true } }
  let logged (s : State) : State := s.log 0x18 oPcie 0x3F 63 v 0
  match op with
  | 0 =>
    if e.retiredPages.length ≥ 4096 ∨ !s.holdsMemory addr then refuse
    else
      let s := (logged s).logErr errRetirePage 8 (homeOf addr) addr (s.ownerOf addr) 0xFF 0
      { s with errs := { s.errs with retiredPages := s.errs.retiredPages ++ [addr / 4096] } }
  | 1 =>
    if pcell ≥ 1152 then refuse
    else
      let b := bfield v 52 4
      let s := (logged s).logErr errRetireBank 8 pcell pcell (s.partOfCell pcell) 0xFF b
      let c := s.cell pcell
      let s := s.setCell pcell { c with badBanks := if c.badBanks.contains b then c.badBanks else c.badBanks ++ [b] }
      s.markFailed pcell 1
  | 2 => if pcell ≥ 1152 then refuse else (logged s).markFailed pcell 0
  | _ => refuse

/-- RETIRE_PAGE (R460): a write of RETIRE_CMD with OP PAGE. -/
def execRetirePage (v : Word) (s : State) : Out := s.gate fun s => .next (s.retireWrite (v &&& ~~~(3#64 <<< 62)))
/-- RETIRE_BANK (R461): a write of RETIRE_CMD with OP BANK. -/
def execRetireBank (v : Word) (s : State) : Out := s.gate fun s => .next (s.retireWrite (v &&& ~~~(3#64 <<< 62) ||| (1#64 <<< 62)))
/-- RETIRE_CELL (R461): a write of RETIRE_CMD with OP CELL. -/
def execRetireCell (v : Word) (s : State) : Out := s.gate fun s => .next (s.retireWrite (v &&& ~~~(3#64 <<< 62) ||| (2#64 <<< 62)))

/-! Test registers and scrubber. -/

/-- BAR0 windows of pcells and controllers (R14). -/
def cellWindow (p : Nat) : Nat := 0x1000000 + 0x4000 * p
def ctlWindow (c : Nat) : Nat := if c < 20 then 0x3000000 + 0x40000 * c else 0x3600000 + 0x40000 * (c - 20)

/-- MC_FLIP_ARM (R455, R484): a write of MC_FLIP_CTRL, a protected window (R572). -/
def execMcFlipArm (c : CtlIx) (v : Word) (s : State) : Out := s.gate fun s =>
  let s := s.log 0x16 oPcie 0x3F 63 (BitVec.ofNat 64 (ctlWindow c + 0x11010)) v
  .next { s with errs := { s.errs with mcFlip := tset 0 s.errs.mcFlip c (v &&& 0xFFFFFFFF03) } }

/-- SP_FLIP_ARM (R454, R483): a write of SP_FLIP_CTRL, a protected window (R572). -/
def execSpFlipArm (p : Pcell) (v : Word) (s : State) : Out := s.gateCell p fun s =>
  let s := s.log 0x16 oPcie 0x3F 63 (BitVec.ofNat 64 (cellWindow p + 0x208)) v
  .next { s with errs := { s.errs with spFlip := tset 0 s.errs.spFlip p (v &&& 0xFF1F) } }

/-- Lines of a controller's memory. -/
def State.ctlLines (s : State) (c : Nat) : Nat := if c < 20 then 0x001400000000 / 64 else s.lpGiB * 2 ^ 24

/-- SCRUB (R456): one line, in a turn that no master wants; retired pages are skipped. -/
def execScrub (c : CtlIx) (s : State) : Out := s.onModule fun s =>
  let pos := tget 0 s.errs.scrubPos c
  let a := ctlBase c + 64 * pos
  let l := a / 64
  let skip := s.errs.retiredPages.contains (a / 4096)
  let bad := if skip then 0 else tget 0 s.errs.memBad l
  let x := s.mc c
  let s := if skip then s else (s.setMc c { x with served := tset 0 x.served mScrub (tget 0 x.served mScrub + 1) }).countGlobal (4 * c + 3) 64
  let s :=
    if bad = 0 then s
    else if bad = 100 then (s.logErr errScrubUe 6 (ctlEp c) a (s.ownerOf a) 0xFF 0).countEcc c false
    else (s.logErr errScrubCe 6 (ctlEp c) a (s.ownerOf a) (bad - 1) 0).scrubWrite l
  let e := s.errs
  if pos + 1 < s.ctlLines c then .next { s with errs := { e with scrubPos := tset 0 e.scrubPos c (pos + 1) } }
  else
    let old := tget 0 e.scrubLap c
    let lap := put 24 ((s.tick - tget 0 e.scrubStart c) % 2 ^ 40) ||| put 8 ((bfield old 8 16 + 1) % 2 ^ 16)
    .next { s with errs := { e with
      scrubPos := tset 0 e.scrubPos c 0, scrubLap := tset 0 e.scrubLap c lap, scrubStart := tset 0 e.scrubStart c s.tick } }

/-- SCRUB_STAT. -/
def State.scrubStat (s : State) (c : Nat) : Word :=
  tget 0 s.errs.scrubLap c ||| BitVec.ofNat 64 (tget 0 s.errs.scrubPos c * 256 / s.ctlLines c)

/-- A write of CRASH_FREE (R474, R482). -/
def State.crashFreeWrite (s : State) (v : Word) : State :=
  let k := bfield v 0 4
  let s := s.logWindow 0x4088 v
  { s with errs := { s.errs with
    crashUsed := if s.errs.crashUsed.testBit k then s.errs.crashUsed - 2 ^ k else s.errs.crashUsed } }

/-- CRASH_FREE (R474). -/
def execCrashFree (v : Word) (s : State) : Out := s.gate fun s => .next (s.crashFreeWrite v)

end Sys2Proof.Machine
end

