-- ==== Sys2Proof/Machine/HenMem.lean ====
section
/-! DEFINITION. A Hen's accesses to memory (R83, R87, R88, R90, R110, R284, R295 to R305): loads, stores, AMOs, LR and SC, cache
block operations and fences. An access whose lines are not in the cell's L2 in the state it needs stalls the Hen; the answer
that brings the line performs it. -/
namespace Sys2Proof.Machine

/-! The cell's L2. -/

/-- Lines that n bytes at a touch. -/
def linesOf (a n : Nat) : List LineNo := if n = 0 then [] else (span (a / 64) ((a + n - 1) / 64 - a / 64 + 1)).map (BitVec.ofNat 46)

/-- Bytes read from the cell's lines. -/
def State.cellRead (s : State) (p a n : Nat) : List Byte :=
  (((linesOf a n).flatMap fun l => bytesOf 64 (s.agent p l).data).drop (a % 64)).take n

/-- Bytes written into a line that the cell holds in E or M: it becomes M (R279); reservations of the cell's other Hens on it
are lost, and the write is noted for R89. -/
def State.cellWriteLine (s : State) (p : Nat) (h : Nat) (l : LineNo) (o : Nat) (bs : List Byte) : State :=
  let x := s.agent p l
  let s := s.setAgent p l { x with st := .M, data := lineSet x.data o bs }
  let c := s.cell p
  let s := s.setCell p { c with hens := Vector.ofFn fun i : Fin 4 =>
    if i.val ≠ h ∧ c.hens[i].reserved = some l then { c.hens[i] with reserved := none, lrDefer := none } else c.hens[i] }
  s.noteWrite (lineAddr l + o) bs.length

def State.cellWrite (s : State) (p : Nat) (h : Nat) (a : Nat) (bs : List Byte) : State :=
  (linesOf a bs.length).foldl (fun s l =>
    let lo := max a (lineAddr l)
    let hi := min (a + bs.length) (lineAddr l + 64)
    s.cellWriteLine p h l (lo % 64) ((bs.drop (lo - a)).take (hi - lo))) s

/-- The places of n bytes whose first and last are at a and z: one run, or two where they lie in two pages. -/
def spots (n : Nat) (e : Nat × Nat) : List (Nat × Nat) :=
  if e.2 = e.1 + n - 1 then [(e.1, n)] else let k := 4096 - e.1 % 4096; [(e.1, k), (e.2 / 4096 * 4096, n - k)]

def State.spotRead (s : State) (p n : Nat) (e : Nat × Nat) : List Byte := (spots n e).flatMap fun x => s.cellRead p x.1 x.2
def State.spotWrite (s : State) (p h n : Nat) (e : Nat × Nat) (bs : List Byte) : State :=
  match spots n e with
  | [x, y] => (s.cellWrite p h x.1 (bs.take x.2)).cellWrite p h y.1 (bs.drop x.2)
  | _ => s.cellWrite p h e.1 bs

/-! The access itself. -/

/-- What a refusal gives the access that waits for the line (R286). -/
abbrev Refused := Option (LineNo × BitVec 2)

/-- The cause of a refused access: ECC gives HEN_ECC, else the access fault of its kind (R245, R286). -/
def Acc.refusedCause (acc : Acc) (code : BitVec 2) : Nat := if code = 3 then causeEcc else acc.cause

/-- Translate the addresses of an access in order: the physical ones, and the first that fails or misses. -/
def State.xlatAll (s : State) (p : Nat) (h : HenIx) (acc : Acc) : List Word → List Nat × Option (Word × Option State)
  | [] => ([], none)
  | va :: l =>
    match s.xlat p h acc va with
    | .ok a =>
      let (r, e) := State.xlatAll s p h acc l
      (a :: r, e)
    | .fail => ([], some (va, none))
    | .miss t => ([], some (va, some t))

/-- The Hen waits in an instruction. -/
def State.wait (s : State) (p : Nat) (h : HenIx) (i : Instr) : State := s.setHen p h { s.hen p h with stall := some i, kept := [] }

/-- A page that an access keeps while it waits for its lines: the virtual address of one of its bytes, and where that lies (R332). -/
def State.keep (s : State) (p : Nat) (h : HenIx) (va : Word) (a : Nat) : KeptPage :=
  let v := va.toNat % 2 ^ 57
  let pasid := s.pasidOf p
  { pasid, vpage := v / 4096, ppage := a / 4096
    lg := match (s.hen p h).keptPage pasid v with
      | some e => e.lg
      | none => (s.cell p).pageLg pasid v }

/-- An access that had asked for its lines has ended: an invalidation that waits for it is acknowledged (R332). -/
def State.accessEnded (s t : State) (p : Nat) (h : HenIx) : State := if (s.hen p h).kept.isEmpty then t else t.checkInvs p

/-- The lines that an element of n bytes touches. -/
def spotLines (n : Nat) (e : Nat × Nat) : List LineNo := (spots n e).flatMap fun x => linesOf x.1 x.2

/-- The address of the portion of an element at va that lies in a refused line: its first byte, or the start of its second line
(R112). -/
def portionVa (va : Word) (first : Bool) : Word := if first then va else (va ||| 63) + 1

/-- An access of n bytes at each address of vas: commit sees the physical addresses
of the first and last byte of each element reached, whose lines are all in the state
that the access needs; part tells how many elements came before an exception. done then retires the instruction. An element
whose line is refused takes its exception, trap, once the elements before it are performed: k of them, with the cause and the
address of the faulting portion (R112). -/
def State.access (s : State) (p : Nat) (h : HenIx) (i : Instr) (acc : Acc) (own : Bool) (ref : Refused) (vas : List Word) (n : Nat)
    (commit : State → List (Nat × Nat) → State) (part : State → Nat → State) (done : State → State)
    (trap : State → Nat → Nat → Word → State := fun s _ cause va => s.raise p h cause va) : State :=
  let (pas, stop) := s.xlatAll p h acc vas
  -- the last byte of an element may lie in another page than its first
  let (ends, stop2) := s.xlatAll p h acc ((vas.take pas.length).map fun v => v + BitVec.ofNat 64 (n - 1))
  let k := min pas.length ends.length
  let spans := (pas.zip ends).take k
  let ok (l : LineNo) : Bool := let st := (s.agent p l).st; if own then st.writable else st.readable
  let missing (es : List (Nat × Nat)) : List LineNo := (es.flatMap (spotLines n)).filter fun l => !ok l
  let kept : List KeptPage := if (s.hen p h).physical acc then [] else
    (vas.zip spans).flatMap fun e => [s.keep p h e.1 e.2.1, s.keep p h (e.1 + BitVec.ofNat 64 (n - 1)) e.2.2]
  let hold (s : State) : State := s.setHen p h { s.hen p h with kept }
  let want (ls : List LineNo) : State := hold <| (ls.foldl (fun s l => if acc = .lr then s.wantReserved p l else if own then s.wantWrite p l else s.wantRead p l false) s).wait p h i
  -- the first j elements are performed
  let first (s : State) (j : Nat) : State := part (if j = 0 then s else commit s (spans.take j)) j
  match missing spans with
  | [] =>
    -- the portion in an element's second page begins with that page
    match (if k < pas.length then stop2.map fun e => (e.1 &&& ~~~4095#64, e.2) else stop) with
    | none => s.accessEnded (done (commit s spans)) p h
    | some (va, none) => s.accessEnded (trap (first s k) k acc.cause va) p h
    | some (_, some t) => if k = 0 then t.wait p h i else (first t k).wait p h i
  | l :: rest =>
    match ref with
    | none => want (l :: rest)
    | some (bad, code) =>
      match (span 0 k).find? fun j => (spotLines n (nth (0, 0) spans j)).contains bad with
      | none => s.wait p h i
      | some j =>
        match missing (spans.take j) with
        | [] => s.accessEnded (trap (first s j) j (acc.refusedCause code) (portionVa (nth 0 vas j) (lineNo (nth (0, 0) spans j).1 == bad))) p h
        | ls => want ls

/-! Loads and stores. -/

/-- Bytes that a scalar load reads, how it writes its register, and whether it is floating point. -/
def scalarLoad (k : LoadKind) : Option (Nat × (Hen → Reg → Nat → Hen) × Bool) :=
  match k with
  | .b => some (1, fun x r v => x.setX r (sext 8 v), false)
  | .h => some (2, fun x r v => x.setX r (sext 16 v), false)
  | .w => some (4, fun x r v => x.setX r (sext 32 v), false)
  | .d => some (8, fun x r v => x.setX r (BitVec.ofNat 64 v), false)
  | .bu => some (1, fun x r v => x.setX r (BitVec.ofNat 64 v), false)
  | .hu => some (2, fun x r v => x.setX r (BitVec.ofNat 64 v), false)
  | .wu => some (4, fun x r v => x.setX r (BitVec.ofNat 64 v), false)
  | .flh => some (2, fun x r v => x.setFp .h r v, true)
  | .flw => some (4, fun x r v => x.setFp .s r v, true)
  | .fld => some (8, fun x r v => x.setFp .d r v, true)
  | .vec .. => none

def scalarStore (k : StoreKind) : Option (Nat × (Hen → Reg → Nat) × Bool) :=
  match k with
  | .b => some (1, fun x r => (x.getX r).toNat, false)
  | .h => some (2, fun x r => (x.getX r).toNat, false)
  | .w => some (4, fun x r => (x.getX r).toNat, false)
  | .d => some (8, fun x r => (x.getX r).toNat, false)
  | .fsh => some (2, fun x r => (x.getF r).toNat, true)
  | .fsw => some (4, fun x r => (x.getF r).toNat, true)
  | .fsd => some (8, fun x r => (x.getF r).toNat, true)
  | .vec .. => none

/-- The elements of a vector access (V 1.0): element, field, register of the field's group, log2 of its bytes, address. -/
structure VElem where
  i : Nat
  reg : Nat
  lg : Nat
  va : Word

/-- log2 of the registers of a group of elements of 2^lg bytes under the current SEW and LMUL, as a signed number. -/
def Hen.emul (x : Hen) (lg : Nat) : Int :=
  let l := bfield x.vtype 0 3
  (lg : Int) - x.sewLog + (if l < 4 then (l : Int) else (l : Int) - 8)

/-- The active elements from vstart on: none where the instruction is illegal. v is the first data register. -/
def Hen.vecElems (x : Hen) (m : VecMode) (eew nf : Nat) (masked : Bool) (v : Reg) (base : Word) : Option (List VElem) :=
  let st := x.vstart.toNat
  let active (i : Nat) : Bool := !masked || (x.getV 0).getLsbD i
  let fields := nf + 1
  let run (lg : Nat) (n : Nat) (regs : Nat) (addr : Nat → Nat → Word) : List VElem :=
    ((span st (n - st)).filter active).flatMap fun i => (span 0 fields).map fun f =>
      { i, reg := v.val + f * regs, lg, va := addr i f }
  let group (lg : Nat) : Option Nat :=
    let e := x.emul lg
    if e > 3 ∨ e < -3 then none
    else
      let regs := if e ≤ 0 then 1 else 2 ^ e.toNat
      if regs * fields > 8 ∨ v.val % regs ≠ 0 ∨ v.val + regs * fields > 32 ∨ (masked ∧ v.val = 0) then none else some regs
  if x.vsOff then none
  else match m with
  | .whole =>
    if fields ≠ 1 ∧ fields ≠ 2 ∧ fields ≠ 4 ∧ fields ≠ 8 ∨ v.val % fields ≠ 0 then none
    else
      let n := fields * (64 / 2 ^ eew)
      some ((span st (n - st)).map fun i => { i, reg := v.val, lg := eew, va := base + BitVec.ofNat 64 (i * 2 ^ eew) })
  | .mask =>
    if x.vill then none
    else
      let n := ceilDiv x.vl.toNat 8
      some ((span st (n - st)).map fun i => { i, reg := v.val, lg := 0, va := base + BitVec.ofNat 64 i })
  | .unit | .faultFirst =>
    if x.vill then none
    else (group eew).map fun regs => run eew x.vl.toNat regs fun i f => base + BitVec.ofNat 64 ((i * fields + f) * 2 ^ eew)
  | .strided rs2 =>
    if x.vill then none
    else (group eew).map fun regs => run eew x.vl.toNat regs fun i f =>
      base + BitVec.ofNat 64 i * x.getX rs2 + BitVec.ofNat 64 (f * 2 ^ eew)
  | .indexed vs2 ieew =>
    let lg := x.sewLog
    let ie := x.emul ieew.val
    if x.vill ∨ ie > 3 ∨ ie < -3 ∨ vs2.val % (if ie ≤ 0 then 1 else 2 ^ ie.toNat) ≠ 0 then none
    else (group lg).map fun regs => run lg x.vl.toNat regs fun i f =>
      base + BitVec.ofNat 64 (x.getElem vs2 ieew.val i) + BitVec.ofNat 64 (f * 2 ^ lg)

/-- LOAD once the fetch is done. -/
def State.loadBody (s : State) (p : Nat) (h : HenIx) (i : Instr) (ref : Refused) (c : Bool) (k : LoadKind) (rd rs1 : Reg)
    (imm : BitVec 12) : State :=
  let x := s.hen p h
  let len := if c then 2 else 4
  match k with
  | .vec m eew nf masked =>
    match x.vecElems m eew.val nf.val masked rd (x.getX rs1) with
    | none => s.raise p h causeIllegal 0
    | some el =>
      let n := 2 ^ (match el with | e :: _ => e.lg | [] => 0)
      s.access p h i .load false ref (el.map (·.va)) n
        (fun s pas => s.setHen p h ((el.zip pas).foldl (fun y e =>
          y.setElem e.1.reg e.1.lg e.1.i (leNat (s.spotRead p n e.2))) (s.hen p h)))
        (fun s k => s.setHen p h { s.hen p h with vstart := match el[k]? with
          | some e => BitVec.ofNat 64 e.i
          | none => (s.hen p h).vstart })
        (fun s => s.done p h len fun y => { y with vstart := 0 })
        (fun s k cause va =>
          let e := match el[k]? with
            | some e => e.i
            | none => 0
          -- a fault-only-first load traps on element 0 alone: another element's fault ends the load there (V 1.0)
          if m = .faultFirst ∧ e ≠ 0 then s.done p h len fun y => { y with vl := BitVec.ofNat 64 e, vstart := 0 }
          else s.raise p h cause va)
  | k =>
    match scalarLoad k with
    | none => s
    | some (n, put, fp) =>
      if fp && x.fsOff then s.raise p h causeIllegal 0
      else s.access p h i .load false ref [addImm (x.getX rs1) imm] n
        (fun s pas => s.setHen p h (put (s.hen p h) rd (leNat (s.spotRead p n (nth (0, 0) pas 0)))))
        (fun s _ => s) (fun s => s.done p h len id)

/-- STORE once the fetch is done. -/
def State.storeBody (s : State) (p : Nat) (h : HenIx) (i : Instr) (ref : Refused) (c : Bool) (k : StoreKind) (rs2 rs1 : Reg)
    (imm : BitVec 12) : State :=
  let x := s.hen p h
  let len := if c then 2 else 4
  match k with
  | .vec m eew nf masked =>
    match (if m = .faultFirst then none else x.vecElems m eew.val nf.val masked rs2 (x.getX rs1)) with
    | none => s.raise p h causeIllegal 0
    | some el =>
      let n := 2 ^ (match el with | e :: _ => e.lg | [] => 0)
      s.access p h i .store true ref (el.map (·.va)) n
        (fun s pas => s.released ((el.zip pas).foldl (fun s e => s.spotWrite p h n e.2 (natBytes n (x.getElem e.1.reg e.1.lg e.1.i))) s) p)
        (fun s k => s.setHen p h { s.hen p h with vstart := match el[k]? with
          | some e => BitVec.ofNat 64 e.i
          | none => (s.hen p h).vstart })
        (fun s => s.done p h len fun y => { y with vstart := 0 })
  | k =>
    match scalarStore k with
    | none => s
    | some (n, get, fp) =>
      if fp && x.fsOff then s.raise p h causeIllegal 0
      else s.access p h i .store true ref [addImm (x.getX rs1) imm] n
        (fun s pas => s.released (s.spotWrite p h n (nth (0, 0) pas 0) (natBytes n (get x rs2))) p)
        (fun s _ => s) (fun s => s.done p h len id)

/-! Atomics. -/

/-- The predictor's counter of an address (R304). -/
def predIndex (a : Nat) : Nat := field a 6 12 ^^^ field a 18 12
def Cell.predAt (c : Cell) (a : Nat) : Nat := (tget 1 c.pred (predIndex a)).toNat
def Cell.learn (c : Cell) (a : Nat) (up : Bool) : Cell :=
  let v := c.predAt a
  { c with pred := tset 1 c.pred (predIndex a) (BitVec.ofNat 2 (if up then min 3 (v + 1) else v - 1)) }

def amoCode : AmoOp → Nat
  | .swap => 1 | .add => 2 | .and => 3 | .or => 4 | .xor => 5 | .max => 6 | .min => 7 | .maxu => 8 | .minu => 9

/-- The AMO body that a Hen sends (R302). -/
def amoBody (op : AmoOp) (dbl : Bool) (a : Nat) (v : Word) : BitVec 192 :=
  let n := if dbl then 8 else 4
  BitVec.ofNat 192 (amoCode op + 2 ^ 15 + (if dbl then 3 else 2) * 2 ^ 8 + a % 64 * 2 ^ 16 + v.toNat % 2 ^ (8 * n) * 2 ^ 64)

/-- Whether an AMO is executed far (R299). -/
def State.amoFarHere (s : State) (p a : Nat) : Bool :=
  if s.isMule a then true
  else if s.ownerOrdered (lineNo a) then false
  else if s.coh.predMode = 1 then false
  else if s.coh.predMode = 2 then true
  else decide ((s.cell p).predAt a ≥ 2)

/-- The predictor chose the AMO's way. -/
def State.predictorChose (s : State) (a : Nat) : Bool := s.coh.predMode == 0 && !s.isMule a && !s.ownerOrdered (lineNo a)

def State.learn (s : State) (p a : Nat) (up : Bool) : State :=
  if s.predictorChose a then s.setCell p ((s.cell p).learn a up) else s

/-- AMO once the fetch is done (R83, R168, R299 to R305). aq and rl order nothing further in a model that performs a Hen's
accesses in program order. -/
def State.amoRun (s : State) (p : Nat) (h : HenIx) (i : Instr) (ref : Refused) (op : AmoOp) (dbl : Bool) (rd rs1 rs2 : Reg) : State :=
  let x := s.hen p h
  let n := if dbl then 8 else 4
  let va := x.getX rs1
  if va.toNat % n ≠ 0 then s.raise p h causeStoreMis va
  else match s.xlat p h .amo va with
  | .fail => s.raise p h causeStoreFault va
  | .miss t => t.wait p h i
  | .ok a =>
    let l := lineNo a
    if x.amoChoice = 2 then
      match ref with
      | some (bad, code) =>
        if bad = l then
          let c := s.cell p
          let s := s.setCell p { c with far := dropWhere (fun f => f.1 == h.val && f.2.1 == l) c.far }
          (s.setHen p h { s.hen p h with amoChoice := 0 }).raise p h (Acc.amo.refusedCause code) va
        else s.wait p h i
      | none => s.wait p h i
    else if (x.amoChoice = 0 ∧ s.amoFarHere p a) ∨ s.isMule a then
      if !s.mayRequest p then s.wait p h i
      else
        let c := s.cell p
        let xlt := if x.physical .amo then none else some (s.pasidOf p, va.toNat, (s.cell p).pageLg (s.pasidOf p) (va.toNat % 2 ^ 57))
        let s := s.setCell p { c with far := c.far ++ [(h.val, l, xlt)] }
        let s := s.setHen p h { s.hen p h with amoChoice := 2 }
        (s.request p l (.amoFar p l (amoBody op dbl a (x.getX rs2)))).wait p h i
    else
      let missed := !(s.agent p l).st.writable
      let s' := if missed then s.setHen p h { x with amoChoice := 1 } else s
      s'.access p h i .amo true ref [va] n
        (fun s _ =>
          let d := (s.agent p l).data
          let (d', v) := amoLine (amoBody op dbl a (x.getX rs2)) d
          let s := s.learn p a (x.amoChoice = 1 && (s.agent p l).cont)
          let s := s.released (s.cellWriteLine p h l (a % 64) (lineGet d' (a % 64) n)) p
          s.setHen p h { ((s.hen p h).setX rd (if dbl then BitVec.ofNat 64 v else sext 32 v)) with amoChoice := 0 })
        (fun s _ => s) (fun s => s.done p h 4 id)

/-- LR once the fetch is done (R168, R296). -/
def State.lrBody (s : State) (p : Nat) (h : HenIx) (i : Instr) (ref : Refused) (dbl : Bool) (rd rs1 : Reg) : State :=
  let x := s.hen p h
  let n := if dbl then 8 else 4
  let va := x.getX rs1
  if va.toNat % n ≠ 0 then s.raise p h causeLoadMis va
  else match s.xlat p h .lr va with
  | .fail => s.raise p h causeLoadFault va
  | .miss t => t.wait p h i
  | .ok a =>
    if s.isMule a then s.raise p h causeLoadFault va
    else s.access p h i .lr true ref [va] n
      (fun s _ =>
        let v := leNat (s.cellRead p a n)
        s.released (s.setHen p h { ((s.hen p h).setX rd (if dbl then BitVec.ofNat 64 v else sext 32 v)) with
          reserved := some (lineNo a), lrDefer := some (lineNo a) }) p)
      (fun s _ => s) (fun s => s.done p h 4 id)

/-- SC once the fetch is done (R90, R168, R296): the reservation is cleared either way, and the deferral ends. -/
def State.scBody (s : State) (p : Nat) (h : HenIx) (i : Instr) (ref : Refused) (dbl : Bool) (rd rs1 rs2 : Reg) : State :=
  let x := s.hen p h
  let n := if dbl then 8 else 4
  let va := x.getX rs1
  let clear (s : State) : State :=
    let old := (s.hen p h).lrDefer
    let s := s.setHen p h { s.hen p h with reserved := none, lrDefer := none }
    match old with
    | some l => s.drainDeferred p l
    | none => s
  if va.toNat % n ≠ 0 then s.raise p h causeStoreMis va
  else match s.xlat p h .sc va with
  | .fail => s.raise p h causeStoreFault va
  | .miss t => t.wait p h i
  | .ok a =>
    if s.isMule a then s.raise p h causeStoreFault va
    else if x.reserved ≠ some (lineNo a) then clear (s.done p h 4 fun y => y.setX rd 1)
    else s.access p h i .sc true ref [va] n
      (fun s _ =>
        let s := s.released (s.cellWrite p h a (natBytes n (x.getX rs2).toNat)) p
        s.setHen p h ((s.hen p h).setX rd 0))
      (fun s _ => s) (fun s => clear (s.done p h 4 id))

/-! Cache block operations (R87). -/

/-- The three operations. -/
inductive Cbo where
  | flush | clean | inval
  deriving DecidableEq, Repr

/-- A cache block operation once the fetch is done: it waits while the line is in motion. In U mode CBO.INVAL flushes. -/
def State.cboBody (s : State) (p : Nat) (h : HenIx) (i : Instr) (o : Cbo) (rs1 : Reg) : State :=
  let x := s.hen p h
  let va := x.getX rs1
  let look := match s.xlat p h .load va with
    | .fail => s.xlat p h .store va
    | r => r
  match look with
  | .fail => s.raise p h causeStoreFault va
  | .miss t => t.wait p h i
  | .ok a =>
    let l := lineNo a
    if !s.holdsMemory a || !s.mayAccess (s.partOfCell p) a then s.raise p h causeStoreFault va
    else if !s.quiet l || s.agents.any fun e => e.1 / 2048 == l.toNat && e.1 % 2048 != p && s.defers (e.1 % 2048) l then s.wait p h i
    else
      let s := match o with
        | .flush => s.flushLine l false (s.cell p).slot.toNat
        | .clean => s.cleanLine l (s.cell p).slot.toNat
        | .inval => s.flushLine l x.mmode (s.cell p).slot.toNat
      s.done p h 4 id

/-! Stalled accesses go on. -/

/-- Bytes of an instruction in which a Hen can stall. -/
def Instr.henLen : Instr → Nat
  | .load _ _ c _ _ _ _ => if c then 2 else 4
  | .store _ _ c _ _ _ _ => if c then 2 else 4
  | _ => 4

/-- A stalled access of a Hen tried again, its fetch included. -/
def State.retryHen (s : State) (p : Nat) (h : HenIx) (ref : Refused) : State :=
  let x := s.hen p h
  let t := s.setHen p h x.unstall
  match x.stall with
  | none => s
  | some i =>
  if x.interruptible then s
  else match s.fetch p h x.pc (Instr.henLen i) with
  | .fail va => t.raise p h causeFetchFault va
  | .miss u => u
  | .ok runs =>
  if x.fetchWait && runs.any (fun r => s.modified x r.1 r.2) then s
  else match x.stall with
  | some (.load q g c k rd rs1 imm) => t.loadBody p h (.load q g c k rd rs1 imm) ref c k rd rs1 imm
  | some (.store q g c k rs2 rs1 imm) => t.storeBody p h (.store q g c k rs2 rs1 imm) ref c k rs2 rs1 imm
  | some (.amo q g op dbl aq rl rd rs1 rs2) => t.amoRun p h (.amo q g op dbl aq rl rd rs1 rs2) ref op dbl rd rs1 rs2
  | some (.lr q g dbl rd rs1) => t.lrBody p h (.lr q g dbl rd rs1) ref dbl rd rs1
  | some (.sc q g dbl rd rs1 rs2) => t.scBody p h (.sc q g dbl rd rs1 rs2) ref dbl rd rs1 rs2
  | some (.cboFlush q g rs1) => t.cboBody p h (.cboFlush q g rs1) .flush rs1
  | some (.cboClean q g rs1) => t.cboBody p h (.cboClean q g rs1) .clean rs1
  | some (.cboInval q g rs1) => t.cboBody p h (.cboInval q g rs1) .inval rs1
  | _ => s

/-- Every stalled access of a cell tried again. -/
def State.retryCell (s : State) (p : Nat) (ref : Refused) : State :=
  (((s.retryHen p 0 ref).retryHen p 1 ref).retryHen p 2 ref).retryHen p 3 ref

/-- The Hen is stalled in a load. -/
def Hen.loads (x : Hen) : Bool := match x.stall with
  | some (.load ..) => true
  | _ => false

/-- The stalled loads of a cell tried again. -/
def State.retryLoads (s : State) (p : Nat) : State :=
  (span 0 4).foldl (fun s h => if hh : h < 4 then (if (s.hen p ⟨h, hh⟩).loads then s.retryHen p ⟨h, hh⟩ none else s) else s) s

/-- The access that the Hen has in progress, tried again without a refusal. -/
def State.agentWon (s : State) (a : Nat) (l : LineNo) : State :=
  let s := if isCellEp a then s.retryCell a none else s
  s.drainDeferred a l

/-! The rows. -/

/-- LOAD (R80, R83, R284). -/
def execLoad (p : Pcell) (h : HenIx) (c : Bool) (k : LoadKind) (rd rs1 : Reg) (imm : BitVec 12) (s : State) : Out :=
  let i := Instr.load p h c k rd rs1 imm
  s.henStep p h i (if c then 2 else 4) fun s => .next (s.loadBody p h i none c k rd rs1 imm)

/-- STORE (R80, R83, R284). -/
def execStore (p : Pcell) (h : HenIx) (c : Bool) (k : StoreKind) (rs2 rs1 : Reg) (imm : BitVec 12) (s : State) : Out :=
  let i := Instr.store p h c k rs2 rs1 imm
  s.henStep p h i (if c then 2 else 4) fun s => .next (s.storeBody p h i none c k rs2 rs1 imm)

/-- AMO (R83, R299 to R305). -/
def execAmo (p : Pcell) (h : HenIx) (op : AmoOp) (dbl aq rl : Bool) (rd rs1 rs2 : Reg) (s : State) : Out :=
  let i := Instr.amo p h op dbl aq rl rd rs1 rs2
  s.henStep p h i 4 fun s => .next (s.amoRun p h i none op dbl rd rs1 rs2)

/-- LR (R90, R296). -/
def execLr (p : Pcell) (h : HenIx) (dbl : Bool) (rd rs1 : Reg) (s : State) : Out :=
  let i := Instr.lr p h dbl rd rs1
  s.henStep p h i 4 fun s => .next (s.lrBody p h i none dbl rd rs1)

/-- SC (R90, R296). -/
def execSc (p : Pcell) (h : HenIx) (dbl : Bool) (rd rs1 rs2 : Reg) (s : State) : Out :=
  let i := Instr.sc p h dbl rd rs1 rs2
  s.henStep p h i 4 fun s => .next (s.scBody p h i none dbl rd rs1 rs2)

/-- LR_DEFERRAL_END (R296): 64 cell cycles after the LR completed. -/
def execLrDeferralEnd (p : Pcell) (line : LineNo) (s : State) : Out := s.onClock p fun s =>
  let c := s.cell p
  let s := s.setCell p { c with hens := c.hens.map fun x => if x.lrDefer = some line then { x with lrDefer := none } else x }
  .next ((s.drainDeferred p line).retryCell p none)

/-- CBO_FLUSH (R87). -/
def execCboFlush (p : Pcell) (h : HenIx) (rs1 : Reg) (s : State) : Out :=
  s.henStep p h (.cboFlush p h rs1) 4 fun s => .next (s.cboBody p h (.cboFlush p h rs1) .flush rs1)
/-- CBO_CLEAN (R87). -/
def execCboClean (p : Pcell) (h : HenIx) (rs1 : Reg) (s : State) : Out :=
  s.henStep p h (.cboClean p h rs1) 4 fun s => .next (s.cboBody p h (.cboClean p h rs1) .clean rs1)
/-- CBO_INVAL (R87). -/
def execCboInval (p : Pcell) (h : HenIx) (rs1 : Reg) (s : State) : Out :=
  s.henStep p h (.cboInval p h rs1) 4 fun s => .next (s.cboBody p h (.cboInval p h rs1) .inval rs1)

/-- FENCE (R110): a Hen's accesses are performed in program order here, so nothing is left to order. -/
def execFence (p : Pcell) (h : HenIx) (pred succ : BitVec 4) (s : State) : Out :=
  s.henStep p h (.fence p h pred succ) 4 fun s => .next (s.done p h 4 id)

/-- FENCE_I (R88): the Hen's I-cache has seen every write so far. Its own fetch may meet modified code only as R89 says. -/
def execFenceI (p : Pcell) (h : HenIx) (s : State) : Out :=
  s.henStep p h (.fenceI p h) 4 fun s => .next (s.done p h 4 fun x => { x with fenceSeq := s.writeSeq - 1 })

end Sys2Proof.Machine
end

