-- ==== Sys2Proof/Machine/Steps.lean ====
section
/-! DEFINITION. Contexts and their steps (R355 to R369, R379 to R392), semaphores (R405 to R411), stopping cells, teardown of a
context (R375, R413), and the FAULT message (R463 to R466). -/
namespace Sys2Proof.Machine

/-! Step descriptors (R358). -/

def stKind (d : BitVec 2048) : Nat := bfield d 0 8
def stEvent (d : BitVec 2048) : Bool := d.getLsbD 8
def stClass (d : BitVec 2048) : Nat := bfield d 16 8
def stWaits (d : BitVec 2048) : Nat := bfield d 24 8
def stSignals (d : BitVec 2048) : Nat := bfield d 32 8
def stShape (d : BitVec 2048) : Nat := bfield d 40 8
/-- ARG_ADDR (R355). -/
def stArg (d : BitVec 2048) : Word := BitVec.ofNat 64 (bfield d 320 64)
def stProgram (d : BitVec 2048) : Nat := bfield d 64 64
def stFrames (d : BitVec 2048) : Nat := bfield d 128 32
def stTimeoutMs (d : BitVec 2048) : Nat := if bfield d 160 32 = 0 then 2000 else bfield d 160 32
def stDeadline (d : BitVec 2048) : Nat := bfield d 192 64
def stCookie (d : BitVec 2048) : BitVec 32 := BitVec.ofNat 32 (bfield d 288 32)
def stWait (d : BitVec 2048) (i : Nat) : Nat × Word := (bfield d (512 + 128 * i) 20, BitVec.ofNat 64 (bfield d (576 + 128 * i) 64))
def stSignal (d : BitVec 2048) (i : Nat) : Nat × Word :=
  (bfield d (1024 + 128 * i) 20, BitVec.ofNat 64 (bfield d (1088 + 128 * i) 64))

/-- The signals and waits that are acted on. -/
def stSignalList (d : BitVec 2048) : List (Nat × Word) := (span 0 (min (stSignals d) 4)).map (stSignal d)
def stWaitList (d : BitVec 2048) : List (Nat × Word) := (span 0 (min (stWaits d) 4)).map (stWait d)

/-- The descriptor breaks the table of R358. -/
def stMalformed (d : BitVec 2048) : Bool :=
  let k := stKind d
  let nz (lo w : Nat) : Bool := bfield d lo w != 0
  let used (base n : Nat) : Bool := (span 0 4).any fun i =>
    if i < n then nz (base + 128 * i + 20) 44 else nz (base + 128 * i) 128
  k == 0 || decide (k > 2) || nz 10 6 || decide (stClass d > 15) || decide (stWaits d > 4) || decide (stSignals d > 4) || nz 56 8
    || (k == 1 && (stProgram d % 4096 != 0 || stFrames d == 0)) || (k == 2 && (nz 64 64 || nz 128 32))
    || decide (bfield d 160 32 > 600000) || nz 272 16 || nz 384 128 || used 512 (stWaits d) || used 1024 (stSignals d) || nz 1536 512

/-! Contexts. -/

def State.ctxSlot (s : State) (k : Nat) : Option Nat :=
  let n := (tget 63 s.host.handles (s.ctx k).handle).toNat
  if (s.ctx k).valid && n < 48 then some n else none

def State.ctxPart (s : State) (k : Nat) : Nat := (s.slice (s.ctx k).slice).partition.toNat

/-- The step names a fence that is not valid (R364). -/
def State.stFenceBad (s : State) (q : Nat) (d : BitVec 2048) : Bool :=
  (stWaitList d ++ stSignalList d).any fun e => !(s.fence q e.1).valid

/-- R358 and R364 for a step of a context. -/
def State.stepBadFields (s : State) (k : Nat) (d : BitVec 2048) : Bool := stMalformed d || s.stFenceBad (s.ctxPart k) d

/-- Every WAIT action that names a valid fence is reached (R369). -/
def State.waitsReached (s : State) (k : Nat) (d : BitVec 2048) : Bool :=
  let q := s.ctxPart k
  (stWaitList d).all fun e => let x := s.fence q e.1; !x.valid || waitMet x.value e.2

/-- The state of a context (R379): none where it does not exist. -/
def State.ctxState (s : State) (k : Nat) : Option CtxState :=
  let c := s.ctx k
  if !c.valid then none
  else match c.held with
    | some h => some h
    | none => match s.ctxSlot k, c.step with
      | none, _ => some .unbound
      | some _, some st => some (if st.ready then .ready else .waiting)
      | some _, none => some (if c.head == c.tail then .empty else .waiting)

/-- Contexts bound to a slot, rising. -/
def State.ctxsOf (s : State) (n : Nat) : List Nat := (s.host.ctxs.map (·.1)).filter fun k => s.ctxSlot k == some n

/-- VMIN (R387). -/
def State.vmin (s : State) (n : Nat) : Nat :=
  let l := (s.ctxsOf n).filter fun k => match s.ctxState k with
    | some .ready | some .running | some .spilled | some .paged => true
    | _ => false
  match l with
  | [] => match (s.slotSched n).lastRun with
    | some k => (s.ctx k).vt.toNat
    | none => (s.slotSched n).lastVt.toNat
  | k :: r => r.foldl (fun m j => min m (s.ctx j).vt.toNat) (s.ctx k).vt.toNat

/-- The TARGETs that a step read from a ring raises (R368). -/
def State.raiseTargets (s : State) (k : Nat) (d : BitVec 2048) : State :=
  let q := s.ctxPart k
  (stSignalList d).foldl (fun s e => s.fenceTarget q e.1 k e.2) s

def Context.stepAddr (c : Context) (n : BitVec 32) : Nat := c.ringBase.toNat + n.toNat % 2 ^ c.ringLog2 * 256

/-- The next step of a bound context is read once (R356). -/
def State.readStep (s : State) (k : Nat) : State :=
  let c := s.ctx k
  if !c.valid || c.closing || c.step.isSome || c.head == c.tail || (s.ctxSlot k).isNone then s
  else
    let d : BitVec 2048 := ofBytes 2048 (s.partRead (s.ctxPart k) (c.stepAddr c.head) 256)
    let s := s.partTouch (s.ctxPart k) (c.stepAddr c.head) 256
    (s.setCtx k { c with step := some { desc := d, num := c.head }, head := c.head + 1 }).raiseTargets k d

/-- The slot is parked or unparked by its dispatch core (R381). -/
def State.parkBit (s : State) (n : Nat) (b : Bool) : State :=
  let g := s.stage
  let has := g.park.testBit n
  { s with stage := { g with park := if b && !has then g.park + 2 ^ n else if !b && has then g.park - 2 ^ n else g.park } }

/-- A STEP_DONE record (R369). -/
def State.stepDone (s : State) (k : Nat) (st : StepRec) : State :=
  if stEvent st.desc then
    s.event (s.ctx k).slice { cookie := stCookie st.desc, kind := evStepDone, flags := 0, ctx := BitVec.ofNat 16 k
                              value := BitVec.ofNat 64 st.num.toNat, fence := 0 }
  else s

/-- The SIGNAL actions of a step, in order (R369). -/
def State.doSignals (s : State) (k : Nat) (d : BitVec 2048) : State :=
  let q := s.ctxPart k
  (stSignalList d).foldl (fun s e => s.fenceSignal q e.1 e.2) s

/-! Semaphores (R405 to R411). -/

def semKey (n i : Nat) : Nat := n * 128 + i
def State.sem (s : State) (key : Nat) : Semaphore := tget {} s.sched.sems key
def State.setSem (s : State) (key : Nat) (x : Semaphore) : State :=
  { s with sched := { s.sched with sems := tset {} s.sched.sems key x } }

/-- The pcell on which an lcell runs for a context of a slot: placed, or resumed on an inheritance cell (R409). -/
def State.cellForL (s : State) (n k : Nat) (l : BitVec 27) : Option Nat :=
  if (s.ctx k).held == some .holding then (s.cells.find? fun e => e.2.heldBy == some k && e.2.lcell == l).map (·.1) else s.placed n l

/-- The context is RUNNING or HOLDING on the slot: replies reach its cells (R408). -/
def State.ctxOnCells (s : State) (n k : Nat) : Bool :=
  ((s.slotSched n).running == some k && (s.ctx k).held == some .running) || (s.ctx k).held == some .holding

/-- One reply at its unit: it leaves for the cell of its lcell, unless its context does not run, its time has not come, or an earlier reply to
its Hen waits (R156, R408). -/
def State.replyGo (x : State × List (Bool × Nat × Nat × GigMsg)) (e : Bool × Nat × Nat × GigMsg) : State × List (Bool × Nat × Nat × GigMsg) :=
  let (s, kept) := x
  let (_, k, due, m) := e
  let n := m.coach.toNat
  let waits := kept.any fun y => y.2.1 == k && y.2.2.2.dst == m.dst && y.2.2.2.dstHen == m.dstHen
  if waits || decide (s.tick < due) || !s.ctxOnCells n k then (s, kept ++ [e])
  else match s.cellForL n k (BitVec.ofNat 27 m.dst.toNat) with
    | some p => if h : p < 1152 then (s.send (.semReply ⟨p, h⟩ m), kept) else (s, kept ++ [e])
    | none => (s, kept ++ [e])

/-- The units send every reply that may leave, in order. -/
def State.replyPump (s : State) : State :=
  let (t, kept) := s.sched.replies.foldl State.replyGo (s, [])
  { t with sched := { t.sched with replies := kept } }

/-- A SEM_REPLY (R406): sent at once, or kept until the context runs (R408). m is the operation, its SRC already an lcell. -/
def State.semReply (s : State) (east : Bool) (n k : Nat) (m : GigMsg) (i value status : Nat) : State :=
  let r : GigMsg := { type := 2, src := BitVec.ofNat 28 (2 ^ 27 + epSem east), dst := m.src, coach := BitVec.ofNat 6 n, srcHen := 0
                      dstHen := m.srcHen, payload := BitVec.ofNat 48 (i * 2 ^ 41 + value * 2 ^ 8 + status) }
  ({ s with sched := { s.sched with replies := s.sched.replies ++ [(east, k, 0, r)] } } : State).replyPump

def Semaphore.room (x : Semaphore) (k : Nat) : Bool := x.holders.any (·.1 == k) || decide (x.holders.length < 8)

/-- One unit granted to a context's lcell. -/
def Semaphore.grant (x : Semaphore) (k : Nat) (l : BitVec 27) : Semaphore :=
  let h := if x.holders.any (·.1 == k) then x.holders.map fun e => if e.1 = k then (k, e.2 + 1) else e else x.holders ++ [(k, 1)]
  { x with value := x.value - 1, holders := h, grants := x.grants ++ [(k, l)] }

/-- Waiters at the head of a semaphore's FIFO granted in turn (R407). -/
def State.semGrant (s : State) (n i : Nat) : Nat → State
  | 0 => s
  | f + 1 =>
    let x := s.sem (semKey n i)
    match x.waiters with
    | [] => s
    | (k, m) :: rest =>
      if x.value ≠ 0 ∧ x.room k then
        let y := { x with waiters := rest }.grant k (BitVec.ofNat 27 m.src.toNat)
        ((s.setSem (semKey n i) y).semReply (decide (i ≥ 64)) n k m i y.value.toNat 0).semGrant n i f
      else s

/-- A torn-down context leaves every semaphore (R411). -/
def State.semRemove (s : State) (k : Nat) : State :=
  (s.sched.sems.map (·.1)).foldl (fun s key =>
    let x := s.sem key
    let held := x.holders.foldl (fun t e => if e.1 = k then t + e.2 else t) 0
    let y := { x with
      value := BitVec.ofNat 8 (satAdd 8 x.value.toNat held)
      holders := x.holders.filter (·.1 != k), grants := x.grants.filter (·.1 != k), waiters := x.waiters.filter (·.1 != k) }
    let s := s.setSem key y
    if y.waiters.isEmpty then s else s.semGrant (key / 128) (key % 128) y.waiters.length)
    { s with sched := { s.sched with replies := s.sched.replies.filter fun e => e.2.1 != k } }

/-! Stopping cells. -/

/-- SCALE of a class (R414). -/
def State.classScale (s : State) (c : Nat) : Nat := bfield (tget 0x10000000000 s.sched.classes c) 40 8
def State.classSlack (s : State) (c : Nat) : Nat := bfield (tget 0x10000000000 s.sched.classes c) 0 40

/-- The charge of the running step of a slot (R386). -/
def State.charge (s : State) (n : Nat) : State :=
  match s.runningCtx n with
  | none => s
  | some k =>
    let c := s.ctx k
    match c.step with
    | none => s
    | some st =>
      let amount := st.busy * 65536 / (c.weight * s.classScale (stClass st.desc))
      s.setCtx k { c with vt := c.vt + BitVec.ofNat 64 amount, step := some { st with busy := 0 } }

/-- The step's command timeout counts on, or is paused (R385). -/
def StepRec.count (st : StepRec) (now : Nat) : Nat := st.counted + (match st.since with
  | some t => now - t
  | none => 0)
def StepRec.pause (st : StepRec) (now : Nat) : StepRec := { st with counted := st.count now, since := none }

/-- A cell stops as at a stop boundary (R397). -/
def Cell.stop (c : Cell) : Cell :=
  { c with
    ran := (span 0 4).foldl (fun m i => match c.hens[i]? with
      | some x => if x.run then m + 2 ^ i else m
      | none => m) 0
    hens := c.hens.map Hen.halted, ox := c.ox.freeze, stopped := true }

/-- The misses of a cell once none of its units waits: those that a page request holds go (R328, R329). -/
def Cell.unwaited (c : Cell) : List L1Miss := (c.misses.filter fun m => !m.page).map fun m => { m with waiters := [] }

/-- The units of a cell whose step is torn down: Hens stopped, Ox and Drays flushed (R413). -/
def Cell.tear (c : Cell) : Cell :=
  let c := c.stop
  { c with ox := c.ox.flush.thaw, drays := c.drays.map Dray.flush, ran := 0, live := 0, misses := c.unwaited }

/-- The rings of a slot aborted on every engine (R197, R413). -/
def State.abortRings (s : State) (n : Nat) : State := (span 0 52).foldl (fun s e => s.ringAbort e n) s

/-- The running step of a slot: its context and number. -/
def State.stepRan (s : State) (n : Nat) : Option (Nat × BitVec 32) :=
  (s.runningCtx n).map fun k => (k, match (s.ctx k).step with
    | some st => st.num
    | none => 0)

/-- The slot runs no step any more; the identity of the one that ran is kept for late faults (R465). -/
def State.stepGone (s : State) (n : Nat) : State :=
  match s.stepRan n with
  | none => s
  | some (k, num) =>
    let s := s.charge n
    let x := s.slotSched n
    s.setSlotSched n { x with running := none, lastRun := some k, switch := .none, stopAt := none, faulted := none
                              torn := some (k, num), tornAt := s.tick }

/-- The running step of a slot loses its cells: they stop, units are flushed, rings are aborted. -/
def State.killStep (s : State) (n : Nat) : State :=
  if (s.runningCtx n).isNone then s
  else ((s.stepGone n).cellsOf n).foldl (fun s p => s.setCell p (s.cell p).tear) (s.stepGone n) |>.abortRings n

/-! Teardown of a context (R375). -/

/-- Inheritance cells that run a context: FREE pcells with the slot's number. -/
def State.inheritCells (s : State) (n : Nat) : List Nat :=
  (s.cells.filter fun e => e.2.slot.toNat == n && s.cellState e.1 == .free).map (·.1)

/-- The queues of an endpoint replaced. -/
def setQueues (m : SMap (List Unit32)) (ep n : Nat) (q : SMap (List Unit32)) : SMap (List Unit32) :=
  q.foldl (fun m e => tset [] m (ep * 4096 + n * 64 + e.1) e.2) (m.filter fun e => e.1 / 64 != ep * 64 + n)

/-- Marks of scratchpad words of a pcell go: its words are whole. -/
def State.spWhole (s : State) (p : Nat) : State :=
  { s with errs := { s.errs with spBad := s.errs.spBad.filter fun e => e.1 / 2 ^ 18 != p } }

/-- What a cell had under way in translation ends. -/
def State.dropXlt (s : State) (p : Nat) : State :=
  let keep (i : Instr) : Bool := match i with
    | .xltReq q .. => q.val != p
    | .xltResp q _ => q.val != p
    | _ => true
  { s with
    flight := s.flight.filter fun e => keep e.2
    tlbAgents := tmap {} s.tlbAgents fun _ (t : TlbAgent) => { t with misses := t.misses.map fun (m : L2Miss) =>
      { m with waiters := m.waiters.filter (·.pcell != p) } } }

/-- A pcell in the clean state (R204). -/
def State.cleanCell (s : State) (p : Nat) : State :=
  let invs := (s.cell p).invs
  let n := (s.cell p).slot.toNat
  let s := ((s.setCell p (s.cell p).clean).spWhole p).dropXlt p
  let s := { s with stage := { s.stage with inQ := setQueues s.stage.inQ p n [], outQ := setQueues s.stage.outQ p n [] } }
  if h : p < 1152 then (s.sendAll (invs.map fun q => .xltInvAck ⟨p, h⟩ q.seq)).countCell p 5 invs.length else s

/-- A line leaves an agent for good: its dirty data is written home unless discarded, and its home forgets the agent; forwards that the
agent has deferred are answered R:MISS (R285). -/
def State.dropLine (s : State) (a : Nat) (l : LineNo) (discard : Bool) : State :=
  let x := s.agent a l
  let s := if (x.st == .M || x.st == .O) && !discard then s.homeWrite l.toNat 0x3F false x.data 0 (s.agentMaster a) else s
  let s := x.deferred.foldl (fun s i => s.actDeferred i) ((s.setAgent a l {}).uncache l)
  let h := s.homeLine l
  if discard then s.setHomeLine l { h with tail := if h.tail = some a then none else h.tail }
  else s.setHomeLine l { h with
    owner := if h.owner = some a then none else h.owner
    ownedO := if h.owner = some a then false else h.ownedO
    sharers := h.sharers.filter (· != a)
    tail := if h.tail = some a then none else h.tail }

/-- The lines that an agent holds. -/
def State.linesAt (s : State) (a : Nat) : List LineNo :=
  (s.agents.filter fun e => e.1 % 2048 == a && e.2.st != .I).map fun e => BitVec.ofNat 46 (e.1 / 2048)

/-- Inheritance cells returned to the clean state (R204, R410). -/
def State.freeInherit (s : State) (cells : List Nat) : State :=
  cells.foldl (fun s p =>
    let s := (s.linesAt p).foldl (fun s l => s.dropLine p l false) s
    let s := s.cleanCell p
    s.setCell p { s.cell p with slot := 63, lcell := 0 }) s

/-- The inheritance cells on which a HOLDING context of a slot runs. -/
def State.inheritCellsOf (s : State) (n k : Nat) : List Nat := (s.inheritCells n).filter fun p => (s.cell p).heldBy == some k

/-- Steps from HEAD to TAIL are read for their TARGETs and discarded. -/
def State.discardSteps (s : State) (k : Nat) : Nat → State
  | 0 => s
  | f + 1 =>
    let c := s.ctx k
    if c.head = c.tail then s
    else
      let d : BitVec 2048 := ofBytes 2048 (s.partRead (s.ctxPart k) (c.stepAddr c.head) 256)
      let s := s.partTouch (s.ctxPart k) (c.stepAddr c.head) 256
      ((s.setCtx k { c with head := c.head + 1 }).raiseTargets k d).discardSteps k f

/-- A context goes: where it was the last to run, its VT stays for VMIN (R387). -/
def State.keepVt (s : State) (k : Nat) (vt : BitVec 64) : State :=
  let keep (x : SlotSched) : SlotSched := if x.lastRun == some k then { x with lastRun := none, lastVt := vt } else x
  { s with sched := { s.sched with slots := tmap {} s.sched.slots fun _ x => keep x } }

/-- A context torn down (R375, R411): its step no longer runs. code is the fault that caused it. -/
def State.teardown (s : State) (k : Nat) (code : Option Nat) : State :=
  let c := s.ctx k
  if !c.valid then s
  else
    let slot := s.ctxSlot k
    let q := s.ctxPart k
    let s := s.setCtx k { c with closing := true, step := none }
    let s := s.discardSteps k (c.tail - c.head).toNat
    let s : State := match slot with
      | none => s
      | some n =>
        let s := s.freeInherit (s.inheritCellsOf n k)
        let x := s.slotSched n
        s.setSlotSched n { x with
          levels := x.levels.map fun (l : SpillLevel) => if l.ctx = some k then {} else l
          switch := match x.switch with
            | .refilling j _ => if j = k then .none else x.switch
            | _ => x.switch
          forCtx := if x.forCtx = some k then none else x.forCtx }
    let s := s.keepVt k c.vt
    let s := s.semRemove k
    let s := (s.ownedFences q k).foldl (fun s f => s.fenceAbandon q f) s
    let s := s.event c.slice { cookie := 0, kind := evTeardown, flags := if code.isSome then 2 else 0, ctx := BitVec.ofNat 16 k
                               value := BitVec.ofNat 64 (code.getD 0), fence := 0 }
    let s := if code.isSome then s.summaryUp q 3 else s
    s.setCtx k {}

/-- The record of a fault that no unit of a cell reports, for a context (R463). -/
def stepReport (n : Nat) (kind : Nat) : FaultReport :=
  { slot := if n < 48 then BitVec.ofNat 6 n else 63, code := BitVec.ofNat 16 (faultCode 0 kind), tag := 0, unit := epDc (n % 8)
    lcell := BitVec.ofNat 27 (2 ^ 27 - 1), detail := 0 }

/-- A step fault with a failing address, which the fault record shows (R463, R467). -/
def State.stepFaultAt (s : State) (n kind : Nat) (a : Word) : State :=
  let x := s.slotSched n
  (s.setSlotSched n { x with failAt := tset 0 x.failAt kind a }).stepFault n kind

/-- A context whose step does not run faults: recorded, and torn down (R466). -/
def State.ctxFault (s : State) (k kind : Nat) (detail : Word := 0) : State :=
  let n := (s.ctxSlot k).getD 63
  let num := match (s.ctx k).step with
    | some st => st.num
    | none => 0
  (s.recordFault { stepReport n kind with detail } (some k) num).teardown k (some (faultCode 0 kind))

/-! Contexts go on: steps are read, FENCES steps are performed, steps become READY. -/

/-- A context found EMPTY, WAITING or UNBOUND: only from the first two does R387 raise its VT. -/
def State.asleep (s : State) (k : Nat) : State :=
  let c := s.ctx k
  let b := (s.ctxSlot k).isNone
  if c.awake = b || !c.valid then s else s.setCtx k { c with awake := b }

/-- A step that retires after its DEADLINE is counted (R393). -/
def State.lateCount (s : State) (st : StepRec) : State :=
  let d := stDeadline st.desc
  if d ≠ 0 ∧ s.tick > d then { s with sched := { s.sched with misses := .ofNat 16 (satInc 16 s.sched.misses.toNat) } } else s

/-- One context looked at; true when a FENCES step has ended. -/
def State.examine (s : State) (k : Nat) : State × Bool :=
  if s.stable.debugLevel == 2 || s.stable.held then (s, false) else
  let s := s.readStep k
  let c := s.ctx k
  match c.step, s.ctxSlot k with
  | some st, some n =>
    if st.started then (s, false)
    else if st.ready then (s.parkBit n false, false)
    else if stKind st.desc = 2 then
      if s.stepBadFields k st.desc then (s.ctxFault k stepBad, true)
      else if s.waitsReached k st.desc then
        ((((s.lateCount st).setCtx k { c with step := none }).doSignals k st.desc).stepDone k st, true)
      else (s.asleep k, false)
    else if s.waitsReached k st.desc then
      let vt := if c.awake then c.vt else BitVec.ofNat 64 (max c.vt.toNat (s.vmin n))
      let s := s.setCtx k { c with vt, step := some { st with ready := true }, awake := false }
      (s.parkBit n false, false)
    else (s.asleep k, false)
  | _, _ => (s.asleep k, false)

def State.settlePass (s : State) (l : List Nat) : State × Bool :=
  l.foldl (fun (x : State × Bool) k => let (s, b) := x.1.examine k; (s, x.2 || b)) (s, false)

/-- Every context looked at until no FENCES step can be performed. -/
def State.settleN (s : State) : Nat → State
  | 0 => s
  | f + 1 =>
    let (t, again) := s.settlePass (s.host.ctxs.map (·.1))
    if again then t.settleN f else t

/-- The slot parks when nothing of it runs or can run (R381); while a batch of it is under way its park bit stays as it is, for a
parked coach sends no image (DEDUCED, log 80). -/
def State.parkIfIdle (s : State) (n : Nat) : State :=
  let busy := (s.ctxsOf n).any fun k => match s.ctxState k with
    | some .ready | some .running | some .spilled | some .paged | some .holding => true
    | _ => false
  if busy || !(s.coach n).valid || (s.coach n).phase != 0 then s else s.parkBit n true

/-- Every open slot looked at by its dispatch core (R381). -/
def State.parkIdle (s : State) : State := (s.coaches.map (·.1)).foldl (fun s n => s.parkIfIdle n) s

/-- The dispatch cores look at every context and slot. Steps submitted and not ended bound the passes. -/
def State.settle (s : State) : State :=
  (s.settleN (s.host.ctxs.foldl (fun n e => n + (e.2.tail - e.2.head).toNat + 2) 1)).parkIdle

/-- The running step of a slot is killed and its context torn down. -/
def State.killAndTear (s : State) (n : Nat) (code : Option Nat) : State :=
  match s.runningCtx n with
  | none => s
  | some k => ((s.killStep n).teardown k code).settle.parkIfIdle n

/-! The FAULT message (R463 to R466). -/

/-- The fault comes from a pcell of a torn-down step whose Dray flushes have not completed (R465). -/
def State.lateFault (s : State) (r : FaultReport) : Bool :=
  isCellEp r.unit && (s.cell r.unit).drays.toList.any (·.flushPending)

/-- A fault is attributed (R465, R466): the first one of a running step, or of a HOLDING one on its inheritance cells, stops it at the
next frame boundary; a late one of a torn-down step is its own; one from an inheritance cell that holds no lcell any more finds no step. -/
def State.faultArrives (s : State) (r : FaultReport) : State :=
  let n := r.slot.toNat
  let x := s.slotSched n
  match if isCellEp r.unit then (s.cell r.unit).heldBy else none with
  | some k =>
    let c := s.ctx k
    let s := s.recordFault r (some k) (match c.step with
      | some st => st.num
      | none => 0)
    if c.doomed.isNone then s.setCtx k { s.ctx k with doomed := some r.code } else s
  | none =>
  if isCellEp r.unit && s.isInheritCell r.unit then s.recordFault r none 0 else
  match if s.lateFault r && x.torn.isSome then none else x.running with
  | some k =>
    let num := match (s.ctx k).step with
      | some st => st.num
      | none => 0
    let s := s.recordFault r (some k) num
    if n < 48 ∧ x.faulted.isNone then s.setSlotSched n { x with faulted := some r.code } else s
  | none => match x.torn with
    | some (k, num) => s.recordFault r (some k) num
    | none => s.recordFault r none 0

/-- FAULT (R463). -/
def execFault (m : GigMsg) (s : State) : Out := s.onModule fun s =>
  s.delivered (.fault m) fun s =>
  let s := s.take (.fault m)
  .next (s.faultArrives (s.reportOf m))

/-- Late faults of a torn-down step end once every Dray flush of its cells has completed (R465). -/
def State.clearTorn (s : State) (n : Nat) : State :=
  let x := s.slotSched n
  if x.torn.isSome && (s.cellsOf n).all fun p => (s.cell p).drays.toList.all fun y => !y.flushPending then
    s.setSlotSched n { x with torn := none }
  else s

end Sys2Proof.Machine
end

