-- ==== Sys2Proof/Machine/Image.lean ====
section
/-! DEFINITION. What a cell carries away and takes back: move images and spilled cells (R105, R219 to R222, R399), the return to the
clean state (R204), the epoch advance (R206 to R212). -/
namespace Sys2Proof.Machine

/-- The banks that an entry of a yield table marks, 16 bits: all where there is no table or its line cannot be read (R214). -/
def State.liveBanks (s : State) (table : Word) (id : BitVec 12) : Nat :=
  let t := bfield table 13 39 * 8192
  let a := t + 2 * id.toNat
  if t = 0 ∨ s.lineFails (a / 64) then 0xFFFF else leNat (s.devRead a 2)

/-- The banks that are live on a cell that stops: by its step's yield table at a yield point, else every one (R399). -/
def State.liveOf (s : State) (p : Nat) (table : Word) : Nat :=
  match (s.cell p).yieldPoint with
  | some id => s.liveBanks table id
  | none => 0xFFFF

/-- Uncorrectable words of the live banks of a pcell. -/
def State.badWords (s : State) (p live : Nat) : List Nat :=
  (s.errs.spBad.filter fun e => e.1 / 2 ^ 18 == p && e.2 == 2 && live.testBit (e.1 % 2 ^ 18 / 2 ^ 14)).map fun e => e.1 % 2 ^ 18

/-- Queues of a stream table that belong to an endpoint and slot, by stream. -/
def queuesOf (m : SMap (List Unit32)) (ep n : Nat) : SMap (List Unit32) :=
  (m.filter fun e => e.1 / 64 == ep * 64 + n).map fun e => (e.1 % 64, e.2)

/-- What moves with a Hen (R105, R219, R399): its registers, pc and U-mode-writable CSRs with vl and vtype, mtimecmp, RUN, its
Gig queues and the YIELD in which it stalls. The mode in which it ran goes along, for it runs on where it stopped (DEDUCED, log
91). Another instruction that it waited in starts anew. -/
def Hen.moved (x : Hen) : Hen :=
  { x := x.x, f := x.f, v := x.v, pc := x.pc, mmode := x.mmode, run := x.run, fresh := x.fresh
    stall := if x.yieldId.isSome then x.stall else none
    fcsr := x.fcsr, vl := x.vl, vtype := x.vtype, vstart := x.vstart, vcsr := x.vcsr, mtimecmp := x.mtimecmp
    yieldPend := x.yieldPend, lastYield := x.lastYield
    sendQ := x.sendQ, recvQ := x.recvQ, gigOut := x.gigOut, gigNack := x.gigNack, gigTo := x.gigTo
    fenceSeq := x.fenceSeq }

/-- A Hen takes what moved; the rest of its state stays, and it holds no reservation (R105). Its I-cache has seen what the pcell's
or the moved Hen's last FENCE.I had. -/
def Hen.takes (old im : Hen) : Hen :=
  { old with
    x := im.x, f := im.f, v := im.v, pc := im.pc, mmode := im.mmode, run := im.run, fresh := im.fresh, stall := im.stall
    fetchWait := false, xltFail := none, amoChoice := 0
    fcsr := im.fcsr, vl := im.vl, vtype := im.vtype, vstart := im.vstart, vcsr := im.vcsr, mtimecmp := im.mtimecmp
    yieldPend := im.yieldPend, lastYield := im.lastYield, reserved := none, lrDefer := none
    sendQ := im.sendQ, recvQ := im.recvQ, gigOut := im.gigOut, gigNack := im.gigNack, gigTo := im.gigTo
    fenceSeq := max old.fenceSeq im.fenceSeq }

/-- What a cell carries (R219, R399), and whether an uncorrectable word had its bank's line sent as zeros (R221, R404). -/
def State.capture (s : State) (p live : Nat) : CellSpill × Bool :=
  let c := s.cell p
  let n := c.slot.toNat
  let bad := s.badWords p live
  ({ lcell := c.lcell, pcell := p, ran := c.ran, hens := c.hens.map Hen.moved, ox := c.ox, drays := c.drays, streamMap := c.streamMap
     owner := c.owner, unclaimed := c.unclaimed, inq := queuesOf s.stage.inQ p n, outq := queuesOf s.stage.outQ p n, live
     sp := c.sp.filter fun e => live.testBit (e.1 / 131072) && !bad.any fun w => w / 16 == e.1 / 128 }, !bad.isEmpty)

/-- A cell takes back what it carried: its Hens, Ox and Drays, its banks, the others zero (R220, R403). -/
def State.restoreCell (s : State) (p : Nat) (im : CellSpill) : State :=
  let c := s.cell p
  let s := (s.setCell p { c with
    hens := Vector.ofFn fun i => c.hens[i].takes im.hens[i], ox := { im.ox.thaw with busy := c.ox.busy }, drays := im.drays, streamMap := im.streamMap, owner := im.owner
    unclaimed := im.unclaimed, sp := im.sp, handover := [], ran := 0, live := 0 }).spWhole p
  let n := c.slot.toNat
  { s with stage := { s.stage with inQ := setQueues s.stage.inQ p n im.inq, outQ := setQueues s.stage.outQ p n im.outq } }

/-- Frames that an overlap window lasts (R210). -/
def Coach.windowFrames (c : Coach) : Nat := if c.span then max 2 (ceilDiv (c.jbnUs * 1000) 512) else 2

/-- STUB clears on the sources of a slot (R223). -/
def State.clearStubs (s : State) (n : Nat) : State :=
  (s.cells.filter fun e => e.2.stub && e.2.stubCoach.toNat == n).foldl (fun s e => s.clearStub e.1) s

/-- The overlap window of a slot closes once its frame has come (R210, R223). -/
def State.windowClose (s : State) (n : Nat) : State :=
  let c := s.coach n
  match c.closeFrame with
  | some f =>
    if f ≤ s.stage.frame then (s.setCoach n { c with closeFrame := none }).clearStubs n else s
  | none => s

/-- OVERLAP_WINDOW_CLOSE (R210). -/
def execOverlapWindowClose (n : Slot) (s : State) : Out := s.onModule fun s => .next (s.windowClose n)

/-- The epoch of a slot advances (R206, R207): the cell ports of its cells follow, and the members on other modules are told
(R436); the overlap window opens except at a reset. -/
def State.advanceEpoch (s : State) (n : Nat) (window : Bool) : State :=
  let c := s.coach n
  let e := c.epoch + 1
  let s := s.setCoach n { c with
    epoch := e, closeFrame := if window then some (s.stage.frame + c.windowFrames) else none }
  let s := (s.cellsOf n).foldl (fun s p => s.setCell p { s.cell p with portEpoch := e }) s
  if c.span then
    let s := s.sendNotes n
    { s with jbn := { s.jbn with noteAt := tset 0 s.jbn.noteAt n (s.tick + 1) } }
  else s

/-- A Gig message from the dispatch core of a slot to a cell's port. -/
def dispatchMsg (n p type payload : Nat) : GigMsg :=
  { type := BitVec.ofNat 8 type, src := BitVec.ofNat 28 (2 ^ 27 + epDc (n % 8)), dst := BitVec.ofNat 28 (2 ^ 27 + p)
    coach := BitVec.ofNat 6 n, srcHen := 0, dstHen := 0, payload := BitVec.ofNat 48 payload }

def State.sendEpochSet (s : State) (n p : Nat) : State :=
  if h : p < 1152 then s.send (.epochSet ⟨p, h⟩ (dispatchMsg n p 0x12 (s.epochOf n).toNat)) else s

def State.sendYieldReq (s : State) (n p : Nat) : State :=
  if h : p < 1152 then s.send (.yieldReq ⟨p, h⟩ (dispatchMsg n p 0x11 0)) else s

/-- Every running descriptor of the cell has ended (R217). -/
def Cell.draysDone (c : Cell) : Bool := c.drays.toList.all fun y => y.running.isEmpty && y.out.isEmpty
def Cell.draysIdle (c : Cell) : Bool := c.draysDone && c.drays.toList.all fun y => y.queue.isEmpty

end Sys2Proof.Machine
end

