-- ==== Sys2Proof/Machine/Moves.lean ====
section
/-! DEFINITION. Move batches (R214 to R228): forming, quiescing, taking effect, resuming, losing an image, cancelling; cells
that leave (R204, R205). -/
namespace Sys2Proof.Machine

/-- A batch is pending or running: from MOVE_GO until it ends (R231). -/
def Coach.batch (c : Coach) : Bool := c.phase != 0

/-- The PEER and state of a pcell. -/
def State.setSt (s : State) (p : Nat) (st : CellState) : State := s.setCell p { s.cell p with st := st }

/-- A pcell that left its place, or a target given back: FREE, or RETIRED where it has failed (R228, R462). -/
def State.giveBack (s : State) (p : Nat) : State :=
  if (s.cell p).failed then s.retireFree p
  else s.setCell p { s.cell p with st := .free, slot := 63, lcell := 0, peer := 0, portEpoch := 0 }

/-- A yield request is withdrawn, and work on the cell goes on (R228). -/
def State.withdraw (s : State) (p : Nat) : State :=
  let s := s.leaveYield p
  s.setOx p (s.ox p).thaw

/-- Yield requests that have not reached a cell are called back. -/
def State.dropYieldReq (s : State) (p : Nat) : State :=
  { s with flight := s.flight.filter fun e => match e.2 with
      | .yieldReq q _ => q.val != p
      | _ => true }

/-- A batch that has not taken effect is cancelled (R228). -/
def State.moveCancel (s : State) (n : Nat) (promoted : Bool) : State :=
  let c := s.coach n
  let s := c.moves.foldl (fun s m =>
    let s := if c.batch then (s.withdraw m.src).dropYieldReq m.src else s
    (s.setCell m.src { s.cell m.src with peer := 0 }).giveBack m.dst) s
  s.setCoach n { s.coach n with
    moves := [], lastBatch := if c.moves.isEmpty then c.lastBatch else c.moves, phase := 0, quiescedAt := none
    cancelled := (s.coach n).cancelled || promoted }

/-- A FAULT that a pcell's port has sent is still on its way: its YIELD_AT to the same dispatch core arrives after it (R152). -/
def State.faultAhead (s : State) (p : Nat) : Bool := s.flight.any fun e => match e.2 with
  | .fault m => m.src == BitVec.ofNat 28 (2 ^ 27 + p)
  | _ => false

/-- A source is quiesced (R217, R228): a cell of a running step at a yield point, its Ox drained and its Drays' started descriptors
done; a cell of no step once its Ox and Drays are idle. Until then its Ox and Drays only start nothing more. -/
def State.quiesce (s : State) (p : Nat) : State :=
  let c := s.cell p
  let n := c.slot.toNat
  let b := s.coach n
  if b.phase ≠ 1 || !b.moves.any (fun m => m.src == p && !m.quiesced) then s
  else
    let running := s.stepRuns n
    if running && (!c.atYield || s.faultAhead p) then s
    else
      let c := if running && !c.ox.frozen then { c with ox := c.ox.freeze } else c
      let s := s.setCell p c
      let ready := c.handover.isEmpty && if running then c.ox.drained && c.draysDone else c.ox.idle && c.draysIdle
      if !ready then s
      else
        let moves := b.moves.map fun m => if m.src = p then { m with quiesced := true } else m
        s.setCoach n { b with moves, quiescedAt := if moves.all (·.quiesced) then some s.stageNow else none }

/-- QUIESCE (R217). -/
def execQuiesce (p : Pcell) (s : State) : Out := s.onClock p fun s => .next (s.quiesce p)

/-- One move of a batch at M0 (R218, R219, R228): the image is taken, and the cells change state. -/
def State.moveStart (s : State) (n : Nat) (m : Move) : State :=
  let live := if s.stepRuns n then s.liveOf m.src (s.coach n).yieldTable else 0xFFFF
  let (im, ecc) := s.capture m.src live
  let c := s.cell m.src
  let s := s.setCell m.src { c with st := .moveOut, stub := true, stubCoach := c.slot, stubLcell := c.lcell, stubQ := [] }
  let t := s.cell m.dst
  let s := s.setCell m.dst { t with st := .moveIn, image := some im, imageSent := 0, imageGot := [], heldQ := [], owner := im.owner, sp := [] }
  match (s.badWords m.src live).head? with
  | some w => if ecc then s.stepFaultAt n stepMoveEcc (BitVec.ofNat 64 (8 * w)) else s
  | none => s

/-- A source of a slot's batch that is no longer at a yield point is no longer quiesced (R105, R217). -/
def State.recheck (s : State) (n : Nat) : State :=
  (s.coach n).moves.foldl (fun s m => if s.stepRuns n && !(s.cell m.src).atYield then s.unquiesce m.src else s) s

/-- The batch of a slot takes effect (R218): at the start of a frame that begins at least 64 Stage cycles after every source was
quiesced, with no overlap window open. -/
def State.batchEffect (s : State) (n : Nat) : State :=
  let s := s.recheck n
  let b := s.coach n
  let due := match b.quiescedAt with
    | some t => decide (t + 64 ≤ s.stageNow)
    | none => false
  if b.phase ≠ 1 || !due || b.closeFrame.isSome || (tget none s.errs.resets n).isSome then s
  else
    let s := (s.ttFlip n).advanceEpoch n true
    let s := b.moves.foldl (fun s m => s.moveStart n m) s
    s.setCoach n { s.coach n with phase := 2, m0 := s.stage.frame }

/-- A cell leaves its coach: it stops, and enters a state once CELL_CLEAN has cleaned it (R204). -/
def State.leave (s : State) (p : Nat) (then_ : CellState) : State :=
  let c := s.cell p
  s.setCell p { c with cleaning := some then_, leaving := false, hens := c.hens.map Hen.ended, ox := c.ox.freeze, stopped := true }

/-- A batch ends once every target has resumed. -/
def State.batchEnd (s : State) (n : Nat) : State :=
  let b := s.coach n
  if b.moves.all (·.resumed) then s.setCoach n { b with moves := [], lastBatch := b.moves, phase := 0, quiescedAt := none } else s

/-- The target of a move resumes (R222): its held flits are delivered, and the source is cleaned. -/
def State.targetGoes (s : State) (p : Nat) (m : Move) : State :=
  let c := s.cell p
  let n := c.slot.toNat
  let held := c.heldQ
  let s := s.setCell p { c with st := .hitched, peer := 0, image := none, imageSent := 0, imageGot := [], heldQ := [] }
  let s := held.foldl (fun s f => s.deliverCell p f.1 f.2) s
  let s := (s.leave m.src .vacated).yieldEnded m.src
  let b := s.coach n
  (s.setCoach n { b with moves := b.moves.map fun x => if x.dst = p then { x with resumed := true } else x }).batchEnd n

/-- The move of a slot whose target is a pcell. -/
def State.moveTo (s : State) (p : Nat) : Option Move := (s.coach (s.cell p).slot.toNat).moves.find? (·.dst == p)

/-- TARGET_RESUME (R222): the whole image has arrived. -/
def execTargetResume (p : Pcell) (s : State) : Out := s.onClock p fun s =>
  let c := s.cell p
  match s.moveTo p, c.image with
  | some m, some im =>
    if s.cellState p == .moveIn && decide (c.imageGot.length ≥ imageFlits im.live) then
      .next (((s.restoreCell p im).leaveYield p).targetGoes p m)
    else .next s
  | _, _ => .next s

/-- The image flit that carries a byte of a live bank: the banks follow the 4,096 flits of the cell's state, in order (R219). -/
def flitOfByte (live off : Nat) : Nat :=
  let b := off / 131072
  4096 * (1 + popcount b live) + off % 131072 / 32

/-- The active buffer of a slot gives a pcell a stream-62 INJECT entry. -/
def State.sendsImage (s : State) (n p : Nat) : Bool :=
  let t := s.tt n
  (t.buf t.activeB).any fun r => r.kind == 1 && r.unit == p && r.inn == 62

/-- MOVE_LOST (R228): the image is still incomplete; what is missing is zero, and a cell state with a byte missing is discarded. -/
def execMoveLost (p : Pcell) (s : State) : Out := s.onModule fun s =>
  let c := s.cell p
  let n := c.slot.toNat
  match s.moveTo p, c.image with
  | some m, some im =>
    let late := if s.sendsImage n m.src then decide (c.imageSent ≥ imageFlits im.live) && decide (s.stage.frame ≥ c.imageLast + 4)
      else decide (s.stage.frame ≥ (s.coach n).m0 + 4)
    if s.cellState p == .moveIn && decide (c.imageGot.length < imageFlits im.live) && late then
      let sp := im.sp.filter fun e => c.imageGot.contains (flitOfByte im.live e.1)
      let whole := (span 0 4096).all c.imageGot.contains
      let s :=
        if whole then
          (s.restoreCell p { im with sp }).leaveYield p
        else s.setCell p { c.clean with sp, heldQ := c.heldQ }
      .next ((s.targetGoes p m).stepFault n stepMoveLost)
    else .next s
  | _, _ => .next s

/-- A pcell has been cleaned (R204): its lines are written back, and it leaves its coach. Its stub stands until the window closes
(R223). -/
def State.cellClean (s : State) (p : Nat) : State :=
  let c := s.cell p
  match c.cleaning with
  | none => s
  | some st =>
    let lines := s.linesAt p
    if lines.any fun l => !s.quiet l then s
    else
      let s := lines.foldl (fun s l => s.dropLine p l false) s
      let s := s.cleanCell p
      let s := s.setCell p { s.cell p with
        st, cleaning := none, slot := 63, lcell := 0, peer := 0, stubQ := c.stubQ, leaving := false, freq := 0, heldSlow := false }
      s.freeVacated

/-- CELL_CLEAN (R204, R205). -/
def execCellClean (p : Pcell) (s : State) : Out := s.onClock p fun s => .next (s.cellClean p)

end Sys2Proof.Machine
end

