-- ==== Sys2Proof/Machine/PowerBase.lean ====
section
/-! DEFINITION. The power floor and strict partitions (R533, R549). -/
namespace Sys2Proof.Machine

/-- The TDP of R1, in W. -/
def State.tdp (s : State) : Nat := if s.isL1 then 3500 else 3600

/-- DEFAULT_W and AVG_CAP_W in W (R531, R539). -/
def State.defaultW (s : State) : Nat := s.power.defaultW.getD s.tdp
def State.avgCapW (s : State) : Nat := s.power.avgCapW.getD s.tdp

/-- STRICT_MHZ of a partition. -/
def Power.strictOf (p : Power) (q : Nat) : Nat := tget 1000 p.strictMhz q

/-- A pcell counts in FLOOR_EFF for its coach: it is hitched, or its hitch is pending, it is not held at 1,000 MHz, and it runs at the
partition's STRICT_MHZ, or (planned) is to run at it (R533, R549). -/
def State.floorCell (s : State) (planned : Bool) (p : Nat) : Bool :=
  let c := s.cell p
  !c.heldSlow && (planned || decide (s.power.strictOf (s.partOf c.slot.toNat) ≤ c.freq.toNat)) && (match s.cellState p with
    | .hitched => true
    | .moveOut => true
    | .joining => (s.coach c.slot.toNat).hitches.any fun h => h.pcell == p
    | _ => false)

/-- Cells of strict partitions that run above 1,000 MHz, or are to, each as its excess in MHz. -/
def State.strictExcess (s : State) (planned : Bool) : Nat :=
  s.stable.strict.foldl (fun t q =>
    t + (s.power.strictOf q - 1000) *
      (s.cells.filter fun e => s.partOf e.2.slot.toNat == q && s.floorCell planned e.1).length) 0

/-- FLOOR_EFF in W, rounded up, of the strict cells that run at their frequency, or (planned) of all that are to. -/
def State.floorOf (s : State) (planned : Bool) : Nat := ceilDiv ((if s.isL1 then 19500000 else 20000000) + 12 * s.strictExcess planned) 10000

/-- FLOOR_EFF in W (R533), rounded up. -/
def State.floorEff (s : State) : Nat := s.floorOf false

/-- What FLOOR_EFF comes to once every strict cell has reached its frequency: what the tests of R549 are about. -/
def State.floorPlan (s : State) : Nat := s.floorOf true

/-- The current minute. -/
def State.minuteNow (s : State) : Nat := s.tick / 6000000000

/-- The lowest of DEFAULT_W and the accepted entries that are still to come or run. -/
def State.floorLimit (s : State) : Nat :=
  (s.power.contract.filter fun e => decide (s.minuteNow ≤ e.1)).foldl (fun m e => min m e.2) s.defaultW

/-- A change raises the floor above what it may be (R549). -/
def State.floorBroken (old new : State) : Bool := decide (new.floorPlan > old.floorPlan) && decide (new.floorPlan > new.floorLimit)

/-- A pcell joins a slot: its clock starts at 1,000 MHz, where it is held if the floor of a strict partition would rise too far. -/
def State.joinClock (old new : State) (p : Nat) : State :=
  let set (slow : Bool) : State := new.setCell p { new.cell p with freq := 1000, heldSlow := slow }
  if State.floorBroken old (set false) then { set true with power := { (set true).power with strictRefused := true } } else set false

end Sys2Proof.Machine
end

