-- ==== Sys2Proof/Machine/Reset.lean ====
section
/-! DEFINITION. Coach-level resets (R232, R233, R472 to R479), crash records (R474 to R476), the module warm reset (R480, R481). -/
namespace Sys2Proof.Machine

/-! What registers of a cell read. -/

/-- CELL_ID. -/
def State.cellId (s : State) (p : Nat) : Word :=
  let st : Nat := match s.cellState p with
    | .spare => 0
    | .retired => 2
    | _ => 1
  put 40 st ||| put 32 (localOf p) ||| put 22 (regionOf p % 4) ||| put 20 (dieOf p) ||| put 0 p

/-- CELL_CLOCK. -/
def State.cellClock (s : State) (p : Nat) : Word :=
  put 32 (s.ceilFusedOf p) ||| put 16 (s.ceilNow p) ||| put 0 (if s.unfrozen p then (s.cell p).freq.toNat else 0)

/-- Flits of a coach that wait to leave an endpoint (R261). -/
def State.outboundAt (s : State) (ep n : Nat) : Nat :=
  s.stage.outQ.foldl (fun t e => if e.1 / 64 = ep * 64 + n then t + e.2.length else t) 0

/-- STAGE_PORT_STATUS (R158): the inbound FIFO holds flits between commands only while the cell is stopped (R582); the outbound one
holds up to 32 of the flits that wait for their slots (R19); every crossing was set at boot (R128). -/
def State.portStatus (s : State) (p : Nat) : Word :=
  let n := (s.cell p).slot.toNat
  put 32 n ||| put 16 (s.cell p).fifo.length ||| put 8 (min 32 (s.outboundAt p n)) ||| putB 1 (n != 63 && (s.tt n).activeB) ||| putB 0 s.harness.ready

/-! Crash records (R474 to R476). -/

/-- The cells of a slot that hold its lcells, in lcell order. -/
def State.lcellsOf (s : State) (n : Nat) : List Nat :=
  (span 0 (s.coach n).localCells).filterMap fun i => s.placed n ((s.coach n).base + BitVec.ofNat 27 i)

/-- The crash header (R474). tick: that of the expiry or command; ran: the step that held the cells. -/
def State.crashHeader (s : State) (n code cells part tick : Nat) (ran : Option (Nat × BitVec 32)) : List Byte :=
  let x := s.coach n
  let k := ran.map (·.1)
  let num : BitVec 32 := (ran.map (·.2)).getD 0
  natBytes 4 1 ++ natBytes 4 (x.coachId.toNat + n * 2 ^ 20 + (if k.isNone then 2 ^ 31 else 0)) ++ bytesOf 4 x.epoch
    ++ natBytes 2 (k.getD 0) ++ natBytes 2 code ++ natBytes 8 tick ++ bytesOf 4 num ++ natBytes 4 cells ++ natBytes 1 part
    ++ natBytes 4063 0

/-- A cell's entry in the crash slot. -/
def State.crashCell (s : State) (p : Nat) : List Byte :=
  let c := s.cell p
  bytesOf 8 (s.cellId p) ++ bytesOf 8 (s.cellClock p) ++ bytesOf 8 c.ox.status ++ bytesOf 8 c.ox.fault
    ++ c.drays.toList.flatMap (fun y => bytesOf 8 y.status) ++ c.drays.toList.flatMap (fun y => bytesOf 8 y.fault)
    ++ bytesOf 8 (s.portStatus p) ++ c.hens.toList.flatMap (fun x => bytesOf 8 x.status)
    ++ c.hens.toList.flatMap (fun x => bytesOf 8 x.mcause) ++ natBytes 120 0

/-- The registers of a Hen as a crash record holds them (R475). -/
def Hen.crashBytes (x : Hen) (tick : Nat) (oxHalt : Bool) : List Byte :=
  (span 0 32).flatMap (fun i => if i = 0 then natBytes 8 0 else bytesOf 8 (tget 0 x.x i))
    ++ (span 0 32).flatMap (fun i => bytesOf 8 (tget 0 x.f i)) ++ (span 0 32).flatMap (fun i => bytesOf 64 (tget 0 x.v i))
    ++ ([x.pc, x.mstatus, x.mcause, x.mepc, x.mtval, x.mie, x.mip tick oxHalt, x.vl, x.vtype, x.vstart,
         BitVec.ofNat 64 x.fcsr.toNat, put 16 x.lastYield.toNat ||| putB 0 x.yieldPend].flatMap (bytesOf 8))
    ++ natBytes 1440 0

/-- A cell's section in the partition's region. -/
def State.crashSection (s : State) (p : Nat) : List Byte :=
  let c := s.cell p
  (span 0 16).flatMap (fun b => s.spRead p (b * 131072) 4096) ++ c.hens.toList.flatMap (fun x => x.crashBytes s.tick c.ox.halt)

/-- The crash record of a slot is collected (R474, R475); tick as in crashHeader. -/
def State.crashCollect (s : State) (n code tick : Nat) (ran : Option (Nat × BitVec 32)) : State :=
  let e := s.errs
  let slots := bfield e.crashArea 0 5
  match (span 0 slots).find? fun k => !e.crashUsed.testBit k with
  | none => { s with errs := { e with crashLost := .ofNat 32 (satInc 32 e.crashLost.toNat) } }
  | some k =>
    let cells := s.lcellsOf n
    let q := s.partOf n
    let cp := tget 0 e.crashPart q
    let writes := cp.getLsbD 63 && !cp.getLsbD 62
    let fit := (bfield cp 52 10 * 2 ^ 20 - 4096) / 81920
    let part := if writes then (if fit < cells.length then 3 else 1) else 0
    let header := s.crashHeader n code cells.length part tick ran
    let base := bfield e.crashArea 12 40 * 4096 + k * 266240
    let secs := (cells.take fit).flatMap s.crashSection
    let s := s.devWrite base (header ++ cells.flatMap s.crashCell)
    let s := if writes then s.devWrite (bfield cp 20 32 * 2 ^ 20) (header ++ secs) else s
    { s with errs := { s.errs with
        crashUsed := s.errs.crashUsed + 2 ^ k
        crashPart := if writes then tset 0 s.errs.crashPart q (cp ||| putB 62 true) else s.errs.crashPart } }

/-! Mailbox answers that wait (R353). -/

/-- The response of the command that the host mailbox runs: status and value, DONE and its interrupt. -/
def State.mbxAnswer (s : State) (status : Nat) (value : Word) : State :=
  let h := s.host
  ({ s with host := { h with
      mbxResp := tset 0 (tset 0 h.mbxResp 0 (BitVec.ofNat 64 status)) 1 value, mbxDone := true, mbxWaits := none } }).msix 0

/-- A CONTEXT_TEARDOWN that waited is answered once its context is gone. -/
def State.mbxTornDown (s : State) : State :=
  match s.host.mbxWaits with
  | some k => if (s.ctx k).valid then s else s.mbxAnswer 0 0
  | none => s

/-- A faulted step is stopped and its context torn down (R413, R466). -/
def State.faultBoundary (s : State) (n : Nat) : State :=
  if (tget none s.errs.resets n).isSome then s
  else
  let s := (s.holdings n).foldl (fun s k => match (s.ctx k).doomed with
    | some code => ((s.teardown k (some code.toNat)).settle).mbxTornDown
    | none => s) s
  match (s.slotSched n).faulted with
    | none => s
    | some code => (s.killAndTear n (some code.toNat)).mbxTornDown

/-! The coach-level reset (R478). -/

/-- A request at a home is a non-caching one with a number. -/
def HomeReq.nc (id : Nat) : HomeReq → Bool
  | .read i => i == id
  | .write i .. => i == id
  | .remote i _ => i == id
  | _ => false

/-- The requests of a slot's Drays, and with fab those of its coach that came over the fabric, of which no line has been performed nor is
in service at its home are forgotten. -/
def State.dropNc (s : State) (n : Nat) (fab : Bool) : State :=
  let fresh (q : NcReq) : Bool := (match q.src with
      | .stream _ m _ _ => m == n
      | .fabric _ m _ => fab && m == n)
    && !q.started && !s.homeLines.any fun e => match e.2.req with
      | some r => r.nc q.id
      | none => false
  let lost := s.nonCaching.filter fresh
  let gone (k : Nat) (e : Nat × Packet) : Bool := lost.any fun q => q.src == .fabric k e.1 e.2
  { s with
    nonCaching := s.nonCaching.filter fun q => !fresh q
    jbn := { s.jbn with ports := tmap {} s.jbn.ports fun k (x : JbnPort) => { x with ingress := x.ingress.filter fun e => !gone k e } }
    homeLines := tmap {} s.homeLines fun _ (x : HomeLine) => { x with queue := x.queue.filter fun r => !lost.any fun q => r.nc q.id } }

/-- Requests of a slot that no endpoint has started are discarded, those started go on without an answer to the slot, and answers that wait for its cells (R333, R478). -/
def State.dropRequests (s : State) (n : Nat) : State :=
  let cells := s.cellsOf n
  let s := (s.dropNc n true).dropUnsent n
  let mine (a : Nat) : Bool := cells.contains a
  let keep (i : Instr) : Bool := match i with
    | .getS a .. => !mine a
    | .getM a .. => !mine a
    | .upgrade a .. => !mine a
    | .putS a .. => !mine a
    | .putE a .. => !mine a
    | .putD a .. => !mine a
    | .amoFar a .. => !mine a
    | .user _ m => m.coach.toNat != n
    | .semReply _ m => m.coach.toNat != n
    | .nack q .. => !mine q.val
    | _ => true
  let queued (r : HomeReq) : Bool := match r.agent with
    | some a => !mine a
    | none => true
  let lost := s.homeLines.flatMap fun e => (e.2.queue.filter fun r => !queued r).map fun r => (BitVec.ofNat 46 e.1, r)
  let open_ := s.homes.flatMap fun e => (e.2.reserved.filter fun a => mine a.1).map fun a => (e.1, a.2)
  let s : State := { s with
    flight := s.flight.filter fun e => keep e.2
    stage := { s.stage with
      inQ := s.stage.inQ.filter fun e => e.1 / 64 % 64 != n
      outQ := s.stage.outQ.filter fun e => e.1 / 64 % 64 != n }
    homeLines := tmap {} s.homeLines fun _ (x : HomeLine) => { x with queue := x.queue.filter queued }
    refused := s.refused.filter fun e => !mine (e.1 / 2048)
    retrying := s.retrying.filter fun e => !mine (e.1 / 2048)
    homes := tmap {} s.homes fun _ (x : Home) => { x with
      retryMap := x.retryMap.filter fun a => !mine a.1, reserved := x.reserved.filter fun a => !mine a.1 }
    nonCaching := s.nonCaching.map fun q => if q.src.slot n then { q with mute := true } else q
    host := { s.host with reads := s.host.reads.filter fun r => r.slot != n }
    jbn := { s.jbn with
      reqs := s.jbn.reqs.map fun r => if r.slot = n then { r with reply := 64 } else r
      arriving := s.jbn.arriving.filter fun x => x.key / 64 % 64 != n } }
  -- their entries go to the agents that wait for one (R293)
  open_.foldl (fun s e => s.freeReserved e.1 e.2) (lost.foldl (fun s (e : LineNo × HomeReq) => s.freeEntry e.1 e.2) s)

/-- The spill key of a slot is replaced by one drawn anew (R502): what was written under the old one can no longer be read. -/
def State.newSpillKey (s : State) (n : Nat) : State :=
  let t := s.stable
  { s with
    lineKey := s.lineKey.map fun e => (e.1, e.2.1, if e.2.2 = n + 1 then 100 else e.2.2)
    stable := { t with
      stalls := tset {} t.stalls (40 + n) { attr := stallAttr 3 0b011110 0x3E 16 0 0, key := Config.random t.drawn }
      drawn := t.drawn + 1 } }

/-- Semaphores of a slot as OPEN leaves them (R405). -/
def State.clearSems (s : State) (n : Nat) : State :=
  { s with sched := { s.sched with sems := s.sched.sems.filter fun e => e.1 / 128 != n } }

/-- A failed pcell of a slot is replaced by the lowest spare of its region, or its lcell is left unplaced (R232, R233). -/
def State.replaceFailed (s : State) (n p : Nat) : State :=
  let c := s.cell p
  let s := s.setCell p { c.clean with
    st := .retired, slot := 63, lcell := 0, peer := 0, portEpoch := 0, leaving := false, failed := false, freq := 0, heldSlow := false }
  match s.sparesOf (regionOf p) with
  | q :: _ =>
    let t := s.setCell q { (s.cell q).clean with st := .hitched, slot := BitVec.ofNat 6 n, lcell := c.lcell, leaving := c.leaving }
    ((State.joinClock s t q).sendEpochSet n q).logErr errSpareUsed 8 q q 0x3F 0xFF p
  | [] =>
    let x := s.coach n
    (s.setCoach n { x with unplaced := x.unplaced ++ [c.lcell] }).sparesOut p

/-- Move batches at a reset (R228): before M0 cancelled; from M0 each lcell stays at its target. -/
def State.resetMoves (s : State) (n : Nat) : State :=
  let x := s.coach n
  if x.phase = 2 then
    let s := x.moves.foldl (fun s m =>
      if m.resumed then s
      else
        let t := s.cell m.dst
        let s := s.setCell m.dst { t with st := .hitched, peer := 0, image := none, imageSent := 0, imageGot := [], heldQ := [] }
        s.setCell m.src { s.cell m.src with cleaning := some .vacated }) s
    s.setCoach n { s.coach n with moves := [], lastBatch := (s.coach n).moves, phase := 0, quiescedAt := none }
  else s.moveCancel n false

/-- A cell of a slot at the end of a reset (R478 step 7): clean; one that was leaving has left, and a failed one of these retires
where it would become FREE (R228, R462). -/
def State.resetCell (s : State) (n p : Nat) : State :=
  let c := s.cell p
  match c.cleaning with
  | some st =>
    let s := s.cleanCell p
    s.setCell p { s.cell p with
      st, cleaning := none, slot := 63, lcell := 0, peer := 0, leaving := false, freq := 0, heldSlow := false }
  | none =>
    let s := s.cleanCell p
    if c.failed && s.cellState p == .hitched then s.replaceFailed n p else s

/-- The steps of a coach-level reset from the third on, once every pcell has stopped or been given up. timedOut is the context of
a timed-out step; warm: a module warm reset, which keeps the Stable's stalls (R480). -/
def State.resetFinish (s : State) (n : Nat) (timedOut : Option Nat) (warm : Bool := false) : State :=
  let s := { s with errs := { s.errs with resets := tset none s.errs.resets n none } }
  let s := s.dropRequests n
  let s := (s.ctxsOf n).foldl (fun s k => s.teardown k (some (if timedOut = some k then faultCode 0 stepTimeout else faultCode 0 stepCoachReset))) s
  let s := s.freeInherit (s.inheritCells n)
  let x := s.slotSched n
  let s := s.setSlotSched n { x with switch := .none, stopAt := none, faulted := none, torn := none, levels := .replicate 2 {}, forCtx := none }
  let cells := s.cellsOf n
  let s := cells.foldl (fun s p => (s.linesAt p).foldl (fun s l => s.dropLine p l true) s) s
  let s := s.clearSems n
  let s := s.resetMoves n
  let s := (s.advanceEpoch n false).clearStubs n
  let t := s.tt n
  let s := s.setTt n { t with a := [], b := [], loaded := false, armed := none, image := none, nextImage := none }
  let s := if warm then s else s.newSpillKey n
  let s := cells.foldl (fun s p => s.resetCell n p) s
  let s := { s with coachRegs := { s.coachRegs with
    resetting := match s.coachRegs.resetting with
      | some m => if m.val = n then none else some m
      | none => none } }
  s.freeVacated.settle.mbxTornDown

def State.setReset (s : State) (n : Nat) (r : ResetRec) : State :=
  { s with errs := { s.errs with resets := tset none s.errs.resets n (some r) } }

/-- No pcell of the reset is waited for any more: its crash record is collected (R478 step 2). What remains takes place together at
the start of the next frame, with the epoch advance (R207; DEDUCED, log 51). -/
def State.resetStopped (s : State) (n : Nat) (r : ResetRec) : State :=
  if r.stuck.isEmpty then
    (match r.crash with
      | some code => s.crashCollect n code r.since r.ran
      | none => s).setReset n { r with crash := none }
  else s.setReset n r

/-- A coach-level reset begins (R228, R478, R479): a batch that has not taken effect is cancelled; every pcell of the slot and its rings
stop. code: what the crash record names, none for no record. -/
def State.resetBegin (s : State) (n : Nat) (crash : Option Nat) (timedOut : Option Nat) (stuck : List Nat) : State :=
  if (tget none s.errs.resets n).isSome then s
  else
    let ran := s.stepRan n
    let s := if (s.coach n).phase = 2 then s else s.moveCancel n false
    let cells := s.cellsOf n
    -- the Harness's stop word (R476, R581): the clocks of the pcells stop, but of those that do not obey it
    let s := (cells.filter fun p => !stuck.contains p).foldl (fun s p => s.setCell p { s.cell p with frozen := true }) s
    let s := { s with dbg := { s.dbg with lastCoach := BitVec.ofNat 6 n } }
    let s := (span 0 52).foldl (fun s e => s.ringDisable e n) s
    let r : ResetRec := { stuck := stuck.filter cells.contains, timedOut, since := s.tick, crash, ran }
    (s.resetStopped n r).stepGone n

/-- At the start of a frame, a coach-level reset that waits for no pcell goes on to its end (R207, R478). -/
def State.resetBoundary (s : State) (n : Nat) : State :=
  match tget none s.errs.resets n with
  | some r => if r.stuck.isEmpty then s.resetFinish n r.timedOut else s
  | none => s

/-- PCELL_STOP_TIMEOUT (R478): a pcell has not stopped 1 ms after its stop request; it is marked failed, and the reset goes on
without it. Where the stop was a teardown's (R413), a coach-level reset begins (R477; DEDUCED, log 124). -/
def execPcellStopTimeout (p : Pcell) (s : State) : Out :=
  let n := (s.cell p).slot.toNat
  match tget none s.errs.resets n with
  | none =>
    let x := s.slotSched n
    if n < 48 && x.torn.isSome && (s.cell p).drays.toList.any (·.flushPending) && decide (x.tornAt + 100000 ≤ s.tick) then
      .next (s.resetBegin n none none [p.val])
    else .next s
  | some r =>
    if !r.stuck.contains p.val || decide (s.tick < r.since + 100000) then .next s
    else
      let s := s.markFailed p 3
      let s := s.setCell p { s.cell p with freq := 0, frozen := true }
      .next (s.resetStopped n { r with stuck := r.stuck.filter (· != p.val) })

/-- COMMAND_TIMEOUT (R330, R472, R473): the count of a slot's running or paged step has reached its limit. A step switched out for
a page request faults with PAGE_TIMEOUT. -/
def execCommandTimeout (n : Slot) (stuck : List Nat) (s : State) : Out := s.onModule fun s =>
  let x := s.slotSched n
  let expired (k : Nat) : Bool := match (s.ctx k).step with
    | some st => decide (st.count s.tick ≥ stTimeoutMs st.desc * 100000)
    | none => false
  let paged := (x.levels.toList.filterMap (·.ctx)).filter fun k => x.running != some k && (s.ctx k).held == some .paged && expired k
  let s := paged.foldl (fun s k => s.ctxFault k stepPageTimeout) s
  match x.running.filter expired with
  | none => .next s
  | some k =>
    let num := match (s.ctx k).step with
      | some st => st.num
      | none => 0
    let s := s.recordFault (stepReport n stepTimeout) (some k) num
    .next (s.resetBegin n (some (faultCode 0 stepTimeout)) (some k) stuck)

/-! The module warm reset (R480, R481). -/

/-- A range of device memory cleared, unless the memory is closed (R488, R514). -/
def State.zeroRange (s : State) (a n : Nat) : State :=
  let out (x : Nat) : Bool := decide (x < a) || decide (a + n ≤ x)
  if s.stable.noMem then s else
  ({ (s.noteWrite a n).noteKey a n 0 with
    mem := s.mem.filter fun e => out e.1
    errs := { s.errs with memBad := s.errs.memBad.filter fun e => out (64 * e.1) } } : State).flipRange a n

/-- The route area of a slot is cleared (R430), and what the slot's hand-overs have left. -/
def State.clearRoutes (s : State) (n : Nat) : State :=
  let s := s.zeroRange (s.jbn.routeBase.toNat + n * 0x200000) 0x200000
  { s with jbn := { s.jbn with rehomed := s.jbn.rehomed.filter (·.slot != n), noteAt := tset 0 s.jbn.noteAt n 0 } }

/-- A slot is closed as a coach-level reset would close it, without a crash record; the Stable's stalls and the contents of device
memory are kept (R480). -/
def State.warmClose (s : State) (n : Nat) : State :=
  if !(s.coach n).valid then s
  else
    let s := { s with errs := { s.errs with resets := tset none s.errs.resets n none } }
    let s := (s.killStep n).resetFinish n none true
    let s := (s.cellsOf n).foldl (fun s p =>
      s.setCell p { s.cell p with st := .free, slot := 63, lcell := 0, peer := 0, portEpoch := 0, leaving := false, freq := 0, heldSlow := false }) s
    let s := (span 0 52).foldl (fun s e => s.ringDisable e n) s
    let s := { s with mcs := tmap {} s.mcs fun _ (x : Mc) => { x with
      share := tset 0 x.share n 0, sharePending := x.sharePending.filter fun y => y.1 != n } }
    let s := { s with jbn := { s.jbn with rehomed := s.jbn.rehomed.filter (·.slot != n), noteAt := tset 0 s.jbn.noteAt n 0 } }
    s.setCoach n { staleDrops := (s.coach n).staleDrops, moveDrops := (s.coach n).moveDrops }

/-- Every coach slot, slice, context and binding is closed; caches, TLBs, MULE maps and Stage blocks are cleared (R480). -/
def State.closeAll (s : State) : State :=
  let s := (span 0 48).foldl (fun s n => s.warmClose n) s
  let s := s.llcLose
  let g := s.stage
  let keep := g.owner.filter fun e => e.2 == 62
  { s with
    host := { s.host with
      slices := [], ctxs := [], handles := [], tables := [], fences := [], cached := [], waits := [], pages := [], segs := []
      mbxWaits := none, reads := [] }
    sched := { s.sched with slots := [], sems := [], replies := [] }
    engines := tmap {} s.engines fun _ (x : Engine) => { x with map := [], mapPending := [], rings := [], far := [], stores := [] }
    cells := tmap {} s.cells fun _ (c : Cell) => { c with tlb := [], misses := [], invs := [] }
    tlbAgents := []
    agents := [], homeLines := [], homes := [], refused := [], retrying := []
    nonCaching := [], muleCached := [], muleGone := []
    flight := []
    coh := { s.coh with syncPage := [], syncBusy := none, syncNext := [] }
    jbn := { s.jbn with arriving := [] }
    coachRegs := { s.coachRegs with resetting := none }
    stage := { g with owner := keep, lendee := [], flits := [], inQ := [], outQ := [], loading := none, park := 0
                      tt := g.tt.filter fun e => e.1 == 62 } }

/-- The module warm reset (R480); a stopped module resumes first. cause: 1 MOD_RESET, 2 escalation. XLT_APERTURE keeps its value and
its lock (R12; DESIGN CHOICE, log 99). -/
def State.warmResetNow (s : State) (cause : Nat) : State :=
  let s := s.resumeModule
  let s := { s with cells := tmap {} s.cells fun _ (c : Cell) => { c with frozen := false } }
  let v : Word := put 16 (s.tick % 2 ^ 48) ||| put 0 cause
  let s := (s.log 0x02 oHarness 0x3E 63 v 0).logErr errWarmReset 8 0 0 0x3F 0xFF cause
  { s with errs := { s.errs with resetCause := v }, power := { s.power with partMinute := true } }.closeAll

/-- WARM_RESET (R480): a write of 1 to MOD_RESET.WARM. -/
def execWarmReset (s : State) : Out := s.gate fun s => .next (s.warmResetNow 1)

/-- WARM_RESET_ESCALATION (R477): the coach-level reset of a slot is unfinished after 10 ms. -/
def execWarmResetEscalation (n : Slot) (s : State) : Out :=
  match tget none s.errs.resets n with
  | some r => if s.tick ≥ r.since + 1000000 then .next (s.warmResetNow 2) else .next s
  | none => .next s

end Sys2Proof.Machine
end

