-- ==== Sys2Proof/Machine/Coach.lean ====
section
/-! DEFINITION. The coach commands (R200 to R202, R215, R216, R228, R229, R233 to R239, R477). Each row writes COACH_ARG and then
COACH_CMD with its own OP. -/
namespace Sys2Proof.Machine

def ccBadOp : Nat := 1
def ccNoCoach : Nat := 2
def ccInUse : Nat := 3
def ccCellState : Nat := 4
def ccLcell : Nat := 5
def ccPending : Nat := 6
def ccEmpty : Nat := 7
def ccArmed : Nat := 8
def ccOvercommit : Nat := 9
def ccTooLate : Nat := 0xA
def ccRange : Nat := 0xB

/-! Fields (R237, R238). -/

def ccCoach (v : Word) : Nat := bfield v 8 6
def ccUnit (v : Word) : Nat := bfield v 16 11
def ccCell (v : Word) : BitVec 27 := BitVec.ofNat 27 (bfield v 32 27)

/-- The bits that a command may have set: UNIT, LCELL, bits of COACH_ARG; none for a reserved OP. -/
def ccUses (op : Nat) : Option (Bool × Bool × Nat) :=
  match op with
  | 0x01 => some (false, true, 26)
  | 0x02 => some (false, false, 0)
  | 0x03 => some (false, false, 1)
  | 0x10 => some (true, true, 0)
  | 0x11 => some (false, true, 0)
  | 0x12 => some (true, true, 0)
  | 0x13 => some (false, false, 0)
  | 0x14 => some (false, false, 0)
  | 0x20 => some (true, false, 7)
  | 0x21 => some (true, false, 7)
  | 0x30 => some (false, false, 7)
  | _ => none

/-- A reserved OP, or a reserved or unused field that is not zero (R238). -/
def ccBad (v arg : Word) : Bool :=
  match ccUses (bfield v 0 8) with
  | none => true
  | some (u, l, bits) =>
    bfield v 14 2 != 0 || bfield v 27 5 != 0 || bfield v 59 5 != 0 || (!u && ccUnit v != 0) || (!l && bfield v 32 27 != 0)
      || decide (arg.toNat ≥ 2 ^ bits)

/-! What the single commands check. -/

/-- Links credited to a coach: its own share and decreases that wait (R235). -/
def State.linkHeld (s : State) (n k : Nat) : Nat := (tget 0 (s.coach n).linkShare k).toNat

/-- What keeps a slot from being closed (R201). -/
def State.slotInUse (s : State) (n : Nat) : Bool :=
  let c := s.coach n
  !(s.cellsOf n).isEmpty || !(s.inheritCells n).isEmpty || !c.memShare.isEmpty || !c.linkShare.isEmpty
    || s.stage.owner.any (fun e => e.2.toNat == n) || s.stage.lendee.any (fun e => e.2.toNat == n)
    || !(s.tt n).a.isEmpty || !(s.tt n).b.isEmpty || s.engines.any (fun e => (e.2.ring n).enabled) || !(s.ctxsOf n).isEmpty

/-- The lcell that HITCH_CELL may name (R229, R233): the next to grow the range, or an unplaced one; true for a refill. -/
def State.hitchable (s : State) (n : Nat) (l : BitVec 27) : Option Bool :=
  let c := s.coach n
  let h := (c.hitches.filter fun x => !x.refill).length
  if l = c.base + BitVec.ofNat 27 (c.localCells + h) then some false
  else if c.unplaced.contains l && !c.hitches.any (fun x => x.lcell == l) then some true
  else none

/-- lcells marked LEAVING. -/
def State.leavingCount (s : State) (n : Nat) : Nat := ((s.cellsOf n).filter fun p => (s.cell p).leaving).length

/-- Cell changes await a step boundary. -/
def State.changesPending (s : State) (n : Nat) : Bool := !(s.coach n).hitches.isEmpty || s.leavingCount n != 0

/-- Decreases of link shares whose credits have returned take effect (R235, R425). -/
def State.linkSettle (s : State) (n : Nat) : State :=
  let c := s.coach n
  let due := c.linkPending.filter fun e => s.linkWithin n e.1 e.2.toNat
  due.foldl (fun s e =>
    let c := s.coach n
    s.setCoach n { c with
      linkShare := tset 0 c.linkShare e.1 e.2
      linkPending := c.linkPending.filter fun y => y.1 != e.1 }) s

/-- A command after the checks of fields, slot number and openness: its error, or none where it can be carried out. -/
def State.coachCheck (s : State) (v arg : Word) : Option Nat :=
  let n := ccCoach v
  let c := s.coach n
  let u := ccUnit v
  let l := ccCell v
  match bfield v 0 8 with
  | 0x01 =>
    let q := bfield arg 20 5
    if c.valid then some ccInUse
    else if s.stable.strict.contains q && (tget 0 s.coh.strict q) == 0 then some ccRange
    else if arg.getLsbD 25 && !s.jbn.fabric then some ccRange else none
  | 0x02 => if s.slotInUse n then some ccInUse else none
  | 0x10 =>
    if u ≥ 1152 then some ccRange
    else if !c.moves.isEmpty then some ccPending
    else if s.cellState u != .free || (s.cell u).slot != 63 || s.isInheritCell u then some ccCellState
    else if (s.hitchable n l).isNone then some ccLcell else none
  | 0x11 =>
    if !c.moves.isEmpty then some ccPending
    else match s.placed n l with
    | none => some ccCellState
    | some p =>
      if s.cellState p != .hitched then some ccCellState
      else if l ≠ c.base + BitVec.ofNat 27 (c.localCells - 1 - s.leavingCount n) || (s.cell p).leaving then some ccLcell else none
  | 0x12 =>
    if u ≥ 1152 then some ccRange
    else if c.batch then some ccPending
    else match s.placed n l with
      | none => some ccCellState
      | some p =>
        if s.cellState p != .hitched || (s.cell p).leaving || s.cellState u != .free || (s.cell u).slot != 63 || s.isInheritCell u then
          some ccCellState
        else if c.moves.any (fun m => m.lcell == l) then some ccLcell
        else if s.changesPending n then some ccPending else none
  | 0x13 =>
    if c.moves.isEmpty || !(s.tt n).loaded || s.ttLoading n then some ccEmpty
    else if s.swapArmed n then some ccArmed else none
  | 0x14 => if c.moves.isEmpty || c.phase == 2 then some ccTooLate else none
  | 0x20 =>
    let x := bfield arg 0 7
    if u > 51 ∨ x > 64 then some ccRange
    else if (s.mc u).shareSum n x > 64 then some ccOvercommit else none
  | 0x21 =>
    let x := bfield arg 0 7
    let total := s.coaches.foldl (fun t e => if e.1 = n then t else t + (tget 0 e.2.linkShare u).toNat) x
    if u > 8 ∨ x > 64 then some ccRange
    else if total > 60 then some ccOvercommit else none
  | 0x30 => if bfield arg 0 7 = 0 ∨ bfield arg 0 7 > 64 then some ccRange else none
  | _ => none

/-! What they do. -/

/-- OPEN (R200): the route area is cleared (R430), the spill key replaced (R502), the coach counters zeroed (R590); the slot has
no step and is parked (R381). -/
def State.coachOpen (s : State) (n : Nat) (l : BitVec 27) (arg : Word) : State :=
  let c := s.coach n
  let s := ((s.clearRoutes n).clearSems n).newSpillKey n
  let s := s.setSlotSched n {}
  let s := { s with dbg := { s.dbg with coachCtr := s.dbg.coachCtr.filter fun e => e.1 / 16 != n } }
  let s := s.setCoach n { valid := true, span := arg.getLsbD 25, partition := BitVec.ofNat 5 (bfield arg 20 5)
                          coachId := BitVec.ofNat 20 (bfield arg 0 20), base := l
                          yieldTable := c.yieldTable, staleDrops := c.staleDrops, moveDrops := c.moveDrops }
  s.parkIfIdle n

/-- CLOSE clears the ENABLE of the slot's sync page, with its recall (R237, R297, R309): SYNC_BUSY stays set until that is done; a write
of the page that is being carried out ends with ENABLE clear. -/
def State.syncRecall (s : State) (n : Slot) : State :=
  let off (v : Word) : Word := v &&& ~~~1#64
  let v := off (tget 0 s.coh.syncPage n)
  let shown := (tget 0 s.coh.syncPage n).getLsbD 0
  match s.coh.syncBusy with
  | some (m, w) =>
    if m = n then { s with coh := { s.coh with syncBusy := some (m, off w) } }
    else if shown then { s with coh := { s.coh with syncNext := s.coh.syncNext ++ [(n, v)] } } else s
  | none => if shown then { s with coh := { s.coh with syncBusy := some (n, v) } } else s

/-- CLOSE (R201, R237); it clears the enable of the counter export (R593). -/
def State.coachClose (s : State) (n : Slot) : State :=
  let c := s.coach n
  let x := s.dbg.ctrExport
  let s := { s with dbg := { s.dbg with ctrExport := tset 0 x n (tget 0 x n &&& ~~~1#64) } }
  ((s.clearRoutes n).syncRecall n).setCoach n { yieldTable := c.yieldTable, staleDrops := c.staleDrops, moveDrops := c.moveDrops }

/-- A pcell reserved for a coach (R213, R215, R229). -/
def State.join (s : State) (n p peer : Nat) (l : BitVec 27) : State :=
  let s := s.setCell p { s.cell p with st := .joining, slot := BitVec.ofNat 6 n, lcell := l, peer, portEpoch := s.epochOf n }
  s.sendEpochSet n p

/-- A command carried out; stuck names the pcells that do not stop for RESET. -/
def State.coachAct (s : State) (n : Slot) (v arg : Word) (stuck : List Nat) : State :=
  let c := s.coach n
  let u := ccUnit v
  let l := ccCell v
  match bfield v 0 8 with
  | 0x01 => s.coachOpen n l arg
  | 0x02 => s.coachClose n
  | 0x03 =>
    let s := { s with coachRegs := { s.coachRegs with resetting := some n } }
    let s := s.resetBegin n (if arg.getLsbD 0 then some (faultCode 0 stepCoachReset) else none) none stuck
    if (tget none s.errs.resets n).isSome then s
    else { s with coachRegs := { s.coachRegs with resetting := none } }
  | 0x10 =>
    let refill := (s.hitchable n l).getD false
    let s := s.join n u 0 l
    let t := s.setCoach n { s.coach n with hitches := c.hitches ++ [{ pcell := u, lcell := l, refill }] }
    State.joinClock s t u
  | 0x11 => match s.placed n l with
    | some p => s.setCell p { s.cell p with leaving := true }
    | none => s
  | 0x12 => match s.placed n l with
    | some p =>
      let s := s.join n u p l
      let s := (s.setCell u { s.cell u with heldSlow := (s.cell p).heldSlow }).setFreq u (s.cell p).freq.toNat
      let s := s.setCell p { s.cell p with peer := u }
      s.setCoach n { s.coach n with moves := c.moves ++ [{ lcell := l, src := p, dst := u }] }
    | none => s
  | 0x13 =>
    let s := s.setCoach n { c with phase := 1, quiescedAt := none }
    c.moves.foldl (fun s m => s.sendYieldReq n m.src) s
  | 0x14 => s.moveCancel n false
  | 0x20 =>
    let x := bfield arg 0 7
    let s := s.setShare u n x
    s.setCoach n { s.coach n with memShare := tset 0 c.memShare u (BitVec.ofNat 7 x) }
  | 0x21 =>
    let x : BitVec 7 := BitVec.ofNat 7 (bfield arg 0 7)
    let pend := c.linkPending.filter fun y => y.1 != u
    if x.toNat ≥ (tget 0 c.linkShare u).toNat then
      s.setCoach n { c with linkShare := tset 0 c.linkShare u x, linkPending := pend }
    else (s.setCoach n { c with linkPending := (u, x) :: pend }).linkSettle n
  | 0x30 => s.setCoach n { c with jbnUs := bfield arg 0 7 }
  | _ => s

/-- A write of COACH_CMD (R237, R238, R572). -/
def State.coachCommand (s : State) (v arg : Word) (stuck : List Nat) : State :=
  let s := { s with coachRegs := { s.coachRegs with arg } }
  let fail (e : Nat) : State := { s with coachRegs := { s.coachRegs with error := BitVec.ofNat 8 e } }
  if s.coachRegs.resetting.isSome then { s with coachRegs := { s.coachRegs with overrun := true } }
  else if ccBad v arg then fail ccBadOp
  else if h : ccCoach v < 48 then
    let n : Slot := ⟨ccCoach v, h⟩
    let op := bfield v 0 8
    if op ≠ 1 && !(s.coach n).valid then fail ccNoCoach
    else match s.coachCheck v arg with
      | some e => fail e
      | none =>
        let part := if op = 1 then bfield arg 20 5 else (s.coach n).partition.toNat
        let s := s.log 0x10 oPcie part n v arg
        let s := { s with coachRegs := { s.coachRegs with error := 0 } }
        s.coachAct n v arg stuck
  else fail ccRange

/-- COACH_CMD with an OP. -/
def withOp (op : Nat) (v : Word) : Word := (v &&& ~~~0xFF#64) ||| BitVec.ofNat 64 op

/-- OPEN (R200). -/
def execCoachOpen (cmd arg : Word) (s : State) : Out := s.gate fun s => .next (s.coachCommand (withOp 0x01 cmd) arg [])
/-- CLOSE (R201). -/
def execCoachClose (cmd arg : Word) (s : State) : Out := s.gate fun s => .next (s.coachCommand (withOp 0x02 cmd) arg [])
/-- HITCH_CELL (R229, R233). -/
def execHitchCell (cmd arg : Word) (s : State) : Out := s.gate fun s => .next (s.coachCommand (withOp 0x10 cmd) arg [])
/-- UNHITCH_CELL (R229). -/
def execUnhitchCell (cmd arg : Word) (s : State) : Out := s.gate fun s => .next (s.coachCommand (withOp 0x11 cmd) arg [])
/-- MOVE_CELL (R215). -/
def execMoveCell (cmd arg : Word) (s : State) : Out := s.gate fun s => .next (s.coachCommand (withOp 0x12 cmd) arg [])
/-- MOVE_GO (R216). -/
def execMoveGo (cmd arg : Word) (s : State) : Out := s.gate fun s => .next (s.coachCommand (withOp 0x13 cmd) arg [])
/-- MOVE_CANCEL (R228). -/
def execMoveCancel (cmd arg : Word) (s : State) : Out := s.gate fun s => .next (s.coachCommand (withOp 0x14 cmd) arg [])
/-- SET_MEM (R234). -/
def execSetMem (cmd arg : Word) (s : State) : Out := s.gate fun s => .next (s.coachCommand (withOp 0x20 cmd) arg [])
/-- SET_LINK (R235, R425). -/
def execSetLink (cmd arg : Word) (s : State) : Out := s.gate fun s => .next (s.coachCommand (withOp 0x21 cmd) arg [])
/-- SET_WINDOW (R210). -/
def execSetWindow (cmd arg : Word) (s : State) : Out := s.gate fun s => .next (s.coachCommand (withOp 0x30 cmd) arg [])
/-- RESET (R477, R478): stuck names the pcells that do not stop. -/
def execCoachReset (cmd arg : Word) (stuck : List Nat) (s : State) : Out := s.gate fun s =>
  .next (s.coachCommand (withOp 0x03 cmd) arg stuck)

/-! The command block as it reads (R237, R239, R240). -/

/-- COACH_CMD_STATUS. -/
def CoachRegs.status (r : CoachRegs) : Word := put 8 r.error.toNat ||| putB 2 r.overrun ||| putB 0 r.resetting.isSome

/-- COACH_STATE. -/
def State.coachState (s : State) (n : Nat) : Word :=
  let c := s.coach n
  putB 63 c.valid ||| putB 62 c.span ||| putB 61 (s.stepRuns n) ||| putB 60 c.batch ||| putB 59 (s.changesPending n)
    ||| putB 58 c.closeFrame.isSome ||| putB 57 (!c.unplaced.isEmpty) ||| put 52 c.partition.toNat ||| put 32 c.coachId.toNat
    ||| put 16 c.localCells

/-- COACH_WINDOW. -/
def Coach.window (c : Coach) : Word := put 8 ((c.closeFrame.getD 0) % 2 ^ 48) ||| put 0 c.jbnUs

/-- MOVE_STATUS (R239): the batch, or the last one that ended (DEDUCED, log 79). -/
def Coach.moveStatus (c : Coach) : Word :=
  let b := if c.moves.isEmpty then c.lastBatch else c.moves
  put 43 b.length ||| put 32 (b.filter (·.quiesced)).length ||| put 21 (b.filter (·.resumed)).length
    ||| putB 2 c.cancelled ||| put 0 c.phase.toNat

/-- MEM_SHARE_k and LINK_SHARE_k: eight shares. -/
def shareBytes (m : SMap (BitVec 7)) (k : Nat) : Word :=
  (span 0 8).foldl (fun (w : Word) j => w ||| put (8 * j) (tget 0 m (8 * k + j)).toNat) 0

/-- CELL_HITCH_p (R240; PEER of a HITCHED source: DEDUCED, log 79). -/
def State.cellHitch (s : State) (p : Nat) : Word :=
  let c := s.cell p
  let st : Nat := match s.cellState p with
    | .free => 0
    | .hitched => 1
    | .joining => 2
    | .moveIn => 3
    | .moveOut => 4
    | .vacated => 5
    | .spare => 6
    | _ => 7
  put 41 c.peer ||| putB 40 c.stub ||| putB 39 c.leaving ||| put 36 st ||| put 30 c.slot.toNat ||| put 0 c.lcell.toNat

/-- A slot block's register (R239). -/
def State.slotRead (s : State) (n off : Nat) : Word :=
  let c := s.coach n
  match off with
  | 0x00 => s.coachState n
  | 0x08 => put 0 c.base.toNat
  | 0x10 => put 0 c.epoch.toNat
  | 0x18 => c.window
  | 0x20 => c.yieldTable
  | 0x28 => c.moveStatus
  | 0x30 => put 32 c.staleDrops.toNat ||| put 0 c.moveDrops.toNat
  | 0x78 => shareBytes c.linkShare 0
  | 0x80 => shareBytes c.linkShare 1
  | _ => if 0x40 ≤ off ∧ off ≤ 0x70 ∧ off % 8 = 0 then shareBytes c.memShare ((off - 0x40) / 8) else 0

end Sys2Proof.Machine
end

