-- ==== Sys2Proof/Machine/NonCaching.lean ====
section
/-! DEFINITION. Non-caching requests (R245, R259 to R261, R280, R287, R434): how one enters the queues of its lines, and its answer once
every line has been performed at its home. -/
namespace Sys2Proof.Machine

/-! The request flit (R259, R435). -/

def rqOp (f : Unit32) : Nat := bfield f 0 8
def rqReply (f : Unit32) : Nat := bfield f 8 6
def rqLines (f : Unit32) : Nat := bfield f 16 16
def rqAlloc (f : Unit32) : Bool := f.getLsbD 32
def rqAddr (f : Unit32) : Nat := bfield f 64 64

/-- A reserved field or value (R260). -/
def rqBad (f : Unit32) : Bool :=
  let op := rqOp f
  let lines := rqLines f
  op == 0 || decide (op > 4) || rqReply f == 0 || bfield f 14 2 != 0 || bfield f 33 31 != 0 || bfield f 128 128 != 0 || rqAddr f % 64 != 0
    || (if op == 4 then lines != 0 else decide (lines = 0) || decide (lines > 64) || decide (rqAddr f % 4096 + 64 * lines > 4096))

/-- Data flits that follow a request. -/
def rqData (f : Unit32) : Nat := if rqOp f = 2 then 2 * min (rqLines f) 64 else if rqOp f = 4 then 1 else 0

/-- Status and failing address as a status flit (R260). -/
def statusUnit (status a : Nat) : Unit32 := BitVec.ofNat 256 (0x80 + status * 2 ^ 8 + (if status = 0 then 0 else a % 2 ^ 64) * 2 ^ 64)

/-- Data and status as the flits of a reply. -/
def replyUnits (status failing : Nat) (data : List Byte) : List Unit32 :=
  flitsOf (data.length / 32 + 1) data ++ [statusUnit status failing]

/-- Flits added to a reply stream of an endpoint. -/
def State.pushReply (s : State) (ep n stream : Nat) (l : List Unit32) : State :=
  if stream = 0 then s else s.pushOut ep n stream l

/-- Zeros for the data of a read, then the status. -/
def failReply (f : Unit32) (status a : Nat) : List Unit32 :=
  replyUnits status a (natBytes (if rqOp f = 1 then 64 * min (rqLines f) 64 else if rqOp f = 4 then 32 else 0) 0)

/-- In place of an endpoint: each line at its own home. -/
def anyHome : Nat := 2048

/-- The check of a line's address for a requester at an endpoint (R243, R245): ADDR where it holds no memory there. -/
def State.lineCheck (s : State) (ep who a : Nat) : Nat :=
  if !s.holdsMemory a || (ep != anyHome && homeOf a != ep) then srAddr else if !s.mayAccess who a then srPartition else srOk

/-- The lines that pass the check. -/
def State.goodLines (s : State) (ep who a lines : Nat) : List Nat :=
  (span 0 lines).filterMap fun i => if s.lineCheck ep who (a + 64 * i) = srOk then some (a / 64 + i) else none

/-- The first failing line of a request before memory is read. -/
def State.firstBad (s : State) (ep who a lines : Nat) : Nat × Nat :=
  match (span 0 lines).find? fun i => s.lineCheck ep who (a + 64 * i) != srOk with
  | some i => (s.lineCheck ep who (a + 64 * i), a + 64 * i)
  | none => (srOk, 0)

/-! Answers. -/

/-- The answer to a request: under the AUX of the request, to its sender, on the port on which it came. -/
def State.respond (s : State) (k n : Nat) (p : Packet) (status : Nat) (data : List Byte) : State :=
  s.sendPacket k n n
    { type := BitVec.ofNat 8 (0x0F + p.type.toNat), status := BitVec.ofNat 4 status, dst := p.src, src := 0, cls := 1, epoch := p.aux
      tag := p.tag, length := BitVec.ofNat 16 (data.length / 32), addr := p.addr, payload := data, auth := none }

/-- The answer of a non-caching request: data, zeros where no data came, then the status flit on the reply stream (R260); or the response
packet of a fabric request (R434). -/
def State.ncReply (s : State) (q : NcReq) : State :=
  let data (lines : Nat) : List Byte := (span 0 lines).flatMap fun i => match q.got.find? fun e => e.1 == q.addr / 64 + i with
    | some e => bytesOf 64 e.2
    | none => natBytes 64 0
  match q.src with
  | .stream ep n _ f =>
    if q.mute then s else
    s.pushReply ep n (rqReply f) (replyUnits q.status q.failing (if rqOp f = 1 then data q.lines else []))
  | .fabric k n p =>
    let x := s.jport k
    let s := s.setJport k { x with ingress := dropFirst (n, p) x.ingress }
    s.respond k n p q.status (match p.type.toNat with
      | 1 => (data q.lines).take (32 * p.length.toNat)
      | 2 => []
      | _ => bytesOf 8 q.old ++ natBytes 24 0)

/-- Every request whose lines have all been performed is answered, the oldest first. -/
def State.ncAnswer (s : State) : State :=
  (s.nonCaching.filter fun q => q.left.isEmpty).foldl (fun s q =>
    ({ s with nonCaching := s.nonCaching.filter fun x => x.id != q.id } : State).ncReply q) s

/-! Entry. -/

/-- What a request does. -/
inductive NcOp where
  | read
  | write (data : List Byte)
  | atomic (body : BitVec 192)

/-- The request for line i of a request with a number, at its home. -/
def NcOp.at (o : NcOp) (id i : Nat) : HomeReq :=
  match o with
  | .read => .read id
  | .write d => .write id (ofBytes 512 ((d.drop (64 * i)).take 64)) (d.length - 64 * i)
  | .atomic b => .remote id b

/-- A request whose lines are checked (R245): each line that passes joins the queue of its home (R287); one failing line, and a write or
an atomic does nothing (R260). -/
def State.ncOpen (s : State) (ep : Nat) (q : NcReq) (o : NcOp) : State :=
  let bad := s.firstBad ep q.who q.addr q.lines
  let all := match o with
    | .read => true
    | _ => decide (bad.1 = srOk)
  let lines := if all then s.goodLines ep q.who q.addr q.lines else []
  let q := { q with id := s.ncNext, left := lines, status := bad.1, failing := bad.2 }
  let s := { s with nonCaching := s.nonCaching ++ [q], ncNext := s.ncNext + 1 }
  (lines.foldl (fun s l =>
    s.homeJoin (BitVec.ofNat 46 l) (o.at q.id (l - q.addr / 64))) s).ncAnswer

/-- Flits of the replies that requests under way will need at an endpoint for a slot (R261). -/
def State.ncReserved (s : State) (ep n : Nat) : Nat :=
  s.nonCaching.foldl (fun t q => match q.src with
    | .stream e m _ f => if e = ep ∧ m = n ∧ !q.mute then t + replyFlits (rqOp f) (rqLines f) else t
    | .fabric .. => t) 0

/-- A request of the stream is under way: the requests behind it wait (R261). -/
def State.ncBusy (s : State) (ep n stream : Nat) : Bool :=
  s.nonCaching.any fun q => match q.src with
    | .stream e m t _ => e == ep && m == n && t == stream && !q.mute
    | .fabric .. => false

end Sys2Proof.Machine
end

