-- ==== Sys2Proof/Machine/CohMsg.lean ====
section
/-! DEFINITION. The coherence messages and events (R281 to R305): what each does where it arrives; sync pages and home turns. -/
namespace Sys2Proof.Machine

/-! Requests at a home. -/

/-- A request message that arrives at the line's home. -/
def State.request_ (s : State) (i : Instr) (l : LineNo) (r : HomeReq) : Out := s.delivered i fun s =>
  if s.homeTurn (s.poolOf r.sender l) then .next ((s.take i).atHome l r i).ncAnswer else .next s

/-- GET_S (R284, R288). -/
def execGetS (a : Nat) (line : LineNo) (sharedOnly : Bool) (s : State) : Out := s.onModule fun s => s.request_ (.getS a line sharedOnly) line (.getS a sharedOnly)
/-- GET_M (R284, R288). -/
def execGetM (a : Nat) (line : LineNo) (s : State) : Out := s.onModule fun s => s.request_ (.getM a line) line (.getM a)
/-- UPGRADE (R284, R288). -/
def execUpgrade (a : Nat) (line : LineNo) (s : State) : Out := s.onModule fun s => s.request_ (.upgrade a line) line (.upgrade a)
/-- PUT_S (R288). -/
def execPutS (a : Nat) (line : LineNo) (s : State) : Out := s.onModule fun s => s.request_ (.putS a line) line (.putS a)
/-- PUT_E (R288). -/
def execPutE (a : Nat) (line : LineNo) (s : State) : Out := s.onModule fun s => s.request_ (.putE a line) line (.putE a)
/-- PUT_D (R288). -/
def execPutD (a : Nat) (line : LineNo) (data : Line) (s : State) : Out := s.onModule fun s => s.request_ (.putD a line data) line (.putD a data)
/-- AMO_FAR (R288, R301, R302). -/
def execAmoFar (a : Nat) (line : LineNo) (body : BitVec 192) (s : State) : Out := s.onModule fun s => s.request_ (.amoFar a line body) line (.amo a body)

/-! Forwards, snoops and invalidations at an agent. -/

/-- FWD_GET_S (R284). -/
def execFwdGetS (a : Nat) (line : LineNo) (requester : Nat) (acks : Bool) (s : State) : Out := s.onClock a fun s =>
  s.delivered (.fwdGetS a line requester acks) fun s => .next ((s.takeAt a (.fwdGetS a line requester acks)).forwarded a line (.fwdGetS a line requester acks))
/-- FWD_GET_M (R284). -/
def execFwdGetM (a : Nat) (line : LineNo) (requester : Nat) (acks : Bool) (s : State) : Out := s.onClock a fun s =>
  s.delivered (.fwdGetM a line requester acks) fun s => .next ((s.takeAt a (.fwdGetM a line requester acks)).forwarded a line (.fwdGetM a line requester acks))
/-- SNP_DATA (R284). -/
def execSnpData (a : Nat) (line : LineNo) (s : State) : Out := s.onClock a fun s =>
  s.delivered (.snpData a line) fun s => .next ((s.takeAt a (.snpData a line)).forwarded a line (.snpData a line))
/-- SNP_INV (R284). -/
def execSnpInv (a : Nat) (line : LineNo) (s : State) : Out := s.onClock a fun s =>
  s.delivered (.snpInv a line) fun s => .next ((s.takeAt a (.snpInv a line)).forwarded a line (.snpInv a line))

/-- INV (R284, R285); an engine whose copy goes reads the line again (R172). -/
def execInv (a : Nat) (line : LineNo) (s : State) : Out := s.onClock a fun s =>
  s.delivered (.inv a line) fun s => .next (((s.takeAt a (.inv a line)).invAgent a line).rereadTail a line)

/-- The key of an engine's recent filter: each Mule keeps its own beside the homes' (R305). -/
def engineFilter (e : Nat) : Nat := 2048 + e

/-- The partition and the master of a far atomic that an engine executes: its agent's, or those of the fabric request that the line serves. -/
def State.amoFrom (s : State) (requester : Nat) (l : LineNo) : Nat × Nat :=
  let q : Option NcReq := match (s.homeLine l).req with
    | some (.remote id _) => s.nonCaching.find? (·.id == id)
    | _ => none
  match q with
  | some q => (q.who, q.charge)
  | none => (s.partOfAgent requester l, s.agentMaster requester)

/-- An engine has a slice in which it serves a partition's far atomics (R195): in strict isolation mode, a slice of one of its rings. -/
def State.amoHasTime (s : State) (e q : Nat) : Bool :=
  !s.stable.strict.contains q || (s.engine e).rings.any fun r => s.partOf r.1 == q && decide (bfield r.2.cfg 24 7 > 0)

/-- FWD_AMO (R194, R195, R301): the engine executes a far atomic on its line. -/
def execFwdAmo (e : EngineIx) (line : LineNo) (requester : Nat) (body : BitVec 192) (s : State) : Out := s.onModule fun s =>
  s.delivered (.fwdAmo e line requester body) fun s =>
  let from_ := s.amoFrom requester line
  if !s.amoHasTime e from_.1 then .next s else
  let s := s.take (.fwdAmo e line requester body)
  let ep := epEngine e
  let m := from_.2
  match s.memDemand line.toNat 0 m with
  | (none, t) => .next ((t.post ep (.refuse requester line 3)).post ep (.snpResp ep line 3))
  | (some d, t) =>
    let (d', v) := amoLine body d
    let hot := (s.homeLine line).contended || s.recentOther (engineFilter e) line requester
    let t := (((t.memPut line.toNat d' m).noteAmo line.toNat body).noteServed (engineFilter e) line requester).doneShown requester line body
    .next ((t.post ep (.amoResp requester line (amoResult body v) hot)).post ep (.snpResp ep line 3))

/-! Responses at an agent. -/

/-- A cell fetches a line of a MULE region into its cache: noted until it is flushed (R166). -/
def State.noteCached (s : State) (a : Nat) (l : LineNo) : State :=
  if isCellEp a && s.isMule (lineAddr l) && !s.muleCached.contains l.toNat then { s with muleCached := l.toNat :: s.muleCached } else s

/-- A ring's window is open over the line: a command has read or written it, and no DONE word has shown that command retired (R166). -/
def State.muleWindow (s : State) (l : LineNo) : Bool :=
  s.isMule (lineAddr l) && (s.engine (ctlOf (lineAddr l))).rings.any fun r => (r.2.window ++ r.2.closing.flatMap (·.2.2)).any fun x =>
    decide (x.1 / 64 ≤ l.toNat) && decide (l.toNat ≤ (x.1 + x.2 - 1) / 64)

/-- Data reaches a cell's cache: a cacheable access inside a Mule command's window is undefined (R167). -/
def State.filled (s : State) (a : Nat) (l : LineNo) (f : State → State) : Out :=
  if isCellEp a && s.muleWindow l then .fault .muleCached else .next (f (s.noteCached a l))

/-- A line won by a cell is held (R295); the access that caused the miss is performed first. -/
def State.win (s : State) (a : Nat) (l : LineNo) (x : AgentLine) (hold : Bool) : State :=
  (s.setAgent a l { x with held := hold && isCellEp a }).agentWon a l

/-- Data for a load that an INV has overtaken: the loads that wait for it complete, the line goes (IS_DI), and the other accesses that
wait for it act as in I. -/
def State.useOnce (s : State) (a : Nat) (l : LineNo) (d : Line) : State :=
  let s := s.setAgent a l { s.agent a l with st := .S, data := d }
  match engineOfEp a with
  | some e => ((s.takeTails e l).agentTo a l .I).rereadTail a l
  | none => if isCellEp a then (((s.retryLoads a).agentLose a l .I).drainDeferred a l).retryCell a none else s

/-- PUT_ACK (R284). -/
def execPutAck (a : Nat) (line : LineNo) (s : State) : Out := s.onClock a fun s =>
  s.delivered (.putAck a line) fun s =>
  let s := s.takeAt a (.putAck a line)
  match (s.agent a line).st with
  | .MI_A | .OI_A | .EI_A | .SI_A | .II_A => .next ((s.agentTo a line .I).agentWon a line)
  | _ => .next s

/-- GRANT (R284). -/
def execGrant (a : Nat) (line : LineNo) (cont : Bool) (s : State) : Out := s.onClock a fun s =>
  s.delivered (.grant a line cont) fun s =>
  let s := s.takeAt a (.grant a line cont)
  let x := s.agent a line
  match x.st with
  | .SM_D | .OM_A => .next (s.win a line { x with st := .M, cont := cont } true)
  | _ => .next s

/-- DONE (R284). -/
def execDone (a : Nat) (line : LineNo) (s : State) : Out := s.onClock a fun s =>
  s.delivered (.done a line) fun s =>
  let s := s.takeAt a (.done a line)
  let x := s.agent a line
  match x.st with
  | .IM_A => .next (s.win a line { x with st := .M } true)
  | _ => .next s

/-- DATA_S (R284). -/
def execDataS (a : Nat) (line : LineNo) (data : Line) (s : State) : Out := s.onClock a fun s =>
  s.delivered (.dataS a line data) fun s =>
  let s := s.takeAt a (.dataS a line data)
  let x := s.agent a line
  match x.st with
  | .IS_D => s.filled a line fun s =>
    let s := s.setAgent a line { x with st := .S, data := data, cont := false }
    match engineOfEp a with
    | some e => s.takeTails e line
    | none => s.agentWon a line
  | .IS_DI => s.filled a line fun s => s.useOnce a line data
  | _ => .next s

/-- DATA_E (R284, R295). -/
def execDataE (a : Nat) (line : LineNo) (data : Line) (s : State) : Out := s.onClock a fun s =>
  s.delivered (.dataE a line data) fun s =>
  let s := s.takeAt a (.dataE a line data)
  let x := s.agent a line
  match x.st with
  | .IS_D => s.filled a line fun s => s.win a line { x with st := .E, data := data, cont := false } true
  | .IS_DI => s.filled a line fun s => s.useOnce a line data
  | _ => .next s

/-- DATA_M (R284, R295); at a home, the owner-ordered line that it called to itself (R298). -/
def execDataM (a : Nat) (line : LineNo) (data : Line) (cont wait : Bool) (s : State) : Out := s.onClock a fun s =>
  s.delivered (.dataM a line data cont wait) fun s =>
  let s := s.takeAt a (.dataM a line data cont wait)
  if !isCellEp a then .next (s.homeDataM line data).ncAnswer
  else
    let x := s.agent a line
    match x.st with
    | .IM_D | .SM_D | .IS_D => s.filled a line fun s =>
      if wait then s.setAgent a line { x with st := .IM_A, data := data, cont := cont }
      else s.win a line { x with st := .M, data := data, cont := cont } true
    | .IS_DI => s.filled a line fun s => s.useOnce a line data
    | _ => .next s

/-- A far atomic of a cell refused. -/
def State.farRefused (s : State) (p : Nat) (l : LineNo) (code : BitVec 2) : State :=
  match (s.cell p).far.find? fun e => e.2.1 == l with
  | some (h, _) => if hh : h < 4 then s.retryHen p ⟨h, hh⟩ (some (l, code)) else s
  | none => s

/-- The engine's answer to a fabric atomic comes back to FAB: its line has been performed (R434, R435). -/
def State.fabAmo (s : State) (ep : Nat) (l : LineNo) (status : Nat) (old : Word) : State :=
  match s.nonCaching.find? fun q => q.left.contains l.toNat && match q.src with
    | .fabric k _ p => fabEp (portEast k) == ep && p.type == 3
    | _ => false with
  | some q => (s.setNc { q.performed l.toNat none status with old := old }).ncAnswer
  | none => s

/-- REFUSE (R286): the Hen accesses that wait for the line raise their exceptions; a Mule's rings that use it fault. -/
def execRefuse (a : Nat) (line : LineNo) (code : BitVec 2) (s : State) : Out := s.onClock a fun s =>
  s.delivered (.refuse a line code) fun s =>
  let s := s.takeAt a (.refuse a line code)
  match engineOfEp a with
  | some e =>
    let kind := if code = 1 then mPartition else if code = 3 then mEcc else mStack
    -- a read of a tail word, or the store of a DONE word
    let reads := (s.agent a line).st == .IS_D || (s.agent a line).st == .IS_DI
    let s := if reads then s.agentTo a line .I else s.storeAnswered e line
    let hit := (s.engine e).rings.filter fun r =>
      r.2.enabled && !r.2.halt && lineNo (if reads then r.2.tailAddr else r.2.doneAddr).toNat == line
    .next (hit.foldl (fun s r => s.ringFault e r.1 kind (r.2.cur.getD 0)) s)
  | none =>
    if !isCellEp a then .next (s.fabAmo a line srEcc 0)
    else match (s.agent a line).st with
      | .IS_D | .IS_DI | .IM_D | .IM_A | .SM_D | .OM_A =>
        .next (((s.agentLose a line .I).retryCell a (some (line, code))).drainDeferred a line)
      | _ => .next (s.farRefused a line code)

/-- RETRY (R293): the agent keeps the request and sends no other to that home until CREDIT. -/
def execRetry (a : Nat) (line : LineNo) (s : State) : Out := s.onClock a fun s =>
  s.delivered (.retry a line) fun s =>
  let s := s.takeAt a (.retry a line)
  let k := a * 2048 + homeEp line
  let isFor (i : Instr) : Bool := match i with
    | .getS _ l _ | .getM _ l | .upgrade _ l | .amoFar _ l _ => l == line
    | _ => false
  let l := tget [] s.retrying k
  match l.find? isFor with
  | none => .next s
  | some i => .next { s with
      retrying := tset [] s.retrying k (dropFirst i l)
      refused := tset [] s.refused k (tget [] s.refused k ++ [i]) }

/-- CREDIT (R293): the oldest refused request goes first, the others after it. -/
def execCredit (a : Nat) (line : LineNo) (s : State) : Out := s.onClock a fun s =>
  s.delivered (.credit a line) fun s =>
  let s := s.takeAt a (.credit a line)
  let k := a * 2048 + homeEp line
  let l := tget [] s.refused k
  let s := l.foldl (fun s i => s.sendFrom a i) { s with refused := tset [] s.refused k [] }
  if !l.isEmpty then .next s
  else
    -- the agent has no request left: its reserved entry goes to the next marked agent
    let h := homeEp line
    match (s.home h).reserved.find? (·.1 == a) with
    | none => .next s
    | some m => .next ((s.setHome h { s.home h with reserved := dropFirst m (s.home h).reserved }).freePool h m.2 line)

/-- HOLD_END (R295): deferred forwards and snoops are acted on. -/
def execHoldEnd (a : Nat) (line : LineNo) (s : State) : Out := s.onClock a fun s =>
  let x := s.agent a line
  let s := (s.setAgent a line { x with held := false }).drainDeferred a line
  .next (if isCellEp a then s.retryCell a none else s)

/-- AMO_RESP (R303, R304): the Hen's far atomic retires with the old value, and the predictor learns; at an engine, its DONE word is
stored. -/
def execAmoResp (a : Nat) (line : LineNo) (old : Word) (hot : Bool) (s : State) : Out := s.onClock a fun s =>
  s.delivered (.amoResp a line old hot) fun s =>
  let s := s.takeAt a (.amoResp a line old hot)
  if !isCellEp a then .next (match engineOfEp a with
    | some e => s.storeAnswered e line
    | none => s.fabAmo a line srOk old)
  else
    let c := s.cell a
    match c.far.find? fun e => e.2.1 == line with
    | none => .next s
    | some (h, _) =>
      let s := s.setCell a { c with far := dropWhere (fun e => e.2.1 == line) c.far }
      let s := (s.learn a (lineAddr line) hot).checkInvs a
      if hh : h < 4 then
        match (s.hen a ⟨h, hh⟩).stall with
        | some (.amo _ _ _ dbl _ _ rd _ _) =>
          .next ((s.done a ⟨h, hh⟩ 4 fun x =>
            { (x.setX rd (if dbl then old else sext 32 old.toNat)) with amoChoice := 0 }).retryCell a none)
        | _ => .next s
      else .next s

/-! Responses at a home. -/

/-- INV_ACK (R289). -/
def execInvAck (a : Nat) (line : LineNo) (s : State) : Out := s.onModule fun s => s.delivered (.invAck a line) fun s =>
  .next ((s.take (.invAck a line)).homeInvAck line).ncAnswer
/-- SNP_RESP (R289). -/
def execSnpResp (a : Nat) (line : LineNo) (code : BitVec 2) (s : State) : Out := s.onModule fun s =>
  s.delivered (.snpResp a line code) fun s => .next ((s.take (.snpResp a line code)).homeSnp a line code).ncAnswer
/-- WB_DATA (R289). -/
def execWbData (a : Nat) (line : LineNo) (data : Line) (s : State) : Out := s.onModule fun s =>
  s.delivered (.wbData a line data) fun s => .next ((s.take (.wbData a line data)).homeWb a line data).ncAnswer

/-! Sync pages and home turns (R294, R297, R309). -/

def syncBits : Word := 0x000FFFFFFFFF0001

/-- A write of SYNC_PAGE_n (R297, R309). -/
def State.syncPageWrite (s : State) (n : Slot) (v : Word) : State :=
  let old := tget 0 s.coh.syncPage n
  let addr := bfield v 16 36 * 65536
  let logged := s.logWindow (0x340100 + 8 * n) v
  if s.coh.syncBusy.isSome then s
  else if v.getLsbD 0 && (!(s.coach n).valid || bfield v 1 15 != 0 || !s.inChunk addr || s.ownerOf addr != s.partOf n) then
    { s with coh := { s.coh with syncBad := true } }
  else if !v.getLsbD 0 && !old.getLsbD 0 then
    { logged with coh := { logged.coh with syncPage := tset 0 s.coh.syncPage n (v &&& syncBits) } }
  else { logged with coh := { logged.coh with syncBusy := some (n, v &&& syncBits) } }

/-- SYNC_PAGE_WRITE (R297). -/
def execSyncPageWrite (n : Slot) (v : Word) (s : State) : Out := s.gate fun s => .next (s.syncPageWrite n v)

/-- SYNC_PAGE_RECALL_DONE (R297): every cached line of the page before and after the write has been written back and
invalidated, and the write takes effect. -/
def execSyncPageRecallDone (s : State) : Out := s.onModule fun s =>
  match s.coh.syncBusy with
  | none => .next s
  | some (n, v) =>
    let old := tget 0 s.coh.syncPage n
    let inPage (w : Word) (l : Nat) : Bool := w.getLsbD 0 && bfield w 16 36 == l / 1024
    let lines := s.knownLines fun l => inPage old l || inPage v l
    if lines.any fun l => !s.quiet (BitVec.ofNat 46 l) then .next s
    else
      let s := lines.foldl (fun s l => s.flushLine (BitVec.ofNat 46 l) false) s
      .next { s with coh := { s.coh with syncBusy := s.coh.syncNext.head?, syncNext := s.coh.syncNext.tail, syncPage := tset 0 s.coh.syncPage n v } }

/-- A write of COH_STRICT_p (R294, R309). -/
def State.cohStrictWrite (s : State) (q : PartIx) (v : Word) : State :=
  let t := bfield v 0 7
  let total := s.coh.strict.foldl (fun n e => if e.1 = q.val then n else n + e.2.toNat) t
  if total > 48 ∨ (t ≠ 0 ∧ !s.stable.strict.contains q.val) then { s with coh := { s.coh with strictOver := true } }
  else
    let s := s.logWindow (0x340400 + 8 * q) v
    { s with coh := { s.coh with strict := tset 0 s.coh.strict q (BitVec.ofNat 7 t) } }

/-- COH_STRICT_WRITE (R294, R309). -/
def execCohStrictWrite (q : PartIx) (v : Word) (s : State) : Out := s.gate fun s => .next (s.cohStrictWrite q v)

end Sys2Proof.Machine
end

