-- ==== Sys2Proof/Machine/Jbn.lean ====
section
/-! DEFINITION. The Jombitin fabric: what arrives at a port, remote requests, hand-overs, timeouts (R423 to R444). -/
namespace Sys2Proof.Machine

/-! Replies to Dray routes (R434). -/

/-- The answers at the head of each route go to the Stage network in the order of the route's requests; an answer to a request that a
reset discarded (route 64) goes nowhere. blocked: routes whose oldest request has no answer yet. -/
def State.fabReplies (s : State) : List JbnReq → List (Nat × Bool × Nat) → State
  | [], _ => s
  | r :: rest, blocked =>
    let route := (r.slot, r.east, r.reply)
    match r.answer with
    | none => State.fabReplies s rest (blocked ++ [route])
    | some f =>
      if r.reply ≠ 64 && blocked.contains route then State.fabReplies s rest blocked
      else
        let s := { s with jbn := { s.jbn with reqs := dropFirst r s.jbn.reqs } }
        let s := if r.reply = 64 then s else s.pushReply (fabEp r.east) r.slot r.reply f
        State.fabReplies s rest blocked

/-- An outstanding request gets its answer. -/
def State.fabAnswer (s : State) (r : JbnReq) (f : List Unit32) : State :=
  let s := { s with jbn := { s.jbn with reqs := s.jbn.reqs.map fun (x : JbnReq) => if x = r then { x with answer := some f } else x } }
  s.fabReplies s.jbn.reqs []

/-- The flits of an answer: as many as the request reserved, zeros where no data came. -/
def JbnReq.flits (r : JbnReq) (status : Nat) (data : List Byte) : List Unit32 :=
  let n := if r.op = 1 then 64 * r.lines else if r.op = 4 then 32 else 0
  replyUnits status r.addr ((data ++ natBytes n 0).take n)

/-- The packet of a request under a remote map entry (R434, R437). -/
def State.requestPacket (s : State) (r : JbnReq) (e : RemoteEntry) : Packet :=
  { type := BitVec.ofNat 8 (if r.op = 1 then 1 else if r.op = 2 then 2 else 3)
    attempt := BitVec.ofNat 3 r.attempt, dst := e.module, src := 0, cls := 0, epoch := e.epoch, tag := r.tag
    length := BitVec.ofNat 16 (if r.op = 4 then 1 else 2 * r.lines)
    addr := BitVec.ofNat 64 (e.server + (r.addr - 0x4000000000000 - e.win)), aux := s.epochOf r.slot
    payload := if r.op = 4 then (r.data.flatMap (bytesOf 32)).take 24 ++ natBytes 8 0 else r.data.flatMap (bytesOf 32), auth := none }

/-- A request sent, or sent again, by the remote map; ADDR where no entry holds its address. -/
def State.fabIssue (s : State) (r : JbnReq) : State :=
  match s.remoteOf r.slot r.addr with
  | none => s.fabAnswer r (r.flits srAddr [])
  | some e => s.sendPacket (if r.east then e.portE else e.portW) r.slot r.slot (s.requestPacket r e)

/-- A tag that no outstanding request has. -/
def State.freeTag (s : State) : Option (BitVec 16) :=
  ((span 0 8193).map fun i => s.jbn.nextTag + BitVec.ofNat 16 i).find? fun t => !s.jbn.reqs.any fun r => r.tag == t

/-- A request of a Dray reaches FAB egress (R434, R443): false while 8,192 are outstanding or the module has no identity. -/
def State.fabRequest (s : State) (east : Bool) (n reply op lines a : Nat) (data : List Unit32) (part : Nat) : Option State :=
  if s.jbn.reqs.length ≥ 8192 || s.jbn.moduleId.isNone then none
  else match s.freeTag with
    | none => none
    | some tag =>
      let r : JbnReq := { tag, slot := n, east, reply, op, lines, addr := a, data, issued := s.tick }
      let s := { s with jbn := { s.jbn with reqs := s.jbn.reqs ++ [r], nextTag := tag + 1 } }
      -- one that no entry of the remote map holds reads and writes nothing (R337)
      let s := if (s.remoteOf n a).isSome then s.acTouch 1 part a (max lines 1) else s
      some (s.fabIssue r)

/-! Serving a request of another module (R428, R434, R440, R441). -/

/-- What the hand-over record holds (R440), in the model's layout: type, attempt, tag, AUX, requester, length, the new owner's address. -/
def handRecord (p : Packet) (a : Nat) : List Byte :=
  natBytes 1 p.type.toNat ++ natBytes 1 p.attempt.toNat ++ natBytes 2 p.tag.toNat ++ natBytes 4 p.aux.toNat ++ natBytes 4 p.src.toNat
    ++ natBytes 2 p.length.toNat ++ natBytes 2 0 ++ natBytes 8 a ++ natBytes 40 0

/-- The request that a record hands over; it stands in the parts of CTRL, in which its record came (R427). -/
def handRequest (p : Packet) : Packet :=
  let w := leNat (p.payload.take 24)
  { type := BitVec.ofNat 8 (field w 0 8), attempt := BitVec.ofNat 3 (field w 8 8), dst := p.dst, src := BitVec.ofNat 17 (field w 64 17)
    coachId := p.coachId, cls := 2, tag := BitVec.ofNat 16 (field w 16 16), length := BitVec.ofNat 16 (field w 96 16)
    addr := BitVec.ofNat 64 (field w 128 64), aux := BitVec.ofNat 32 (field w 32 32), payload := p.payload.drop 64, auth := p.auth }

/-- The range that a REHOME has moved away and that holds an address. -/
def State.rehomedTo (s : State) (n a : Nat) : Option Rehomed :=
  s.jbn.rehomed.find? fun r => r.slot == n && decide (r.base ≤ a) && decide (a < r.base + 2 ^ r.log2)

/-- A request is handed over (R440). -/
def State.handOver (s : State) (k n : Nat) (p : Packet) (r : Rehomed) : State :=
  let s := s.sendPacket k n 62
    { type := 0x21, dst := r.module, src := 0, cls := 2, tag := p.tag
      length := BitVec.ofNat 16 (2 + p.payload.length / 32), payload := handRecord p (r.newBase + (p.addr.toNat - r.base)) ++ p.payload
      auth := none }
  { s with jbn := { s.jbn with handovers := s.jbn.handovers ++ [(n, p.tag, p.src, s.tick)] } }

/-- Fields of a request that hold no request (R419, R421). -/
def Packet.badRequest (p : Packet) : Bool :=
  let l := p.length.toNat
  p.addr.toNat % 64 != 0 || decide (p.addr.toNat ≥ 2 ^ 52) || (match p.type.toNat with
    | 1 => decide (l = 0) || decide (l > 128) || !p.payload.isEmpty
    | 2 => decide (l = 0) || decide (l > 128) || p.payload.length != 32 * l
    | _ => l != 1 || p.payload.length != 32 || leNat (p.payload.drop 24) != 0)

/-- The ranges of a request's lines, as the homes are asked (R434, R435). -/
def Packet.op (p : Packet) : NcOp :=
  match p.type.toNat with
  | 1 => .read
  | 2 => .write p.payload
  | _ => .atomic (ofBytes 192 (p.payload.take 24))

/-- A request of a rehomed range is handed over while the range's window lasts, else dropped (R440). -/
def State.jbnRehomed (s : State) (k n : Nat) (p : Packet) (r : Rehomed) : State :=
  if s.tick < r.until_ then s.handOver k n p r else s.dropMisrouted

/-- An accepted request: handed over, refused, or held by ingress until its lines have been performed (R434). -/
def State.jbnRequest (s : State) (k n : Nat) (p : Packet) : State :=
  match s.rehomedTo n p.addr.toNat with
  | some r => s.jbnRehomed k n p r
  | none =>
    if Packet.badRequest p then s.respond k n p srBad []
    else if p.type == 3 && amoBad (ofBytes 192 (p.payload.take 24)) then s.respond k n p srBad []
    else
      let x := s.jport k
      (s.setJport k { x with ingress := x.ingress ++ [(n, p)] }).ncOpen anyHome
        { id := 0, src := .fabric k n p, who := s.partOf n, alloc := false, key := 0, charge := mJbn, addr := p.addr.toNat
          lines := if p.type.toNat = 3 then 1 else (p.length.toNat + 1) / 2 } (Packet.op p)

/-- The requests of a slot that a port's ingress holds unperformed and whose range has been moved away are handed over; one that has been
started is completed here (R440). -/
def State.ingressRehome (s : State) (k n : Nat) : State :=
  (s.jport k).ingress.foldl (fun s e => match s.rehomedTo e.1 e.2.addr.toNat with
    | none => s
    | some r =>
      if e.1 ≠ n || s.nonCaching.any (fun q => q.src == .fabric k e.1 e.2 && q.started) then s
      else
        let x := s.jport k
        let s := s.setJport k { x with ingress := dropFirst e x.ingress }
        ({ s with nonCaching := s.nonCaching.filter fun q => q.src != .fabric k e.1 e.2 } : State).jbnRehomed k e.1 e.2 r) s

/-! Acceptance (R419 to R437). -/

/-- The open coach slot of a global coach ID. -/
def State.slotOf (s : State) (id : BitVec 20) : Option Nat :=
  (span 0 48).find? fun n => (s.coach n).valid && (s.coach n).coachId == id

/-- The class of a packet type. -/
def typeClass (t : Nat) : Option Nat :=
  if 1 ≤ t ∧ t ≤ 4 then some 0 else if 0x10 ≤ t ∧ t ≤ 0x12 then some 1 else if 0x20 ≤ t ∧ t ≤ 0x22 then some 2
  else if 0x30 ≤ t ∧ t ≤ 0x32 then some 3 else none

/-- Bytes of a slot's packets in a port's ingress buffer: requests not yet performed, and STREAM packets not yet in the Stage network
(R427, R428). -/
def State.ingressFill (s : State) (k n : Nat) : Nat :=
  s.jbn.arriving.foldl (fun t x => if x.port = k ∧ x.key / 64 % 64 = n then t + x.bytes else t)
    ((s.jport k).ingress.foldl (fun t e => if e.1 = n && e.2.cls.toNat < 2 then t + 64 + e.2.payload.length else t) 0)

/-- Bytes of CTRL packets in a port's ingress buffer: hand-overs not yet performed (R427). -/
def State.ctrlFill (s : State) (k : Nat) : Nat :=
  (s.jport k).ingress.foldl (fun t e => if 2 ≤ e.2.cls.toNat then t + 64 + e.2.payload.length else t) 0

/-- A full epoch stamp is acceptable (R209, R437). -/
def State.epochOk32 (s : State) (n : Nat) (e : BitVec 32) : Bool :=
  let cur := s.epochOf n
  e == cur || (s.windowOpen n && e == cur - 1)

/-- What ingress does with a packet of a coach: the slot that takes it, or the state in which it is dropped. -/
def State.jbnAccept (s : State) (k : Nat) (p : Packet) : State ⊕ Nat :=
  let cls := p.cls.toNat
  match s.slotOf p.coachId with
  | none => .inl s.dropNotMember
  | some n =>
    let share := (tget 0 (s.coach n).linkShare k).toNat
    let full := decide (s.ingressFill k n + 64 + p.payload.length > share * 32768)
    if decide (cls < 2) && (decide (share = 0) || (decide (cls = 0) && full)) then .inl s.dropFull
    else if decide (2 ≤ cls) && decide (s.ctrlFill k + 64 + p.payload.length > 4 * 32768) then .inl s.dropFull
    else if p.auth.isNone || s.fabricKey n != p.auth || typeClass p.type.toNat != some cls then .inl s.dropAuth
    else if s.jbn.moduleId != some p.dst then .inl s.dropMisrouted
    else
      let member := s.isMember n p.src
      let ok := match cls with
        | 0 => member
        | 1 => member || s.isServer n p.src || s.jbn.reqs.any fun r => r.tag == p.tag && r.slot == n && r.answer.isNone
        | _ => member || s.isServer n p.src
      if !ok then .inl s.dropNotMember
      else if decide (cls < 2) && !s.epochOk32 n p.epoch then .inl (s.staleDrop n)
      else .inr n

/-- A packet at a port: its link credits go back at once (R427); act says what an accepted one does. -/
def State.jbnArrive (s : State) (k : Nat) (p : Packet) (act : State → Nat → State) : State :=
  if !(s.jport k).up then s
  else
    let s := s.emit (.linkCredits k p.cls.toNat (Packet.credits p))
    let s := (s.countGlobal (513 + 4 * k) p.payload.length).countGlobal (515 + 4 * k) 1
    if s.dbg.module then s.dropFull
    else match s.jbnAccept k p with
    | .inl t => t
    | .inr n => act (s.countCoach n 10 p.payload.length) n

/-- The row's type; a packet that shows a reserved type keeps it, and is dropped for it (R421). -/
def Packet.ofType (p : Packet) (t : Nat) : Packet :=
  if (typeClass p.type.toNat).isSome then { p with type := BitVec.ofNat 8 t } else p

/-- JBN_READ (R434). -/
def execJbnRead (k : PortIx) (pkt : Packet) (s : State) : Out :=
  let p := Packet.ofType pkt 0x01
  .next (s.jbnArrive k p fun s n => s.jbnRequest k n p)
/-- JBN_WRITE (R434). -/
def execJbnWrite (k : PortIx) (pkt : Packet) (s : State) : Out :=
  let p := Packet.ofType pkt 0x02
  .next (s.jbnArrive k p fun s n => s.jbnRequest k n p)
/-- JBN_ATOMIC (R434, R435). -/
def execJbnAtomic (k : PortIx) (pkt : Packet) (s : State) : Out :=
  let p := Packet.ofType pkt 0x03
  .next (s.jbnArrive k p fun s n => s.jbnRequest k n p)

/-- The pcell that held an lcell of a coach before the moves whose overlap window is open (R226). -/
def State.movedFrom (s : State) (n l : Nat) : Option Nat :=
  (s.cells.find? fun e => e.2.stub && e.2.stubCoach.toNat == n && e.2.stubLcell.toNat == l).map (·.1)

/-- STREAM (R433): the flits leave on the coach's FAB stream; a stream outside 1 to 61 is misrouted (DESIGN CHOICE, log
106). Those of the previous epoch for an lcell that has moved in the open window go to the source, which the map before the advance
names (R226, R437; DEDUCED, log 45). -/
def State.jbnStream (s : State) (k n : Nat) (p : Packet) : State :=
  let c := s.coach n
  let l := bfield p.addr 0 27
  let key := streamKey (fabEp (portEast k)) n p.stream.toNat
  if l < c.base.toNat ∨ l ≥ c.base.toNat + c.localCells ∨ p.stream.toNat = 0 ∨ 61 < p.stream.toNat then s.dropMisrouted
  else
  let f := flitsOf 128 p.payload
  match if p.epoch == s.epochOf n then none else s.movedFrom n l with
  | some src =>
    f.foldl (fun s (x : Unit32) => s.accept src n 63
      { payload := x, tt := false, stream := p.stream, epoch := BitVec.ofNat 16 p.epoch.toNat, coach := BitVec.ofNat 6 n, src := fabEp (portEast k) }) s
  | none =>
  let s := if f.isEmpty then s else { s with jbn := { s.jbn with
    arriving := s.jbn.arriving ++ [{ port := k, key, left := f.length, bytes := 64 + p.payload.length }] } }
  s.pushReply (fabEp (portEast k)) n p.stream.toNat f

def execStream (k : PortIx) (pkt : Packet) (s : State) : Out :=
  let p := Packet.ofType pkt 0x04
  .next (s.jbnArrive k p fun s n => s.jbnStream k n p)

/-- A response (R434, R441, R443): matched by its tag; one that matches nothing is counted. -/
def State.jbnResponse (s : State) (n : Nat) (p : Packet) : State :=
  match s.jbn.reqs.find? fun r => r.tag == p.tag && r.slot == n && r.answer.isNone with
  | none => { s with jbn := { s.jbn with lateResp := .ofNat 16 (satInc 16 s.jbn.lateResp.toNat) } }
  | some r =>
    let status := if p.status.toNat ≤ 4 then p.status.toNat else srBad
    s.fabAnswer r (r.flits status p.payload)

/-- READ_RESP. -/
def execReadResp (k : PortIx) (pkt : Packet) (s : State) : Out :=
  let p := Packet.ofType pkt 0x10
  .next (s.jbnArrive k p fun s n => s.jbnResponse n p)
/-- WRITE_RESP. -/
def execWriteResp (k : PortIx) (pkt : Packet) (s : State) : Out :=
  let p := Packet.ofType pkt 0x11
  .next (s.jbnArrive k p fun s n => s.jbnResponse n p)
/-- ATOMIC_RESP (R435). -/
def execAtomicResp (k : PortIx) (pkt : Packet) (s : State) : Out :=
  let p := Packet.ofType pkt 0x12
  .next (s.jbnArrive k p fun s n => s.jbnResponse n p)

/-! Epoch notes (R436). -/

/-- The note's epoch is ahead of an entry's. -/
def epochAhead (e old : BitVec 32) : Bool := let d := (e - old).toNat; decide (1 ≤ d) && decide (d < 2 ^ 31)

/-- A note acted on: every member entry of its range and every remote map entry that names the sender, VALID or not. -/
def State.noteArrives (s : State) (n : Nat) (p : Packet) : State :=
  let base := bfield p.addr 0 27
  let cells := bfield p.addr 32 11
  let sh := s.routeShift n
  let listed := if base = 2 ^ 27 - 1 ∨ cells = 0 then []
    else (s.membersListed n).filter fun i => decide (base / 2 ^ sh ≤ i) && decide (i ≤ (base + cells - 1) / 2 ^ sh)
  let s := listed.foldl (fun s i =>
    let e := s.memberEntry n i
    if e.2.1 && e.2.2 == p.src && epochAhead p.epoch e.1 then
      s.devWrite (s.routeArea n + 0x100000 + 8 * i + 4) (bytesOf 4 p.epoch)
    else s) s
  (span 0 64).foldl (fun s i =>
    let e := s.remoteEntry n i
    if e.module == p.src && epochAhead p.epoch e.epoch then
      s.devWrite (s.routeArea n + 0x800 + 32 * i + 24) (bytesOf 4 p.epoch)
    else s) s

/-- EPOCH_NOTE. -/
def execEpochNote (k : PortIx) (pkt : Packet) (s : State) : Out :=
  let p := Packet.ofType pkt 0x20
  .next (s.jbnArrive k p fun s n => s.noteArrives n p)

/-- EPOCH_NOTE_RESEND (R436): 1 µs after the advance. -/
def execEpochNoteResend (n : Slot) (s : State) : Out := s.onModule fun s =>
  let t := tget 0 s.jbn.noteAt n
  if t = 0 ∨ s.tick < t - 1 + 100 then .next s
  else .next ({ s with jbn := { s.jbn with noteAt := tset 0 s.jbn.noteAt n 0 } }.sendNotes n)

/-! Hand-overs (R440 to R442). -/

/-- HANDOVER (R441): acknowledged, then the request is performed as its own. -/
def execHandover (k : PortIx) (pkt : Packet) (s : State) : Out :=
  let p := Packet.ofType pkt 0x21
  .next (s.jbnArrive k p fun s n =>
    let s := s.sendPacket k n 62 { type := 0x22, dst := p.src, src := 0, cls := 2, tag := p.tag, auth := none }
    s.jbnRequest k n (handRequest p))

/-- HANDOVER_ACK (R440): the old owner frees the request's state. -/
def execHandoverAck (k : PortIx) (pkt : Packet) (s : State) : Out :=
  let p := Packet.ofType pkt 0x22
  .next (s.jbnArrive k p fun s n =>
    match s.jbn.handovers.find? fun h => h.1 == n && h.2.1 == p.tag with
    | none => s
    | some h => { s with jbn := { s.jbn with handovers := dropFirst h s.jbn.handovers } })

/-- HANDOVER_LOST (R440): no acknowledgement within the coach's Jombitin window. -/
def execHandoverLost (n : Slot) (tag : BitVec 16) (s : State) : Out := s.onModule fun s =>
  match s.jbn.handovers.find? fun h => h.1 == n.val && h.2.1 == tag with
  | none => .next s
  | some h =>
    if s.tick < h.2.2.2 + (s.coach n).jbnUs * 100 then .next s
    else .next { s with jbn := { s.jbn with
      handovers := dropFirst h s.jbn.handovers, handoverLost := .ofNat 16 (satInc 16 s.jbn.handoverLost.toNat) } }

/-! Ports (R417, R424, R445). -/

/-- LINK_CREDIT_BLOCK (R424, R425): the switch gives credits of a class; those of the oldest packets come back first. -/
def giveBackCredits (cls : Nat) : Nat → List (Nat × Nat) → List (Nat × Nat)
  | _, [] => []
  | c, (key, n) :: rest =>
    if key % 4 ≠ cls then (key, n) :: giveBackCredits cls c rest
    else if n ≤ c then giveBackCredits cls (c - n) rest
    else (key, n - c) :: rest

def execLinkCreditBlock (k : PortIx) (cls : BitVec 2) (credits : Nat) (s : State) : Out :=
  let x := s.jport k
  if x.lanes != 0xFF || !x.credits || x.disabled then .next s
  else
    let s := s.setJport k { x with
      left := tset 0 x.left cls.toNat (tget 0 x.left cls.toNat + credits), held := giveBackCredits cls.toNat credits x.held }
    .next (((span 0 48).foldl (fun s n => if (s.coach n).linkPending.isEmpty then s else s.linkSettle n) s).portPump k)

/-! Sending streams (R433). -/

/-- STREAM_PACKET_SEND: up to 128 waiting flits of a FAB stream leave in one packet, or are discarded. -/
def execStreamPacketSend (east : Bool) (n : Slot) (stream : Nat) (s : State) : Out := s.onModule fun s =>
  let key := streamKey (fabEp east) n stream
  let q := tget [] s.stage.inQ key
  if q.isEmpty || s.jbn.moduleId.isNone || decide (stream = 0) || decide (stream > 61) then .next s
  else
    let e := s.streamEntry n stream
    let rest (m : Nat) : State := { s with stage := { s.stage with inQ := tset [] s.stage.inQ key (q.drop m) } }
    let lost : State := q.foldl (fun s _ => s.dropMisrouted) (rest q.length)
    if !e.1 || decide (e.2.1 > 8) || portEast e.2.1 != east then .next lost
    else match s.memberOf n e.2.2.2 with
      | none => .next lost
      | some (epoch, m) =>
        let f := q.take 128
        .next ((rest 128).sendPacket e.2.1 n n
          { type := 0x04, dst := m, src := 0, cls := 0, stream := BitVec.ofNat 6 e.2.2.1, epoch, length := BitVec.ofNat 16 f.length
            addr := BitVec.ofNat 64 e.2.2.2.toNat, payload := f.flatMap (bytesOf 32), auth := none })

/-! Timeouts (R443). -/

/-- REQUEST_TIMEOUT (R443). -/
def execRequestTimeout (tag : BitVec 16) (s : State) : Out := s.onModule fun s =>
  match s.jbn.reqs.find? fun r => r.tag == tag && r.answer.isNone with
  | none => .next s
  | some r =>
    if s.tick < r.issued + bfield s.jbn.ctrl 0 14 * 100 then .next s
    else
      let s := s.recallTag r.slot tag
      if r.op ≠ 4 ∧ r.attempt < bfield s.jbn.ctrl 16 3 then
        let r' := { r with attempt := r.attempt + 1, issued := s.tick }
        let s := { s with jbn := { s.jbn with
          reqs := s.jbn.reqs.map fun (x : JbnReq) => if x = r then r' else x
          reissues := .ofNat 16 (satInc 16 s.jbn.reissues.toNat) } }
        .next (s.fabIssue r')
      else
        let s := { s with jbn := { s.jbn with timeouts := .ofNat 16 (satInc 16 s.jbn.timeouts.toNat) } }
        .next (s.fabAnswer r (r.flits srTimeout []))

/-! The block's registers as they read (R449). -/

def Jbn.idReg (j : Jbn) : Word := match j.moduleId with
  | some m => putB 63 true ||| put 0 m.toNat
  | none => 0
def JbnPort.reg (x : JbnPort) : Word := put 24 x.lanes.toNat ||| putB 1 x.credits ||| putB 0 x.up
def Jbn.drops (j : Jbn) : Word :=
  put 48 j.misrouted.toNat ||| put 32 j.notMember.toNat ||| put 16 j.ingressFull.toNat ||| put 0 j.authDrops.toNat
def Jbn.reqStatus (j : Jbn) : Word :=
  put 48 j.timeouts.toNat ||| put 32 j.reissues.toNat ||| put 16 j.lateResp.toNat ||| put 0 j.handoverLost.toNat

/-- A write of JBN_CTRL: a timeout outside its range leaves the register as it is. -/
def State.jbnCtrlWrite (s : State) (v : Word) : State :=
  let us := bfield v 0 14
  if us < 10 ∨ us > 10000 then s
  else
    let s := s.logWindow 0x400008 v
    { s with jbn := { s.jbn with ctrl := put 16 (bfield v 16 3) ||| put 0 us } }

end Sys2Proof.Machine
end

