-- ==== Sys2Proof/Machine/JbnFm.lean ====
section
/-! DEFINITION. Fabric management (R438, R445, R446) and ports coming up and going down (R417). A command's payload is SEQ_FM, the
nonce, the command of 16 bytes, its body, and the signature of 64 bytes; the layout of the bodies is the model's own. -/
namespace Sys2Proof.Machine

/-! Command fields (R446). -/

def fmNum (p : Packet) (o n : Nat) : Nat := leNat ((p.payload.drop o).take n)
def fmSeq (p : Packet) : Word := BitVec.ofNat 64 (fmNum p 0 8)
def fmNonce (p : Packet) : Nat := fmNum p 8 8
def fmOp (p : Packet) : Nat := fmNum p 16 1
def fmCoach (p : Packet) : BitVec 20 := BitVec.ofNat 20 (fmNum p 20 3)
/-- n bytes of the body at offset o. -/
def fmBody (p : Packet) (o n : Nat) : Nat := fmNum p (32 + o) n
def fmBytes (p : Packet) (o n : Nat) : List Byte := (p.payload.drop (32 + o)).take n
/-- Bytes of body that the payload holds. -/
def fmBodyLen (p : Packet) : Nat := p.payload.length - 96

/-- A packet signed with the alias key (R445, R446). FM_HELLO has LOCAL set; FM_RESP has the LOCAL of its command (DESIGN
CHOICE, log 106). -/
def State.signed (s : State) (type : Nat) (status : Nat) (dst : BitVec 17) (bytes : List Byte) (isLocal : Bool := true) : Packet :=
  let sig := Config.ed25519Sign (s.stable.aliasKey.getD 0) bytes
  { type := BitVec.ofNat 8 type, isLocal, status := BitVec.ofNat 4 status, dst, src := (s.jbn.moduleId).getD 0x1FFFF, cls := 3
    length := BitVec.ofNat 16 ((bytes.length + 64) / 32), payload := bytes ++ bytesOf 64 sig, seq := s.jbn.mgmtSeq
    auth := some (Config.ed25519Public (s.stable.aliasKey.getD 0)) }

/-- A management packet leaves. -/
def State.sendMgmt (s : State) (k : Nat) (p : Packet) : State :=
  { s with jbn := { s.jbn with mgmtSeq := s.jbn.mgmtSeq + 1 } }.queuePacket k 62 { p with seq := s.jbn.mgmtSeq }

/-- FM_RESP to a command, kept until it is sent; none once the alias key is destroyed (R495). -/
def State.fmAnswer (s : State) (k : Nat) (p : Packet) (status : Nat) : State :=
  let r := s.signed 0x31 status p.src (natBytes 8 (fmSeq p).toNat ++ natBytes 8 (s.stable.bootNonce.toNat % 2 ^ 64)
    ++ natBytes 4 (fmOp p) ++ natBytes 4 (fmCoach p).toNat ++ natBytes 8 0) p.isLocal
  if s.stable.aliasKey.isNone then s else { s with jbn := { s.jbn with fmResp := s.jbn.fmResp ++ [(k, r)] } }

/-- FM_RESP (R446): the oldest answer that waits at the port leaves. -/
def execFmResp (k : PortIx) (s : State) : Out := s.onModule fun s =>
  match s.jbn.fmResp.find? fun e => e.1 == k.val with
  | none => .next s
  | some e => .next ({ s with jbn := { s.jbn with fmResp := dropFirst e s.jbn.fmResp } }.sendMgmt k e.2)

/-- A command is accepted (R446): signature, nonce, sequence. -/
def State.fmAccepts (s : State) (p : Packet) : Bool :=
  s.jbn.fmKey != 0 && p.auth == some s.jbn.fmKey && p.cls == 3 && p.type == 0x30 && decide (p.payload.length ≥ 96) && decide (p.payload.length ≤ 352)
    && fmNonce p == s.stable.bootNonce.toNat % 2 ^ 64 && decide (fmSeq p > s.jbn.seqFm)

/-- A fabric-management command at a port. act carries it out for a coach slot (63 where it needs none), or refuses it as BAD. -/
def State.fmArrive (s : State) (k : Nat) (pkt : Packet) (op : Nat) (needsCoach : Bool) (act : State → Nat → Option State) : State :=
  if !(s.jport k).up then s
  else
    let p := { pkt with payload := pkt.payload.take 16 ++ [BitVec.ofNat 8 op] ++ pkt.payload.drop 17 }
    let s := s.emit (.linkCredits k 3 (Packet.credits p))
    let s := (s.countGlobal (513 + 4 * k) p.payload.length).countGlobal (515 + 4 * k) 1
    if s.dbg.module then s.dropFull else
    if !p.isLocal && s.jbn.moduleId != some p.dst then s.dropMisrouted
    else if !s.fmAccepts p then s.dropAuth
    else
      let s := { s with jbn := { s.jbn with seqFm := fmSeq p } }
      let slot := s.slotOf (fmCoach p)
      let n := if needsCoach then slot.getD 63 else 63
      let part := if needsCoach && slot.isSome then s.partOf n else 0x3F
      let s := s.log 0x17 oFabric part n (fmSeq p) (BitVec.ofNat 64 (op + (fmCoach p).toNat * 2 ^ 32))
      if needsCoach && slot.isNone then s.fmAnswer k p 5
      else match act s n with
        | some t => t.fmAnswer k p 0
        | none => s.fmAnswer k p 4

/-- SET_ID: once per boot. -/
def execSetId (k : PortIx) (pkt : Packet) (s : State) : Out :=
  .next (s.fmArrive k pkt 1 false fun s _ =>
    let id := fmBody pkt 0 8
    if s.jbn.moduleId.isSome || decide (id ≥ 2 ^ 17) || decide (fmBodyLen pkt < 8) then none
    else some { s with jbn := { s.jbn with moduleId := some (BitVec.ofNat 17 id) } })

/-- ROUTE_HDR: SHIFT, 0 to 10. -/
def execRouteHdr (k : PortIx) (pkt : Packet) (s : State) : Out :=
  .next (s.fmArrive k pkt 2 true fun s n =>
    let sh := fmBody pkt 0 8
    if sh > 10 ∨ fmBodyLen pkt < 8 then none else some (s.devWrite (s.routeArea n) (natBytes 8 sh)))

/-- MEMBER_WRITE: first index and count of four bytes each, then the entries. -/
def execMemberWrite (k : PortIx) (pkt : Packet) (s : State) : Out :=
  .next (s.fmArrive k pkt 3 true fun s n =>
    let i := fmBody pkt 0 4
    let c := fmBody pkt 4 4
    let bad := (span 0 c).any fun j => field (fmBody pkt (8 + 8 * j) 8) 18 14 != 0
    if c = 0 ∨ c > 32 ∨ i + c > 131072 ∨ 8 + 8 * c > fmBodyLen pkt ∨ bad then none
    else some (s.devWrite (s.routeArea n + 0x100000 + 8 * i) (fmBytes pkt 8 (8 * c))))

/-- STREAM_WRITE: first t and count of four bytes each, then the entries. -/
def execStreamWrite (k : PortIx) (pkt : Packet) (s : State) : Out :=
  .next (s.fmArrive k pkt 4 true fun s n =>
    let t := fmBody pkt 0 4
    let c := fmBody pkt 4 4
    let bad := (span 0 c).any fun j => field (fmBody pkt (8 + 8 * j) 8) 27 26 != 0
    if c = 0 ∨ c > 32 ∨ t = 0 ∨ t + c > 62 ∨ 8 + 8 * c > fmBodyLen pkt ∨ bad then none
    else some (s.devWrite (s.routeArea n + 0x200 + 8 * t) (fmBytes pkt 8 (8 * c))))

/-- REMOTE_WRITE: entry index of eight bytes, then the entry of 32. -/
def execRemoteWrite (k : PortIx) (pkt : Packet) (s : State) : Out :=
  .next (s.fmArrive k pkt 5 true fun s n =>
    let e := fmBody pkt 0 8
    let w := fmBody pkt 8 32
    let lg := field w 64 6
    let bad := field w 0 30 != 0 || field w 50 14 != 0 || field w 70 2 != 0 || field w 97 7 != 0 || field w 105 23 != 0
      || field w 180 12 != 0 || field w 224 32 != 0
    let shape := (30 ≤ lg ∧ lg ≤ 46) ∧ field w 0 50 % 2 ^ lg = 0 ∧ field w 128 52 % 2 ^ lg = 0
      ∧ field w 72 4 ≤ 4 ∧ 5 ≤ field w 76 4 ∧ field w 76 4 ≤ 8
    if e > 63 ∨ fmBodyLen pkt < 40 ∨ bad ∨ (field w 104 1 = 1 ∧ ¬ shape) then none
    else some (s.devWrite (s.routeArea n + 0x800 + 32 * e) (fmBytes pkt 8 32)))

/-- REHOME (R440): base, SIZE_LOG2, new module and its base, eight bytes each. The requests that ingress holds are handed over at once. -/
def execRehome (k : PortIx) (pkt : Packet) (s : State) : Out :=
  .next (s.fmArrive k pkt 6 true fun s n =>
    let lg := fmBody pkt 8 8
    let base := fmBody pkt 0 8
    let m := fmBody pkt 16 8
    let nb := fmBody pkt 24 8
    if fmBodyLen pkt < 32 ∨ lg < 30 ∨ lg > 46 ∨ base % 2 ^ lg ≠ 0 ∨ nb % 2 ^ lg ≠ 0 ∨ base ≥ 2 ^ 52 ∨ nb ≥ 2 ^ 52 ∨ m ≥ 2 ^ 17 then none
    else
      let r : Rehomed := { slot := n, base, log2 := lg, module := BitVec.ofNat 17 m, newBase := nb
                           until_ := s.tick + (s.coach n).jbnUs * 100 }
      let s := { s with jbn := { s.jbn with rehomed := r :: s.jbn.rehomed.filter fun x => !(x.slot == n && x.base == base) } }
      some ((span 0 9).foldl (fun s k => s.ingressRehome k n) s))

/-- A port goes down (R417): its credits are void. -/
def State.portFalls (s : State) (k : Nat) (lanes : BitVec 8) : State :=
  let s := s.setJport k { s.jport k with lanes, credits := false, left := [], held := [] }
  (span 0 48).foldl (fun s n => if (s.coach n).linkPending.isEmpty then s else s.linkSettle n) s

/-- PORT: port k, enable or disable, eight bytes each. -/
def execPort (k : PortIx) (pkt : Packet) (s : State) : Out :=
  .next (s.fmArrive k pkt 7 false fun s _ =>
    let j := fmBody pkt 0 8
    let e := fmBody pkt 8 8
    if j > 8 ∨ e > 1 ∨ fmBodyLen pkt < 16 then none
    else if e = 1 then some (s.setJport j { s.jport j with disabled := false })
    else some ((s.setJport j { s.jport j with disabled := true }).portFalls j 0))

/-- PORT_UP (R417, R445): all lanes locked, the PCS aligned, credits exchanged; the module announces itself. -/
def execPortUp (k : PortIx) (s : State) : Out :=
  let x := s.jport k
  if x.disabled || !s.harness.refFab || !s.harness.ready then .next s
  else
    let s := s.setJport k { x with lanes := 0xFF, credits := true, left := [], held := [] }
    let id := match s.jbn.moduleId with
      | some m => m.toNat
      | none => 2 ^ 256 - 1
    let digest := (bytesOf 64 (Config.sha512 (bytesOf 32 s.stable.identityPub))).take 32
    if s.stable.aliasKey.isNone then .next s else .next (s.sendMgmt k (s.signed 0x32 0 0 (bytesOf 32 s.stable.bootNonce ++ natBytes 32 id ++ digest)))

/-- PORT_DOWN (R417): packets that wait at egress stay there. -/
def execPortDown (k : PortIx) (lanes : BitVec 8) (s : State) : Out :=
  .next (s.portFalls k lanes)

end Sys2Proof.Machine
end

