-- ==== Sys2Proof/Machine/Sched.lean ====
section
/-! DEFINITION. Scheduling batch steps (R378 to R414): residency, starting and retiring steps, charging, promotion, pre-emption with
spill and refill, semaphores and priority inheritance. -/
namespace Sys2Proof.Machine

/-! What a step's program names (R359, R383). -/

/-- n bytes at an address can be read as a request of a partition: in its chunks or in host memory, without an error. -/
def State.partReads (s : State) (q a n : Nat) : Bool :=
  (decide (2 ^ 51 ≤ a) && decide (a + n ≤ 2 ^ 52)) || (span (a / 64) ((a + n - 1) / 64 - a / 64 + 1)).all fun l =>
    s.holdsMemory (64 * l) && s.mayAccess q (64 * l) && !s.lineFails l

/-- A shape of a program header (R359). -/
structure Shape where
  cells : Nat
  henMask : Nat
  entry : Word
  yieldTable : Word
  list : Nat

def allZero (bs : List Byte) : Bool := bs.all (· == 0)

/-- The shape that a step names, where its header is sound (R359). -/
def State.stepShape (s : State) (q : Nat) (d : BitVec 2048) : Option Shape :=
  let a := stProgram d
  if !s.partReads q a 64 then none
  else
    let h := s.devRead a 64
    let shapes := leNat ((h.drop 4).take 1)
    if leNat (h.take 4) ≠ 1 ∨ shapes = 0 ∨ shapes > 64 ∨ stShape d ≥ shapes || !allZero (h.drop 5) || !s.partReads q a (64 + 64 * shapes) then
      none
    else
      let e (k : Nat) : List Byte := s.devRead (a + 64 + 64 * k) 64
      let bad (b : List Byte) : Bool :=
        decide (leNat (b.take 4) ≥ 2 ^ 27) || decide (leNat ((b.drop 4).take 1) ≥ 16) || !allZero ((b.drop 5).take 3) || !allZero (b.drop 32)
      if (span 0 shapes).any fun k => bad (e k) then none
      else
        let b := e (stShape d)
        some { cells := leNat (b.take 4), henMask := leNat ((b.drop 4).take 1), entry := ofBytes 64 ((b.drop 8).take 8)
               yieldTable := ofBytes 64 ((b.drop 16).take 8), list := leNat ((b.drop 24).take 8) }

/-- The IMAGE that a placement list gives for an epoch (R383). -/
def State.placement (s : State) (q a : Nat) (epoch : BitVec 32) : Option Nat :=
  if !s.partReads q a 16 then none
  else
    let h := s.devRead a 16
    let n := leNat ((h.drop 4).take 4)
    if leNat (h.take 4) ≠ 1 ∨ n = 0 ∨ n > 256 || !allZero (h.drop 8) || !s.partReads q a (16 + 16 * n) then none
    else
      let es := (span 0 n).map fun i => s.devRead (a + 16 + 16 * i) 16
      match es.find? fun e => leNat (e.take 8) == epoch.toNat with
      | some e => some (leNat (e.drop 8))
      | none => none

/-- The reads of a step's header, and of the placement list that its shape names. -/
def State.shapeTouch (s : State) (q : Nat) (d : BitVec 2048) : State :=
  let a := stProgram d
  if !s.partReads q a 64 then s.partTouch q a 64 else s.partTouch q a (64 + 64 * min 64 (leNat ((s.devRead (a + 4) 1))))
def State.placementTouch (s : State) (q a : Nat) : State :=
  if !s.partReads q a 16 then s.partTouch q a 16 else s.partTouch q a (16 + 16 * min 256 (leNat (s.devRead (a + 4) 4)))

/-- The timetable of a placement made active (R382 step 2, R384): none where the step faults with TT_MISSING. -/
def State.activate (s : State) (n list : Nat) : Option State × State :=
  let q := s.partOf n
  let epoch := s.epochOf n
  let found := s.placement q list epoch
  let s := s.placementTouch q list
  match found with
  | none => (none, s)
  | some a =>
    if (s.tt n).image = some (BitVec.ofNat 64 a, epoch) then (some s, s)
    else if s.swapArmed n then (none, { s with stage := s.stage.result n ttErrArmed 0 })
    else
      let image := s.ttImage n a
      let s := s.ttTouch a
      match image with
      | .error (e, i) => (none, { s with stage := s.stage.result n e i })
      | .ok l =>
        let t := (s.ttReplace n l true (some a)).ttFlip n
        (some t, t)

/-! Choosing (R388 to R392). -/

def State.spillFrames (n : Nat) : Nat := ceilDiv 2228224 (512 * (Config.spillBlocks n + 1))

/-- Remaining frames of a step (R389): none where they are unknown. -/
def StepRec.remaining (st : StepRec) (n : Nat) : Option Nat :=
  let f := stFrames st.desc
  if st.frames ≥ f + 2 * State.spillFrames n then none else some (f - st.frames)

/-- Slack in ticks (R390). -/
def StepRec.slack (st : StepRec) (n now : Nat) : Int :=
  let r := (st.remaining n).getD 0
  (BitVec.ofInt 64 ((stDeadline st.desc : Int) - now - (ceilDiv (r * 512) 10 : Nat))).toInt

/-- A step's promotion evaluated (R391, R392). -/
def State.promote (s : State) (n k : Nat) : State :=
  let c := s.ctx k
  match c.step with
  | none => s
  | some st =>
    let slack := s.classSlack (stClass st.desc)
    let beyond := decide (c.vt.toNat > s.vmin n + s.sched.promo.toNat)
    if !st.promoted && stDeadline st.desc != 0 && slack != 0 && decide (st.slack n s.tick < (slack : Int)) && !beyond then
      s.setCtx k { c with step := some { st with promoted := true } }
    else s

def State.levelOf (s : State) (n k : Nat) : Option Nat :=
  if (s.slotSched n).levels[0].ctx = some k then some 0
  else if (s.slotSched n).levels[1].ctx = some k then some 1
  else none
def SlotSched.level (x : SlotSched) (i : Nat) : SpillLevel := if i = 0 then x.levels[0] else x.levels[1]
def SlotSched.setLevel (x : SlotSched) (i : Nat) (l : SpillLevel) : SlotSched :=
  { x with levels := if i = 0 then x.levels.set 0 l else x.levels.set 1 l }
/-- A free spill level (R396). -/
def SlotSched.freeLevel (x : SlotSched) : Option Nat :=
  if x.levels[0].ctx.isNone then some 0 else if x.levels[1].ctx.isNone then some 1 else none

def State.isPromoted (s : State) (k : Nat) : Bool := match (s.ctx k).step with
  | some st => st.promoted
  | none => false
def State.deadlineOf (s : State) (k : Nat) : Nat := match (s.ctx k).step with
  | some st => stDeadline st.desc
  | none => 0

/-- Contexts that may take the slot's cells (R388). -/
def State.candidates (s : State) (n : Nat) : List Nat :=
  let x := s.slotSched n
  let full := x.freeLevel.isNone
  (s.ctxsOf n).filter fun k => match s.ctxState k with
    | some .ready => (s.ctx k).resident && (!full || s.isPromoted k)
    | some .spilled => true
    | some .paged => match s.levelOf n k with
      | some i => (x.level i).pageDone
      | none => false
    | _ => false

/-- One context goes before another in the order of R388; contexts come in rising order. -/
def State.before (s : State) (a b : Nat) : Bool :=
  if s.isPromoted a != s.isPromoted b then s.isPromoted a
  else if s.isPromoted a then decide (s.deadlineOf a < s.deadlineOf b)
  else decide ((s.ctx a).vt.toNat < (s.ctx b).vt.toNat)

/-- The context that the dispatch core chooses. -/
def State.choose (s : State) (n : Nat) : Option Nat :=
  match s.candidates n with
  | [] => none
  | k :: r => some (r.foldl (fun a b => if s.before b a then b else a) k)

/-- The context that takes the slot's cells: the one for which the last was pre-empted, while it may (R402, R404), else the choice of R388. -/
def State.chosen (s : State) (n : Nat) : Option Nat :=
  match (s.slotSched n).forCtx with
  | some p => if (s.candidates n).contains p then some p else s.choose n
  | none => s.choose n

/-! Starting (R382 to R385). -/

/-- The cells of a slot may take a step: open, no switch, no cell change, no batch, no reset. -/
def State.slotFree (s : State) (n : Nat) : Bool :=
  let c := s.coach n
  let x := s.slotSched n
  c.valid && s.stable.debugLevel != 2 && !s.stable.held && x.running.isNone && x.switch == .none && !s.changesPending n && !c.batch && (tget none s.errs.resets n).isNone

/-- The Hens that a step starts (R382 step 4). The cell monitor is to enter ENTRY_k in U mode with ARG_ADDR in a0 (R359): the Hen holds both where
the monitor's MRET finds them, mepc with MPP = U, and a0 (DESIGN CHOICE, log 117). -/
def State.startHens (s : State) (p mask : Nat) (entry arg : Word) : State :=
  let c := s.cell p
  let s := s.setCell p { c with stopped := false, ran := 0, live := 0, ox := c.ox.thaw }
  (span 0 4).foldl (fun s i =>
    if h : i < 4 then
      let h : HenIx := ⟨i, h⟩
      if mask.testBit i then
        let s := (s.setHen p h { s.hen p h with resetPc := Config.monitorEntry }).henCtrl p h 3
        s.setHen p h { (s.hen p h).setX 10 arg with mepc := entry }
      else s
    else s) s

/-- A step begins to hold the cells. -/
def State.takeCells (s : State) (n k : Nat) : State :=
  let c := s.ctx k
  let x := s.slotSched n
  let s := s.setSlotSched n { x with running := some k, lastRun := some k, switch := .none, stopAt := none, faulted := none, forCtx := none }
  let s := s.setCtx k { c with
    held := some .running
    step := c.step.map fun st => { st with started := true, since := some (st.since.getD s.tick) } }
  s.replyPump

/-- STEP_START (R382): the chosen context's step starts, or faults before any frame of it runs. -/
def execStepStart (n : Slot) (s : State) : Out := s.onModule fun s =>
  if !s.slotFree n || s.stage.loading.isSome || !s.ttMayWrite n then .next s
  else match s.chosen n with
  | none => .next s
  | some k => match s.ctxState k, (s.ctx k).step with
    | some .ready, some st =>
      let q := s.partOf n
      let c := s.coach n
      let fault (s : State) (kind : Nat) : Out := .next ((s.ctxFault k kind).settle.parkIfIdle n)
      if s.stepBadFields k st.desc then fault s stepBad
      else
        let shape := s.stepShape q st.desc
        let s := s.shapeTouch q st.desc
        match shape with
        | none => fault s stepBad
        | some sh =>
          if sh.cells ≠ c.localCells || !c.unplaced.isEmpty then fault s stepShape
          else match s.activate n sh.list with
            | (none, s) => fault s stepTtMissing
            | (some s, _) =>
              let s := s.setCoach n { s.coach n with yieldTable := sh.yieldTable &&& 0x000FFFFFFFFFE000#64 }
              let s := (s.lcellsOf n).foldl (fun s p => s.startHens p sh.henMask sh.entry (stArg st.desc)) s
              .next (s.takeCells n k)
    | _, _ => .next s

/-! Retiring (R360, R369, R393). -/

/-- Every cell of the slot has reported completion (R360, R613). -/
def State.stepComplete (s : State) (n : Nat) : Bool :=
  (s.lcellsOf n).all fun p =>
    let c := s.cell p
    c.hens.toList.all (fun x => !x.run && x.stall.isNone) && c.ox.idle && c.draysIdle

/-- The running step of a slot retires. -/
def State.stepRetire (s : State) (n : Nat) : State :=
  match s.runningCtx n with
  | none => s
  | some k => match (s.ctx k).step with
    | none => s
    | some st =>
      let s := (s.charge n).lateCount st
      let s := s.setSlotSched n { s.slotSched n with running := none, stopAt := none }
      let s := s.setCtx k { s.ctx k with held := none, step := none, idleSince := s.tick, awake := true }
      (((s.doSignals k st.desc).stepDone k st).settle).parkIfIdle n

/-! Charging (R386). -/

/-- CHARGE (R386): at every 64th frame boundary, counted by STAGE_FRAME (DESIGN CHOICE, log 118); at another frame it does nothing. -/
def execCharge (n : Slot) (s : State) : Out := s.onModule fun s => .next (if s.stage.frame % 64 = 0 then s.charge n else s)

/-! Residency (R380). -/

/-- MAKE_RESIDENT (R380). -/
def execMakeResident (k : Nat) (s : State) : Out := s.onModule fun s =>
  let c := s.ctx k
  if c.resident || s.ctxState k != some .ready then .next s
  else
    let res := (s.host.ctxs.filter fun e => e.2.resident).map (·.1)
    let make (s : State) : State := s.setCtx k { s.ctx k with resident := true }
    if res.length < 64 then .next (make s)
    else
      let first := s.host.ctxs.all fun e => e.1 == k || e.2.resident || s.ctxState e.1 != some .ready
        || decide (c.vt.toNat < e.2.vt.toNat) || (c.vt == e.2.vt && decide (k < e.1))
      let idle := res.filter fun j => s.ctxState j == some .empty || s.ctxState j == some .waiting || s.ctxState j == some .unbound
      match idle with
      | [] => .next s
      | j :: r =>
        if !first then .next s
        else
          let v := r.foldl (fun a b => if (s.ctx b).idleSince < (s.ctx a).idleSince then b else a) j
          .next (make (s.setCtx v { s.ctx v with resident := false }))

/-! Pre-emption (R391, R394 to R396). -/

def State.noSpill (s : State) : State :=
  { s with sched := { s.sched with noSpill := .ofNat 16 (satInc 16 s.sched.noSpill.toNat) } }

/-- The spill area holds every cell of the slot (R396). -/
def State.areaHolds (s : State) (n : Nat) : Bool := decide ((s.coach n).localCells ≤ bfield (tget 0 s.sched.spillArea n) 0 11)

/-- A pre-emption for the step of context p decided for the next frame boundary (R395, R396, R228). -/
def State.decideStop (s : State) (n p : Nat) (promoted : Bool) : State :=
  let x := s.slotSched n
  if !s.areaHolds n then s.noSpill
  else if x.freeLevel.isNone then s
  else
    let s := if promoted && (s.coach n).phase == 1 then s.moveCancel n true else s
    s.setSlotSched n { s.slotSched n with stopAt := some false, forCtx := some p }

/-- PROMOTION_CHECK (R391, R394, R395): the slot's READY steps and its running step are evaluated, and a pre-emption is considered. A
running step that is stalled for a page request is switched out for a READY one once a level is free (R404). -/
def execPromotionCheck (n : Slot) (s : State) : Out := s.onModule fun s =>
  let ready := (s.ctxsOf n).filter fun k => s.ctxState k == some .ready
  let s := (ready ++ (s.runningCtx n).toList).foldl (fun s k => s.promote n k) s
  let x := s.slotSched n
  match x.running with
  | none => .next s
  | some v =>
    if x.switch != .none then .next s
    else match s.choose n with
    | none => .next s
    | some p =>
      let paged := match (s.ctx v).step with
        | some st => !st.pages.isEmpty
        | none => false
      let pp := s.isPromoted p
      let vp := s.isPromoted v
      if x.stopAt.isSome then
        -- decided already; by a promoted step it no longer waits for a batch (R228)
        if (x.stopAt = some true || !vp) && pp && !(s.coach n).span && (s.coach n).phase == 1 then .next (s.moveCancel n true) else .next s
      else if paged then
        if s.areaHolds n && x.freeLevel.isSome then .next (s.setSlotSched n { x with stopAt := some true }) else .next s
      else
        let lead := decide ((s.ctx v).vt.toNat > (s.ctx p).vt.toNat + s.sched.hyst.toNat)
        if vp || (s.coach n).span || !(pp || lead) then .next s
        else
          let short := match (s.ctx v).step with
            | some st => match st.remaining n with
              | some r => decide (r < 2 * State.spillFrames n)
              | none => false
            | none => false
          if !pp && short then .next s else .next (s.decideStop n p pp)

/-- STOP_BOUNDARY (R397): the running step of a slot stops at a frame boundary, to be spilled to a free level; deferred while a
batch is pending or running (R228). -/
def execStopBoundary (n : Slot) (s : State) : Out := s.onModule fun s =>
  let x := s.slotSched n
  match x.running, x.stopAt with
  | some k, some paged =>
    if x.switch != .none || (s.coach n).batch then .next s
    -- a running step that has been promoted meanwhile is switched out only for a page request (R394)
    else if !paged && s.isPromoted k then .next (s.setSlotSched n { x with stopAt := none, forCtx := none })
    else match x.freeLevel with
    | none => .next (s.noSpill.setSlotSched n { x with stopAt := none })
    | some level =>
      if !s.areaHolds n then .next (s.noSpill.setSlotSched n { x with stopAt := none })
      else
        let s := s.charge n
        let s := (s.lcellsOf n).foldl (fun s p =>
          let live := s.liveOf p (s.coach n).yieldTable
          s.setCell p { (s.cell p).stop with live }) s
        let c := s.ctx k
        let s := s.setCtx k { c with
          held := some (if paged then .paged else .spilled)
          step := c.step.map fun st => if paged then st else st.pause s.tick }
        let s := if paged then s else { s with sched := { s.sched with preempts := .ofNat 16 (satInc 16 s.sched.preempts.toNat) } }
        let x := (s.slotSched n).setLevel level { ctx := some k }
        .next (s.setSlotSched n { x with stopAt := none, switch := .stopping s.stage.frame paged level })
  | _, _ => .next s

/-- A SEM_REPLY is on its way to the pcell. -/
def State.repliesTo (s : State) (p : Nat) : Bool := s.flight.any fun e => match e.2 with
  | .semReply q _ => q.val == p
  | _ => false

/-- A stopped cell has drained (R397, R398): Ox heads complete, no reply outstanding, no message under way, every access ended or
waiting for a translation, every bank handed over. -/
def State.drained (s : State) (p : Nat) : Bool :=
  let c := s.cell p
  c.ox.drained && c.far.isEmpty && c.handover.isEmpty && !s.repliesTo p && c.drays.toList.all (fun y => y.out.isEmpty) &&
    (span 0 4).all fun i => match c.hens[i]? with
      | some x => !x.gigOut && (x.stall.isNone || x.interruptible || c.misses.any fun m => m.waiters.contains i)
      | none => true

/-- The dispatch core may load an image of its own into the slot's inactive buffer: no swap is armed, the loader is idle, and the last
swap is 64 Stage cycles past (R137, R138). -/
def State.mayLoad (s : State) (n : Nat) : Bool := !s.swapArmed n && s.stage.loading.isNone && s.ttMayWrite n

/-- The slot swaps to an image of its own that the dispatch core built: no entry of a step (R400). -/
def State.ownImage (s : State) (n : Nat) : State := (s.ttReplace n [] true).ttFlip n

/-- SPILL_SWAP (R398, R399): the swap to the spill image, at least four frames after the stop boundary and with every cell drained. -/
def execSpillSwap (n : Slot) (s : State) : Out := s.onModule fun s =>
  let x := s.slotSched n
  match x.switch with
  | .stopping f _ level =>
    let cells := s.lcellsOf n
    if s.stage.frame < f + 4 || !cells.all s.drained || !s.mayLoad n then .next s
    else
      let got := cells.map fun p => s.capture p (s.cell p).live
      let s := s.ownImage n
      let x := s.slotSched n
      let lv := x.level level
      .next (s.setSlotSched n { x.setLevel level { lv with cells := got.map (·.1), ecc := got.any (·.2) } with switch := .spilling level })
  | _ => .next s

/-- A cell after its step has been spilled (R402): scratchpad and bank owners stay, Ox and Drays are flushed; the unclaimed flits have
gone with the context (R399). -/
def Cell.spilled (c : Cell) : Cell :=
  { c with
    ox := c.ox.flush.thaw, drays := c.drays.map Dray.flush, unclaimed := [], stopped := false, ran := 0, live := 0
    hens := c.hens.map fun (x : Hen) => { x with run := false, stall := none, sendQ := [], recvQ := [], gigOut := false, gigNack := false, gigTo := none }
    misses := c.unwaited }

def State.spilled (s : State) (n p : Nat) : State :=
  let s := s.setCell p (s.cell p).spilled
  { s with stage := { s.stage with inQ := setQueues s.stage.inQ p n [], outQ := setQueues s.stage.outQ p n [] } }

/-- Where an lcell's slot lies in the spill area, and bank b within it (R399). -/
def State.spillAt (s : State) (n level : Nat) (l : BitVec 27) : Nat :=
  let w := tget 0 s.sched.spillArea n
  bfield w 30 22 * 2 ^ 30 + (level * bfield w 0 11 + (l.toNat - (s.coach n).base.toNat)) * 2228224
def State.spillBankAt (s : State) (n level : Nat) (l : BitVec 27) (b : Nat) : Nat := s.spillAt n level l + 131072 * (b + 1)

/-- The context state of a cell, with its Ox state image, written to its slot (R44, R399): the layout is internal to the device, so
the 131,072 bytes hold free values; what they stand for is the cell's CellSpill (log 34). -/
def State.spillContext (s : State) (n level : Nat) (l : BitVec 27) : State :=
  let a := s.spillAt n level l
  let s := ((s.writeMem a ((span s.free 2048).flatMap fun k => bytesOf 64 (Config.freeLine k))).flipRange a 131072).chargeLines a 131072 true mSystem
  { s with free := s.free + 2048 }.noteKey a 131072 (n + 1)

/-- OX_STATE_IMAGE_SAVE (R44): the Ox of a spilling cell, its heads complete, writes its state image to the spill area. -/
def execOxStateImageSave (p : Pcell) (s : State) : Out := s.onModule fun s =>
  let c := s.cell p
  let n := c.slot.toNat
  let x := s.slotSched n
  match x.switch with
  | .spilling level =>
    if !c.ox.frozen || !c.ox.drained then .next s
    else
      let lv := x.level level
      let cells := lv.cells.map fun (e : CellSpill) => if e.lcell = c.lcell then { e with ox := c.ox } else e
      .next ((s.setSlotSched n (x.setLevel level { lv with cells })).spillContext n level c.lcell)
  | _ => .next s

/-- The context state and the live banks of a spilled cell are written to its slot (R399). -/
def State.spillBanks (s : State) (n level : Nat) (im : CellSpill) : State :=
  let s := s.spillContext n level im.lcell
  if s.stable.noMem then s
  else (bitsSet im.live 16).foldl (fun s b =>
    let a := s.spillBankAt n level im.lcell b
    ((im.sp.filter fun e => e.1 / 131072 == b).foldl (fun s e => { s with mem := tset 0 s.mem (a + e.1 % 131072) e.2 })
      ((s.zeroRange a 131072).chargeLines a 131072 true mSystem)).noteKey a 131072 (n + 1)) s

/-- The lines of a stack, among 128 KiB of the spill area, that a slot's spill key does not decrypt (R502). -/
def State.spillLost (s : State) (n a : Nat) : List Nat :=
  if decide (a < hbmTop) && s.lineKey.any fun e => e.2.2 != n + 1 && decide (64 * e.1 < a + 131072) && decide (a < 64 * e.2.1) then
    (span (a / 64) 2048).filter fun l => s.keyLost l (n + 1)
  else []

/-- The lines among 128 KiB of the spill area whose read fails under the slot's spill key: uncorrectable, or, on LPDDR5X, of a 256-byte unit
whose tag does not match (R404, R505). -/
def State.spillBad (s : State) (n a : Nat) : List Nat :=
  let bad := (s.errs.memBad.filter fun e => e.2 == 100 && decide (a / 64 / 4 * 4 ≤ e.1) && decide (64 * e.1 < a + 131072)).map (·.1)
  let other := s.lineKey.any fun e => e.2.2 != n + 1 && decide (64 * e.1 < a + 131072) && decide (a < 64 * e.2.1)
  if a < hbmTop then bad
  else if bad.isEmpty && !other then []
  else (span (a / 64) 2048).filter fun l => s.tagBad l (n + 1)

/-- A spilled cell with the banks that its slot holds; a line whose read fails comes back as zeros, and the answer is the address of the
first one (R403, R404). A line of a stack that another key has written is a free value (R502). -/
def State.spillFetch (s : State) (n level : Nat) (im : CellSpill) : CellSpill × Option Nat :=
  let banks := (bitsSet im.live 16).map fun b => (b, s.spillBankAt n level im.lcell b)
  let place (a : Nat) : Option Nat :=
    (banks.find? fun e => decide (e.2 ≤ a) && decide (a < e.2 + 131072)).map fun e => 131072 * e.1 + (a - e.2)
  let bad := banks.flatMap fun e => s.spillBad n e.2
  let lost := banks.flatMap fun e => s.spillLost n e.2
  let sp := s.mem.foldl (fun m e => match place e.1 with
    | some k => if bad.contains (e.1 / 64) || lost.contains (e.1 / 64) then m else tset 0 m k e.2
    | none => m) []
  let sp := (lost.filter fun l => !bad.contains l).foldl (fun m l => (span 0 64).foldl (fun m i => match place (64 * l + i) with
    | some k => tset 0 m k (nth 0 (bytesOf 64 (Config.freeLine (s.free + l))) i)
    | none => m) m) sp
  ({ im with sp }, ((s.spillBad n (s.spillAt n level im.lcell) ++ bad).head?).map (64 * ·))

/-- The reads of a spilled cell's slot, charged to master 52, and its lost lines logged (R400, R457). -/
def State.fetchTouch (s : State) (n level : Nat) (im : CellSpill) : State :=
  let at_ := s.spillAt n level im.lcell :: (bitsSet im.live 16).map fun b => s.spillBankAt n level im.lcell b
  at_.foldl (fun s a => (span (a / 64) 2048).foldl (fun s l => (s.memDemand l (n + 1) mSystem).2) s) s

/-- The cells of a spill level written out. -/
def State.spillLevel (s : State) (n level : Nat) : State :=
  let lv := (s.slotSched n).level level
  let s := lv.cells.foldl (fun s im => s.spillBanks n level im) s
  s.setSlotSched n ((s.slotSched n).setLevel level { lv with cells := lv.cells.map fun (im : CellSpill) => { im with sp := [] } })

/-- SPILL_COMPLETE (R399, R402): every spill write has completed. -/
def execSpillComplete (n : Slot) (s : State) : Out := s.onModule fun s =>
  match (s.slotSched n).switch with
  | .spilling level =>
    -- a step that has faulted since the stop boundary is torn down, and its level freed (R404)
    if (s.slotSched n).faulted.isSome then .next (s.faultBoundary n) else
    let s := s.spillLevel n level
    let s := (s.lcellsOf n).foldl (fun s p => s.spilled n p) s
    .next ((s.setSlotSched n { s.slotSched n with running := none, switch := .none }).settle.parkIfIdle n)
  | _ => .next s

/-- REFILL (R403): the chosen context is SPILLED or PAGED; the slot swaps to the refill image. -/
def execRefill (n : Slot) (s : State) : Out := s.onModule fun s =>
  if !s.slotFree n || !s.mayLoad n then .next s
  else match s.chosen n with
  | none => .next s
  | some k => match s.levelOf n k with
    | none => .next s
    | some level =>
      let s := s.ownImage n
      .next (s.setSlotSched n { s.slotSched n with switch := .refilling k level })

/-- A cell's Hens run on as they did when it stopped. -/
def Cell.runAgain (c : Cell) (ran : Nat) : Cell :=
  { c with
    stopped := false, ran := 0
    hens := Vector.ofFn fun i => { c.hens[i] with run := ran.testBit i.val } }

/-- Messages that waited in the send queues of a cell's Hens leave as their ports allow. -/
def State.pumpCell (s : State) (p : Nat) : State :=
  (span 0 4).foldl (fun s i => if h : i < 4 then s.gigPump p ⟨i, h⟩ 8 else s) s

/-- REFILL_COMPLETE (R403): the cells have taken their state back, and the step's own timetable becomes active. -/
def execRefillComplete (n : Slot) (s : State) : Out := s.onModule fun s =>
  match (s.slotSched n).switch with
  | .refilling k level =>
    if s.stage.loading.isSome || !s.ttMayWrite n then .next s else
    let lv := (s.slotSched n).level level
    let s := s.setSlotSched n { (s.slotSched n).setLevel level {} with switch := .none }
    match (s.ctx k).step with
    | none => .next s
    | some st => match s.stepShape (s.partOf n) st.desc with
      | none => .next ((s.ctxFault k stepBad).settle.parkIfIdle n)
      | some sh => match s.activate n sh.list with
        | (none, s) => .next ((s.ctxFault k stepTtMissing).settle.parkIfIdle n)
        | (some s, _) =>
          let s := s.setCoach n { s.coach n with yieldTable := sh.yieldTable &&& 0x000FFFFFFFFFE000#64 }
          let got := lv.cells.map fun im => s.spillFetch n level im
          let s := lv.cells.foldl (fun s im => s.fetchTouch n level im) s
          let s := got.foldl (fun s g => match s.placed n g.1.lcell with
            | some p =>
              let s := s.restoreCell p g.1
              (s.setCell p ((s.cell p).runAgain g.1.ran)).pumpCell p
            | none => s) s
          let s := s.takeCells n k
          .next (match got.findSome? (·.2) with
            | some a => s.stepFaultAt n stepSpillEcc (BitVec.ofNat 64 a)
            | none => if lv.ecc then s.stepFault n stepSpillEcc else s)
  | _ => .next s

/-! Semaphores (R405 to R411). -/

def semGranted : Nat := 0
def semDone : Nat := 1
def semBusy : Nat := 2
def semFull : Nat := 3
def semBad : Nat := 4

def semIndex (m : GigMsg) : Nat := bfield m.payload 41 7
def semArg (m : GigMsg) : Nat := bfield m.payload 8 8

/-- What is answered BAD (R407): another OP, a reserved field, an unopened slot, a semaphore of the other unit. -/
def State.semRefuses (s : State) (east : Bool) (m : GigMsg) (op : Nat) : Bool :=
  bfield m.payload 4 3 != op || bfield m.payload 16 25 != 0 || bfield m.payload 7 1 != 0 || bfield m.payload 0 4 != 0
    || (op != 4 && semArg m != 0) || !(s.coach m.coach.toNat).valid || (decide (semIndex m ≥ 64) != east)

/-- Waiters of a unit. -/
def State.semWaiters (s : State) (east : Bool) : Nat :=
  s.sched.sems.foldl (fun t e => if decide (e.1 % 128 ≥ 64) = east then t + e.2.waiters.length else t) 0

/-- An lcell of a SPILLED context k resumes on the inheritance cell of its region (R409, R410). -/
def State.inheritLcell (s : State) (n k : Nat) (im : CellSpill) : State :=
  let w := tget 0 s.sched.inherit (regionOf im.pcell)
  let p := bfield w 0 11
  if !w.getLsbD 63 || s.cellState p != .free || (s.cell p).slot != 63 then s
  else
    let s := s.setCell p { s.cell p with slot := BitVec.ofNat 6 n, lcell := im.lcell, heldBy := some k }
    let s := s.restoreCell p { im with inq := [], outq := [] }
    (s.setCell p ((s.cell p).runAgain im.ran)).pumpCell p

/-- A SPILLED context becomes HOLDING for a semaphore (R409); where none of its lcells can be resumed it stays SPILLED (R410). -/
def State.inheritBy (s : State) (n i k : Nat) : State :=
  match s.levelOf n k with
  | none => s
  | some level =>
    let lv := (s.slotSched n).level level
    let mine := (lv.cells.filter fun im => (s.sem (semKey n i)).grants.contains (k, im.lcell)).map fun im => s.spillFetch n level im
    let t := mine.foldl (fun s g => s.inheritLcell n k g.1) (mine.foldl (fun s g => s.fetchTouch n level g.1) s)
    if (t.inheritCellsOf n k).isEmpty then s
    else
      let t := t.setCtx k { t.ctx k with held := some .holding, inheritFor := some i }
      let t := { t with sched := { t.sched with inherits := .ofNat 16 (satInc 16 t.sched.inherits.toNat) } }
      let lv := (t.slotSched n).level level
      (t.setSlotSched n ((t.slotSched n).setLevel level { lv with ecc := lv.ecc || mine.any (·.2.isSome) })).replyPump

/-- Holders of a semaphore that are SPILLED become HOLDING (R409). -/
def State.inherit (s : State) (n i : Nat) : State :=
  (((s.sem (semKey n i)).holders.map (·.1)).filter fun k => s.ctxState k == some .spilled).foldl (fun s k => s.inheritBy n i k) s

/-- The semaphores on which the running step of a slot waits give their SPILLED holders priority (R409). -/
def State.inheritAgain (s : State) (n : Nat) : State :=
  match s.runningCtx n with
  | none => s
  | some k => (span 0 128).foldl (fun s i => if (s.sem (semKey n i)).waiters.any (·.1 == k) then s.inherit n i else s) s

/-- One semaphore operation (R407, R408). -/
def State.semOp (s : State) (east : Bool) (m : GigMsg) (op : Nat) : State :=
  let n := m.coach.toNat
  let p := bfield m.src 0 11
  match s.cellCtx p with
  | none =>
    -- no context to account for it: of an unopened slot it is answered BAD at once; in an open one it comes from a step that has been torn down
    if (s.coach n).valid then s
    else if h : p < 1152 then
      s.send (.semReply ⟨p, h⟩ { type := 2, src := BitVec.ofNat 28 (2 ^ 27 + epSem east), dst := BitVec.ofNat 28 (s.cell p).lcell.toNat
                                 coach := m.coach, srcHen := 0, dstHen := m.srcHen
                                 payload := BitVec.ofNat 48 (semIndex m * 2 ^ 41 + (s.sem (semKey n (semIndex m))).value.toNat * 2 ^ 8 + semBad) })
    else s
  | some k =>
    let l := (s.cell p).lcell
    let m := { m with src := BitVec.ofNat 28 l.toNat }
    let i := semIndex m
    let x := s.sem (semKey n i)
    let reply (s : State) (v st : Nat) : State := s.semReply east n k m i v st
    if s.semRefuses east m op then reply s x.value.toNat semBad
    else match op with
    | 1 =>
      let h := (x.holders.map fun e => if e.1 = k then (k, e.2 - 1) else e).filter fun e => e.2 != 0
      let y := { x with value := BitVec.ofNat 8 (satInc 8 x.value.toNat), holders := h, grants := (dropFirst (k, l) x.grants).filter fun g => h.any (·.1 == g.1) }
      let s := reply (s.setSem (semKey n i) y) y.value.toNat semDone
      s.semGrant n i y.waiters.length
    | 3 => reply s x.value.toNat semDone
    | 4 =>
      let y := { x with value := BitVec.ofNat 8 (semArg m), holders := [], grants := [] }
      let s := reply (s.setSem (semKey n i) y) y.value.toNat semDone
      s.semGrant n i y.waiters.length
    | _ =>
      if x.value ≠ 0 ∧ x.room k then
        let y := x.grant k l
        reply (s.setSem (semKey n i) y) y.value.toNat semGranted
      else if op = 2 then reply s x.value.toNat semBusy
      else if s.semWaiters east ≥ 1024 then reply s x.value.toNat semFull
      else
        let s := s.setSem (semKey n i) { x with waiters := x.waiters ++ [(k, m)] }
        if s.runningCtx n = some k then s.inherit n i else s

/-- ACQUIRE (R407, R409). -/
def execAcquire (east : Bool) (m : GigMsg) (s : State) : Out := s.onModule fun s => s.delivered (.acquire east m) fun s =>
  .next ((s.take (.acquire east m)).semOp east m 0)
/-- RELEASE (R407). -/
def execRelease (east : Bool) (m : GigMsg) (s : State) : Out := s.onModule fun s => s.delivered (.release east m) fun s =>
  .next ((s.take (.release east m)).semOp east m 1)
/-- TRY (R407). -/
def execSemTry (east : Bool) (m : GigMsg) (s : State) : Out := s.onModule fun s => s.delivered (.semTry east m) fun s =>
  .next ((s.take (.semTry east m)).semOp east m 2)
/-- READ (R407). -/
def execSemRead (east : Bool) (m : GigMsg) (s : State) : Out := s.onModule fun s => s.delivered (.semRead east m) fun s =>
  .next ((s.take (.semRead east m)).semOp east m 3)
/-- SET (R407). -/
def execSemSet (east : Bool) (m : GigMsg) (s : State) : Out := s.onModule fun s => s.delivered (.semSet east m) fun s =>
  .next ((s.take (.semSet east m)).semOp east m 4)

/-- The inheritance of a HOLDING context ends when its hold count on the semaphore is zero (R410). -/
def State.inheritOver (s : State) (n k : Nat) : Bool :=
  match (s.ctx k).inheritFor with
  | none => false
  | some i => !(s.sem (semKey n i)).holders.any (·.1 == k)

/-- The yield table of a context's step: YIELD_k of its shape (R382). -/
def State.yieldTableOf (s : State) (n k : Nat) : Word :=
  match (s.ctx k).step with
  | none => 0
  | some st => match s.stepShape (s.partOf n) st.desc with
    | some sh => sh.yieldTable &&& 0x000FFFFFFFFFE000#64
    | none => 0

/-- A HOLDING context's lcells stop, and four frames later, once drained, spill back (R398, R410). -/
def State.inheritEndOf (s : State) (n k : Nat) : State :=
  let cells := s.inheritCellsOf n k
  match (s.ctx k).inheritStop with
  | none =>
    if !s.inheritOver n k then s
    else
      let table := s.yieldTableOf n k
      let s := cells.foldl (fun s p => let live := s.liveOf p table; s.setCell p { (s.cell p).stop with live }) s
      s.setCtx k { s.ctx k with inheritStop := some s.stage.frame }
  | some f =>
    if s.stage.frame < f + 4 || !cells.all fun p => s.drained p && (s.linesAt p).all s.quiet then s
    else match s.levelOf n k with
    | none => s
    | some level =>
      let got := cells.map fun p => s.capture p (s.cell p).live
      let lv := (s.slotSched n).level level
      let swap (e : CellSpill) : CellSpill := match got.find? fun g => g.1.lcell == e.lcell with
        | some g => { g.1 with pcell := e.pcell, inq := e.inq, outq := e.outq }
        | none => e
      let s := s.setSlotSched n ((s.slotSched n).setLevel level { lv with cells := lv.cells.map swap, ecc := lv.ecc || got.any (·.2) })
      let s := got.foldl (fun s g => s.spillBanks n level g.1) s
      let lv := (s.slotSched n).level level
      let s := s.setSlotSched n ((s.slotSched n).setLevel level { lv with cells := lv.cells.map fun (im : CellSpill) => { im with sp := [] } })
      (s.freeInherit cells).setCtx k { s.ctx k with held := some .spilled, inheritFor := none, inheritStop := none }

/-- The inheritances of a slot at a frame boundary: those over end, and new ones begin (R409, R410). -/
def State.inheritEnd (s : State) (n : Nat) : State := ((s.holdings n).foldl (fun s k => s.inheritEndOf n k) s).inheritAgain n

/-! Time. -/

/-- What a step does on an empty queue: a tick passes, and the semaphore units send the replies that it lets go (R156). -/
def State.idle (s : State) : State := ({ s with tick := (s.tick + 1) % 2 ^ 64 } : State).replyPump

/-! Registers (R414). -/

/-- SCHED_CLASS_WRITE (R414). -/
def State.classWrite (s : State) (c : Nat) (v : Word) : State :=
  let old := tget 0x10000000000 s.sched.classes c
  let scale := if bfield v 40 8 = 0 then bfield old 40 8 else bfield v 40 8
  { s with sched := { s.sched with classes := tset 0x10000000000 s.sched.classes c (put 40 scale ||| put 0 (bfield v 0 40)) } }
def execSchedClassWrite (c : ClassIx) (v : Word) (s : State) : Out := s.gate fun s => .next (s.classWrite c v)

/-- INHERIT_CELL_WRITE (R414). -/
def State.inheritWrite (s : State) (r : Nat) (v : Word) : State :=
  let w := v &&& 0x80000000000007FF#64
  if v.getLsbD 63 && (decide (bfield v 0 11 ≥ 1152) || regionOf (bfield v 0 11) != r) then s
  else { s with sched := { s.sched with inherit := tset 0 s.sched.inherit r w } }
def execInheritCellWrite (r : RegionIx) (v : Word) (s : State) : Out := s.gate fun s => .next (s.inheritWrite r v)

/-- SCHED_STATUS. -/
def Sched.status (x : Sched) : Word :=
  put 48 x.preempts.toNat ||| put 32 x.misses.toNat ||| put 16 x.inherits.toNat ||| put 0 x.noSpill.toNat

end Sys2Proof.Machine
end

