-- ==== Sys2Proof/Machine/Xlt.lean ====
section
/-! DEFINITION. Address translation between cells, the TLB agents of the dies and the host (R310 to R336). -/
namespace Sys2Proof.Machine

/-! TLB entries (R315 to R319). -/

/-- A fill merged into a list of entries, or replacing one: at most ways entries of the peers; pick chooses the victim (R317). -/
def tlbFill (l : List TlbEntry) (e : TlbEntry) (peers : TlbEntry → Bool) (ways pick : Nat) : List TlbEntry :=
  let same (o : TlbEntry) : Bool := o.pasid == e.pasid && o.size == e.size && o.vgroup == e.vgroup
  match l.find? same with
  | some o =>
    let n := if o.rd == e.rd && o.wr == e.wr && o.ex == e.ex && o.pbase == e.pbase then { e with mask := o.mask ||| e.mask } else e
    l.map fun x => if same x then n else x
  | none =>
    let ps := l.filter peers
    if ps.length < ways then l ++ [e] else dropFirst (nth e ps (pick % ways)) l ++ [e]

/-- Pages of an entry that a range touches are removed (R331). -/
def TlbEntry.without (e : TlbEntry) (q : XltInvReq) : TlbEntry :=
  if !q.allPasid && e.pasid != q.pasid then e
  else
    let lo := q.vpn.toNat / 2 ^ q.log2.toNat * 2 ^ q.log2.toNat * 4096
    let hi := lo + 2 ^ q.log2.toNat * 4096
    let sz := 2 ^ pageLog2 e.size
    let hit (i : Nat) : Bool := let a := (e.vgroup * 16 + i) * sz; decide (a < hi) && decide (lo < a + sz)
    { e with mask := (span 0 16).foldl (fun (m : BitVec 16) i => if hit i then m &&& ~~~BitVec.ofNat 16 (2 ^ i) else m) e.mask }

def tlbClear (l : List TlbEntry) (q : XltInvReq) : List TlbEntry := (l.map (·.without q)).filter fun e => e.mask != 0

/-- The device physical address of a translated address (R313). -/
def State.apertureOf (s : State) (t : Nat) : Option Nat :=
  let b := s.xlt.aperture.toNat
  if b = 0 then none else if b ≤ t ∧ t < b + 2 ^ 51 then some (t - b) else if t < 2 ^ 51 then some (2 ^ 51 + t) else none

/-- The SIZE code of a completion's range (R315). -/
def sizeOf (log2 : Nat) : BitVec 2 := if log2 ≥ 30 then 2 else if log2 ≥ 21 then 1 else 0

/-- The entry that a completion gives for a page: every page of the requested page's group that it covers (R316, R317). -/
def completionEntry (c : AtsCompletion) (phys : Nat) : TlbEntry :=
  let n := max 12 c.sizeLog2
  let size := sizeOf n
  let lg := pageLog2 size
  let va := c.vpn.toNat * 4096
  let lo := va / 2 ^ n * 2 ^ n
  let base := phys / 2 ^ n * 2 ^ n
  let group := va / 2 ^ lg / 16
  let start := group * 16 * 2 ^ lg
  let covered (i : Nat) : Bool := let a := start + i * 2 ^ lg; decide (lo ≤ a) && decide (a < lo + 2 ^ n)
  { pasid := c.pasid, vgroup := group, size
    pbase := BitVec.ofNat 40 (((base + 2 ^ 52 + start) - lo) % 2 ^ 52 / 4096)
    mask := (span 0 16).foldl (fun (m : BitVec 16) i => if covered i then m ||| BitVec.ofNat 16 (2 ^ i) else m) 0
    rd := c.r, wr := c.w, ex := c.x }

/-- The set of an entry in an L2 TLB: one of 2,048 (R319). -/
def tlbSetOf (e : TlbEntry) : Nat := Config.tlbSet e.vgroup e.size.toNat e.pasid.toNat % 2048

/-! The TLB agents. -/

def State.tlbAgent (s : State) (d : Nat) : TlbAgent := tget {} s.tlbAgents d
def State.setTlbAgent (s : State) (d : Nat) (x : TlbAgent) : State := { s with tlbAgents := tset {} s.tlbAgents d x }

def stOk : BitVec 3 := 0
def stBusy : BitVec 3 := 1
def stPage : BitVec 3 := 2
def stFail : BitVec 3 := 3

/-- An answer without a translation, and one with an entry (R321). -/
def answerPlain (vpn : BitVec 45) (status tag : BitVec 3) : XltAnswer :=
  { vpn, status, pbase := 0, size := 0, rd := false, wr := false, ex := false, mask := 0, tag }
def answerOk (vpn : BitVec 45) (e : TlbEntry) (tag : BitVec 3) : XltAnswer :=
  { vpn, status := stOk, pbase := e.pbase, size := e.size, rd := e.rd, wr := e.wr, ex := e.ex, mask := e.mask, tag }

def State.xltAnswer (s : State) (p : Nat) (a : XltAnswer) : State := if h : p < 1152 then s.send (.xltResp ⟨p, h⟩ a) else s

/-- An entry that holds a page with the permissions of an XLT_REQ (R320, R321). -/
def tlbEntryFor (l : List TlbEntry) (pasid : BitVec 20) (w x : Bool) (va : Nat) : Option TlbEntry :=
  l.find? fun e => (e.look pasid (!w) w x va).isSome

/-- The PASID belongs to a slice of the partition of a coach slot (R323). -/
def State.pasidKnown (s : State) (n : Nat) (pasid : BitVec 20) : Bool :=
  s.host.slices.any fun e => e.2.valid && e.2.pasid == pasid && e.2.partition.toNat == s.partOf n

/-- Page requests outstanding at the host (R327). -/
def State.pagesOut (s : State) : List Nat :=
  s.tlbAgents.flatMap fun e => e.2.misses.filterMap fun m => m.prg.map (·.toNat)

/-- One page request sent, with the next free PRG index; the dispatch core of each waiting slot is told (R326, R327). -/
def State.sendPage (s : State) (d : Nat) (m : L2Miss) : State :=
  let out := s.pagesOut
  if out.length ≥ min 512 s.host.pageAlloc then
    let g := s.tlbAgent d
    s.setTlbAgent d { g with misses := g.misses.map fun (x : L2Miss) => if x = m then { x with wantPage := true } else x }
  else match (span 0 512).find? fun i => !out.contains ((s.xlt.nextPrg.toNat + i) % 512) with
    | none => s
    | some i =>
      let prg : BitVec 9 := BitVec.ofNat 9 (s.xlt.nextPrg.toNat + i)
      let g := s.tlbAgent d
      let s := s.setTlbAgent d { g with misses := g.misses.map fun (x : L2Miss) =>
        if x = m then { x with prg := some prg, wantPage := false } else x }
      let s := { s with xlt := { s.xlt with nextPrg := prg + 1 } }
      let s := s.emit (.pageRequest m.pasid m.vpn (m.waiters.any (·.w)) (m.waiters.any (·.x)) prg)
      let slots := distinct (m.waiters.map fun w => (s.cell w.pcell).slot.toNat)
      slots.foldl (fun s n => if h : n < 48 then s.send (.xltPage m.pasid ⟨n, h⟩ prg) else s) s

/-- XLT_REQ at the die's agent (R323, R324). -/
def execXltReq (p : Pcell) (vpn : BitVec 45) (w x : Bool) (pasid : BitVec 20) (tag : BitVec 3) (s : State) : Out := s.onModule fun s =>
  s.delivered (.xltReq p vpn w x pasid tag) fun s =>
  let s := s.take (.xltReq p vpn w x pasid tag)
  let d := dieOf p
  let n := (s.cell p).slot
  let g := s.tlbAgent d
  let me : XltWaiter := { pcell := p, tag, w, x }
  if !s.pasidKnown n.toNat pasid then .next (s.xltAnswer p (answerPlain vpn stFail tag))
  else match tlbEntryFor g.tlb pasid w x (vpn.toNat * 4096) with
  | some e => .next (s.xltAnswer p (answerOk vpn e tag))
  | none =>
    let mine (m : L2Miss) : Bool := m.pasid == pasid && m.vpn == vpn
    match g.misses.find? mine with
    | some m =>
      let join (m : L2Miss) : L2Miss := if mine m then { m with waiters := m.waiters ++ [me] } else m
      let s := s.setTlbAgent d { g with misses := g.misses.map join }
      .next (match m.prg with
        | some prg =>
          let s := s.xltAnswer p (answerPlain vpn stPage tag)
          if h : n.toNat < 48 then s.send (.xltPage pasid ⟨n.toNat, h⟩ prg) else s
        | none => if m.wantPage then s.xltAnswer p (answerPlain vpn stPage tag) else s)
    | none =>
      if g.misses.length ≥ 256 then .next (s.xltAnswer p (answerPlain vpn stBusy tag))
      else
        let s := s.setTlbAgent d { g with misses := g.misses ++ [{ pasid, vpn, w, x, slot := n, waiters := [me] }] }
        .next (s.emit (.translationRequest pasid vpn (!w) x))

/-- XLT_REQ_RESEND (R323): 256 Stage cycles after a BUSY. -/
def execXltReqResend (p : Pcell) (tag : BitVec 3) (s : State) : Out := s.onClock p fun s =>
  let c := s.cell p
  match c.misses.find? fun m => m.tag == tag && m.busy with
  | none => .next s
  | some m =>
    let s := s.setCell p { c with misses := c.misses.map fun (x : L1Miss) => if x.tag = tag then { x with busy := false } else x }
    .next (s.sendFrom p (.xltReq p m.vpn m.w m.x m.pasid tag))

/-- A Dray's next piece lies in a virtual page. -/
def Dray.waitsFor (y : Dray) (page : Nat) : Bool :=
  y.running.any fun r => match (r.pieces.drop r.next).head? with
    | some x => x.1 % 2 ^ 57 / 4096 == page
    | none => false

/-- The accesses that still wait for the page of a miss fail (R325). -/
def State.xltFails (s : State) (p : Nat) (m : L1Miss) : State :=
  let c := s.cell p
  let page := m.vpn.toNat
  let hen (i : Nat) (x : Hen) : Hen := if m.waiters.contains i && x.stall.isSome then { x with xltFail := some page } else x
  let dray (i : Nat) (y : Dray) : Dray := if m.waiters.contains (4 + i) && y.waitsFor page then { y with xltFail := some page } else y
  s.setCell p { c with hens := Vector.ofFn fun i => hen i.val c.hens[i], drays := Vector.ofFn fun i => dray i.val c.drays[i] }

/-- XLT_RESP at the cell (R317, R318, R323, R325, R328). -/
def execXltResp (p : Pcell) (r : XltAnswer) (s : State) : Out := s.onClock p fun s =>
  s.delivered (.xltResp p r) fun s =>
  let s := s.takeAt p (.xltResp p r)
  let c := s.cell p
  match c.misses.find? fun m => m.tag == r.tag && m.vpn == r.vpn with
  | none => .next s
  | some m =>
    let rest := c.misses.filter fun x => x.tag != r.tag
    let mark (f : L1Miss → L1Miss) : Cell := { c with misses := c.misses.map fun (x : L1Miss) => if x.tag = r.tag then f x else x }
    if r.status = stBusy then .next (s.setCell p (mark fun (x : L1Miss) => { x with busy := true }))
    else if r.status = stPage then .next (s.setCell p (mark fun (x : L1Miss) => { x with page := true }))
    else if r.status = stOk then
      let lg := pageLog2 r.size
      let e : TlbEntry := { pasid := m.pasid, vgroup := r.vpn.toNat * 4096 / 2 ^ lg / 16, size := r.size, pbase := r.pbase
                            mask := r.mask, rd := r.rd, wr := r.wr, ex := r.ex }
      let s := s.setCell p { c with misses := rest, tlb := tlbFill c.tlb e (fun _ => true) 256 (Config.plru s.free) }
      .next (({ s with free := s.free + 1 }).retryCell p none)
    else .next (((s.setCell p { c with misses := rest }).xltFails p m).retryCell p none)

/-- ATS_TRANSLATION_COMPLETION (R313, R315 to R317, R324, R326, R334). -/
def execAtsTranslationCompletion (die : DieIx) (c : AtsCompletion) (s : State) : Out := s.onModule fun s =>
  let g := s.tlbAgent die
  match g.misses.find? fun m => m.pasid == c.pasid && m.vpn == c.vpn && m.prg.isNone && !m.wantPage with
  | none => .next s
  | some m =>
    let without : TlbAgent := { g with misses := dropFirst m g.misses }
    if m.stale then
      let s := s.setTlbAgent die { g with misses := g.misses.map fun (x : L2Miss) => if x = m then { x with stale := false } else x }
      .next (s.emit (.translationRequest m.pasid m.vpn (!m.waiters.any (·.w)) (m.waiters.any (·.x))))
    else match (if c.ok && !c.u then s.apertureOf c.taddr.toNat else none) with
    | none =>
      let s := s.setTlbAgent die without
      .next (m.waiters.foldl (fun s w => s.xltAnswer w.pcell (answerPlain m.vpn stFail w.tag)) s)
    | some phys =>
      let e := completionEntry c phys
      let can (w : XltWaiter) : Bool := (e.look m.pasid (!w.w) w.w w.x (m.vpn.toNat * 4096)).isSome
      let set (o : TlbEntry) : Bool :=
        tlbSetOf o == tlbSetOf e
      let tlb := if e.rd || e.wr then tlbFill g.tlb e set 8 (Config.plru s.free) else g.tlb
      let held := (tlb.find? fun o => o.pasid == e.pasid && o.size == e.size && o.vgroup == e.vgroup).getD e
      let lack := m.waiters.filter fun w => !can w
      let s := { s with free := s.free + 1 }
      let s := (m.waiters.filter can).foldl (fun s w => s.xltAnswer w.pcell (answerOk m.vpn held w.tag)) s
      if lack.isEmpty then .next (s.setTlbAgent die { without with tlb })
      else
        let m' := { m with waiters := lack }
        let s := s.setTlbAgent die { tlb, misses := g.misses.map fun (x : L2Miss) => if x = m then m' else x }
        let s := lack.foldl (fun s w => s.xltAnswer w.pcell (answerPlain m.vpn stPage w.tag)) s
        .next (s.sendPage die m')

/-! Pages (R326 to R330). -/

/-- The contexts of a slot whose accesses wait for a page request: on the cells that an agent's miss names. -/
def State.pageCtxs (s : State) (n : Nat) (pasid : BitVec 20) (prg : BitVec 9) : List Nat :=
  let ms := s.tlbAgents.flatMap fun e => e.2.misses.filter fun m => m.prg == some prg && m.pasid == pasid
  let cells := ms.flatMap fun m => m.waiters.filterMap fun w =>
    let c := s.cell w.pcell
    if c.slot.toNat = n && c.misses.any fun x => x.tag == w.tag && x.vpn == m.vpn && x.pasid == pasid && !x.waiters.isEmpty then some w.pcell else none
  distinct (cells.filterMap s.cellCtx)

/-- Contexts of a slot whose step waits for a page request: it has been told, or its accesses wait and it may be told yet. -/
def State.pageWaiters (s : State) (n : Nat) (pasid : BitVec 20) (prg : BitVec 9) : List Nat :=
  (s.ctxsOf n).filter fun k => (s.pageCtxs n pasid prg).contains k || (match (s.ctx k).step with
    | some st => st.pages.contains prg
    | none => false)

/-- The step of a context waits for a page request. -/
def State.awaitsPage (s : State) (k : Nat) (prg : BitVec 9) : State :=
  let c := s.ctx k
  s.setCtx k { c with step := c.step.map fun (st : StepRec) => { st with pages := if st.pages.contains prg then st.pages else st.pages ++ [prg] } }

/-- XLT_PAGE at a dispatch core (R328, R396): the contexts of the PASID wait for the page, and the running one is switched out at the next
frame boundary. A HOLDING context is not running (R409), and stays where it is. -/
def execXltPage (pasid : BitVec 20) (n : Slot) (prg : BitVec 9) (s : State) : Out := s.onModule fun s =>
  s.delivered (.xltPage pasid n prg) fun s =>
  let s := s.take (.xltPage pasid n prg)
  let own (k : Nat) : Bool := (s.slice (s.ctx k).slice).pasid == pasid
  let run := s.runningCtx n
  let all := distinct ((s.pageCtxs n pasid prg).filter own ++ (run.filter own).toList)
  let s := all.foldl (fun s k => s.awaitsPage k prg) s
  if !(match run with
    | some k => all.contains k
    | none => false) then .next s
  else
    let x := s.slotSched n
    if x.stopAt.isSome || x.switch != .none then .next s
    else if !s.areaHolds n || x.freeLevel.isNone then .next s.noSpill
    else .next (s.setSlotSched n { x with stopAt := some true })

/-- Accesses of a cell that wait for a page send their XLT_REQ again (R328); a miss for which none waits any more is forgotten. -/
def State.reask (s : State) (p : Nat) (pasid : BitVec 20) (vpn : BitVec 45) : State :=
  let c := s.cell p
  let mine (m : L1Miss) : Bool := m.page && m.pasid == pasid && m.vpn == vpn
  let s := s.setCell p { c with
    misses := (c.misses.filter fun m => !(mine m && m.waiters.isEmpty)).map fun (m : L1Miss) => if mine m then { m with page := false } else m }
  if h : p < 1152 then
    (c.misses.filter fun m => mine m && !m.waiters.isEmpty).foldl (fun s m => s.sendFrom p (.xltReq ⟨p, h⟩ m.vpn m.w m.x m.pasid m.tag)) s
  else s

/-- A page has come for a context (R328, R329): once no other is awaited, a running context is not switched out for it, and one that is
being switched out or has been becomes ready. -/
def State.pageCame (s : State) (n k : Nat) (prg : BitVec 9) : State :=
  let c := s.ctx k
  let left : List (BitVec 9) := match c.step with
    | some st => st.pages.filter (· != prg)
    | none => []
  let s := s.setCtx k { c with step := c.step.map fun (st : StepRec) => { st with pages := left } }
  if !left.isEmpty then s
  else match s.levelOf n k with
    | some i =>
      let x := s.slotSched n
      s.setSlotSched n (x.setLevel i { x.level i with pageDone := true })
    | none =>
      let x := s.slotSched n
      if x.stopAt = some true then s.setSlotSched n { x with stopAt := none } else s

/-- The page fails (R329): the step faults with kind PAGE_FAULT. -/
def State.pageFails (s : State) (n k : Nat) (a : Word) : State :=
  if s.runningCtx n = some k then s.stepFaultAt n stepPageFault a else s.ctxFault k stepPageFault a

/-- Page requests that waited for room go out (R327). -/
def State.sendWaiting (s : State) : State :=
  (s.tlbAgents.flatMap fun e => (e.2.misses.filter (·.wantPage)).map fun m => (e.1, m)).foldl (fun s e => s.sendPage e.1 e.2) s

/-- The PAGE answers of a miss that are still in flight have come to their cells. -/
def State.pageTold (s : State) (m : L2Miss) : State :=
  let is (p : Nat) (w : XltWaiter) (a : XltAnswer) : Bool := w.pcell == p && a.status == stPage && a.vpn == m.vpn && a.tag == w.tag
  let gone (i : Instr) : Bool := match i with
    | .xltResp p a => m.waiters.any fun w => is p.val w a
    | _ => false
  let told := m.waiters.filter fun w => s.flight.any fun e => match e.2 with
    | .xltResp p a => is p.val w a
    | _ => false
  told.foldl (fun s w =>
    let c := s.cell w.pcell
    s.setCell w.pcell { c with misses := c.misses.map fun (x : L1Miss) =>
      if x.tag = w.tag ∧ x.vpn = m.vpn ∧ x.pasid = m.pasid then { x with page := true } else x })
    { s with flight := s.flight.filter fun e => !gone e.2 }

/-- PRG_RESPONSE (R328 to R330). -/
def execPrgResponse (prg : BitVec 9) (success : Bool) (s : State) : Out := s.onModule fun s =>
  let mine (m : L2Miss) : Bool := m.prg == some prg
  let late (s : State) : State := { s with xlt := { s.xlt with latePrg := .ofNat 16 (satInc 16 s.xlt.latePrg.toNat) } }
  match s.tlbAgents.find? fun e => e.2.misses.any mine with
  | none => .next (late s)
  | some (d, g) =>
    match g.misses.find? mine with
    | none => .next s
    | some m =>
      let s := s.setTlbAgent d { g with misses := dropFirst m g.misses }
      let pages (i : Instr) : Bool := match i with
        | .xltPage _ _ r => r == prg
        | _ => false
      let told := s.flight.any fun e => pages e.2
      let s := { s with flight := s.flight.filter fun e => !pages e.2 }
      let cells := distinct (m.waiters.map (·.pcell))
      let s := s.pageTold m
      let slots := distinct (m.slot.toNat :: cells.map fun p => (s.cell p).slot.toNat)
      let ctxs := slots.flatMap fun n => (s.pageWaiters n m.pasid prg).map fun k => (n, k)
      let awaited := told || ctxs.any (fun e => match (s.ctx e.2).step with
          | some st => st.pages.contains prg
          | none => false)
        || cells.any fun p => (s.cell p).misses.any fun x => x.page && !x.waiters.isEmpty && x.pasid == m.pasid && x.vpn == m.vpn
      if !awaited then .next (late s).sendWaiting
      else
        let s := cells.foldl (fun s p => if success && !(s.cell p).stopped then s.reask p m.pasid m.vpn else s) s
        let s := ctxs.foldl (fun s e => if success then s.pageCame e.1 e.2 prg else s.pageFails e.1 e.2 (BitVec.ofNat 64 (m.vpn.toNat * 4096))) s
        .next s.sendWaiting

/-! Invalidation (R331 to R336). -/

/-- Cells of the device whose translations an invalidation reaches (R331). -/
def State.invCells (s : State) : List Nat :=
  (s.cells.filter fun (e : Nat × Cell) => match s.cellState e.1 with
    | .hitched | .joining | .moveIn | .moveOut => true
    | .free => e.2.slot != (63 : BitVec 6)
    | _ => false).map fun (e : Nat × Cell) => e.1

/-- An invalidation, or a flush, begins (R331, R334, R336). -/
def State.invalidate (s : State) (itag : Option (BitVec 5)) (pasid : BitVec 20) (all : Bool) (vpn : BitVec 45) (log2 : BitVec 8) : State :=
  let seq := s.xlt.nextSeq
  let q : XltInvReq := { vpn, pasid, allPasid := all, log2, seq }
  let outdated (m : L2Miss) : Bool := m.prg.isNone && !m.wantPage && invCovers q m.pasid (m.vpn.toNat * 4096)
  let agents := tmap {} s.tlbAgents fun _ (t : TlbAgent) => { t with
    tlb := tlbClear t.tlb q
    misses := t.misses.map fun (m : L2Miss) => if outdated m then { m with stale := true } else m }
  let cells := s.invCells
  let s := { s with tlbAgents := agents, xlt := { s.xlt with nextSeq := seq + 1 } }
  if cells.isEmpty then
    match itag with
    | some t => s.emit (.invalidateCompletion t)
    | none => s
  else
    let s := { s with xlt := { s.xlt with
      invalidations := s.xlt.invalidations ++ [{ itag, seq, pasid, all, vpn, log2, awaiting := cells, since := s.tick }] } }
    cells.foldl (fun s p => if h : p < 1152 then s.send (.xltInv ⟨p, h⟩ q) else s) s

/-- ATS_INVALIDATE_REQUEST (R331). -/
def execAtsInvalidateRequest (q : AtsInvalidate) (s : State) : Out := s.onModule fun s =>
  .next (match q.pasid with
    | some k => s.invalidate (some q.itag) k false q.vpn q.log2
    | none => s.invalidate (some q.itag) 0 true q.vpn q.log2)

/-- A write of XLT_FLUSH (R336, R342): ignored while a flush is in progress. -/
def State.xltFlushWrite (s : State) (v : Word) : State :=
  if s.xlt.invalidations.any (·.itag.isNone) then s
  else (s.logWindow 0x380010 v).invalidate none (BitVec.ofNat 20 v.toNat) (v.getLsbD 20) 0 45

/-- XLT_FLUSH (R336). -/
def execXltFlush (v : Word) (s : State) : Out := s.gate fun s => .next (s.xltFlushWrite v)

/-- XLT_INV at a cell (R332). -/
def execXltInv (p : Pcell) (q : XltInvReq) (s : State) : Out := s.onClock p fun s =>
  s.delivered (.xltInv p q) fun s =>
  let s := s.takeAt p (.xltInv p q)
  let c := s.cell p
  .next ((s.setCell p { c with tlb := tlbClear c.tlb q, invs := c.invs ++ [q] }).checkInvs p)

/-- An invalidation ends: the Invalidate Completion goes out (R332, R333). -/
def State.invEnds (s : State) (v : Invalidation) : State :=
  let s := { s with xlt := { s.xlt with invalidations := dropFirst v s.xlt.invalidations } }
  match v.itag with
  | some t => s.emit (.invalidateCompletion t)
  | none => s

/-- XLT_INV_ACK at the agent (R332). -/
def execXltInvAck (p : Pcell) (seq : BitVec 8) (s : State) : Out := s.onModule fun s =>
  s.delivered (.xltInvAck p seq) fun s =>
  let s := s.take (.xltInvAck p seq)
  match s.xlt.invalidations.find? fun v => v.seq == seq && v.awaiting.contains p.val with
  | none => .next s
  | some v =>
    let w := { v with awaiting := v.awaiting.filter (· != p.val) }
    let s := { s with xlt := { s.xlt with
      invalidations := s.xlt.invalidations.map fun (x : Invalidation) => if x = v then w else x } }
    .next (if w.awaiting.isEmpty then s.invEnds w else s)

/-- Endpoints that hold requests of Drays. -/
def memoryEp (ep : Nat) : Bool := (decide (1152 ≤ ep) && decide (ep < 1408)) || (decide (1428 ≤ ep) && decide (ep ≤ 1462))

/-- Flits of a request of a Dray on its stream (R259, R435). -/
def requestFlits (op lines : Nat) : Nat := if op = 2 then 1 + 2 * lines else if op = 4 then 2 else 1

/-- The flits of a stream's outbound queue that stay when a cell's requests are abandoned (R333): q is the queue, reversed, and reqs the
stream's outstanding requests, the newest first. A request that has left in part goes, for its endpoint discards what it holds of it. -/
def keepRequests (gone : DrayReq → Bool) : List DrayReq → List Unit32 → List Unit32
  | [], q => q
  | r :: rest, q =>
    let n := requestFlits r.op r.lines
    if q.length < n then [] else (if gone r then [] else q.take n) ++ keepRequests gone rest (q.drop n)

/-- The requests of a cell that have not left it whole, and those of them that an invalidation abandons, leave its outbound queues. -/
def State.dropQueued (s : State) (p : Nat) (gone : DrayReq → Bool) : State :=
  let c := s.cell p
  let reqs := c.drays.toList.flatMap (·.out)
  (distinct (reqs.map (·.stream))).foldl (fun s st =>
    let k := streamKey p c.slot.toNat st
    let q := keepRequests gone (reqs.filter (·.stream == st)).reverse (tget [] s.stage.outQ k).reverse
    { s with stage := { s.stage with outQ := tset [] s.stage.outQ k q.reverse } }) s

/-- Requests and far atomics of a slot that homes, controllers, PCI and FAB egress hold and have not started are discarded, with the
flits of requests that were on their way (R333). -/
def State.dropUnstarted (s : State) (n : Nat) : State :=
  let cells := s.cellsOf n ++ s.inheritCells n
  let gone (i : Instr) : Option (Nat × LineNo) := match i with
    | .amoFar a l _ => if cells.contains a then some (a, l) else none
    | _ => none
  let queued (l : Nat) : HomeReq → Option (Nat × LineNo)
    | .amo a _ => if cells.contains a then some (a, BitVec.ofNat 46 l) else none
    | _ => none
  let lost := (s.flight.filterMap fun e => gone e.2) ++ s.homeLines.flatMap fun e => e.2.queue.filterMap (queued e.1)
  let s := { s with
    flight := s.flight.filter fun e => (gone e.2).isNone
    homeLines := tmap {} s.homeLines fun l (x : HomeLine) => { x with queue := x.queue.filter fun r => (queued l r).isNone }
    stage := { s.stage with
      inQ := s.stage.inQ.filter fun e => e.1 / 64 % 64 != n || !memoryEp (e.1 / 4096) || (decide (e.1 / 4096 = epFabW ∨ e.1 / 4096 = epFabE) && (s.streamEntry n (e.1 % 64)).1)
      flits := s.stage.flits.filter fun y =>
        !(y.flit.coach.toNat == n && isCellEp y.flit.src && (s.cell y.flit.src).mapValid y.flit.stream.toNat) } }
  let s := cells.foldl (fun s p => s.dropQueued p fun _ => false) ((s.dropNc n false).dropUnsent n)
  cells.foldl (fun s p =>
    let c := s.cell p
    s.setCell p { c with far := c.far.filter fun f => !lost.any fun x => x.1 == p && x.2 == f.2.1 }) s

/-- A cell's transfers under a cleared translation are abandoned (R333): a Hen that waits under one performs its access no more, the late
replies of its Drays are discarded, and requests that FAB egress holds outstanding for them go (R444). -/
def State.abandon (s : State) (p : Nat) (v : Invalidation) : State :=
  let q : XltInvReq := { vpn := v.vpn, pasid := v.pasid, allPasid := v.all, log2 := v.log2, seq := v.seq }
  let c := s.cell p
  let hit (r : DrayReq) : Bool := r.covered q
  let lost := c.drays.toList.flatMap fun y => y.out.filter hit
  let n := c.slot.toNat
  let s := s.dropQueued p hit
  let s := s.setCell p { c with
    hens := c.hens.map fun (x : Hen) => if x.covered q then { x.ended with kept := [] } else x
    drays := c.drays.map fun (y : Dray) => { y with out := y.out.filter fun r => !hit r }
    abandoned := distinct (c.abandoned ++ lost.map (·.stream))
    invs := c.invs.filter fun (x : XltInvReq) => x.seq != v.seq }
  let mine (r : JbnReq) : Bool := r.slot == n && lost.any fun x =>
    let e := c.mapEntry x.stream
    e.2.2.2 == (if r.east then epFabE else epFabW) && e.2.2.1 == r.reply && x.addr == r.addr && x.op == r.op && x.lines == r.lines
  let s := (s.jbn.reqs.filter mine).foldl (fun s r => s.recallTag n r.tag) s
  { s with jbn := { s.jbn with reqs := s.jbn.reqs.filter fun r => !mine r } }

/-- INVALIDATION_ABANDON (R333): 10,000 ticks after the request some cell has not acknowledged. A flush, which has no ITag, is
abandoned in the same way. -/
def execInvalidationAbandon (itag : BitVec 5) (s : State) : Out := s.onModule fun s =>
  let due (v : Invalidation) : Bool := decide (s.tick ≥ v.since + 10000)
  let found := match s.xlt.invalidations.find? fun v => v.itag == some itag && due v with
    | some v => some v
    | none => s.xlt.invalidations.find? fun v => v.itag.isNone && due v
  match found with
  | none => .next s
  | some v =>
    let s := v.awaiting.foldl (fun s p => s.abandon p v) s
    let slots := distinct (v.awaiting.map fun p => (s.cell p).slot.toNat)
    let s := slots.foldl (fun s n => s.dropUnstarted n) s
    let s := v.awaiting.foldl (fun s p => s.checkInvs p) s
    let s := (distinct (v.awaiting.filterMap fun p => s.cellCtx p)).foldl (fun s k => match s.ctxSlot k with
      | some n => if s.runningCtx n = some k then s.stepFault n stepXltDrain else s.ctxFault k stepXltDrain
      | none => s) s
    let s := { s with xlt := { s.xlt with abandons := .ofNat 16 (satInc 16 s.xlt.abandons.toNat) } }
    .next (s.invEnds v)

end Sys2Proof.Machine
end

