-- ==== Sys2Proof/Machine/MemEp.lean ====
section
/-! DEFINITION. Requests of Drays at the endpoints that serve them (R257 to R261, R311, R337, R400, R434, R435, R507). A request is
the flit at the head of one coach's stream at the endpoint. -/
namespace Sys2Proof.Machine

/-- The partition under which a request is checked: that of its slot, or the system's for the spill area on stream 62 (R400). -/
def State.requester (s : State) (ep n stream a lines : Nat) : Nat :=
  if stream = 62 ∧ ep < 1460 then
    let w := tget 0 s.sched.spillArea n
    let base := bfield w 30 22 * 2 ^ 30
    if base ≤ a ∧ a + 64 * lines ≤ base + 2 * bfield w 0 11 * 2228224 then 0x3E else 0x3F
  else s.partOf n

/-- The check of a request at PCI (R311, R507). -/
def State.hostCheck (s : State) (n : Nat) (f : Unit32) : Nat :=
  let a := rqAddr f
  if a < 2 ^ 51 ∨ a + 64 * rqLines f > 2 ^ 52 then srAddr
  else if s.stable.sealed.contains (s.partOf n) || decide (s.partOf n ≥ 32) then srPartition
  else srOk

/-- A request at PCI that needs no answer from the host: one that fails its check, a write, a prefetch. -/
def State.serveHost (s : State) (n : Nat) (f : Unit32) (data : List Byte) : State :=
  let st := s.hostCheck n f
  let s' := if st = srOk ∧ rqOp f = 2 then s.writePhys (rqAddr f) data else s
  let s' := s'.pushReply epPci n (rqReply f)
    (replyUnits st (if st = srOk then 0 else rqAddr f) (if st ≠ srOk ∧ rqOp f = 1 then natBytes (64 * rqLines f) 0 else []))
  if st = srOk ∧ rqOp f ≠ 3 then s'.acTouch 0 (s.partOf n) (rqAddr f) (rqLines f) else s'

/-- A read of host memory leaves over PCIe and waits for its completions (R260, R349). -/
def State.hostRead (s : State) (n : Nat) (f : Unit32) : State :=
  let a := rqAddr f - 2 ^ 51
  let r : HostRead := { slot := n, reply := rqReply f, addr := a, lines := rqLines f, missing := span (a / 64) (rqLines f) }
  { s with host := { s.host with reads := s.host.reads ++ [r] } }.emit (.hostRead a (64 * rqLines f))

/-- The key of a request's lines (R502): the slot's spill key for its spill area, else their chunk's. -/
def spillKeyOf (who n stream : Nat) : Nat := if stream = 62 ∧ who = 0x3E then n + 1 else 0

/-- A request of a stream at a memory endpoint enters the queues of its lines. -/
def State.openRequest (s : State) (ep n stream : Nat) (f : Unit32) (data : List Byte) : State :=
  let who := s.requester ep n stream (rqAddr f) (rqLines f)
  s.ncOpen ep
    { id := 0, src := .stream ep n stream f, who, alloc := rqAlloc f || decide (rqOp f = 3), key := spillKeyOf who n stream
      charge := if stream = 62 then mSystem else n, addr := rqAddr f, lines := rqLines f }
    (if rqOp f = 2 then .write data else .read)

/-- The head request of a stream at an endpoint, if it is of the operation: taken once its data has come, the requests before it have been
answered, and the reply has room (R261). -/
def State.requestRow (s : State) (ep n stream op : Nat) : State :=
  let key := streamKey ep n stream
  let fab := ep = epFabW ∨ ep = epFabE
  match tget [] s.stage.inQ key with
  | [] => s
  | f :: rest =>
    let mine := decide (rqOp f = op) || (decide (op = 1) && (decide (rqOp f = 0) || decide (rqOp f > 4)))
    if !mine || !memoryEp ep || rest.length < rqData f || (decide (ep < 1460) && !s.homeTurn (s.partOf n)) || s.ncBusy ep n stream || (decide fab && (s.streamEntry n stream).1) then s
    else
      let taken : State := { s with stage := { s.stage with inQ := tset [] s.stage.inQ key (rest.drop (rqData f)) } }
      let units := rest.take (rqData f)
      let data := units.flatMap (bytesOf 32)
      let bad := rqBad f || (decide (op = 4) && !decide fab) || (decide (op = 3) && decide fab)
      let reply := if bad then 1 + (if op = 1 then 2 * min (rqLines f) 64 else 0) else replyFlits (rqOp f) (rqLines f)
      if ep < 1460 ∧ s.outboundAt ep n + s.ncReserved ep n + reply > 256 then s
      else if bad then taken.pushReply ep n (rqReply f) (failReply f srBad (rqAddr f))
      else if fab then
        match taken.fabRequest (decide (ep = epFabE)) n (rqReply f) op (rqLines f) (rqAddr f) units (s.partOf n) with
        | some t => t
        | none => s
      else if ep = epPci then
        if op = 1 ∧ s.hostCheck n f = srOk then taken.hostRead n f else taken.serveHost n f data
      else taken.openRequest ep n stream f data

/-- PCIE_COMPLETION (R349): data of host memory comes; it is what the device sees there, and a read whose lines have all come is
answered. -/
def execPcieCompletion (addr : Nat) (data : List Byte) (s : State) : Out :=
  let s := ({ s with hostMem := writeBytes s.hostMem addr data } : State).countGlobal 577 data.length
  let came (l : Nat) : Bool := decide (addr ≤ 64 * l) && decide (64 * l + 64 ≤ addr + data.length)
  let reads := s.host.reads.map fun (r : HostRead) => { r with missing := r.missing.filter fun l => !came l }
  let s := { s with host := { s.host with reads := reads.filter fun r => !r.missing.isEmpty } }
  .next ((reads.filter fun r => r.missing.isEmpty).foldl (fun s r =>
    let s := s.pushReply epPci r.slot r.reply (replyUnits srOk 0 (readBytes s.hostMem r.addr (64 * r.lines)))
    s.acTouch 0 (s.partOf r.slot) (r.addr + 2 ^ 51) r.lines) s)

/-- REQUEST_READ (R260, R434). A reserved OP is answered here too. -/
def execRequestRead (ep slot stream : Nat) (s : State) : Out := s.onModule fun s => .next (s.requestRow ep slot stream 1)
/-- REQUEST_WRITE (R260, R434). -/
def execRequestWrite (ep slot stream : Nat) (s : State) : Out := s.onModule fun s => .next (s.requestRow ep slot stream 2)
/-- REQUEST_PREFETCH (R260, R264). -/
def execRequestPrefetch (ep slot stream : Nat) (s : State) : Out := s.onModule fun s => .next (s.requestRow ep slot stream 3)
/-- REQUEST_ATOMIC (R435). -/
def execRequestAtomic (ep slot stream : Nat) (s : State) : Out := s.onModule fun s => .next (s.requestRow ep slot stream 4)

end Sys2Proof.Machine
end

