-- ==== Sys2Proof/Machine/Frame.lean ====
section
/-! DEFINITION. The start of a frame (R124, R138, R140, R207, R210, R218, R229, R375, R389, R413). -/
namespace Sys2Proof.Machine

/-- Pending cell changes of a slot take effect together, with one epoch advance, while no step of the coach runs (R212, R229, R233). -/
def State.cellChanges (s : State) (n : Nat) : State :=
  let c := s.coach n
  let x := s.slotSched n
  if !c.valid || x.running.isSome || x.switch != .none || c.batch || c.closeFrame.isSome || !s.changesPending n
      || (tget none s.errs.resets n).isSome then s
  else
    let leaving := (s.cellsOf n).filter fun p => (s.cell p).leaving
    let grown := (c.hitches.filter fun h => !h.refill).length
    let s := s.setCoach n { c with
      hitches := [], localCells := c.localCells + grown - leaving.length
      unplaced := c.unplaced.filter fun l => !c.hitches.any fun h => h.refill && h.lcell == l }
    let s := s.advanceEpoch n true
    let s := c.hitches.foldl (fun s h => s.setCell h.pcell { s.cell h.pcell with st := .hitched, peer := 0 }) s
    leaving.foldl (fun s p => s.leave p .vacated) s

/-- The running step of a slot has held its cells for one more frame (R389). -/
def State.frameHeld (s : State) (n : Nat) : State :=
  match s.runningCtx n with
  | none => s
  | some k =>
    if (s.slotSched n).switch != .none then s
    else
      let c := s.ctx k
      s.setCtx k { c with step := c.step.map fun (st : StepRec) => { st with frames := st.frames + 1 } }

/-- A CONTEXT_TEARDOWN of a running step (R375): the step is killed, and the teardown completes. -/
def State.teardownBoundary (s : State) : State :=
  match s.host.mbxWaits with
  | none => s
  | some k =>
    match s.ctxSlot k with
    | none => ((s.teardown k none).settle).mbxTornDown
    | some n =>
      if (tget none s.errs.resets n).isSome then s
      else
        let s := if s.runningCtx n = some k then s.killStep n else s
        (((s.teardown k none).settle).parkIfIdle n).mbxTornDown

/-- What a frame boundary does for one coach slot. -/
def State.slotBoundary (s : State) (n : Nat) : State :=
  let s := ((s.windowClose n).resetBoundary n).batchEffect n
  let s := (s.frameHeld n).faultBoundary n
  ((s.cellChanges n).inheritEnd n).clearTorn n

/-- FRAME_BOUNDARY. -/
def execFrameBoundary (s : State) : Out := s.onModule fun s =>
  let s := s.nextFrame.swapsDue
  let s := (span 0 48).foldl (fun s n => s.slotBoundary n) s
  .next s.teardownBoundary

end Sys2Proof.Machine
end

