-- ==== Sys2Proof/Machine/Host.lean ====
section
/-! DEFINITION. The host interface (R343 to R377, R617, R618): the slice mailbox, doorbell pages, fences, events, the BAR4 window. -/
namespace Sys2Proof.Machine

/-! The slice mailbox (R350 to R353, R618). -/

def mbOk : Nat := 0
def mbBadCmd : Nat := 1
def mbRange : Nat := 2
def mbInUse : Nat := 3
def mbNotFound : Nat := 4
def mbPartition : Nat := 5
def mbNoRoom : Nat := 6

def mbWord (ws : List Word) (i : Nat) : Word := nth 0 ws i
def mbField (ws : List Word) (i lo w : Nat) : Nat := bfield (mbWord ws i) lo w

/-- The bits that a command may have set in its words; none for a reserved OP (R351). -/
def mbUses (op : Nat) : Option (List Nat) :=
  let all := 2 ^ 64 - 1
  match op with
  | 0x01 => some [2 ^ 43 - 1, all, 0xFFFF07FF001F]
  | 0x02 => some [0x3FFFF]
  | 0x03 => some [0xFFFF00FF, 0x800000000000FFFF]
  | 0x10 => some [0xFFFFFF, 0x0FFF03FF, all, 0xFF1F]
  | 0x11 => some [0xFFFFFF]
  | 0x20 => some [0x000FFFFF00001FFF, all, 0x800000000000FFFF]
  | 0x21 => some [0x000FFFFF00001FFF]
  | 0x22 => some [0x1F1FFF, all]
  | 0x30 => some [0x0000003F0FFF00FF]
  | _ => none

def mbBad (ws : List Word) : Bool :=
  match mbUses (mbField ws 0 0 8) with
  | none => true
  | some m => (span 0 8).any fun i => (mbWord ws i).toNat &&& (nth 0 m i) != (mbWord ws i).toNat

/-- A byte of device memory in the chunks of a partition. -/
def State.inPart (s : State) (q a : Nat) : Bool := s.inChunk a && s.ownerOf a == q

/-- A range in the chunks of a partition or in host memory (R311, R352). -/
def State.inPartOrHost (s : State) (q a n : Nat) : Bool :=
  (s.inPart q a && s.inPart q (a + n - 1)) || (decide (2 ^ 51 ≤ a) && decide (a + n ≤ 2 ^ 52))

/-- The partition of the slices of a handle's contexts, and of the slot to which a handle is bound. -/
def State.handleSlot (s : State) (h : Nat) : Nat := (tget 63 s.host.handles h).toNat

/-- A context's step has begun and not ended. -/
def State.ctxBusy (s : State) (k : Nat) : Bool := (s.ctx k).held.isSome

/-- The fences of a partition that the device counts as valid (R617). -/
def State.tableOf (s : State) (q : Nat) : FenceTable := tget {} s.host.tables q
def State.setTable (s : State) (q : Nat) (t : FenceTable) : State :=
  { s with host := { s.host with tables := tset {} s.host.tables q t } }

/-- The checks of a mailbox command in the order of R618; the first that fails. -/
def State.mbCheck (s : State) (ws : List Word) : Nat :=
  let w (i lo n : Nat) : Nat := mbField ws i lo n
  let first (l : List (Bool × Nat)) : Nat := match l.find? (·.1) with
    | some e => e.2
    | none => mbOk
  if mbBad ws then mbBadCmd
  else match w 0 0 8 with
  | 0x01 =>
    let k := w 0 8 10
    let lg := w 2 0 5
    let base := (mbWord ws 1).toNat
    let sum := s.host.slices.foldl (fun t e => if e.1 = k then t else t + e.2.waits) (w 2 32 16)
    first [(base % 4096 != 0 || decide (lg < 6) || decide (lg > 16) || decide (w 2 16 11 < 16) || decide (w 2 32 16 > 16384), mbRange),
      (!s.inPartOrHost (w 0 18 5) base (2 ^ lg * 32), mbRange),
      ((s.slice k).valid || s.host.slices.any (fun e => e.2.valid && e.2.pasid.toNat == w 0 23 20), mbInUse),
      (decide (sum > 16384), mbNoRoom)]
  | 0x02 =>
    let k := w 0 8 10
    first [(!(s.slice k).valid, mbNotFound), (s.host.ctxs.any (fun e => e.2.valid && e.2.slice == k), mbInUse)]
  | 0x03 =>
    let k := w 1 0 16
    let pg : Page := tget {} s.host.pages (w 0 16 16)
    if w 1 63 1 = 1 then mbOk
    else first [(!(s.ctx k).valid, mbNotFound), (pg.ctx.isSome && pg.ctx != some k, mbInUse)]
  | 0x10 =>
    let base := (mbWord ws 2).toNat
    let lg := w 3 0 5
    let sl := s.slice (w 1 0 10)
    let n := s.handleSlot (w 1 16 12)
    first [(base % 4096 != 0 || decide (lg < 2) || decide (lg > 16) || w 3 8 8 == 0, mbRange),
      (!sl.valid, mbNotFound),
      (decide (n < 48) && s.partOf n != sl.partition.toNat, mbPartition),
      (!s.inPartOrHost sl.partition.toNat base (2 ^ lg * 256), mbRange),
      ((s.ctx (w 0 8 16)).valid, mbInUse)]
  | 0x11 => first [(!(s.ctx (w 0 8 16)).valid, mbNotFound)]
  | 0x20 =>
    let q := w 0 8 5
    let f := w 0 32 20
    let o := w 2 0 16
    let owned := w 2 63 1 == 0
    first [((s.fenceAddr q f).isNone || (owned && !(s.ctx o).valid), mbNotFound),
      (owned && s.ctxPart o != q, mbPartition),
      ((s.tableOf q).made.contains f, mbInUse)]
  | 0x21 => first [(!(s.tableOf (w 0 8 5)).made.contains (w 0 32 20), mbNotFound)]
  | 0x22 =>
    let q := w 0 8 5
    let lg := w 0 16 5
    let base := (mbWord ws 1).toNat
    first [(base % 4096 != 0 || decide (lg < 10) || decide (lg > 20), mbRange),
      (!(s.inPart q base && s.inPart q (base + 2 ^ lg * 32 - 1)), mbRange),
      (!(s.tableOf q).made.isEmpty, mbInUse)]
  | _ =>
    let h := w 0 16 12
    let n := w 0 32 6
    let mine := s.host.ctxs.filter fun e => e.2.valid && e.2.handle == h
    first [(decide (n ≥ 48) && n != 63, mbRange),
      (n != 63 && !(s.coach n).valid, mbNotFound),
      (n != 63 && mine.any (fun e => s.ctxPart e.1 != s.partOf n), mbPartition),
      (if n = 63 then mine.any (fun e => s.ctxBusy e.1) else s.handleSlot h != 63, mbInUse)]

/-- Device memory zeroed by the device: cached copies of its lines go first (R617). -/
def State.devZero (s : State) (a n : Nat) : State :=
  let lines := s.knownLines fun l => decide (a < 64 * l + 64) && decide (64 * l < a + n)
  let s := lines.foldl (fun s l => (s.devOwn l (64 * l) (natBytes 64 0) mSystem).llcDrop l) s
  (s.chargeLines a n true mSystem).zeroRange a n

/-- Host waits on a fence that is freed are answered with ABANDONED set (R376). -/
def State.fenceFree (s : State) (q f : Nat) : State :=
  let s := s.fenceLoad q f
  let x := { s.fence q f with abandoned := true }
  let mine (w : HostWait) : Bool := w.part == q && w.fence == f
  let ws := s.host.waits.filter mine
  let s := { s with host := { s.host with waits := s.host.waits.filter fun w => !mine w } }
  let s := ws.foldl (fun s w => s.event w.slice (fenceEvent w.cookie f x)) (s.setFence q f x)
  let s := s.setFence q f {}
  s.setTable q { s.tableOf q with made := (s.tableOf q).made.filter (· != f) }

/-- What a successful mailbox command does; false while its answer waits for a frame boundary or a reset. -/
def State.mbAct (s : State) (ws : List Word) : State × Bool :=
  let w (i lo n : Nat) : Nat := mbField ws i lo n
  match w 0 0 8 with
  | 0x01 =>
    (s.setSlice (w 0 8 10) { valid := true, partition := BitVec.ofNat 5 (w 0 18 5), pasid := BitVec.ofNat 20 (w 0 23 20)
                             eventBase := mbWord ws 1, eventLog2 := w 2 0 5, vector := w 2 16 11, waits := w 2 32 16 }, true)
  | 0x02 =>
    let k := w 0 8 10
    (({ s with host := { s.host with waits := s.host.waits.filter fun x => x.slice != k } }).setSlice k {}, true)
  | 0x03 =>
    let pg : Page := { ctx := if w 1 63 1 = 1 then none else some (w 1 0 16) }
    ({ s with host := { s.host with pages := tset {} s.host.pages (w 0 16 16) pg } }, true)
  | 0x10 =>
    (s.setCtx (w 0 8 16) { valid := true, slice := w 1 0 10, handle := w 1 16 12, ringBase := mbWord ws 2, ringLog2 := w 3 0 5
                           weight := w 3 8 8, idleSince := s.tick }, true)
  | 0x11 =>
    let k := w 0 8 16
    let c := s.ctx k
    let resetting := match s.ctxSlot k with
      | some n => (tget none s.errs.resets n).isSome
      | none => false
    let running := match s.ctxSlot k with
      | some n => s.runningCtx n == some k
      | none => false
    if running || resetting then
      let s := (s.setCtx k { c with closing := true }).discardSteps k (c.tail - c.head).toNat
      ({ s with host := { s.host with mbxWaits := some k } }, false)
    else ((s.teardown k none).settle, true)
  | 0x20 =>
    let q := w 0 8 5
    let f := w 0 32 20
    let v := mbWord ws 1
    let s := (s.fenceLoad q f).setFence q f { value := v, target := v, owner := BitVec.ofNat 16 (w 2 0 16), noOwner := w 2 63 1 == 1, valid := true }
    ((s.setTable q { s.tableOf q with made := (s.tableOf q).made ++ [f] }).settle, true)
  | 0x21 => ((s.fenceFree (w 0 8 5) (w 0 32 20)).settle, true)
  | 0x22 =>
    let q := w 0 8 5
    let s := (s.host.cached.filter fun k => k / 2 ^ 20 == q).foldl (fun s k => s.fenceEvict k) s
    let s := s.devZero (mbWord ws 1).toNat (2 ^ w 0 16 5 * 32)
    (s.setTable q { base := some (mbWord ws 1), log2 := w 0 16 5, made := [] }, true)
  | _ =>
    (({ s with host := { s.host with handles := tset 63 s.host.handles (w 0 16 12) (BitVec.ofNat 6 (w 0 32 6)) } }).settle, true)

/-- The partition that a command's log entry names, 0x3F where none. -/
def State.mbPart (s : State) (ws : List Word) : Nat :=
  let w (i lo n : Nat) : Nat := mbField ws i lo n
  match w 0 0 8 with
  | 0x01 => w 0 18 5
  | 0x02 => (s.slice (w 0 8 10)).partition.toNat
  | 0x03 => if w 1 63 1 = 1 then 0x3F else s.ctxPart (w 1 0 16)
  | 0x10 => (s.slice (w 1 0 10)).partition.toNat
  | 0x11 => s.ctxPart (w 0 8 16)
  | 0x30 => if w 0 32 6 = 63 then 0x3F else s.partOf (w 0 32 6)
  | _ => w 0 8 5

/-- A write of MBX_GO with the command words in place (R350, R353). -/
def State.mbxGo (s : State) : State :=
  let h := s.host
  if h.mbxWaits.isSome then { s with host := { h with mbxOverrun := true } }
  else
    let ws := (span 0 8).map fun i => tget 0 h.mbxCmd i
    let st := s.mbCheck ws
    if st ≠ mbOk then s.mbxAnswer st 0
    else
      let coach := if mbField ws 0 0 8 = 0x30 && mbField ws 0 32 6 != 63 then mbField ws 0 32 6 else 63
      let s := s.log 0x11 oPcie (s.mbPart ws) coach (mbWord ws 0) (mbWord ws 1)
      let (s, done) := s.mbAct ws
      if done then s.mbxAnswer mbOk 0 else s

/-- A command of a row: its words with its own OP written, then MBX_GO. -/
def State.mbxCommand (s : State) (op : Nat) (ws : List Word) : State :=
  if s.host.mbxWaits.isSome then { s with host := { s.host with mbxOverrun := true } }
  else
    let cmd := (span 0 8).foldl (fun m i => tset 0 m i (if i = 0 then withOp op (mbWord ws 0) else mbWord ws i)) s.host.mbxCmd
    { s with host := { s.host with mbxCmd := cmd } }.mbxGo

/-- SLICE_CREATE (R351). -/
def execSliceCreate (ws : List Word) (s : State) : Out := s.gate fun s => .next (s.mbxCommand 0x01 ws)
/-- SLICE_DESTROY (R351, R376). -/
def execSliceDestroy (ws : List Word) (s : State) : Out := s.gate fun s => .next (s.mbxCommand 0x02 ws)
/-- DOORBELL_SET (R361). -/
def execDoorbellSet (ws : List Word) (s : State) : Out := s.gate fun s => .next (s.mbxCommand 0x03 ws)
/-- CONTEXT_CREATE (R351, R355). -/
def execContextCreate (ws : List Word) (s : State) : Out := s.gate fun s => .next (s.mbxCommand 0x10 ws)
/-- CONTEXT_TEARDOWN (R375). -/
def execContextTeardown (ws : List Word) (s : State) : Out := s.gate fun s => .next (s.mbxCommand 0x11 ws)
/-- FENCE_INIT (R364). -/
def execFenceInit (ws : List Word) (s : State) : Out := s.gate fun s => .next (s.mbxCommand 0x20 ws)
/-- FENCE_FREE (R376). -/
def execFenceFree (ws : List Word) (s : State) : Out := s.gate fun s => .next (s.mbxCommand 0x21 ws)
/-- FENCE_TABLE (R617). -/
def execFenceTable (ws : List Word) (s : State) : Out := s.gate fun s => .next (s.mbxCommand 0x22 ws)
/-- COACH_BIND (R354). -/
def execCoachBind (ws : List Word) (s : State) : Out := s.gate fun s => .next (s.mbxCommand 0x30 ws)

/-! Doorbell pages (R361 to R363). -/

def State.page (s : State) (pg : Nat) : Page := tget {} s.host.pages pg
def State.setPage (s : State) (pg : Nat) (x : Page) : State := { s with host := { s.host with pages := tset {} s.host.pages pg x } }

/-- A doorbell write that is ignored (R361). -/
def State.dbIgnore (s : State) : State :=
  { s with host := { s.host with dbIgnored := .ofNat 16 (satInc 16 s.host.dbIgnored.toNat) } }

/-- The context that a page serves and that still takes doorbells (R361, R375). -/
def State.pageCtx (s : State) (pg : Nat) : Option Nat :=
  match (s.page pg).ctx with
  | some k => if (s.ctx k).valid && !(s.ctx k).closing && decide (pg < 65536) then some k else none
  | none => none

/-- A write at 0x000 (R362). -/
def State.dbTail (s : State) (pg : Nat) (v : Word) : State :=
  match s.pageCtx pg with
  | none => s.dbIgnore
  | some k =>
    let c := s.ctx k
    let t : BitVec 32 := BitVec.ofNat 32 (bfield v 0 32)
    let ahead := (t - c.head).toNat
    if ahead > 2 ^ c.ringLog2 ∨ ahead < (c.tail - c.head).toNat then s.dbIgnore
    else (s.setCtx k { c with tail := t }).settle

/-- A write at 0x040. -/
def State.dbWaitLatch (s : State) (pg : Nat) (v : Word) : State :=
  match s.pageCtx pg with
  | none => s.dbIgnore
  | some _ => s.setPage pg { s.page pg with waitLatch := some (bfield v 0 20, BitVec.ofNat 32 (bfield v 32 32)) }

/-- Waits that a slice has registered. -/
def State.waitsOf (s : State) (k : Nat) : Nat := (s.host.waits.filter fun w => w.slice == k).length

/-- A write at 0x048 (R362, R363, R367). -/
def State.dbWait (s : State) (pg : Nat) (v : Word) : Out :=
  match s.pageCtx pg, (s.page pg).waitLatch with
  | some k, some (f, cookie) =>
    let q := s.ctxPart k
    let sl := (s.ctx k).slice
    let s := s.fenceLoad q f
    let x := s.fence q f
    if !x.valid then .next s.dbIgnore
    else if waitMet x.value v then .next (s.event sl (fenceEvent cookie f x))
    else if s.waitsOf sl ≥ (s.slice sl).waits then
      .next (s.event sl { fenceEvent cookie f x with kind := evNoRoom, value := 0 })
    else .next { s with host := { s.host with waits := s.host.waits ++ [{ slice := sl, part := q, fence := f, cookie, value := v }] } }
  | _, _ => .next s.dbIgnore

/-- A write at 0x080. -/
def State.dbSignalLatch (s : State) (pg : Nat) (v : Word) : State :=
  match s.pageCtx pg with
  | none => s.dbIgnore
  | some _ => s.setPage pg { s.page pg with signalLatch := some (bfield v 0 20) }

/-- A write at 0x088 (R366). -/
def State.dbSignal (s : State) (pg : Nat) (v : Word) : State :=
  match s.pageCtx pg, (s.page pg).signalLatch with
  | some k, some f =>
    let q := s.ctxPart k
    if (s.fence q f).valid then (s.fenceSignal q f v).settle else s.dbIgnore
  | _, _ => s.dbIgnore

/-- A write at 0x0A0 (R361). -/
def State.dbQuery (s : State) (pg : Nat) (v : Word) : State :=
  match s.pageCtx pg with
  | none => s.dbIgnore
  | some k =>
    let q := s.ctxPart k
    let f := bfield v 0 20
    let s := s.fenceLoad q f
    let x := s.fence q f
    if !x.valid then s.dbIgnore
    else s.event (s.ctx k).slice { fenceEvent (BitVec.ofNat 32 (bfield v 32 32)) f x with kind := evValue }

/-- A write at 0x0C0 (R370, R371, R373). -/
def State.dbEvent (s : State) (pg : Nat) (v : Word) : State :=
  match s.pageCtx pg with
  | none => s.dbIgnore
  | some k =>
    let i := (s.ctx k).slice
    let s := (s.setSlice i { s.slice i with head := BitVec.ofNat 32 (bfield v 0 32) }).eventDrain i 65
    let x := s.slice i
    (s.setSlice i { x with armed := x.armed || v.getLsbD 32 }).eventArmed i

/-- DOORBELL_TAIL (R362). -/
def execDoorbellTail (page : Nat) (v : Word) (s : State) : Out := s.gateData fun s => .next (s.dbTail page v)
/-- WAIT_LATCH (R362). -/
def execWaitLatch (page : Nat) (v : Word) (s : State) : Out := s.gateData fun s => .next (s.dbWaitLatch page v)
/-- WAIT_REGISTER (R363). -/
def execWaitRegister (page : Nat) (v : Word) (s : State) : Out := s.gateData fun s => s.dbWait page v
/-- SIGNAL_LATCH (R362). -/
def execSignalLatch (page : Nat) (v : Word) (s : State) : Out := s.gateData fun s => .next (s.dbSignalLatch page v)
/-- SIGNAL (R366). -/
def execSignal (page : Nat) (v : Word) (s : State) : Out := s.gateData fun s => .next (s.dbSignal page v)
/-- FENCE_QUERY (R361). -/
def execFenceQuery (page : Nat) (v : Word) (s : State) : Out := s.gateData fun s => .next (s.dbQuery page v)
/-- EVENT_HEAD (R370): a write of the event HEAD without ARM. -/
def execEventHead (page : Nat) (v : Word) (s : State) : Out := s.gateData fun s => .next (s.dbEvent page (v &&& ~~~0x100000000#64))
/-- EVENT_ARM (R373): the same write with ARM. -/
def execEventArm (page : Nat) (v : Word) (s : State) : Out := s.gateData fun s => .next (s.dbEvent page (v ||| 0x100000000#64))

/-- What a doorbell page reads (R361). -/
def State.pageRead (s : State) (pg off : Nat) : Word :=
  match s.pageCtx pg with
  | none => 0
  | some k =>
    let c := s.ctx k
    match off with
    | 0x000 => put 32 c.head.toNat ||| put 0 c.tail.toNat
    | 0x0C0 => put 0 (s.slice c.slice).tail.toNat
    | _ => 0

/-! The BAR4 window (R346 to R348, R507). -/

def State.seg (s : State) (k : Nat) : Word := tget 0x3F00 s.host.segs k
def State.segSize (s : State) : Nat := 2 ^ s.host.bar4Log2 / 64

/-- The device physical address that a BAR4 range reaches, where the access is allowed. -/
def State.bar4Addr (s : State) (off len : Nat) : Option Nat :=
  let g := s.seg (off / s.segSize)
  let a := bfield g 30 22 * 2 ^ 30 + off % s.segSize
  let q := bfield g 8 8
  let lines := if len = 0 then [] else span (a / 64) ((a + len - 1) / 64 - a / 64 + 1)
  if off / s.segSize < 64 && decide (off % s.segSize + len ≤ s.segSize) && g.getLsbD 0 && !s.stable.sealed.contains q
      && lines.all (fun l => s.holdsMemory (64 * l) && s.mayAccess q (64 * l)) then some a else none

def State.bar4Refuse (s : State) : State :=
  { s with host := { s.host with bar4Refused := .ofNat 32 (satInc 32 s.host.bar4Refused.toNat) } }

/-- BAR4_READ (R346 to R348). A line whose code is uncorrectable, or whose tag does not match, faults every read (R453, R505): Unsupported
Request. -/
def execBar4Read (off len : Nat) (s : State) : Out := s.gateData fun s =>
  match s.bar4Addr off len with
  | some a =>
    let bad := len != 0 && (span (a / 64) ((a + len - 1) / 64 - a / 64 + 1)).any s.lineFails
    .next ((s.devTouch a len mPcie).emit (if bad then .unsupported else .completion (s.devRead a len)))
  | none => .next (s.bar4Refuse.emit .unsupported)

/-- BAR4_WRITE (R346 to R348). -/
def execBar4Write (off : Nat) (data : List Byte) (s : State) : Out := s.gateData fun s =>
  match s.bar4Addr off data.length with
  | some a => .next (s.devWrite a data mPcie)
  | none => .next { s.bar4Refuse with host := { s.bar4Refuse.host with urLogged := true } }

/-- A write of BAR4_SEG_k (R346, R507). -/
def State.segWrite (s : State) (k : Nat) (v : Word) : State :=
  if bfield v 30 22 * 2 ^ 30 % s.segSize ≠ 0 || s.stable.sealed.contains (bfield v 8 8) then
    { s with host := { s.host with segBad := true } }
  else { s with host := { s.host with segs := tset 0x3F00 s.host.segs k (v &&& 0x000FFFFFC000FF01#64) } }

/-- BAR4_SEG_WRITE (R346). -/
def execBar4SegWrite (k : SegIx) (v : Word) (s : State) : Out := s.gate fun s => .next (s.segWrite k v)

/-- HOST_STATUS, MBX_STATUS. -/
def HostIf.status (h : HostIf) : Word := put 32 h.bar4Refused.toNat ||| put 16 h.dbIgnored.toNat ||| putB 0 h.segBad
def HostIf.mbxStatus (h : HostIf) : Word := putB 2 h.mbxOverrun ||| putB 1 h.mbxDone ||| putB 0 h.mbxWaits.isSome

end Sys2Proof.Machine
end

