-- ==== Sys2Proof/Machine/Stable.lean ====
section
/-! DEFINITION. The Stable mailbox, life cycle, debug, and error summaries (R485 to R528). -/
namespace Sys2Proof.Machine

def sbOk : Nat := 0
def sbBadCmd : Nat := 1
def sbRange : Nat := 2
def sbBinding : Nat := 3
def sbOwner : Nat := 4
def sbSignature : Nat := 5
def sbCounter : Nat := 6
def sbWrap : Nat := 7
def sbLc : Nat := 8
def sbFull : Nat := 9
def sbInUse : Nat := 0xA
def sbAuth : Nat := 0xB
def sbKey : Nat := 0xC
def sbBusy : Nat := 0xD
def sbWays : Nat := 0xE

/-! Identity (R490, R496). -/

/-- The first 32 bytes of the SHA-512 digest of the identity public key. -/
def Stable.identity (t : Stable) : List Byte :=
  (bytesOf 64 (Config.sha512 (bytesOf 32 t.identityPub))).take 32

def sliceBytes (bs : List Byte) (o n : Nat) : List Byte := (bs.drop o).take n
def sliceNat (bs : List Byte) (o n : Nat) : Nat := leNat (sliceBytes bs o n)

/-! Addresses (R526). -/

/-- n bytes of host memory, 64-byte aligned. -/
def hostRange (a n : Nat) : Bool := a % 64 == 0 && decide (2 ^ 51 ≤ a) && decide (a + n ≤ 2 ^ 52)

/-- n bytes of device memory that hold memory and satisfy a check of their owner. -/
def State.devRange (s : State) (a n : Nat) (own : Nat → Bool) : Bool :=
  a % 64 == 0 && decide (a + n < 2 ^ 51) && !s.stable.noMem &&
    (span (a / 4096) (if n = 0 then 0 else (a + n - 1) / 4096 - a / 4096 + 1)).all fun k =>
      s.holdsMemory (4096 * k) && own (s.ownerOf (4096 * k))

/-- A place from which a message or token may be read. -/
def State.readable (s : State) (a n : Nat) : Bool := hostRange a n || s.devRange a n fun _ => true

/-- Chunks of the module in the order of the CARVE registers: HBM3E, then LPDDR5X. -/
def State.chunkCount (s : State) : Nat := 1600 + 32 * s.lpGiB
def State.chunkOwner (s : State) (k : Nat) : Byte := tget 0x3F s.carve k

/-! Stalls (R493 to R495). -/

def State.stall (s : State) (k : Nat) : Stall := tget {} s.stable.stalls k
def State.setStall (s : State) (k : Nat) (x : Stall) : State :=
  { s with stable := { s.stable with stalls := tset {} s.stable.stalls k x } }

/-- Every stall is destroyed (R495). -/
def State.destroyStalls (s : State) : State := { s with stable := { s.stable with stalls := [] } }

/-! IMPORT (R496 to R499). -/

/-- The checks of a key-import message, in the order of R498: a status, or the key and its stall. -/
def State.importCheck (s : State) (m : List Byte) : Nat ⊕ (BitVec 256 × Nat) :=
  let t := s.stable
  let kind := sliceNat m 4 1
  let part := sliceNat m 5 1
  let use := sliceNat m 6 1
  let coach := sliceNat m 8 4
  let bad := sliceNat m 0 4 != 1 || (kind != 1 && kind != 2) || decide (part > 31) || sliceNat m 7 1 != 0 || sliceNat m 12 4 != 0
    || (kind == 1 && (use == 0 || decide (use > 3) || coach != 0)) || (kind == 2 && (use != 0 || decide (coach ≥ 2 ^ 20)))
  let owner : BitVec 256 := ofBytes 256 (sliceBytes m 168 32)
  let eph : BitVec 256 := ofBytes 256 (sliceBytes m 88 32)
  let priv := (t.bootKey 1).getD 0
  let shared := Config.x25519 priv eph
  let kek : BitVec 256 := ofBytes 256 ((bytesOf 64 (Config.sha512 (ascii "IGN4820 WRAP" ++ bytesOf 32 shared ++ bytesOf 32 eph
    ++ bytesOf 32 (Config.x25519Public priv)))).take 32)
  if bad then .inl sbBadCmd
  else if t.lcState ≠ 2 ∧ t.lcState ≠ 3 then .inl sbLc
  else if sliceBytes m 56 32 ≠ t.identity ∨ sliceBytes m 24 32 ≠ bytesOf 32 t.bootNonce then .inl sbBinding
  else if (tget 0 t.owners part) ≠ 0 ∧ tget 0 t.owners part ≠ owner then .inl sbOwner
  else if !Config.ed25519Verify owner (m.take 200) (ofBytes 512 (sliceBytes m 200 64)) then .inl sbSignature
  else if sliceNat m 16 8 ≤ (tget 0 t.imports part).toNat then .inl sbCounter
  else match Config.gcmOpen kek (natBytes 12 0) (m.take 120) (sliceBytes m 120 32) (ofBytes 128 (sliceBytes m 152 16)) with
  | none => .inl sbWrap
  | some key =>
    if shared = 0 ∨ (t.bootKey 1).isNone then .inl sbWrap
    else if kind = 2 ∧ t.stalls.any (fun e => e.2.valid && e.2.kind == 5 && e.2.world == part && e.2.coachId.toNat == coach) then
      .inl sbInUse
    else match (span 88 168).find? fun k => !(s.stall k).valid with
      | none => .inl sbFull
      | some k => .inr (ofBytes 256 key, k)

/-- The key takes its stall. -/
def State.importDo (s : State) (m : List Byte) (key : BitVec 256) (k : Nat) : State :=
  let fabric := sliceNat m 4 1 == 2
  let part := sliceNat m 5 1
  let coach := sliceNat m 8 4
  let attr := stallAttr (if fabric then 5 else 4) 0b001100 part (if fabric then 2 else 4) (sliceNat m 6 1) coach
  let s := s.setStall k { attr, key := key.zeroExtend 512 }
  let t := s.stable
  { s with
    stable := { t with
      imports := tset 0 t.imports part (BitVec.ofNat 64 (sliceNat m 16 8))
      owners := if tget 0 t.owners part = 0 then tset 0 t.owners part (ofBytes 256 (sliceBytes m 168 32)) else t.owners } }

/-! INGEST and EGEST (R508 to R510). -/

/-- A data key that a partition may use (bit 0 INGEST, bit 1 EGEST). -/
def State.dataKey (s : State) (k part use : Nat) : Option (BitVec 256) :=
  let x := s.stall k
  if x.kind == 4 && s.stable.mayUse x 2 part && x.attr.getLsbD (41 + use) then some (x.key.truncate 256) else none

/-- INGEST: status, and the state. -/
def State.ingest (s : State) (part k obj dst : Nat) : Nat × State :=
  match s.dataKey k part 0 with
  | none => (sbKey, s)
  | some key =>
    if !hostRange obj 64 then (sbRange, s)
    else
      let h := s.devRead obj 64
      let len := sliceNat h 8 8
      if sliceNat h 0 4 ≠ 1 ∨ sliceNat h 4 4 ≠ 0 ∨ sliceNat h 28 4 ≠ 0 ∨ len < 64 ∨ len > 2 ^ 35 ∨ len % 64 ≠ 0 then (sbBadCmd, s)
      else if !hostRange obj (64 + len + 16) || !s.devRange dst len (· == part) then (sbRange, s)
      else match Config.gcmOpen key (sliceBytes h 16 12) (h ++ natBytes 1 part) (s.devRead (obj + 64) len)
          (ofBytes 128 (s.devRead (obj + 64 + len) 16)) with
        | none => (sbAuth, s.devWrite dst (natBytes len 0) mPcie)
        | some bs => (sbOk, s.devWrite dst ((bs ++ natBytes len 0).take len) mPcie)

/-- EGEST: status, the counter used, and the state. -/
def State.egest (s : State) (part k src len dst : Nat) (label : List Byte) : Nat × Word × State :=
  match s.dataKey k part 1 with
  | none => (sbKey, 0, s)
  | some key =>
    let n := (s.stall k).counter
    if n.toNat = 2 ^ 64 - 1 then (sbKey, 0, s)
    else if len < 64 ∨ len > 2 ^ 35 ∨ len % 64 ≠ 0 ∨ !s.devRange src len (· == part) ∨ !hostRange dst (64 + len + 16) then (sbRange, 0, s)
    else
      let iv := natBytes 4 k ++ natBytes 8 n.toNat
      let h := natBytes 4 1 ++ natBytes 4 0 ++ natBytes 8 len ++ iv ++ natBytes 4 0 ++ label
      let (ct, tag) := Config.gcmSeal key iv (h ++ natBytes 1 part) (s.devRead src len)
      let s := (s.setStall k { s.stall k with counter := n + 1 }).devTouch src len mPcie
      (sbOk, n, s.devWrite dst (h ++ (ct ++ natBytes len 0).take len ++ bytesOf 16 tag))

/-! PART_MODE (R518). -/

/-- The way mask of a partition is not zero and disjoint from every other. -/
def State.waysOwn (s : State) (q : Nat) : Bool :=
  let m (i : Nat) : Nat := (tget 0xFFFF s.llcWays i).toNat
  m q != 0 && (span 0 33).all fun i => i == q || m q &&& m i == 0

def State.partMode (s : State) (q : Nat) (strict : Bool) : Nat × State :=
  if s.coaches.any fun e => e.2.valid && e.2.partition.toNat == q then (sbBusy, s)
  else if !strict then (sbOk, { s with stable := { s.stable with strict := s.stable.strict.filter (· != q) } })
  else if !s.waysOwn q then (sbWays, s)
  else if s.stable.strict.contains q then (sbOk, s)
  else
    let s := (s.llcStrict q).clearLending q
    (sbOk, { s with stable := { s.stable with strict := s.stable.strict ++ [q] } })

/-! Tokens (R513). -/

def tokenLevel (t : List Byte) : Nat := sliceNat t 4 1
def tokenShape (t : List Byte) : Bool := decide (t.length = 136) && sliceNat t 0 4 == 1 && sliceNat t 5 3 == 0
def Stable.tokenBound (t : Stable) (k : List Byte) : Bool :=
  sliceBytes k 8 32 == bytesOf 32 t.bootNonce && sliceBytes k 40 32 == t.identity
def tokenSigned (key : BitVec 256) (k : List Byte) : Bool := Config.ed25519Verify key (k.take 72) (ofBytes 512 (sliceBytes k 72 64))

/-! Life-cycle transitions (R487, R488). -/

/-- A transition that the mailbox or JTAG may ask for: none, or whether it needs a token. -/
def lcAllowed (fr to_ : Nat) : Option Bool :=
  match to_ with
  | 2 => if fr = 1 then some true else none
  | 3 => if fr = 2 then some false else none
  | 4 => if fr = 2 ∨ fr = 3 then some true else none
  | 5 => if fr < 5 then some false else none
  | _ => none

/-- The fuses of a life-cycle code, each in its three copies. -/
def lcFuse (c : Nat) : BitVec 15 := BitVec.ofNat 15 (8 ^ min c 5 - 1)

/-- A transition's status. Every token presented must be for it and of this boot (R513); the signature counts where one is needed. -/
def State.lcCheck (s : State) (target : Nat) (token : Option (List Byte)) : Nat :=
  match lcAllowed s.stable.lcState target with
  | none => sbLc
  | some need => match token with
    | none => if need then sbBadCmd else sbOk
    | some k =>
      if !tokenShape k || tokenLevel k != 0x10 + target then sbBadCmd
      else if !s.stable.tokenBound k then sbBinding
      else if need && !tokenSigned Config.carkanLcKey k then sbSignature
      else sbOk

/-- Every unit of a held module stands still. -/
def State.standStill (s : State) : State :=
  { s with
    cells := tmap {} s.cells fun _ (c : Cell) => { c with hens := c.hens.map Hen.ended, ox := c.ox.freeze, stopped := true }
    engines := tmap {} s.engines fun _ (x : Engine) => { x with rings := tmap {} x.rings fun _ (r : Ring) => { r with enabled := false } }
    flight := [] }

/-- The transition itself. -/
def State.lcAdvance (s : State) (origin target : Nat) : State :=
  let s := (s.log 0x14 origin 0x3F 63 (BitVec.ofNat 64 target) 0).destroyStalls
  ({ s with stable := { s.stable with
      noMem := true, lcFuses := lcFuse target, held := true, seedsGone := s.stable.seedsGone || decide (target = 5) } }).standStill

/-! Debug (R512 to R514). -/

/-- Status of raising the debug level with a token. -/
def State.debugCheck (s : State) (k : List Byte) : Nat :=
  let t := s.stable
  let lc := t.lcState
  if !tokenShape k || (tokenLevel k != 1 && tokenLevel k != 2) then sbBadCmd
  else if lc = 5 then sbLc
  else if !t.tokenBound k then sbBinding
  else if lc < 2 then sbOk
  else if tokenSigned Config.carkanLcKey k || (lc == 3 && t.debugKey != 0 && tokenSigned t.debugKey k) then sbOk
  else sbSignature

/-- The level raised, and logged (R527); INVASIVE destroys the stalls, shuts the memory, and closes every slot and slice. -/
def State.debugRaise (s : State) (origin level : Nat) : State :=
  let s := s.log 0x15 origin 0x3F 63 (BitVec.ofNat 64 level) 0
  if level ≤ s.stable.debugLevel.toNat then s
  else
    let s := { s with stable := { s.stable with wasObserve := s.stable.wasObserve || decide (level = 1), debugLevel := BitVec.ofNat 2 level } }
    if level = 2 then
      let s := s.destroyStalls
      ({ s with stable := { s.stable with noMem := true } }.closeAll).destroyStalls
    else s

/-- JTAG_TOKEN (R513, R527). -/
def execJtagToken (token : List Byte) (s : State) : Out :=
  if s.harness.down || s.stable.held || s.stable.lcState == 5 then .next s
  else if tokenLevel token = 1 ∨ tokenLevel token = 2 then
    .next (if s.debugCheck token = sbOk then s.debugRaise oDebug (tokenLevel token) else s)
  else
    let target := tokenLevel token - 0x10
    .next (if tokenLevel token ≥ 0x10 && tokenShape token && s.lcCheck target (some token) == sbOk then s.lcAdvance oDebug target else s)

/-! The mailbox (R525, R526). -/

/-- The bits that a command may have set in its words. -/
def sbUses (op : Nat) : Option (List Nat) :=
  let all := 2 ^ 64 - 1
  match op with
  | 1 => some [0xFF, all, 0, 0, 0, 0, 0, 0]
  | 2 => some [0xFFFF, 0, 0, 0, 0, 0, 0, 0]
  | 3 => some [0x11FFF, 0, 0, 0, 0, 0, 0, 0]
  | 4 => some [0xFF1FFF, all, all, 0, 0, 0, 0, 0]
  | 5 => some [0xFF1FFF, all, all, all, all, all, all, all]
  | 6 => some [0x7FF, all, 0, 0, 0, 0, 0, 0]
  | 7 => some [0xFF, all, 0, 0, 0, 0, 0, 0]
  | _ => none

def sbBad (ws : List Word) : Bool :=
  match sbUses (mbField ws 0 0 8) with
  | none => true
  | some m => (span 0 8).any fun i => (mbWord ws i).toNat &&& nth 0 m i != (mbWord ws i).toNat

/-- Status and result in SBX_RESP; DONE and vector 4. -/
def State.sbxAnswer (s : State) (status : Nat) (value : Word) : State :=
  let t := s.stable
  ({ s with stable := { t with
      sbxResp := tset 0 (tset 0 t.sbxResp 0 (BitVec.ofNat 64 status)) 1 value, sbxDone := true } }).msix 4

/-- The change-log entry of a command that succeeds (R527): before its response. -/
def State.sbxLog (s : State) (ws : List Word) (part : Nat) (value : Word) : State := s.log 0x12 oPcie part 63 (mbWord ws 0) value

/-- A token in memory. -/
def State.tokenAt (s : State) (a : Nat) : Option (List Byte) := if s.readable a 136 then some (s.devRead a 136) else none

/-- A command carried out: status, result, and the state. -/
def State.sbxAct (s : State) (ws : List Word) : Nat × Word × State :=
  let w (i lo n : Nat) : Nat := mbField ws i lo n
  let a (i : Nat) : Nat := (mbWord ws i).toNat
  let part := w 0 8 5
  if sbBad ws then (sbBadCmd, 0, s)
  else match w 0 0 8 with
  | 1 =>
    if !s.readable (a 1) 264 then (sbRange, 0, s)
    else
      let m := s.devRead (a 1) 264
      match s.importCheck m with
      | .inl e => (e, 0, s)
      | .inr (key, k) => (sbOk, BitVec.ofNat 64 k, (s.sbxLog ws (sliceNat m 5 1) (BitVec.ofNat 64 k)).importDo m key k)
  | 2 =>
    let k := w 0 8 8
    if k < 88 then (sbRange, 0, s) else (sbOk, 0, (s.sbxLog ws 0x3F 0).setStall k {})
  | 3 =>
    let strict := w 0 16 1 == 1
    if (s.partMode part strict).1 = sbOk then (sbOk, 0, ((s.sbxLog ws part 0).partMode part strict).2)
    else ((s.partMode part strict).1, 0, s)
  | 4 =>
    let r := s.ingest part (w 0 16 8) (a 1) (a 2)
    if r.1 = sbOk then (sbOk, 0, ((s.sbxLog ws part 0).ingest part (w 0 16 8) (a 1) (a 2)).2) else (r.1, 0, r.2)
  | 5 =>
    let label := bytesOf 8 (mbWord ws 4) ++ bytesOf 8 (mbWord ws 5) ++ bytesOf 8 (mbWord ws 6) ++ bytesOf 8 (mbWord ws 7)
    let go (s : State) : Nat × Word × State := s.egest part (w 0 16 8) (a 1) (a 2) (a 3) label
    let r := go s
    if r.1 = sbOk then go (s.sbxLog ws part r.2.1) else r
  | 6 =>
    let token := if a 1 = 0 then none else s.tokenAt (a 1)
    if a 1 ≠ 0 ∧ token.isNone then (sbRange, 0, s)
    else
      let st := s.lcCheck (w 0 8 3) token
      if st = sbOk then (sbOk, 0, s.lcAdvance oPcie (w 0 8 3)) else (st, 0, s)
  | _ => match s.tokenAt (a 1) with
    | none => (sbRange, 0, s)
    | some k =>
      let st := s.debugCheck k
      if st = sbOk then (sbOk, 0, s.debugRaise oPcie (tokenLevel k)) else (st, 0, s)

/-- SBX_GO. -/
def State.sbxGo (s : State) : State :=
  let ws := (span 0 8).map fun i => tget 0 s.stable.sbxCmd i
  let r := s.sbxAct ws
  r.2.2.sbxAnswer r.1 r.2.1

/-- A write of SBX_CMD_i: a register of a protected window (R572). -/
def State.sbxCmdWrite (s : State) (i : Nat) (v : Word) : State :=
  let s := s.logWindow (0x600000 + 8 * i) v
  { s with stable := { s.stable with sbxCmd := tset 0 s.stable.sbxCmd i v } }

/-- A write of SBX_GO. -/
def State.sbxGoWrite (s : State) (v : Word) : State := (s.logWindow 0x600080 v).sbxGo

/-- A command of a row: its words with its own OP written, then SBX_GO. -/
def State.sbxCommand (s : State) (op : Nat) (ws : List Word) : State :=
  ((span 0 8).foldl (fun s i => s.sbxCmdWrite i (if i = 0 then withOp op (mbWord ws 0) else mbWord ws i)) s).sbxGoWrite 1

/-- IMPORT (R498). -/
def execStableImport (ws : List Word) (s : State) : Out := s.gate fun s => .next (s.sbxCommand 1 ws)
/-- DESTROY (R500). -/
def execDestroy (ws : List Word) (s : State) : Out := s.gate fun s => .next (s.sbxCommand 2 ws)
/-- PART_MODE (R518). -/
def execPartMode (ws : List Word) (s : State) : Out := s.gate fun s => .next (s.sbxCommand 3 ws)
/-- INGEST (R509). -/
def execIngest (ws : List Word) (s : State) : Out := s.gate fun s => .next (s.sbxCommand 4 ws)
/-- EGEST (R510). -/
def execEgest (ws : List Word) (s : State) : Out := s.gate fun s => .next (s.sbxCommand 5 ws)
/-- LC_ADVANCE (R487, R488). -/
def execLcAdvance (ws : List Word) (s : State) : Out := s.gate fun s => .next (s.sbxCommand 6 ws)
/-- DEBUG_UNLOCK (R512, R514). -/
def execDebugUnlock (ws : List Word) (s : State) : Out := s.gate fun s => .next (s.sbxCommand 7 ws)

/-! Error summaries (R524). -/

/-- The 64 bytes of a partition's error summary. -/
def State.summaryBytes (s : State) (q : Nat) : List Byte :=
  natBytes 8 s.tick ++ (span 0 6).flatMap (fun i => bytesOf 4 (tget 0 s.stable.errCount (q * 8 + i))) ++ natBytes 32 0

/-- ERROR_SUMMARY_WRITE: at each 100,000 ticks, where a count of the partition has changed. -/
def execErrorSummaryWrite (q : PartIx) (s : State) : Out :=
  let r := tget 0 s.stable.partErr q
  if s.tick % 100000 ≠ 0 ∨ !r.getLsbD 0 ∨ !s.stable.errChanged.contains q.val then .next s
  else
    let s := s.devWrite (bfield r 6 46 * 64) (s.summaryBytes q)
    .next { s with stable := { s.stable with errChanged := s.stable.errChanged.filter (· != q.val) } }

/-- A write of PART_ERR_p: with an address outside the partition's chunks it is ignored. -/
def State.partErrWrite (s : State) (q : Nat) (v : Word) : State :=
  let a := bfield v 6 46 * 64
  if !s.inChunk a || s.ownerOf a != q then s else
  let s := s.logWindow (0x600300 + 8 * q) v
  { s with stable := { s.stable with partErr := tset 0 s.stable.partErr q (
    put 6 (bfield v 6 46) ||| putB 0 (v.getLsbD 0)) } }

/-! Registers as they read (R525). -/

def Stable.sbxStatus (t : Stable) : Word := putB 2 t.sbxOverrun ||| putB 1 t.sbxDone
def Stable.debugState (t : Stable) : Word := putB 2 t.wasObserve ||| put 0 t.debugLevel.toNat
def Stable.partSec (t : Stable) (q : Nat) : Word :=
  putB 63 (t.sealed.contains q) ||| putB 62 (t.strict.contains q) ||| putB 61 (tget 0 t.owners q != 0)

end Sys2Proof.Machine
end

