-- ==== Sys2Proof/Machine/Svarraub.lean ====
section
/-! DEFINITION. The flash and the Svarraub image (R560 to R567): reading, the checks of a copy, its fields. -/
namespace Sys2Proof.Machine

/-! Reading the flash. -/

/-- n bytes of a flash device from an offset; an erased byte is 0xFF. -/
def flashBytes (m : SMap Byte) (o n : Nat) : List Byte := (span o n).map fun i => tget 0xFF m i
def flashNat (m : SMap Byte) (o n : Nat) : Nat := leNat (flashBytes m o n)
def flashZero (m : SMap Byte) (o n : Nat) : Bool := (span o n).all fun i => tget 0xFF m i == 0

/-- Bytes written to a flash device from an offset. -/
def flashWrite (m : SMap Byte) : Nat → List Byte → SMap Byte
  | _, [] => m
  | o, b :: bs => flashWrite (tset 0xFF m o b) (o + 1) bs

/-- Bytes of a flash device, and its certificate region (R560). -/
def flashSize : Nat := 0x20000000
def certBase : Nat := 0x1FF00000
/-- The longest image (R561). -/
def imageMax : Nat := 0x8000000

/-- Device 0 holds copy A, device 1 copy B. -/
def Harness.flash (h : Harness) (b : Bool) : SMap Byte := if b then h.flashB else h.flashA
def Harness.setFlash (h : Harness) (b : Bool) (m : SMap Byte) : Harness :=
  if b then { h with flashB := m } else { h with flashA := m }

/-! The header (R561). -/

/-- A section of the table: type, offset, length, digest. -/
structure Section where
  type : Nat
  off : Nat
  len : Nat
  digest : BitVec 512
  deriving DecidableEq, Repr

def imageCount (m : SMap Byte) : Nat := flashNat m 12 4
def imageSvn (m : SMap Byte) : Nat := flashNat m 16 1
def imageRaise (m : SMap Byte) : Bool := (tget 0xFF m 17).getLsbD 0
def imageGen (m : SMap Byte) : Nat := flashNat m 24 8
def imageLen (m : SMap Byte) : Nat := flashNat m 32 8
def imageSigner (m : SMap Byte) : BitVec 256 := ofBytes 256 (flashBytes m 64 32)
def imageSections (m : SMap Byte) : List Section := (span 0 (imageCount m)).map fun i =>
  let o := 160 + 96 * i
  { type := flashNat m o 2, off := flashNat m (o + 8) 8, len := flashNat m (o + 16) 8, digest := ofBytes 512 (flashBytes m (o + 32) 64) }

/-- A copy is a candidate (R560): MAGIC, VERSION, and its SVN at or above the floor. -/
def imageCandidate (m : SMap Byte) (floor : Nat) : Bool :=
  flashBytes m 0 8 == ascii "SVARRAUB" && flashNat m 8 4 == 1 && decide (floor ≤ imageSvn m)

/-- Ranges and reserved fields of the header (R561, R562). -/
def imageShape (m : SMap Byte) : Bool :=
  let n := imageCount m
  decide (1 ≤ n) && decide (n ≤ 32) && decide (imageSvn m ≤ 64) && decide (imageLen m ≤ imageMax) && bfield (tget 0xFF m 17) 1 7 == 0
    && flashZero m 18 6 && flashZero m 40 24
    && (span 0 n).all (fun i => flashZero m (162 + 96 * i) 6 && flashZero m (184 + 96 * i) 8)
    && flashZero m (160 + 96 * n) (3872 - 96 * n)

/-- SIGNER is accepted and SIGNATURE holds (R562), GEN taken as zero. -/
def imageSigned (m : SMap Byte) : Bool :=
  let key := imageSigner m
  (key == Config.carkanImageKey || Config.ed25519Verify Config.carkanImageKey (bytesOf 32 key) (ofBytes 512 (flashBytes m 96 64)))
    && Config.ed25519Verify key (flashBytes m 0 24 ++ natBytes 8 0 ++ flashBytes m 32 4000) (ofBytes 512 (flashBytes m 4032 64))

/-! Sections (R563). -/

def sectionTypes : List Nat := [0x01, 0x02, 0x03, 0x04, 0x10, 0x11, 0x12, 0x13, 0x14]
def sectionNeeded : List Nat := [0x01, 0x02, 0x03, 0x04, 0x10, 0x14]

def Section.apart (a b : Section) : Bool := decide (a.off + a.len ≤ b.off) || decide (b.off + b.len ≤ a.off)

def sectionsApart : List Section → Bool
  | [] => true
  | a :: l => l.all a.apart && sectionsApart l

/-- Types, places and digests of the sections. -/
def imageLoads (m : SMap Byte) : Bool :=
  let l := imageSections m
  let n (t : Nat) : Nat := (l.filter fun x => x.type == t).length
  l.all (fun x => sectionTypes.contains x.type && decide (x.off + x.len ≤ imageLen m)
      && Config.sha512 (flashBytes m x.off x.len) == x.digest)
    && sectionNeeded.all (fun t => n t == 1) && sectionTypes.all (fun t => decide (n t ≤ 1)) && sectionsApart l

def imageSection (m : SMap Byte) (t : Nat) : Option Section := (imageSections m).find? fun x => x.type == t

/-- An 8-byte field of a section, and a key of 32 bytes. -/
def Section.word (x : Section) (m : SMap Byte) (o : Nat) : Nat := flashNat m (x.off + o) 8
def Section.key (x : Section) (m : SMap Byte) (o : Nat) : BitVec 256 := ofBytes 256 (flashBytes m (x.off + o) 32)

/-! Configuration (R564, R565). -/

/-- A register of 64 bits with an address field from bit lo to bit 51 and no other bit. -/
def addrField (v lo : Nat) : Bool := v % 2 ^ lo == 0 && decide (v < 2 ^ 52)

/-- FABRIC. -/
def fabricFits (m : SMap Byte) (x : Section) : Bool :=
  decide (112 ≤ x.len) && (span 0 9).all (fun k => decide (x.word m (8 * k) ≤ 2)) && addrField (x.word m 104) 21
    && flashZero m (x.off + 112) (x.len - 112)

/-- POWER_DEFAULTS: DEFAULT_W and AVG_CAP_W from the floor to the TDP, WINDOW_S from 1 to 60. -/
def powerFits (floor tdp : Nat) (m : SMap Byte) (x : Section) : Bool :=
  let w (i : Nat) : Nat := x.word m (8 * i)
  decide (56 ≤ x.len) && decide (floor ≤ w 0) && decide (w 0 ≤ tdp) && decide (floor ≤ w 1) && decide (w 1 ≤ tdp)
    && decide (1 ≤ w 2) && decide (w 2 ≤ 60) && flashZero m (x.off + 56) (x.len - 56)

/-- A timetable image for system traffic (R120, R129, R130) at an offset of the image: its records, where it is valid. -/
def systemTimetable (m : SMap Byte) (o : Nat) : Option (List TtRecord) :=
  let k := flashNat m (o + 4) 4
  if o % 64 ≠ 0 ∨ o + 32 + 16 * k > imageLen m ∨ flashNat m o 4 ≠ 1 ∨ k = 0 ∨ k > 1048576 ∨ !flashZero m (o + 12) 20 then none
  else
    let bs := flashBytes m (o + 32) (16 * k)
    let rs := (chunks16 k bs).map ttDecode
    if (crc32 bs).toNat ≠ flashNat m (o + 8) 4 ∨ rs.any (fun e => !e.2 || e.1.turnsBridge) then none else some (rs.map (·.1))

/-- SYSTEM. -/
def systemFits (m : SMap Byte) (x : Section) : Bool :=
  let w (o : Nat) : Nat := x.word m o
  decide (896 ≤ x.len) && decide (w 0 < 65536) && decide (w 8 < 65536)
    && decide (w 16 + w 24 + w 32 + w 40 ≤ 64)
    && (span 0 48).all (fun n => addrField (w (48 + 16 * n)) 30 && decide (w (56 + 16 * n) ≤ 1024))
    && addrField (w 816) 12 && addrField (w 824) 12 && addrField (w 832) 12 && decide (1 ≤ w 840) && decide (w 840 ≤ 16)
    && addrField (w 848) 26 && (systemTimetable m (w 888)).isSome && flashZero m (x.off + 896) (x.len - 896)

/-- PARTITIONS: 32 records, then one owner byte per chunk. -/
def partitionsFit (chunks : Nat) (m : SMap Byte) (x : Section) : Bool :=
  let flags (p : Nat) : Byte := tget 0xFF m (x.off + 64 * p)
  x.len == 2048 + chunks
    && (span 0 32).all (fun p => bfield (flags p) 2 6 == 0 && flashZero m (x.off + 64 * p + 1) 1 && flashZero m (x.off + 64 * p + 4) 28)
    && (span 0 chunks).all (fun k =>
      let o := (tget 0xFF m (x.off + 2048 + k)).toNat
      if o < 32 then (flags o).getLsbD 0 else o == 0x3E || o == 0x3F)

/-- Every field is in the range of the register that it sets. -/
def State.imageFits (s : State) (m : SMap Byte) : Bool :=
  let opt (t : Nat) (f : Section → Bool) : Bool := match imageSection m t with
    | some x => f x
    | none => true
  opt 0x10 (partitionsFit s.chunkCount m) && opt 0x12 (fabricFits m) && opt 0x13 (powerFits (if s.isL1 then 1950 else 2000) s.tdp m)
    && opt 0x14 (systemFits m)

/-- A copy passes every check of R560 to R565. -/
def State.imageGood (s : State) (m : SMap Byte) : Bool :=
  imageCandidate m (popcount 64 s.stable.svnFloor.toNat) && imageShape m && imageSigned m && imageLoads m && s.imageFits m

/-- The copy that stage 0x2 takes (R560): the candidate with the higher GEN, A when they are equal; true for B. -/
def State.firstCopy (s : State) : Bool :=
  let floor := popcount 64 s.stable.svnFloor.toNat
  let c (b : Bool) : Bool := imageCandidate (s.harness.flash b) floor
  c true && (!c false || decide (imageGen (s.harness.flash true) > imageGen s.harness.flashA))

end Sys2Proof.Machine
end

