-- ==== Sys2Proof/Machine/Spdm.lean ====
section
/-! DEFINITION. Attestation: the SPDM responder and the measurements (R515 to R517). The codes and layouts of SPDM 1.3 are
PRESUMED, for the manual names the standard only; what that standard and X.509 leave to a device comes from Config.spdmBody. -/
namespace Sys2Proof.Machine

/-! Measurement blocks (R516, R517). -/

/-- Block 6: fuses and life-cycle state. -/
def State.block6 (s : State) : List Byte :=
  natBytes 1 s.stable.lcState ++ natBytes 1 (if s.stable.seedLock then 1 else 0) ++ natBytes 8 (popcount 64 s.stable.svnFloor.toNat)
    ++ natBytes 2 ((span 0 16).foldl (fun t r => t + popcount 72 (s.enabledIn r).toNat) 0) ++ natBytes 20 0

/-- Block 7: debug state. -/
def State.block7 (s : State) : List Byte :=
  natBytes 1 s.stable.debugLevel.toNat ++ natBytes 1 (if s.stable.wasObserve then 1 else 0) ++ natBytes 30 0


/-- A partition's record in block 8. -/
def State.partRecord (s : State) (q : Nat) : List Byte :=
  let t := s.stable
  let own := tget 0 t.owners q
  let owned (lo n : Nat) : Nat := ((span lo n).filter fun k => (s.chunkOwner k).toNat == q).length
  let flags := (if t.sealed.contains q then 1 else 0) + (if t.strict.contains q then 2 else 0) + (if own = 0 then 0 else 4)
  natBytes 1 q ++ natBytes 1 flags ++ natBytes 2 (owned 0 1600) ++ natBytes 2 (owned 1600 (32 * s.lpGiB))
    ++ bytesOf 2 (tget 0xFFFF s.llcWays q) ++ bytesOf 8 (tget 0 t.imports q)
    ++ (if own = 0 then natBytes 32 0 else (bytesOf 64 (Config.sha512 (bytesOf 32 own))).take 32)

/-- Block 8: partition layout. -/
def State.block8 (s : State) : List Byte :=
  natBytes 4 32 ++ (span 0 32).flatMap s.partRecord ++ (span 0 s.chunkCount).map s.chunkOwner

/-- A slot's record in block 9. -/
def State.slotRecord (s : State) (n : Nat) : List Byte :=
  let x := s.coach n
  natBytes 3 x.coachId.toNat ++ natBytes 1 n ++ natBytes 1 x.partition.toNat ++ natBytes 1 (if x.span then 1 else 0)
    ++ natBytes 2 x.localCells ++ bytesOf 4 x.epoch ++ natBytes 4 0
    ++ natBytes 144 ((s.cellsOf n).foldl (fun m p => m ||| 2 ^ p) 0)

/-- Block 9: coach placement. -/
def State.block9 (s : State) : List Byte :=
  let l := (span 0 48).filter fun n => (s.coach n).valid
  natBytes 4 l.length ++ l.flatMap s.slotRecord

/-- Spares left on the module. -/
def State.spareCount (s : State) : Nat := (span 0 16).foldl (fun n r => n + (s.sparesOf r).length) 0

/-- Block 11: spare cells. -/
def State.block11 (s : State) : List Byte :=
  natBytes 2 s.presented ++ natBytes 2 s.spareCount ++ (span 0 16).flatMap fun r => natBytes 1 (s.sparesOf r).length

/-- The content of a measurement block, and whether it is raw. -/
def State.measurement (s : State) (i : Nat) : List Byte × Bool :=
  match i with
  | 6 => (s.block6, true)
  | 7 => (s.block7, true)
  | 8 => (s.block8, true)
  | 9 => (s.block9, true)
  | 10 => (bytesOf 32 s.stable.bootNonce, true)
  | 11 => (s.block11, true)
  | _ => (bytesOf 64 (tget 0 s.stable.digests i), false)

/-- A block in the DMTF measurement format: mutable firmware for blocks 1 to 4, configuration for the rest. -/
def State.measureBlock (s : State) (i : Nat) : List Byte :=
  let (v, raw) := s.measurement i
  let type := (if i ≤ 4 then 1 else 3) + (if raw then 0x80 else 0)
  natBytes 1 i ++ natBytes 1 1 ++ natBytes 2 (v.length + 3) ++ natBytes 1 type ++ natBytes 2 v.length ++ v

/-! Messages. -/

def spdmHead (code p1 p2 : Nat) : List Byte := natBytes 1 0x13 ++ natBytes 1 code ++ natBytes 1 p1 ++ natBytes 1 p2
def spdmError (code : Nat) : List Byte := spdmHead 0x7F code 0

/-- A response is sent: one larger than the requester takes is kept for CHUNK_GET, and the requester learns its handle. -/
def State.spdmAnswer (s : State) (bs : List Byte) : State :=
  if s.stable.spdmSize = 0 ∨ bs.length ≤ s.stable.spdmSize then s.emit (.management bs)
  else ({ s with stable := { s.stable with chunks := bs, chunkSeq := 0, chunkHandle := s.stable.chunkHandle + 1 } }).emit
    (.management (spdmError 0x0F ++ bytesOf 1 (s.stable.chunkHandle + 1)))

/-- The module answers SPDM (R485, R488, R514, R559): an error for every request once invasive debug is on. -/
def State.spdm (s : State) (need : Nat) (req : List Byte) (f : State → State) : Out :=
  let t := s.stable
  if !s.harness.ready || t.held || t.lcState == 0 || t.lcState == 5 then .next s
  else if t.debugLevel = 2 then .next (s.emit (.management (spdmError 5)))
  else if need > 0 && sliceNat req 0 1 != 0x13 then .next (s.emit (.management (spdmError 0x41)))
  else if t.spdm.toNat < need then .next (s.emit (.management (spdmError 4)))
  else .next (f s)

/-- What a body that an outside standard lays out is formed from: the request, the state code, keys and measurement 1 to 4. -/
def State.spdmBody (s : State) (k : Nat) (req : List Byte) : List Byte :=
  Config.spdmBody k (req ++ natBytes 1 s.stable.lcState ++ bytesOf 32 (s.stable.identityPub)
    ++ bytesOf 32 (Config.ed25519Public (s.stable.aliasKey.getD 0)) ++ bytesOf 32 (Config.x25519Public ((s.stable.bootKey 1).getD 0))
    ++ (span 1 4).flatMap fun i => bytesOf 64 (tget 0 s.stable.digests i))

/-- The identity certificate as the flash of the booted copy holds it (R492, R560): a DER sequence, whose head says its length. -/
def State.identityCert (s : State) : List Byte :=
  let m := s.harness.flash (s.harness.image.getLsbD 0)
  flashBytes m certBase (4 + 256 * flashNat m (certBase + 2) 1 + flashNat m (certBase + 3) 1)

/-- The certificate chain of slot 0 (R492): the Carkan root and intermediate, the identity certificate and the alias certificate, under the
standard's head of length and root digest; none where the flash holds no certificate for the identity key (R608). -/
def State.certChain (s : State) : Option (List Byte) :=
  let root := Config.spdmBody 0 []
  let certs := root ++ Config.spdmBody 1 [] ++ s.identityCert ++ s.spdmBody 6 []
  if s.harness.certified then some (natBytes 2 (68 + certs.length) ++ natBytes 2 0 ++ bytesOf 64 (Config.sha512 root) ++ certs) else none

/-- A signature with the alias key over a transcript, which the standard lays out (R515). -/
def State.aliasSign (s : State) (k : Nat) (transcript : List Byte) : List Byte :=
  bytesOf 64 (Config.ed25519Sign (s.stable.aliasKey.getD 0) (Config.spdmBody k transcript))

/-- GET_VERSION (R515): the negotiation starts anew. -/
def execGetVersion (req : List Byte) (s : State) : Out := s.spdm 0 req fun s =>
  ({ s with stable := { s.stable with spdm := 1, spdmSize := 0, chunks := [] } }).emit
    (.management (natBytes 1 0x10 ++ natBytes 1 4 ++ natBytes 2 0 ++ natBytes 1 0 ++ natBytes 1 1 ++ natBytes 2 0x1300))

/-- GET_CAPABILITIES (R515): CERT, CHAL, MEAS with signature, CHUNK. -/
def execGetCapabilities (req : List Byte) (s : State) : Out := s.spdm 1 req fun s =>
  let size := sliceNat req 12 4
  if size < 42 then s.emit (.management (spdmError 1))
  else ({ s with stable := { s.stable with spdm := 2, spdmSize := size } }).spdmAnswer
    (spdmHead 0x61 0 0 ++ natBytes 4 0 ++ natBytes 4 0x20016 ++ natBytes 4 4608 ++ natBytes 4 65536)

/-- The body of ALGORITHMS (R515): DMTF measurements, SHA-512 for them, Ed25519 and SHA-512, each where the requester offers it. -/
def State.algorithms (s : State) (req : List Byte) : List Byte :=
  let offered (o bit : Nat) : Nat := if (sliceNat req o 4).testBit bit then 2 ^ bit else 0
  natBytes 2 36 ++ natBytes 1 (sliceNat req 6 1 % 2) ++ [(s.spdmBody 2 req).headD 0] ++ natBytes 4 (if sliceNat req 6 1 % 2 = 1 then 8 else 0)
    ++ natBytes 4 (offered 8 10) ++ natBytes 4 (offered 12 2) ++ natBytes 16 0

/-- NEGOTIATE_ALGORITHMS (R515). -/
def execNegotiateAlgorithms (req : List Byte) (s : State) : Out := s.spdm 2 req fun s =>
  ({ s with stable := { s.stable with spdm := 3 } }).spdmAnswer (spdmHead 0x63 0 0 ++ s.algorithms req)

/-- GET_DIGESTS (R515, R608): slot 0 only; empty where there is no certificate. -/
def execGetDigests (req : List Byte) (s : State) : Out := s.spdm 3 req fun s =>
  match s.certChain with
  | some c => s.spdmAnswer (spdmHead 1 1 1 ++ bytesOf 64 (Config.sha512 c))
  | none => s.spdmAnswer (spdmHead 1 1 0)

/-- GET_CERTIFICATE (R515): a part of the chain of slot 0. -/
def execGetCertificate (req : List Byte) (s : State) : Out := s.spdm 3 req fun s =>
  match s.certChain with
  | none => s.emit (.management (spdmError 1))
  | some c =>
    let off := sliceNat req 4 2
    if sliceNat req 2 1 % 16 ≠ 0 ∨ off ≥ c.length then s.emit (.management (spdmError 1))
    else
      let part := (c.drop off).take (sliceNat req 6 2)
      s.spdmAnswer (spdmHead 2 0 0 ++ natBytes 2 part.length ++ natBytes 2 (c.length - off - part.length) ++ part)

/-- CHALLENGE (R515): signed with the alias key. -/
def execChallenge (req : List Byte) (s : State) : Out := s.spdm 3 req fun s =>
  match s.certChain with
  | none => s.emit (.management (spdmError 1))
  | some c =>
    if sliceNat req 2 1 ≠ 0 then s.emit (.management (spdmError 1))
    else
      let (nonce, s) : BitVec 512 × State :=
        (Config.random s.stable.drawn, { s with stable := { s.stable with drawn := s.stable.drawn + 1 } })
      let body := spdmHead 3 0 1 ++ bytesOf 64 (Config.sha512 c) ++ (bytesOf 64 nonce).take 32 ++ s.spdmBody 3 req
      s.spdmAnswer (body ++ s.aliasSign 4 (req ++ body))

/-- GET_MEASUREMENTS (R516): the number of blocks, one block, or all; signed with the requester's nonce where asked. -/
def execGetMeasurements (req : List Byte) (s : State) : Out := s.spdm 3 req fun s =>
  let op := sliceNat req 3 1
  let signed := sliceNat req 2 1 % 2 == 1
  let which := if op = 0 then [] else if op = 0xFF then span 1 11 else [op]
  if op > 11 ∧ op ≠ 0xFF then s.emit (.management (spdmError 1))
  else
    let record := which.flatMap s.measureBlock
    let (nonce, s) : BitVec 512 × State :=
      (Config.random s.stable.drawn, { s with stable := { s.stable with drawn := s.stable.drawn + 1 } })
    let context := if signed then sliceBytes req 37 8 else sliceBytes req 4 8
    let body := spdmHead 0x60 (if op = 0 then 11 else 0) 0 ++ natBytes 1 which.length ++ natBytes 3 record.length ++ record
      ++ (bytesOf 64 nonce).take 32 ++ natBytes 2 0 ++ context
    s.spdmAnswer (body ++ if signed then s.aliasSign 5 (req ++ body) else [])

/-- CHUNK_GET (R515): the next part of a response that the requester could not take whole. -/
def execChunkGet (req : List Byte) (s : State) : Out := s.spdm 2 req fun s =>
  let t := s.stable
  let seq := sliceNat req 4 2
  if t.chunks = [] ∨ sliceNat req 3 1 ≠ t.chunkHandle.toNat ∨ seq ≠ t.chunkSeq then s.emit (.management (spdmError 1))
  else
    let size := if seq = 0 then natBytes 4 t.chunks.length else []
    let n := t.spdmSize - 12 - size.length
    let rest := t.chunks.drop n
    ({ s with stable := { t with chunks := rest, chunkSeq := seq + 1 } }).emit
      (.management (spdmHead 6 (if rest.isEmpty then 1 else 0) t.chunkHandle.toNat ++ natBytes 2 seq ++ natBytes 2 0
        ++ natBytes 4 (min n t.chunks.length) ++ size ++ t.chunks.take n))

end Sys2Proof.Machine
end

