-- ==== Sys2Proof/Machine/Boot.lean ====
section
/-! DEFINITION. Cold reset and boot (R552 to R567, R569, R600), and the events of pins, clocks and supply that lead to it (R550, R602 to
R607). -/
namespace Sys2Proof.Machine

/-! What a cold reset leaves (R552, R602). -/

/-- The state while the module is in cold reset or has lost power: fuses, flash, pins and what has left the block stay; nothing else
does. -/
def State.coldClear (s : State) : State :=
  let h := s.harness
  let t := s.stable
  { pending := s.pending, free := s.free, outbox := s.outbox, isL1 := s.isL1, ceilFused := s.ceilFused, cellEnable := s.cellEnable, hostMem := s.hostMem
    stable := { lcFuses := t.lcFuses, seedLock := t.seedLock, seedsGone := t.seedsGone, svnFloor := t.svnFloor, drawn := t.drawn }
    harness := { flashA := h.flashA, flashB := h.flashB, pwrEn := h.pwrEn, inputOk := h.inputOk, perst := h.perst, modRst := h.modRst
                 refSys := h.refSys, refFab := h.refFab, tripped := h.tripped, addrSel := h.addrSel } }

/-- After a change of pins: a module that is held in reset or unpowered holds nothing. -/
def State.settlePins (s : State) : State := if s.harness.down then s.coldClear else s

/-- PERST_ASSERT (R558, R605). -/
def execPerstAssert (held : Bool) (s : State) : Out := .next ({ s with harness := { s.harness with perst := held } }.settlePins)

/-- MOD_RST_ASSERT (R558, R605). -/
def execModRstAssert (held : Bool) (s : State) : Out := .next ({ s with harness := { s.harness with modRst := held } }.settlePins)

/-- PWR_EN_CHANGE (R602, R603): low for 100 ms clears the trip. -/
def execPwrEnChange (high : Bool) (lowMs : Nat) (s : State) : Out :=
  .next ({ s with harness := { s.harness with pwrEn := high, tripped := s.harness.tripped && decide (lowMs < 100) } }.settlePins)

/-- The stages run on at this input (R602): off below 38.0 V and above 60.5 V, on again from 40.0 V to 59.5 V. -/
def inputAfter (ok : Bool) (mV : Nat) : Bool :=
  if mV < 38000 ∨ mV > 60500 then false else if 40000 ≤ mV ∧ mV ≤ 59500 then true else ok

/-- INPUT_OUT_OF_RANGE (R602, R603): the input has moved to a voltage; below 38.0 V the trip clears. -/
def execInputOutOfRange (mV : Nat) (s : State) : Out :=
  .next ({ s with harness := { s.harness with
    inputOk := inputAfter s.harness.inputOk mV, tripped := s.harness.tripped && decide (38000 ≤ mV) } }.settlePins)

/-- REFCLK_SYS_LOSS (R607): absent for more than 1 µs, or returned. -/
def execRefclkSysLoss (present : Bool) (s : State) : Out := .next ({ s with harness := { s.harness with refSys := present } }.settlePins)

/-- REFCLK_FAB_LOSS (R607): every port goes down; ports train again once the clock is back. -/
def execRefclkFabLoss (present : Bool) (s : State) : Out :=
  let s := { s with harness := { s.harness with refFab := present } }
  .next (if present then s else (span 0 9).foldl (fun s k => s.portFalls k 0) s)

/-- THERMAL_TRIP (R550, R603): a sensor at or above 110 °C for 10 ms takes the power away. -/
def execThermalTrip (_sensor : Nat) (tempC : Int) (heldMs : Nat) (s : State) : Out :=
  if tempC ≥ 110 ∧ heldMs ≥ 10 ∧ s.harness.powered then .next ({ s with harness := { s.harness with tripped := true } }.coldClear) else .next s

/-- ENABLE of every segment is cleared (R347). -/
def HostIf.closeSegs (h : HostIf) : HostIf :=
  { h with segs := (span 0 64).foldl (fun m k => tset 0x3F00 m k (tget 0x3F00 m k &&& ~~~1#64)) h.segs }

/-- HOT_RESET (R607): the endpoint's configuration space and link state return to their reset values. -/
def execHotReset (s : State) : Out :=
  let h := s.host
  let h := if h.bar4Log2 = 36 then h else { h.closeSegs with bar4Log2 := 36 }
  .next (if s.harness.down then s else { s with host := { h with cfg := [], pageAlloc := 0, urLogged := false } })

/-! Keys of the boot (R490, R493). -/

/-- A draw from the random number generator. -/
def State.draw (s : State) : BitVec 512 × State :=
  (Config.random s.stable.drawn, { s with stable := { s.stable with drawn := s.stable.drawn + 1 } })

/-- The first 32 bytes of a digest. -/
def seedOf (bs : List Byte) : BitVec 256 := (Config.sha512 bs).truncate 256

/-- An X25519 private key as RFC 7748 clamps it. -/
def clamped (k : BitVec 256) : BitVec 256 := k &&& ~~~7#256 &&& ~~~(1#256 <<< 255) ||| (1#256 <<< 254)

/-- Every state that runs work. -/
def lcRuns : Nat := 0b011110

/-- A memory key drawn into its stall (R493). -/
def State.drawStall (s : State) (k world : Nat) : State :=
  let (key, s) : BitVec 512 × State := s.draw
  s.setStall k { attr := stallAttr 3 lcRuns world 1 0 0, key }

/-- The system memory key and those of the partitions (R493): stage 0x7. -/
def State.memoryKeys (s : State) : State := (span 0 32).foldl (fun s p => s.drawStall (8 + p) p) (s.drawStall 2 0x3E)

/-- Measurements 1 to 5, the identity, the alias and import keys (R490, R516). -/
def State.bootKeys (s : State) (m : SMap Byte) : State :=
  let d (t : Nat) : List Byte := match imageSection m t with
    | some x => bytesOf 64 x.digest
    | none => []
  let fw := bytesOf 64 (Config.sha512 (d 1 ++ d 2 ++ d 3 ++ d 4))
  let rest := ((imageSections m).filter fun x => decide (0x10 ≤ x.type)).flatMap fun x => bytesOf 64 x.digest
  let five := Config.sha512 (bytesOf 32 (imageSigner m) ++ rest)
  let alias_ := seedOf (ascii "IGN4820 ALIAS" ++ bytesOf 32 Config.idSeed ++ fw ++ natBytes 1 s.stable.lcState)
  let imp := clamped (seedOf (ascii "IGN4820 IMPORT" ++ bytesOf 32 Config.rootSecret ++ fw))
  let digests := (span 1 4).foldl (fun t i => tset 0 t i (ofBytes 512 (d i))) (tset 0 [] 5 five)
  let s := { s with stable := { s.stable with digests
                                              identityPub := Config.ed25519Public (seedOf (ascii "IGN4820 ID" ++ bytesOf 32 Config.idSeed)) } }
  let s := s.setStall 0 { attr := stallAttr 1 lcRuns 0x20 8 0 0, key := alias_.zeroExtend 512 }
  s.setStall 1 { attr := stallAttr 2 lcRuns 0x20 8 0 0, key := imp.zeroExtend 512 }

/-! The configuration sections (R564, R565, R567). -/

/-- PARTITIONS: owners of chunks, sealed partitions, way masks, owner keys. -/
def State.applyPartitions (s : State) (m : SMap Byte) (x : Section) : State :=
  let flag (p i : Nat) : Bool := (tget 0xFF m (x.off + 64 * p)).getLsbD i
  let s := { s with carve := (span 0 s.chunkCount).foldl (fun t k => tset 0x3F t k (tget 0xFF m (x.off + 2048 + k))) [] }
  { s with
    llcWays := (span 0 32).foldl (fun t p => tset 0xFFFF t p (BitVec.ofNat 16 (flashNat m (x.off + 64 * p + 2) 2))) []
    stable := { s.stable with
      sealed := (span 0 32).filter fun p => flag p 1
      owners := (span 0 32).foldl (fun t p => tset 0 t p (x.key m (64 * p + 32))) [] } }

/-- FABRIC, or its absence. -/
def State.applyFabric (s : State) (m : SMap Byte) : Option Section → State
  | some x =>
    { s with jbn := { s.jbn with
        fabric := true, fmKey := x.key m 72, routeBase := BitVec.ofNat 64 (x.word m 104)
        types := (span 0 9).foldl (fun t k => tset 0 t k (x.word m (8 * k))) [] } }
  | none => (span 0 9).foldl (fun s k => s.setJport k { s.jport k with disabled := true }) s

/-- POWER_DEFAULTS, or its absence. -/
def State.applyPower (s : State) (m : SMap Byte) : Option Section → State
  | some x => { s with power := { s.power with
      defaultW := some (x.word m 0), avgCapW := some (x.word m 8), windowS := x.word m 16, rackKey := x.key m 24 } }
  | none => s

/-- The system timetable: its records, and 62 as owner of their blocks (R126). -/
def State.applyTimetable (s : State) (l : List TtRecord) : State :=
  let blocks := l.flatMap fun r => (r.drives ++ r.feeds).map fun x => blockKey x.1 x.2.1 (x.2.2 / 16)
  let s := s.setTt 62 { s.tt 62 with a := l }
  { s with stage := { s.stage with owner := blocks.foldl (fun t k => tset 63 t k 62) s.stage.owner } }

/-- SYSTEM. -/
def State.applySystem (s : State) (m : SMap Byte) (x : Section) : State :=
  let w (o : Nat) : Word := BitVec.ofNat 64 (x.word m o)
  let share := [(48, 16), (49, 24), (50, 32), (52, 40)].foldl (fun (t : SMap (BitVec 7)) e => tset 0 t e.1 ((w e.2).truncate 7)) []
  let s := (span 0 52).foldl (fun s c => s.setMc c { s.mc c with ready := true, share, window := BitVec.ofNat 64 s.windowNow }) s
  let spill := (span 0 48).foldl (fun (t : SMap Word) n => tset 0 t n (w (48 + 16 * n) ||| w (56 + 16 * n))) []
  let s := { s with
    sched := { s.sched with spillArea := spill }
    errs := { s.errs with fqBase := w 816, errBase := w 824, crashArea := w 832 ||| w 840 }
    harness := { s.harness with logBase := w 848, subsystem := (w 8).truncate 16 ++ (w 0).truncate 16 }
    stable := { s.stable with debugKey := x.key m 856 } }
  s.applyTimetable ((systemTimetable m (x.word m 888)).getD [])

/-- Cells that fail self-test (R556): spares are lost, and an enabled cell goes as a failed FREE one (R462). -/
def State.selfTest (s : State) (bad : List Nat) : State :=
  let bad := (span 0 1152).filter bad.contains
  let s := (bad.filter fun p => s.cellState p == .spare).foldl (fun s p => s.setCell p { s.cell p with st := .retired }) s
  (bad.filter fun p => s.cellState p == .free).foldl (fun s p => s.retireFree p) s

/-! The boot (R554 to R560, R600). -/

/-- The boot ends in the recovery state. -/
def State.recover (s : State) (stage fail : Nat) (scrapped : Bool) : State :=
  { s with harness := { s.harness with recovery := true, scrapped, stage := BitVec.ofNat 8 stage, failStage := BitVec.ofNat 8 fail } }

/-- SVN_FLOOR rises to the SVN of a copy with RAISE_FLOOR (R569). -/
def State.raiseFloor (s : State) (m : SMap Byte) : State :=
  let svn := imageSvn m
  if imageRaise m && decide (popcount 64 s.stable.svnFloor.toNat < svn) then
    let s := s.log 0x1B oHarness 0x3E 63 (BitVec.ofNat 64 svn) 0
    { s with stable := { s.stable with svnFloor := BitVec.ofNat 64 (2 ^ svn - 1) } }
  else s

/-- Stages 0x4 to 0x8 from copy b; image is BOOT_IMAGE without its GEN and SVN. -/
def State.bootFrom (s : State) (b fallback : Bool) (image : Word) (env : BootEnv) : State :=
  let m := s.harness.flash b
  let s := s.bootKeys m
  let s := { s with harness := { s.harness with
    image := image ||| put 32 (imageGen m % 2 ^ 32) ||| put 8 (imageSvn m)
    certified := Config.certHolds (flashBytes (s.harness.flash b) certBase 0x100000) s.stable.identityPub } }
  if env.trainFails then s.recover 5 5 false
  else if env.crossFails then s.recover 6 6 false
  else
    let s := { s.memoryKeys with engines := (span 0 52).foldl (fun t e => tset {} t e { ready := true }) s.engines }
    let s := match imageSection m 0x10 with
      | some x => s.applyPartitions m x
      | none => s
    let s := (s.applyFabric m (imageSection m 0x12)).applyPower m (imageSection m 0x13)
    let s := match imageSection m 0x14 with
      | some x => s.applySystem m x
      | none => s
    let s := s.selfTest env.badCells
    let s := { s with
      stage := { s.stage with frame := 20 * s.tick / 1024 }
      harness := { s.harness with
        ready := true, stage := 8, readyTick := BitVec.ofNat 32 s.tick, chain := chainStart s.stable.bootNonce } }
    let arg := (if b then 1 else 0) + (if fallback then 2 else 0) + 256 * imageSvn m
    (s.log 0x01 oHarness 0x3E 63 (BitVec.ofNat 64 arg) (BitVec.ofNat 64 (imageGen m))).raiseFloor m

/-- Stages 0x2 and 0x3: the copy that boots (R560), or the recovery state. -/
def State.selectCopy (s : State) (env : BootEnv) : State :=
  let b := s.firstCopy
  let bad (x : Bool) : Word := put (if x then 3 else 2) 1
  if s.imageGood (s.harness.flash b) then s.bootFrom b false (putB 0 b) env
  else if s.imageGood (s.harness.flash !b) then s.bootFrom (!b) true (putB 0 (!b) ||| putB 1 true ||| bad b) env
  else
    let s := { s with harness := { s.harness with image := putB 1 true ||| bad b ||| bad (!b) } }
    s.recover 3 3 false

/-- The boot from stage 0x1, at its end. -/
def State.boot (s : State) (env : BootEnv) : State :=
  let (nonce, s) : BitVec 512 × State := s.draw
  let s := { s with
    tick := min env.ticks 900000000
    stable := { s.stable with bootNonce := nonce.truncate 256 }
    harness := { s.harness with addrSel := env.addrSel } }
  if s.stable.lcState = 0 then s
  else if s.stable.lcState = 5 then s.recover 1 0 true
  else if env.forceRecovery then s.recover 1 0 false
  else s.selectCopy env

/-- COLD_RESET (R552): the cold reset ends and the boot runs; nothing happens while a condition of R552 does not hold. -/
def execColdReset (env : BootEnv) (s : State) : Out := .next (if s.harness.down then s else s.coldClear.boot env)

/-! Fuses and flash outside operation (R487, R608). -/

/-- SEED_LOCK is blown with the seeds (R489). -/
def State.seedsFused (s : State) : State := { s with stable := { s.stable with seedLock := true } }

/-- FUSE_SEEDS_AT_TEST (R487 to R489): the seeds are fused with SEED_LOCK, and BLANK becomes MANUFACTURE. -/
def execFuseSeedsAtTest (s : State) : Out :=
  let t := s.stable
  if s.harness.down || t.lcState != 0 || t.seedLock then .next s
  else .next (s.lcAdvance oDebug 1).seedsFused

/-- FLASH_HEADER_WRITE (R570, R608): the header reaches a device only while the power is good and MOD_RST# is low. -/
def execFlashHeaderWrite (dev : Bool) (off : Nat) (data : List Byte) (s : State) : Out :=
  let h := s.harness
  if h.powered && h.modRst && decide (off + data.length ≤ flashSize) then .next { s with harness := h.setFlash dev (flashWrite (h.flash dev) off data) }
  else .next s

/-! Management (R568, R571). -/

/-- A PLDM response: type, command, completion code, body. The codes are PRESUMED (DMTF DSP0240, DSP0248, DSP0267). -/
def pldmResponse (type cmd code : Nat) (body : List Byte) : List Byte := natBytes 1 0 ++ natBytes 1 type ++ natBytes 1 cmd ++ natBytes 1 code ++ body

/-- The module takes a firmware update (R559, R568): over PCIe once it is ready, over I3C in the recovery state too. -/
def State.updatable (s : State) (pcie : Bool) : Bool :=
  !s.stable.held && (s.harness.ready || (s.harness.recovery && !s.harness.scrapped && !pcie))

/-- A copy of the flash as an update leaves it: the image, with GEN set where its checks pass (R568). -/
def State.updateCopy (s : State) (image : List Byte) : State :=
  let h := s.harness
  let booted := h.image.getLsbD 0
  let target := h.ready && !booted
  let m := flashWrite (h.flash target) 0 (image.take imageMax)
  let good := s.imageGood m
  let (gen, s) : Nat × State :=
    if h.ready then (imageGen (h.flash booted) + 1, s) else ((s.freeWord).1.toNat, (s.freeWord).2)
  let s := if h.ready then s.log 0x1A oMctp 0x3E 63 (putB 0 target) (putB 0 (!good)) else s
  { s with harness := { s.harness with updated := good }.setFlash target (if good then flashWrite m 24 (natBytes 8 gen) else m) }

/-- REQUEST_UPDATE (R568): the whole update; ALREADY_IN_UPDATE_MODE while one waits for its activation. -/
def execRequestUpdate (pcie : Bool) (image : List Byte) (s : State) : Out :=
  if !s.updatable pcie then .next s
  else if s.harness.updated then .next (s.emit (.management (pldmResponse 5 0x10 0x81 [])))
  else .next ((s.updateCopy image).emit (.management (pldmResponse 5 0x10 0 (natBytes 3 0))))

/-- ACTIVATE_FIRMWARE (R568): activation needs a reset; none is pending outside an update. -/
def execActivateFirmware (s : State) : Out :=
  if !s.updatable false then .next s
  else if s.harness.updated then
    .next ({ s with harness := { s.harness with updated := false } }.emit (.management (pldmResponse 5 0x1A 0x8C (natBytes 2 0))))
  else .next (s.emit (.management (pldmResponse 5 0x1A 0x80 [])))

/-- A sensor's reading (R571). -/
def State.sensor (s : State) (id : Nat) : Option Int :=
  match id with
  | 1 => some (s.power.inputMw / 1000 : Nat)
  | 2 => some (s.power.inputMv / 1000 : Nat)
  | 3 => some s.power.tempC
  | 4 => some s.power.hbmC
  | 5 => some s.presented
  | 6 => some s.spareCount
  | 7 => some s.stable.lcState
  | 8 => some (if s.harness.recovery then 2 else if s.harness.ready then 1 else 0)
  | _ => none

/-- GET_SENSOR_READING (R488, R559, R571): a held module answers the two sensors that report the state. -/
def execGetSensorReading (id : Nat) (s : State) : Out :=
  if !(s.harness.ready || s.harness.recovery) || (s.stable.held && id != 7 && id != 8) then .next s
  else match s.sensor id with
    | none => .next (s.emit (.management (pldmResponse 2 0x11 0x80 [])))
    | some v => .next (s.emit (.management (pldmResponse 2 0x11 0 (natBytes 1 5 ++ natBytes 5 0 ++ bytesOf 4 (BitVec.ofInt 32 v)))))

end Sys2Proof.Machine
end

