-- ==== Sys2Proof/Machine/Power.lean ====
section
/-! DEFINITION. The power contract (R529 to R551): the meter, minutes and their records, the contract messages, the controller and
its phase table, ceilings and droop, thermal limits. Energies are in units of 10 pJ, so that an energy divided by ticks is
in mW. -/
namespace Sys2Proof.Machine

/-- Ticks of a minute and of a control interval (R531, R538). -/
def minuteTicks : Nat := 6000000000
def intervalTicks : Nat := 100000

/-- The largest n with n² ≤ v, by bits from bit k - 1 down. -/
def rootBits (v : Nat) : Nat → Nat → Nat
  | 0, r => r
  | k + 1, r => rootBits v k (if (r + 2 ^ k) * (r + 2 ^ k) ≤ v then r + 2 ^ k else r)

/-- C[k] in W (R531). -/
def State.contractW (s : State) (k : Nat) : Nat :=
  let c := tget 0 s.power.contract k
  if c = 0 then s.defaultW else c

/-! Which cells are whose. -/

/-- The pcell serves a coach of a strict partition. -/
def State.strictCell (s : State) (p : Nat) : Bool := s.stable.strict.contains (s.partOf (s.cell p).slot.toNat)

/-- Cells whose clocks run. -/
def State.clockedCells (s : State) : List Nat := (s.cells.filter fun e => s.clocked e.1).map (·.1)

/-- A CLOCK_SET message leaves for a cell (R541). -/
def State.sendClock (s : State) (p mhz : Nat) : State :=
  if h : p < 1152 then
    s.send (.clockSet ⟨p, h⟩ { dispatchMsg (s.cell p).slot.toNat p 0x13 (mhz % 65536) with src := BitVec.ofNat 28 (2 ^ 27 + 1489) })
  else s

/-- Every cell of no strict partition is set to a frequency. -/
def State.clockRest (s : State) (f : Nat → Nat) : State :=
  s.clockedCells.foldl (fun s p => if s.strictCell p then s else s.sendClock p (f p)) s

/-! Metering (R529, R530, R540). -/

/-- METER_SAMPLE (R529): a sample of 10 µs. Where the mean draw of the interval so far exceeds its budget by more than 2%, the cells
are slowed at once, and the power stages limit the input to 4,400 W until the interval ends (R540; DESIGN CHOICE, log 126). -/
def execMeterSample (mV mA : Nat) (s : State) : Out :=
  let x := s.power
  let e := if x.inputLimit then min (mV * mA) 4400000000 else mV * mA
  let x := { x with now := x.now + e, energy := x.energy + e, samples := x.samples + 1, inputMv := mV }
  let s := { s with power := x }
  if !x.history.isEmpty && decide (x.now * 100 > x.budgetMw * 102 * (x.samples * 1000)) then
    .next ({ s with power := { s.power with inputLimit := true } }.clockRest fun p => max 1000 ((s.cell p).freq.toNat - 100))
  else .next s

/-- What a faulted meter holds the module at (R530). -/
def State.meterHold (s : State) : State := { s.clockRest fun _ => 1000 with power := { s.power with duty := 2 } }

/-- METER_CHECK (R530): each interval while the meter is sound, each second while it is faulted. -/
def execMeterCheck (firstMw secondMw : Nat) (s : State) : Out :=
  let x := s.power
  let differ := decide ((max firstMw secondMw - min firstMw secondMw) * 100 > 3 * firstMw)
  if x.meterFault ∧ s.tick + 1 < x.checkedAt + 100000000 then .next s
  else
    let x := { x with checkedAt := s.tick + 1 }
    if differ then .next { s with power := { x with meterFault := true, meterGood := 0, sound := false } }.meterHold
    else if x.meterFault then
      let good := x.meterGood + 1
      .next { s with power := { x with meterFault := decide (good < 10), meterGood := if good < 10 then good else 0 } }
    else .next { s with power := x }

/-! Contract messages (R535, R536). -/

def pcOk : Nat := 0
def pcBad : Nat := 1
def pcNonce : Nat := 2
def pcSignature : Nat := 3
def pcSeq : Nat := 4
def pcLate : Nat := 5
def pcFar : Nat := 6
def pcBelowFloor : Nat := 7
def pcAboveTdp : Nat := 8

/-- The module answers contract messages once it is ready, and until it is held (R488, R559). -/
def State.contract (s : State) (f : State → State) : Out := if s.pcieOpen then .next (f s) else .next s

/-- A response: CMD, INSTANCE, status, zero, and the body. -/
def State.contractAnswer (s : State) (cmd : Nat) (inst : Byte) (status : Nat) (body : List Byte) : State :=
  s.emit (.management (natBytes 1 cmd ++ [inst] ++ natBytes 1 status ++ natBytes 1 0 ++ body))

/-- GET_STATUS. -/
def execGetStatus (inst : Byte) (body : List Byte) (s : State) : Out := s.contract fun s =>
  let x := s.power
  if body ≠ [] then s.contractAnswer 1 inst pcBad []
  else s.contractAnswer 1 inst pcOk (natBytes 8 s.tick ++ natBytes 8 s.minuteNow ++ bytesOf 32 s.stable.bootNonce ++ bytesOf 8 x.seq
    ++ natBytes 2 s.tdp ++ natBytes 2 s.floorEff ++ natBytes 2 s.defaultW ++ natBytes 2 s.avgCapW ++ natBytes 1 x.windowS
    ++ natBytes 1 ((if x.rackKey = 0 then 0 else 1) + (if x.meterFault then 2 else 0)) ++ natBytes 6 0)

/-- The checks that SET_CONTRACT and SET_COOLING share, over a body of n bytes before the signature: their shape holds. -/
def State.contractCheck (s : State) (body : List Byte) (n : Nat) : Nat :=
  let x := s.power
  if sliceBytes body 8 32 ≠ bytesOf 32 s.stable.bootNonce then pcNonce
  else if x.rackKey ≠ 0 ∧ (body.length ≠ n + 64
      ∨ !Config.ed25519Verify x.rackKey (body.take n) (ofBytes 512 (sliceBytes body n 64))) then pcSignature
  else if sliceNat body 0 8 ≤ x.seq.toNat then pcSeq
  else pcOk

/-- The length fits a body of n bytes: with its signature, which may be missing, where there is a key. -/
def State.lengthFits (s : State) (body : List Byte) (n : Nat) : Bool :=
  body.length == n || (s.power.rackKey != 0 && body.length == n + 64)

/-- Entries of SET_CONTRACT. -/
def contractEntries (body : List Byte) : List Nat := (span 0 (sliceNat body 48 1)).map fun i => sliceNat body (56 + 2 * i) 2

/-- The status of a SET_CONTRACT (R536). -/
def State.setContractCheck (s : State) (body : List Byte) : Nat :=
  let count := sliceNat body 48 1
  let first := sliceNat body 40 8
  if count = 0 ∨ count > 60 ∨ sliceNat body 49 7 ≠ 0 ∨ !s.lengthFits body (56 + 2 * count) then pcBad
  else
    let st := s.contractCheck body (56 + 2 * count)
    if st ≠ pcOk then st
    else if first ≤ s.minuteNow then pcLate
    else if first + count - 1 > s.minuteNow + 60 then pcFar
    else if (contractEntries body).any fun w => decide (w < s.floorEff) then pcBelowFloor
    else if (contractEntries body).any fun w => decide (w > s.tdp) then pcAboveTdp
    else pcOk

/-- SET_CONTRACT (R536): entries replace those of their minutes; vector 5. -/
def execSetContract (inst : Byte) (body : List Byte) (s : State) : Out := s.contract fun s =>
  let st := s.setContractCheck body
  if st ≠ pcOk then s.contractAnswer 2 inst st []
  else
    let first := sliceNat body 40 8
    let s := s.log 0x13 oMctp 0x3F 63 (BitVec.ofNat 64 (sliceNat body 0 8)) (BitVec.ofNat 64 (2 + 256 * first))
    let entries := contractEntries body
    let put (m : SMap Nat) : SMap Nat := (span 0 entries.length).foldl (fun m i => tset 0 m (first + i) (nth 0 entries i)) m
    let s := { s with power := { s.power with seq := BitVec.ofNat 64 (sliceNat body 0 8), contract := put s.power.contract } }
    (s.contractAnswer 2 inst pcOk []).msix 5

/-- The status of a SET_COOLING (R536, R539). -/
def State.setCoolingCheck (s : State) (body : List Byte) : Nat :=
  let win := sliceNat body 42 1
  let cap := sliceNat body 40 2
  if win = 0 ∨ win > 60 ∨ sliceNat body 43 5 ≠ 0 ∨ !s.lengthFits body 48 then pcBad
  else
    let st := s.contractCheck body 48
    if st ≠ pcOk then st else if cap < s.floorEff then pcBelowFloor else if cap > s.tdp then pcAboveTdp else pcOk

/-- SET_COOLING (R539): it applies from the next interval. -/
def execSetCooling (inst : Byte) (body : List Byte) (s : State) : Out := s.contract fun s =>
  let st := s.setCoolingCheck body
  if st ≠ pcOk then s.contractAnswer 3 inst st []
  else
    let s := s.log 0x13 oMctp 0x3F 63 (BitVec.ofNat 64 (sliceNat body 0 8)) 3
    let s := { s with power := { s.power with
      seq := BitVec.ofNat 64 (sliceNat body 0 8), avgCapW := some (sliceNat body 40 2), windowS := sliceNat body 42 1 } }
    (s.contractAnswer 3 inst pcOk []).msix 5

/-- GET_REPORT (R537): the records of FIRST onward that the module still holds, at most COUNT, signed with the alias key. -/
def execGetReport (inst : Byte) (body : List Byte) (s : State) : Out := s.contract fun s =>
  let first := sliceNat body 0 8
  let count := sliceNat body 8 1
  if body.length ≠ 48 ∨ count = 0 ∨ count > 16 ∨ sliceNat body 9 7 ≠ 0 then s.contractAnswer 4 inst pcBad []
  else
    let recs := ((s.power.records.filter fun r => decide (first ≤ sliceNat r 0 8)).take count)
    let sig : BitVec 512 := match s.stable.aliasKey with
      | some k => Config.ed25519Sign k (sliceBytes body 16 32 ++ recs.flatMap id)
      | none => Config.freeLine s.free
    let s := if s.stable.aliasKey.isSome then s else { s with free := s.free + 1 }
    s.contractAnswer 4 inst pcOk (natBytes 1 recs.length ++ natBytes 7 0 ++ recs.flatMap id ++ bytesOf 64 sig)

/-! Minutes (R534, R537). -/

/-- The record of the minute that closes. -/
def State.minuteRecord (s : State) : List Byte :=
  let x := s.power
  let k := x.minute
  let c := s.contractW k
  let met := x.sound && decide (x.floorThen ≤ c) && !x.partMinute && decide (x.energy ≤ c * 1000 * minuteTicks)
  let forecast := min (s.contractW (k + 1)) ((x.history.take 10000).foldl (· + ·) 0 / (10000 * intervalTicks) / 1000)
  let flags := (if met then 1 else 0) + (if tget 0 x.contract k = 0 then 2 else 0) + (if x.sound then 0 else 4)
    + (if x.minuteThermal then 8 else 0) + (if x.partMinute then 16 else 0)
  natBytes 8 k ++ natBytes 2 c ++ natBytes 2 (ceilDiv x.energy (1000 * minuteTicks)) ++ natBytes 2 forecast
    ++ natBytes 2 (x.peakMw / 1000) ++ natBytes 1 flags ++ natBytes 15 0

/-- MINUTE_CLOSE (R537): the tick has passed the end of the minute. -/
def execMinuteClose (s : State) : Out :=
  let x := s.power
  if s.minuteNow ≤ x.minute then .next s
  else
    let r := s.minuteRecord
    let recs := x.records ++ [r]
    let s := { s with power := { x with
      records := recs.drop (recs.length - 64), contract := tset 0 x.contract x.minute 0, minute := x.minute + 1, energy := 0, peakMw := 0
      sound := !x.meterFault, minuteThermal := false, partMinute := false } }
    let s := { s with power := { s.power with floorThen := s.floorEff } }
    .next (if s.pcieOpen then s.msix 5 else s)

/-! The learning table (R545, R546). -/

/-- The activity estimate of a cell (R545). -/
def activityOf (r : PowerReading) (p : Nat) : Nat :=
  match r.activity.find? fun e => e.1 == p with
  | some (_, a, b, c) => Config.activityWeight 0 * a + Config.activityWeight 1 * b + Config.activityWeight 2 * c
  | none => 0

/-- A cell's share of its region's power, in µW. -/
def shareOf (r : PowerReading) (p : Nat) : Nat :=
  let total := (span (72 * regionOf p) 72).foldl (fun t q => t + activityOf r q) 0
  if total = 0 then 0 else nth 0 r.regionMw (regionOf p) * 1000 * activityOf r p / total

/-- The share as it would be at 2,500 MHz. -/
def State.shareAt2500 (s : State) (r : PowerReading) (p : Nat) : Nat :=
  let f := (s.cell p).freq.toNat
  if f = 0 then 0 else shareOf r p * 6250000 / (f * f)

/-- Steps that run on cells of no strict partition: slot, context and step. -/
def State.learnSteps (s : State) : List (Nat × Nat × StepRec) :=
  (span 0 48).filterMap fun n =>
    if !s.stepRuns n || s.stable.strict.contains (s.partOf n) then none
    else match s.runningCtx n with
      | some k => (s.ctx k).step.map fun (st : StepRec) => (n, k, st)
      | none => none

/-- The interval's shares enter the observations of the running steps. -/
def State.observe (s : State) (r : PowerReading) : State :=
  s.learnSteps.foldl (fun s e =>
    let (n, k, st) := e
    let o := tget {} s.power.obs k
    let o : PhaseObs := if o.num = st.num then o else { num := st.num }
    let cells := s.cellsOf n
    let o := { o with sum := cells.foldl (fun t p => t + s.shareAt2500 r p) o.sum, count := o.count + cells.length }
    { s with power := { s.power with obs := tset {} s.power.obs k o } }) s

/-- A phase entry after an observation in µW for a partition (R546). -/
def Phase.learn (x : Phase) (q : BitVec 5) (v : Nat) : Phase :=
  if !x.valid || x.partition != q then { valid := true, partition := q, obs := 1, sum := v, cellMw := 0 }
  else if x.obs.toNat < 4 then
    let sum := x.sum + v
    { x with sum, obs := x.obs + 1, cellMw := if x.obs = 3 then min 65535 (sum / 4000) else x.cellMw }
  else
    let p : Int := x.cellMw
    let next := p + ((v / 1000 : Nat) - p) / 8
    { x with cellMw := min 65535 next.toNat, obs := if x.obs = 255 then 255 else x.obs + 1 }

/-- The observation of a step that retires updates its phase entry; steps of strict partitions, faulted ones, and steps that no
interval has seen do not. -/
def State.phaseLearn (s : State) (n : Nat) : State :=
  match s.runningCtx n with
  | none => s
  | some k => match (s.ctx k).step with
    | none => s
    | some st =>
      let o := tget {} s.power.obs k
      let s := { s with power := { s.power with obs := tset {} s.power.obs k {} } }
      if s.stable.strict.contains (s.partOf n) || (s.slotSched n).faulted.isSome || stKind st.desc != 1 || o.num != st.num || o.count == 0 then s
      else
        let i := bfield st.desc 48 8
        let e := tget {} s.power.phases i
        { s with power := { s.power with phases := tset {} s.power.phases i (e.learn (s.coach n).partition (o.sum / o.count)) } }

/-- STEP_RETIRE (R360, R369, R546, R613): every cell of the slot has reported completion. -/
def execStepRetire (n : Slot) (s : State) : Out := s.onModule fun s =>
  if s.stepRuns n && (s.slotSched n).faulted.isNone && s.stepComplete n then .next ((s.phaseLearn n).stepRetire n) else .next s

/-! The controller (R538 to R540, R544, R547, R548, R550). -/

/-- A burst above the TDP is allowed. -/
def State.burstAllowed (s : State) : Bool :=
  let above (e : Nat) : Bool := decide (e > s.tdp * 1000 * intervalTicks)
  let h := s.power.history
  decide (((h.take 10).filter above).length < 10) && !((h.drop 10).take 90).any above

/-- The thermal limit in mW for the highest junction temperature, if it applies. -/
def State.thermalLimit (s : State) (t : Int) : Option Nat :=
  if t > 90 then some (s.tdp * 1000 * (100 - t).toNat / 10) else none

/-- The budget B in mW before the thermal limit (R538). -/
def State.coolBudget (s : State) : Nat :=
  let x := s.power
  let k := x.minute
  let left := (k + 1) * minuteTicks - s.tick
  let pace := if left = 0 then 0 else (s.contractW k * 985 * minuteTicks - x.energy) / left
  let spent := (x.history.take (x.windowS * 1000 - 1)).foldl (· + ·) 0
  let win := (s.avgCapW * 1000 * (x.windowS * 100000000) - spent) / intervalTicks
  let peak := if s.burstAllowed then 4400000 else s.tdp * 1000
  min pace (min win peak)

/-- The budget B in mW (R538). -/
def State.budget (s : State) (t : Int) : Nat :=
  match s.thermalLimit t with
  | some l => min s.coolBudget l
  | none => s.coolBudget

/-- The per-cell demand of a step in µW at 2,500 MHz (R547). -/
def State.demand (s : State) (n : Nat) (st : StepRec) (equal : Nat) : Nat :=
  let e := tget {} s.power.phases (bfield st.desc 48 8)
  let est := bfield st.desc 256 16
  if e.valid && e.partition == (s.coach n).partition && decide (e.obs.toNat ≥ 4) then e.cellMw * 1000
  else if st.desc.getLsbD 9 && est != 0 then est * 1000
  else equal

/-- The budget handed to the running steps (R547), and the Mule duty (R544). -/
def State.allocate (s : State) (r : PowerReading) : State :=
  let steps := s.learnSteps
  let strictUw := (s.clockedCells.filter s.strictCell).foldl (fun t p => t + shareOf r p) 0
  let cellsUw := (s.power.budgetMw - s.power.nonCellMw) * 1000 - strictUw
  let count := steps.foldl (fun t e => t + (s.cellsOf e.1).length) 0
  let equal := if count = 0 then 0 else cellsUw / count
  let total := steps.foldl (fun t e => t + (s.cellsOf e.1).length * s.demand e.1 e.2.2 equal) 0
  let mhz := if total = 0 then 2800 else min 2800 (rootBits (6250000 * cellsUw / total) 16 0)
  let low := total * 16 / 100
  let duty := if cellsUw < low then max 2 (s.power.duty - 1) else if cellsUw * 10 ≥ low * 11 then min 8 (s.power.duty + 1) else s.power.duty
  let s := { s with power := { s.power with duty } }
  steps.foldl (fun s e => (s.cellsOf e.1).foldl (fun s p => s.sendClock p mhz) s) s

/-- CONTROL_INTERVAL (R538): the interval that ends is recorded and learned from; the budget of the next is computed, and the cells
and the Mules are set. -/
def execControlInterval (r : PowerReading) (s : State) : Out :=
  let x := s.power
  let input := x.now / intervalTicks
  let regions := r.regionMw.foldl (· + ·) 0
  let hot := decide (r.tempC > 90)
  let s := { s with power := { x with
    history := (x.now :: x.history).take 60000, inputMw := input, peakMw := max x.peakMw input, now := 0, samples := 0, inputLimit := false
    nonCellMw := input - regions, tempC := r.tempC, hbmC := r.hbmC, thermal := hot } }
  let s := s.observe r
  let b := s.budget r.tempC
  let s := { s with power := { s.power with budgetMw := b, minuteThermal := s.power.minuteThermal || decide (b < s.coolBudget) } }
  let s := if s.power.meterFault then s.meterHold else s.allocate r
  let s := s.clockedCells.foldl (fun s p =>
    if s.strictCell p then s.sendClock p (if (s.cell p).heldSlow then 1000 else s.power.strictOf (s.partOf (s.cell p).slot.toNat)) else s) s
  .next (if r.tempC ≥ 100 then s.clockedCells.foldl (fun s p => s.sendClock p 1000) s else s)

/-! Ceilings, droop (R542, R543). -/

/-- CEILING_REVISION (R542): in steps of 25 MHz, at most once every 2^32 ticks; below 2,000 MHz the pcell is marked failed. -/
def execCeilingRevision (p : Pcell) (mhz : BitVec 16) (s : State) : Out :=
  let c := s.cell p
  let now := s.ceilNow p
  if mhz.toNat ≥ now ∨ (now - mhz.toNat) % 25 ≠ 0 ∨ (c.ceilAt ≠ 0 ∧ s.tick + 1 < c.ceilAt + 2 ^ 32) then .next s
  else
    let s := s.logErr errCeiling 8 p p (s.partOfCell p) 0xFF mhz.toNat
    let s := s.setCell p { s.cell p with ceilDrop := s.ceilFusedOf p - mhz.toNat, ceilAt := s.tick + 1 }
    let s := if (s.cell p).freq.toNat > mhz.toNat then s.setFreq p mhz.toNat else s
    .next (if mhz.toNat < 2000 then s.markFailed p 2 else s)

/-- DROOP (R543): a cell's clock is stretched; edges are those removed, so few that the mean rate stays at or above 1,000 MHz. -/
def execDroop (p : Pcell) (edges : Nat) (s : State) : Out := s.onClock p fun s =>
  let f := (s.cell p).freq.toNat
  if f ≤ 1000 then .next s
  else .next ((s.countCell p 8 1).countCell p 9 (min edges (256 * (f - 1000) / f)))

/-! Registers (R549, R551). -/

/-- A write of PWR_STRICT_p (R549). -/
def State.pwrStrictWrite (s : State) (q : Nat) (v : Word) : State :=
  let mhz := bfield v 0 12
  if mhz < 1000 ∨ mhz > 2800 ∨ mhz % 25 ≠ 0 then s
  else
    let set (s : State) : State := { s with power := { s.power with strictMhz := tset 1000 s.power.strictMhz q mhz } }
    if s.floorBroken (set s) then { s with power := { s.power with strictRefused := true } }
    else set (s.logWindow (0x500100 + 8 * q) v)

/-- PWR_STRICT_WRITE (R549). -/
def execPwrStrictWrite (q : PartIx) (v : Word) (s : State) : Out := s.gate fun s => .next (s.pwrStrictWrite q v)

def State.pwrStatus (s : State) : Word :=
  let x := s.power
  put 48 (x.inputMw / 1000 % 65536) ||| put 32 (x.budgetMw / 1000 % 65536) ||| put 16 s.floorEff ||| putB 3 x.strictRefused
    ||| putB 2 x.thermal ||| putB 1 x.meterFault ||| putB 0 (x.rackKey != 0)

/-- PWR_MINUTE: the mean draw is over the part of the minute that has passed. -/
def State.pwrMinute (s : State) : Word :=
  let k := s.minuteNow
  let past := s.tick % minuteTicks
  put 32 (k % 2 ^ 32) ||| put 16 (s.contractW k) ||| put 0 (if past = 0 ∨ s.power.minute ≠ k then 0 else s.power.energy / past / 1000 % 65536)

def State.pwrLast (s : State) : Word :=
  match s.power.records.getLast? with
  | some r => put 32 (sliceNat r 0 4) ||| put 16 (sliceNat r 10 2) ||| put 0 (sliceNat r 12 2)
  | none => 0

def Phase.reg (x : Phase) : Word := putB 63 x.valid ||| put 58 x.partition.toNat ||| put 48 x.obs.toNat ||| put 32 x.cellMw

/-- A register of the power block. -/
def State.pwrRead (s : State) (off : Nat) : Word :=
  if off = 0 then s.pwrStatus
  else if off = 8 then s.pwrMinute
  else if off = 0x10 then put 16 s.avgCapW ||| put 0 s.power.windowS
  else if off = 0x18 then s.pwrLast
  else if off = 0x20 then put 0 s.power.duty
  else if 0x100 ≤ off ∧ off < 0x200 then put 0 (s.power.strictOf ((off - 0x100) / 8))
  else if 0x1000 ≤ off ∧ off < 0x1800 then (tget {} s.power.phases ((off - 0x1000) / 8)).reg
  else 0

end Sys2Proof.Machine
end

