-- ==== Sys2Proof/Machine/RegRead.lean ====
section
/-! DEFINITION. What BAR0 reads (R12 to R14, and the register maps of the chapters): one function per block, over offsets in the block.
Offsets not listed read zero (R12). -/
namespace Sys2Proof.Machine

/-- off lies in a table of n registers of 8 bytes at lo: its index. -/
def regIx (off lo n : Nat) : Option Nat := if lo ≤ off ∧ off < lo + 8 * n ∧ (off - lo) % 8 = 0 then some ((off - lo) / 8) else none

/-- Boot and log block (R579). -/
def State.bootRead (s : State) (o : Nat) : Word :=
  let h := s.harness
  match o with
  | 0x000 => put 32 h.readyTick.toNat ||| put 24 h.stage.toNat ||| put 16 h.failStage.toNat ||| putB 2 h.scrapped ||| putB 1 h.recovery
      ||| putB 0 h.ready
  | 0x008 => h.image
  | 0x010 => BitVec.ofNat 64 s.tick
  | 0x100 => h.logBase
  | 0x108 => h.logHead
  | 0x110 => h.logTail
  | 0x118 => put 32 h.overwritten.toNat
  | _ => 0

/-- Fault and recovery block (R482). -/
def State.faultRead (s : State) (o : Nat) : Word :=
  let e := s.errs
  match o with
  | 0x000 => e.fqBase
  | 0x008 => put 0 e.fqHead.toNat
  | 0x010 => put 0 e.fqTail.toNat
  | 0x018 => put 32 e.fqLostCount.toNat ||| putB 0 e.fqLost
  | 0x020 => e.fqPending
  | 0x040 => e.errBase
  | 0x048 => put 0 e.errHead.toNat
  | 0x050 => put 0 e.errTail.toNat
  | 0x058 => put 32 e.errLostCount.toNat ||| putB 0 e.errLost
  | 0x080 => e.crashArea
  | 0x090 => put 32 e.crashLost.toNat ||| put 0 e.crashUsed
  | 0x0C8 => put 32 s.presented ||| put 19 e.retiredPages.length ||| putB 1 e.retireRefused
  | 0x108 => e.resetCause
  | _ => match regIx o 0x200 32 with
    | some q => tget 0 e.crashPart q
    | none => 0

/-- The MSI-X table and its pending bits (R343). -/
def State.msixRead (s : State) (o : Nat) : Word :=
  match regIx o 0 4096, regIx o 0x8000 32 with
  | some k, _ => s.msixWord k
  | none, some k => (span 0 64).foldl (fun (w : Word) j => w ||| putB j (s.host.msixPending.contains (64 * k + j))) 0
  | none, none => 0

/-- Coach command block (R237, R239, R240). -/
def State.coachRead (s : State) (o : Nat) : Word :=
  if o = 0x08 then s.coachRegs.arg
  else if o = 0x10 then s.coachRegs.status
  else if 0x1000 ≤ o ∧ o < 0x1000 + 0x100 * 48 then s.slotRead ((o - 0x1000) / 0x100) (o % 0x100)
  else match regIx o 0x4000 1152 with
    | some p => s.cellHitch p
    | none => 0

/-- Slice mailbox (R350). -/
def State.mbxRead (s : State) (o : Nat) : Word :=
  if o = 0x88 then s.host.mbxStatus
  else match regIx o 0 8, regIx o 0x40 8 with
    | some i, _ => tget 0 s.host.mbxCmd i
    | none, some i => tget 0 s.host.mbxResp i
    | none, none => 0

/-- BAR4 segments and HOST_STATUS (R346, R347). -/
def State.segRead (s : State) (o : Nat) : Word :=
  if o = 0x200 then s.host.status
  else match regIx o 0 64 with
    | some k => s.seg k
    | none => 0

/-- Stage control block (R145). -/
def State.stageRead (s : State) (o : Nat) : Word :=
  let g := s.stage
  match o with
  | 0x00 => BitVec.ofNat 64 g.frame
  | 0x08 => g.ttImage
  | 0x18 => g.ttSwap ||| putB 63 (s.tt (bfield g.ttSwap 50 6)).armed.isSome
  | 0x20 => s.ttStatus
  | 0x30 => g.ownMask
  | 0x38 => BitVec.ofNat 64 g.park
  | _ => 0

/-- Scheduling block (R414). -/
def State.schedRead (s : State) (o : Nat) : Word :=
  let x := s.sched
  if o = 0 then x.hyst
  else if o = 8 then x.promo
  else if o = 0x10 then x.status
  else match regIx o 0x100 16, regIx o 0x400 48, regIx o 0x800 16 with
    | some c, _, _ => tget 0x10000000000 x.classes c
    | none, some n, _ => tget 0 x.spillArea n
    | none, none, some r => tget 0 x.inherit r
    | none, none, none => 0

/-- Eight bytes of CARVE (R275). -/
def State.carveRead (s : State) (k0 : Nat) : Word := ofBytes 64 ((span k0 8).map s.chunkOwner)

/-- Memory system block (R275). -/
def State.memSysRead (s : State) (o : Nat) : Word :=
  if o = 0x2100 then put 0 (tget 0xFFFF s.llcWays 32).toNat
  else if o = 0x3000 then putB 0 s.wayConflict
  else match regIx o 0 200, regIx o 0x1000 (4 * s.lpGiB), regIx o 0x2000 32 with
    | some k, _, _ => s.carveRead (8 * k)
    | none, some k, _ => s.carveRead (1600 + 8 * k)
    | none, none, some q => put 0 (tget 0xFFFF s.llcWays q).toNat
    | none, none, none => 0

/-- Coherence block (R309). -/
def State.cohRead (s : State) (o : Nat) : Word :=
  let x := s.coh
  if o = 0 then put 24 x.predMode.toNat ||| put 0 x.hold.toNat
  else if o = 8 then put 32 x.retries.toNat ||| put 16 x.misses.toNat ||| put 8 x.discards.toNat ||| putB 3 x.strictOver
    ||| putB 2 x.syncBad ||| putB 1 x.syncBusy.isSome
  else match regIx o 0x100 48, regIx o 0x400 32 with
    | some n, _ => tget 0 x.syncPage n
    | none, some q => put 0 (tget 0 x.strict q).toNat
    | none, none => 0

/-- Translation block (R342). -/
def State.xltRead (s : State) (o : Nat) : Word :=
  let x := s.xlt
  match o with
  | 0x000 => x.aperture
  | 0x008 => put 48 x.abandons.toNat ||| put 32 x.latePrg.toNat ||| putB 0 (x.invalidations.any (·.itag.isNone))
  | 0x100 => x.acCtrl
  | 0x108 => x.acRingBase
  | 0x110 => put 0 x.acHead.toNat
  | 0x118 => put 0 x.acTail.toNat
  | 0x120 => put 32 x.acLost.toNat
  | _ => 0

/-- Jombitin block (R449). -/
def State.jbnRegRead (s : State) (o : Nat) : Word :=
  let j := s.jbn
  match o with
  | 0x000 => j.idReg
  | 0x008 => j.ctrl
  | 0x010 => j.routeBase
  | 0x018 => j.seqFm
  | 0x200 => j.drops
  | 0x208 => j.reqStatus
  | _ => match regIx o 0x100 9 with
    | some k => (s.jport k).reg
    | none => 0

/-- Stable block (R525). -/
def State.stableRead (s : State) (o : Nat) : Word :=
  let t := s.stable
  if o = 0x88 then t.sbxStatus
  else if o = 0x100 then BitVec.ofNat 64 t.lcState
  else if o = 0x108 then t.debugState
  else match regIx o 0 8, regIx o 0x40 8, regIx o 0x110 4 with
    | some i, _, _ => tget 0 t.sbxCmd i
    | none, some i, _ => tget 0 t.sbxResp i
    | none, none, some i => BitVec.ofNat 64 (bfield t.bootNonce (64 * i) 64)
    | none, none, none => match regIx o 0x200 32, regIx o 0x280 32, regIx o 0x300 32, regIx o 0x800 256 with
      | some q, _, _, _ => t.partSec q
      | none, some q, _, _ => tget 0 t.imports q
      | none, none, some q, _ => tget 0 t.partErr q
      | none, none, none, some k => (s.stall k).attr
      | none, none, none, none => 0

/-- Cells whose clocks have stopped (R585). -/
def State.stoppedCells (s : State) : Nat := if s.dbg.module then 1152 else (s.cells.filter (·.2.frozen)).length

/-- Debug block (R594): counters as the last snapshot left them (R591). -/
def State.debugRead (s : State) (o : Nat) : Word :=
  let d := s.dbg
  match o with
  | 0x08 => putB 63 d.module ||| put 52 d.lastCoach.toNat ||| put 0 s.stoppedCells
  | 0x18 => d.scanAddr
  | 0x20 => put 32 d.scanBytes.toNat ||| put 8 d.scanError.toNat
  | 0x108 => d.snapTick
  | _ => match regIx o 0x200 48, regIx o 0x20000 (8 * 128) with
    | some n, _ => tget 0 d.ctrExport n
    | none, some k => tget 0 d.globalSnap k
    | none, none =>
      let n := (o - 0x10000) / 0x100
      if 0x10000 ≤ o ∧ o < 0x10000 + 0x100 * 48 ∧ o % 8 = 0 ∧ o % 0x100 < 0x68 then tget 0 d.coachSnap (16 * n + o % 0x100 / 8) else 0

/-! Windows. -/

/-- CELL_HEALTH (R483). -/
def Cell.health (c : Cell) : Word :=
  put 48 c.ceCount.toNat ||| put 32 c.ueCount.toNat ||| putB 18 c.failed ||| put 16 c.failCause.toNat
    ||| c.badBanks.foldl (fun (w : Word) b => w ||| putB b true) 0

/-- A Hen's control block (R115). -/
def Hen.regRead (x : Hen) (o : Nat) : Word :=
  match o with
  | 0x00 => putB 2 x.softInt ||| putB 0 x.run
  | 0x08 => x.status
  | 0x10 => x.resetPc
  | 0x18 => x.mcause
  | 0x20 => x.mepc
  | 0x28 => x.mtval
  | _ => 0

/-- The cell window of a pcell (R15, R158, R483, R591): cell cycles are a free value. -/
def State.cellWinRead (s : State) (p o : Nat) : Word :=
  let c := s.cell p
  if o % 8 ≠ 0 then 0
  else if 0x400 ≤ o ∧ o < 0x800 then
    (if h : (o - 0x400) / 0x100 < 4 then (c.hens[(o - 0x400) / 0x100]).regRead (o % 0x100) else 0)
  else match o with
  | 0x000 => s.cellId p
  | 0x008 => s.cellClock p
  | 0x040 => c.ox.status
  | 0x048 => c.ox.fault
  | 0x058 => put 0 c.ox.doneCount.toNat
  | 0x060 => put 0 c.ox.seed.toNat
  | 0x068 => c.ox.busy
  | 0x200 => c.health
  | 0x208 => tget 0 s.errs.spFlip p
  | 0x210 => tget 0 s.errs.spFlipData p
  | 0x800 => c.drays[0].status
  | 0x808 => c.drays[0].fault
  | 0x840 => c.drays[1].status
  | 0x848 => c.drays[1].fault
  | 0xC00 => s.portStatus p
  | 0xC08 => put 48 c.rejects.toNat ||| put 32 c.retries.toNat
  | 0xC10 => c.hens[0].bell
  | 0xC18 => c.hens[1].bell
  | 0xC20 => c.hens[2].bell
  | 0xC28 => c.hens[3].bell
  | 0x1000 => Config.freeWord s.free
  | _ => match regIx o 0x100 16, regIx o 0x900 32, regIx o 0x1008 10 with
    | some b, _, _ => put 0 (c.bankOwner b).toNat ||| putB 8 (!(tget [] c.handover b).isEmpty)
    | none, some j, _ => tget 0 c.streamMap j
    | none, none, some k => tget 0 c.ctrs (k + 1)
    | none, none, none => 0

/-- A ring's registers (R198). -/
def Ring.regRead (r : Ring) (o : Nat) : Word :=
  match o with
  | 0x00 => r.base
  | 0x08 => r.cfg ||| putB 0 r.enabled
  | 0x10 => r.tailAddr
  | 0x18 => r.doneAddr
  | 0x20 => r.status
  | 0x28 => r.fault
  | _ => 0

/-- The window of a stack or of an LPDDR5X controller (R14, R198, R274, R484). -/
def State.ctlWinRead (s : State) (c o : Nat) : Word :=
  let x := s.engine c
  let m := s.mc c
  let e := s.errs
  match o with
  | 0x00000 => put 48 x.rxDiscards.toNat ||| putB 1 (decide (20 ≤ c)) ||| putB 0 x.ready
  | 0x00008 => putB 1 x.mapOverrun ||| putB 0 (!x.mapPending.isEmpty)
  | 0x10000 => s.mcStatus c
  | 0x10008 => m.missLast
  | 0x11000 => put 32 (tget 0 e.mcCe c).toNat ||| put 0 (tget 0 e.mcUe c).toNat
  | 0x11008 => s.scrubStat c
  | 0x11010 => tget 0 e.mcFlip c
  | 0x11018 => tget 0 e.mcFlipAddr c
  | _ =>
    if 0x1000 ≤ o ∧ o < 0x1000 + 0x40 * 48 then (x.ring ((o - 0x1000) / 0x40)).regRead (o % 0x40)
    else match regIx o 0x2000 (s.mapCount c), regIx o 0x10100 64, regIx o 0x10400 64 with
      | some k, _, _ => tget 0 x.map k
      | none, some k, _ => s.mcShareRead c k
      | none, none, some k => put 0 (tget 0 m.miss k).toNat
      | none, none, none => 0

/-! The whole of BAR0. -/

/-- The register block or window that a BAR0 offset lies in, and the offset in it. -/
inductive RegBlock where
  | boot | fault | msix | coach | mbx | seg | stage | sched | memSys | coh | xlt | jbn | power | stable | debug
  | cell (p : Nat)
  | ctl (c : Nat)
  | none
  deriving DecidableEq, Repr

def regBlock (off : Nat) : RegBlock × Nat :=
  if off % 8 ≠ 0 then (.none, 0)
  else if off < 0x4000 then (.boot, off)
  else if off < 0x5000 then (.fault, off - 0x4000)
  else if 0xF0000 ≤ off ∧ off < 0x100000 then (.msix, off - 0xF0000)
  else if 0x110000 ≤ off ∧ off < 0x120000 then (.coach, off - 0x110000)
  else if 0x120000 ≤ off ∧ off < 0x121000 then (.mbx, off - 0x120000)
  else if 0x130000 ≤ off ∧ off < 0x131000 then (.seg, off - 0x130000)
  else if 0x1C0000 ≤ off ∧ off < 0x1C1000 then (.stage, off - 0x1C0000)
  else if 0x200000 ≤ off ∧ off < 0x201000 then (.sched, off - 0x200000)
  else if 0x300000 ≤ off ∧ off < 0x340000 then (.memSys, off - 0x300000)
  else if 0x340000 ≤ off ∧ off < 0x380000 then (.coh, off - 0x340000)
  else if 0x380000 ≤ off ∧ off < 0x400000 then (.xlt, off - 0x380000)
  else if 0x400000 ≤ off ∧ off < 0x500000 then (.jbn, off - 0x400000)
  else if 0x500000 ≤ off ∧ off < 0x600000 then (.power, off - 0x500000)
  else if 0x600000 ≤ off ∧ off < 0x700000 then (.stable, off - 0x600000)
  else if 0x700000 ≤ off ∧ off < 0x800000 then (.debug, off - 0x700000)
  else if 0x1000000 ≤ off ∧ off < 0x2200000 then (.cell ((off - 0x1000000) / 0x4000), off % 0x4000)
  else if 0x3000000 ≤ off ∧ off < 0x3500000 then (.ctl ((off - 0x3000000) / 0x40000), off % 0x40000)
  else if 0x3600000 ≤ off ∧ off < 0x3E00000 then (.ctl (20 + (off - 0x3600000) / 0x40000), (off - 0x3600000) % 0x40000)
  else (.none, 0)

/-- What BAR0 reads at an offset. -/
def State.bar0Read (s : State) (off : Nat) : Word :=
  let (b, o) := regBlock off
  match b with
  | .boot => s.bootRead o
  | .fault => s.faultRead o
  | .msix => s.msixRead o
  | .coach => s.coachRead o
  | .mbx => s.mbxRead o
  | .seg => s.segRead o
  | .stage => s.stageRead o
  | .sched => s.schedRead o
  | .memSys => s.memSysRead o
  | .coh => s.cohRead o
  | .xlt => s.xltRead o
  | .jbn => s.jbnRegRead o
  | .power => s.pwrRead o
  | .stable => s.stableRead o
  | .debug => s.debugRead o
  | .cell p => s.cellWinRead p o
  | .ctl c => s.ctlWinRead c o
  | .none => 0

/-! What a read clears (R12: RC). -/

def State.faultClear (s : State) (o : Nat) : State :=
  let e := s.errs
  match o with
  | 0x018 => { s with errs := { e with fqLostCount := 0 } }
  | 0x020 => { s with errs := { e with fqPending := 0 } }
  | 0x058 => { s with errs := { e with errLostCount := 0 } }
  | 0x090 => { s with errs := { e with crashLost := 0 } }
  | _ => s

def State.jbnClear (s : State) (o : Nat) : State :=
  let j := s.jbn
  match o with
  | 0x200 => { s with jbn := { j with misrouted := 0, notMember := 0, ingressFull := 0, authDrops := 0 } }
  | 0x208 => { s with jbn := { j with timeouts := 0, reissues := 0, lateResp := 0, handoverLost := 0 } }
  | _ => s

def State.xltClear (s : State) (o : Nat) : State :=
  let x := s.xlt
  match o with
  | 0x008 => { s with xlt := { x with abandons := 0, latePrg := 0 } }
  | 0x120 => { s with xlt := { x with acLost := 0 } }
  | _ => s

/-- Bells of a cell's Hens, Dray drops, port counts and error counts; the free value of CTR_CYCLES is another next time. -/
def State.cellClear (s : State) (p o : Nat) : State :=
  let c := s.cell p
  let bell (h : HenIx) : State := s.setHen p h (s.hen p h).bellRead
  match o with
  | 0x200 => s.setCell p { c with ceCount := 0, ueCount := 0 }
  | 0x800 => s.setDray p 0 { s.dray p 0 with drops := 0 }
  | 0x840 => s.setDray p 1 { s.dray p 1 with drops := 0 }
  | 0xC08 => s.setCell p { c with rejects := 0, retries := 0 }
  | 0xC10 => bell 0
  | 0xC18 => bell 1
  | 0xC20 => bell 2
  | 0xC28 => bell 3
  | 0x1000 => { s with free := s.free + 1 }
  | _ => s

def State.ctlClear (s : State) (c o : Nat) : State :=
  let e := s.errs
  match o with
  | 0x00000 => s.setEngine c { s.engine c with rxDiscards := 0 }
  | 0x11000 => { s with errs := { e with mcCe := tset 0 e.mcCe c 0, mcUe := tset 0 e.mcUe c 0 } }
  | _ => match regIx o 0x10400 64 with
    | some k => s.setMc c { s.mc c with miss := tset 0 (s.mc c).miss k 0 }
    | none => s

/-- The state after a read of BAR0. -/
def State.bar0Clear (s : State) (off : Nat) : State :=
  let (b, o) := regBlock off
  match b with
  | .boot => if o = 0x118 then { s with harness := { s.harness with overwritten := 0 } } else s
  | .fault => s.faultClear o
  | .coach =>
    let n := (o - 0x1000) / 0x100
    if 0x1000 ≤ o ∧ o < 0x1000 + 0x100 * 48 ∧ o % 0x100 = 0x30 then s.setCoach n { s.coach n with staleDrops := 0, moveDrops := 0 } else s
  | .seg => if o = 0x200 then { s with host := { s.host with bar4Refused := 0, dbIgnored := 0 } } else s
  | .sched => if o = 0x10 then { s with sched := { s.sched with preempts := 0, misses := 0, inherits := 0, noSpill := 0 } } else s
  | .coh => if o = 8 then { s with coh := { s.coh with retries := 0, misses := 0, discards := 0 } } else s
  | .xlt => s.xltClear o
  | .jbn => s.jbnClear o
  | .cell p => s.cellClear p o
  | .ctl c => s.ctlClear c o
  | _ => s

/-- A read over PCIe of BAR0 (offsets below 2^32) or, at 2^32 and above, of BAR2: its value, and the state after. While the module is
stopped, BAR0 reads zero outside the debug block, and BAR2 is refused (R583). In the recovery state only the boot and log block
answers (R559). -/
def State.regRead (s : State) (off : Nat) : State :=
  let reply (v : Word) (s : State) : State := s.emit (.completion (bytesOf 8 v))
  if off ≥ 2 ^ 32 then
    (if s.dbg.module then s.emit .unsupported
     else reply (s.pageRead ((off - 2 ^ 32) / 4096) (off % 4096)) s)
  else if s.dbg.module && (regBlock off).1 != .debug then reply 0 s
  else reply (s.bar0Read off) (s.bar0Clear off)

/-- RC_REGISTER_READ (R12). -/
def execRcRegisterRead (off : Nat) (s : State) : Out :=
  if s.harness.recovery && !s.harness.down && (regBlock off).1 == .boot then .next (s.regRead off)
  else s.gate fun s => .next (s.regRead off)

end Sys2Proof.Machine
end

