-- ==== Sys2Proof/Machine/Debug.lean ====
section
/-! DEFINITION. Global stop, scan and counters (R580 to R594). -/
namespace Sys2Proof.Machine

/-- Invasive debug is on (R512). -/
def State.invasive (s : State) : Bool := s.stable.debugLevel == 2

/-! The global stop (R580 to R585). -/

/-- Pcells whose CELL_HITCH names a coach slot (R582). -/
def State.stopTargets (s : State) (n : Nat) : List Nat := (s.cells.filter fun e => e.2.slot.toNat == n).map (·.1)

/-- A cell's clock restarts: the flits in its FIFO go on (R582, R584). -/
def State.thawCell (s : State) (p : Nat) : State :=
  let c := s.cell p
  c.fifo.foldl (fun s e => s.accept p e.2.coach.toNat e.1 e.2) (s.setCell p { c with frozen := false, fifo := [] })

/-- A stop word takes effect (R580): without VALID, or with a reserved ACTION or slot, it does nothing. -/
def State.stopWord (s : State) (w : BitVec 16) : State :=
  let n := bfield w 0 6
  let module := w.getLsbD 14
  let s := if w.getLsbD 15 && !module && decide (n < 48) then { s with dbg := { s.dbg with lastCoach := BitVec.ofNat 6 n } } else s
  if !w.getLsbD 15 then s
  else match bfield w 12 2 with
  | 1 =>
    if module then { s with dbg := { s.dbg with module := true } }
    else if n < 48 then (s.stopTargets n).foldl (fun s p => s.setCell p { s.cell p with frozen := true }) s
    else s
  | 2 =>
    if module then s.resumeModule
    else if n < 48 then ((s.stopTargets n).filter fun p => (s.cell p).frozen).foldl (fun s p => s.thawCell p) s
    else s
  | _ => s

/-- A write of GSTOP_CMD (R581): only at INVASIVE, and logged. -/
def State.gstopWrite (s : State) (origin : Nat) (v : Word) : State :=
  if !s.invasive then s
  else (s.log 0x16 origin 0x3F 63 0x700000 v).stopWord (BitVec.ofNat 16 v.toNat)

/-- A stop word with VALID set and an ACTION. -/
def withAction (a : Nat) (w : BitVec 16) : BitVec 16 := (w &&& 0x4FFF) ||| 0x8000 ||| BitVec.ofNat 16 (a * 4096)

/-- STOP (R582, R583): a write of GSTOP_CMD over JTAG; over PCIe it is a register write. -/
def execStop (w : BitVec 16) (s : State) : Out := .next (s.gstopWrite oDebug ((withAction 1 w).zeroExtend 64))

/-- RESUME (R584). -/
def execResume (w : BitVec 16) (s : State) : Out := .next (s.gstopWrite oDebug ((withAction 2 w).zeroExtend 64))

/-! Scan-out (R586 to R589). -/

/-- A number written out. -/
def Num.plain : Num → List Byte
  | .nan => natBytes 1 0
  | .inf neg => natBytes 1 1 ++ natBytes 1 (if neg then 1 else 0)
  | .fin neg m e => natBytes 1 2 ++ natBytes 1 (if neg then 1 else 0) ++ natBytes 8 m ++ bytesOf 4 (BitVec.ofInt 32 e)

/-- What the Ox state image holds (R44), written out. -/
def Ox.plain (o : Ox) : List Byte :=
  let tile (t : Option Tile) : List Byte := match t with
    | none => natBytes 1 0
    | some t => natBytes 1 1 ++ bytesOf 1 t.fmt ++ natBytes 1 (if t.sparse then 1 else 0) ++ natBytes 2 t.kc ++ natBytes 2 t.ncols
        ++ t.cols.flatMap fun c => natBytes 2 c.length ++ c.flatMap fun e => natBytes 2 e.1 ++ e.2.plain
  (span 0 8192).flatMap (fun k => bytesOf 4 (tget 0 o.acc k)) ++ tile o.wb0 ++ tile o.wb1
    ++ (span 0 8).flatMap (fun k => bytesOf 32 (tget 0 o.cbk k)) ++ (span 0 4).flatMap (fun k => bytesOf 288 (tget 0 o.tbl k))
    ++ (o.inflight.map (·.raw) ++ o.queue).flatMap (bytesOf 32) ++ bytesOf 4 o.doneCount ++ bytesOf 4 o.seed

def oxImageBytes : Nat := 73728
def Ox.imageBytes (o : Ox) : List Byte := (Config.oxImage o.plain ++ natBytes oxImageBytes 0).take oxImageBytes

/-- A section: its header, with the number of uncorrectable words, and its data (R587). -/
def scanSection (sec p ue : Nat) (data : List Byte) : List Byte :=
  natBytes 2 sec ++ natBytes 2 p ++ natBytes 4 data.length ++ natBytes 4 ue ++ natBytes 4 0 ++ data

/-- Uncorrectable words of a pcell's scratchpad in a range. -/
def State.scanUe (s : State) (p a n : Nat) : Nat :=
  (s.errs.spBad.filter fun e => e.1 / 2 ^ 18 == p && e.2 == 2 && decide (a ≤ e.1 % 2 ^ 18 * 8) && decide (e.1 % 2 ^ 18 * 8 < a + n)).length

/-- The sections that a scan of a pcell gives. -/
def State.scanBytes (s : State) (p mask kib : Nat) : List Byte :=
  let c := s.cell p
  let on (i : Nat) (l : List Byte) : List Byte := if mask.testBit i then l else []
  on 0 (scanSection 1 p 0 ((span 0 512).flatMap fun k => bytesOf 8 (s.cellWinRead p (8 * k))))
    ++ on 1 (c.hens.toList.flatMap fun x => scanSection 2 p 0 (x.crashBytes s.tick c.ox.halt))
    ++ on 2 (scanSection 3 p 0 c.ox.imageBytes)
    ++ on 3 (scanSection 4 p 0 (c.drays.toList.flatMap fun y => ((y.queue.map (·.raw)) ++ List.replicate 16 0).take 16 |>.flatMap (bytesOf 64)))
    ++ on 4 ((span 0 16).flatMap fun b => scanSection 5 p (s.scanUe p (b * 131072) (kib * 1024)) (s.spRead p (b * 131072) (kib * 1024)))
    ++ on 5 (scanSection 6 p 0 ((span 0 512).flatMap fun k => bytesOf 8 (s.cellWinRead p (0x1000 + 8 * k))))

/-- n bytes of device memory in chunks of the system. -/
def State.systemRange (s : State) (a n : Nat) : Bool :=
  n == 0 || (span (a / 2 ^ 30) ((a + n - 1) / 2 ^ 30 - a / 2 ^ 30 + 1)).all fun k =>
    let x := max a (k * 2 ^ 30)
    s.holdsMemory x && s.ownerOf x == 0x3E

/-- Error of a scan: 1 RUNNING, 2 LEVEL, 3 RANGE, in this order. -/
def State.scanCheck (s : State) (jtag : Bool) (v : Word) (n : Nat) : Nat :=
  let p := bfield v 0 11
  let kib := bfield v 32 8
  if p < 1152 && s.unfrozen p then 1
  else if !s.invasive then 2
  else if p ≥ 1152 || (bfield v 16 6).testBit 4 && (decide (kib < 4) || decide (kib > 128) || kib % 4 != 0)
      || !jtag && !s.systemRange s.dbg.scanAddr.toNat n then 3
  else 0

/-- A write of SCAN_CMD with WRITE clear. -/
def State.scanWrite (s : State) (jtag : Bool) (v : Word) : State :=
  let kib := bfield v 32 8
  let bytes := s.scanBytes (bfield v 0 11) (bfield v 16 6) kib
  let e := s.scanCheck jtag v bytes.length
  let s := { s with dbg := { s.dbg with scanError := BitVec.ofNat 8 e, scanBytes := if e = 0 then BitVec.ofNat 32 bytes.length else 0 } }
  if e ≠ 0 then s
  else
    let s := { s with free := s.free + 1 }
    if jtag then { s with dbg := { s.dbg with scanData := bytes } } else s.devWrite s.dbg.scanAddr.toNat bytes

/-- SCAN (R586): over PCIe the output goes to SCAN_ADDR, over JTAG to the scan data register. -/
def execScan (jtag : Bool) (v : Word) (s : State) : Out :=
  let v := v &&& ~~~(1#64 <<< 63)
  if jtag then .next (if s.harness.down then s else s.scanWrite true v) else s.gate fun s => .next (s.scanWrite false v)

/-! Scan-in (R589). -/

/-- Eight bytes of a section's data. -/
def word64 (bs : List Byte) (o : Nat) : Word := BitVec.ofNat 64 (sliceNat bs o 8)

/-- CELL_REGS written back: the fields that the registers show and that hold state of the cell; reserved bits stay zero (R12), and a
bank keeps its owner where the code is the reserved one. -/
def State.scanInRegs (s : State) (p : Nat) (bs : List Byte) : State :=
  let w (o : Nat) : Word := word64 bs o
  let c := s.cell p
  let hen (h : Nat) (x : Hen) : Hen :=
    let b := 0x400 + 0x100 * h
    let bell := w (0xC10 + 8 * h)
    { x with softInt := (w b).getLsbD 2, run := (w b).getLsbD 0, resetPc := w (b + 0x10) &&& 0x000FFFFFFFFFFFFE, mcause := w (b + 0x18), mepc := w (b + 0x20)
             mtval := w (b + 0x28), mmode := (w (b + 8)).getLsbD 8, lastYield := BitVec.ofNat 12 (bfield (w (b + 8)) 32 12)
             bellOverrun := bell.getLsbD 49, bellPending := bell.getLsbD 48, bellPayload := BitVec.ofNat 48 (bfield bell 0 48) }
  let dray (d : Nat) (y : Dray) : Dray :=
    let st := w (0x800 + 0x40 * d)
    { y with drops := BitVec.ofNat 16 (bfield st 48 16), halt := st.getLsbD 1, fault := w (0x808 + 0x40 * d) &&& 0xFFFFFF0000000001 }
  let s := s.setCell p { c with
    ox := { c.ox with
      halt := (w 0x40).getLsbD 1, retiredTag := BitVec.ofNat 16 (bfield (w 0x40) 48 16), fault := w 0x48 &&& 0xFFFFFFFFFFF00001
      doneCount := BitVec.ofNat 32 (w 0x58).toNat, seed := BitVec.ofNat 32 (w 0x60).toNat, busy := w 0x68 }
    hens := #v[hen 0 c.hens[0], hen 1 c.hens[1], hen 2 c.hens[2], hen 3 c.hens[3]]
    drays := #v[dray 0 c.drays[0], dray 1 c.drays[1]]
    owner := (span 0 16).foldl (fun m b => tset 1 m b (let o := BitVec.ofNat 3 (w (0x100 + 8 * b)).toNat; if o = 7 then c.bankOwner b else o)) []
    streamMap := (span 0 32).foldl (fun m j => tset 0 m j (mapWord j (w (0x900 + 8 * j)))) []
    rejects := BitVec.ofNat 16 (bfield (w 0xC08) 48 16), retries := BitVec.ofNat 16 (bfield (w 0xC08) 32 16)
    ceCount := BitVec.ofNat 16 (bfield (w 0x200) 48 16), ueCount := BitVec.ofNat 16 (bfield (w 0x200) 32 16)
    failed := (w 0x200).getLsbD 18, failCause := BitVec.ofNat 2 (bfield (w 0x200) 16 2), badBanks := bitsSet (bfield (w 0x200) 0 16) 16 }
  { s with errs := { s.errs with spFlip := tset 0 s.errs.spFlip p (w 0x208 &&& 0xFF1F), spFlipData := tset 0 s.errs.spFlipData p (w 0x210) } }

/-- A Hen's registers written back. -/
def Hen.scanIn (x : Hen) (bs : List Byte) : Hen :=
  let w (o : Nat) : Word := word64 bs o
  { x with
    x := (span 1 31).foldl (fun m i => tset 0 m i (w (8 * i))) [], f := (span 0 32).foldl (fun m i => tset 0 m i (w (0x100 + 8 * i))) []
    v := (span 0 32).foldl (fun m i => tset 0 m i (BitVec.ofNat 512 (sliceNat bs (0x200 + 64 * i) 64))) []
    pc := w 0xA00 &&& ~~~1#64, mstatus := (x.mstatusWrite (w 0xA08)).mstatus, mcause := w 0xA10, mepc := w 0xA18 &&& ~~~1#64
    mtval := w 0xA20, mie := w 0xA28 &&& mieMask, vl := w 0xA38, vtype := w 0xA40, vstart := w 0xA48 &&& 0x1FF
    fcsr := BitVec.ofNat 8 (w 0xA50).toNat, lastYield := BitVec.ofNat 12 (bfield (w 0xA58) 16 12)
    yieldPend := (w 0xA58).getLsbD 0 }

/-- A number that a piece of an Ox image holds. -/
def pieceNum (x : BitVec 2304) : Num :=
  match bfield x 16 2 with
  | 0 => .nan
  | 1 => .inf (x.getLsbD 18)
  | _ => .fin (x.getLsbD 18) (bfield x 32 64) (BitVec.ofNat 32 (bfield x 96 32)).toInt

/-- A weight buffer that an Ox image holds, from piece k on: its shape and its columns, each a run of placed numbers. -/
def pieceTile (bs : List Byte) (k : Nat) : Option Tile :=
  let h := Config.oxPiece bs k
  let n := bfield h 32 10
  let col (c : Nat) : List (Nat × Num) :=
    (span 0 (bfield (Config.oxPiece bs (k + 1 + c)) 0 10)).map fun i =>
      let x := Config.oxPiece bs (k + 1024 * (c + 1) + i)
      (bfield x 0 16, pieceNum x)
  if h.getLsbD 0 then
    some { fmt := BitVec.ofNat 4 (bfield h 4 4), sparse := h.getLsbD 1, kc := bfield h 16 16, ncols := n, cols := (span 0 n).map col }
  else none

/-- An Ox image written back; its layout is the Ox's own. -/
def Ox.scanIn (o : Ox) (bs : List Byte) : Ox :=
  let piece (k : Nat) : BitVec 2304 := Config.oxPiece bs k
  { o with
    acc := (span 0 8192).foldl (fun m k => tset 0 m k ((piece k).truncate 32)) []
    cbk := (span 0 8).foldl (fun m k => tset 0 m k ((piece (8192 + k)).truncate 256)) []
    tbl := (span 0 4).foldl (fun m k => tset 0 m k (piece (8200 + k))) []
    doneCount := (piece 8204).truncate 32, seed := (piece 8205).truncate 32, wb0 := pieceTile bs 10000, wb1 := pieceTile bs 2000000
    queue := (span 0 (bfield (piece 8206) 0 7)).map (fun k => (piece (8207 + k)).truncate 256), inflight := [] }

/-- A Dray's queue written back: 16 entries, an empty one all zero. -/
def Dray.scanIn (y : Dray) (bs : List Byte) : Dray :=
  let l : List Line := (span 0 16).map fun k => BitVec.ofNat 512 (sliceNat bs (64 * k) 64)
  { y with queue := (l.filter (· != 0)).map fun r => { raw := r, umode := false, pasid := 0 } }

/-- One section written into a pcell; k counts the earlier sections of its number. -/
def State.scanInSection (s : State) (p sec k : Nat) (bs : List Byte) : State :=
  let c := s.cell p
  match sec with
  | 1 => s.scanInRegs p bs
  | 2 => if h : k < 4 then s.setHen p ⟨k, h⟩ ((s.hen p ⟨k, h⟩).scanIn bs) else s
  | 3 => s.setOx p (c.ox.scanIn bs)
  | 4 => s.setCell p { c with drays := #v[c.drays[0].scanIn bs, c.drays[1].scanIn (bs.drop 1024)] }
  | 5 => if k < 16 then s.spWrite p (k * 131072) (bs.take 131072) else s
  | 6 => s.setCell p { c with ctrs := (span 1 10).foldl (fun m i => tset 0 m i (word64 bs (8 * i))) [] }
  | _ => s

/-- The sections of a scan-in, in order. -/
def State.scanInAll (s : State) (p : Nat) : Nat → List Nat → List Byte → State
  | 0, _, _ => s
  | f + 1, seen, bs =>
    if bs.length < 16 then s
    else
      let sec := sliceNat bs 0 2
      let n := sliceNat bs 4 4
      (s.scanInSection p sec (seen.filter (· == sec)).length (sliceBytes bs 16 n)).scanInAll p f (sec :: seen) (bs.drop (16 + n))

/-- SCAN_IN (R589): accepted only over JTAG, at INVASIVE, with the module stopped. -/
def execScanIn (jtag : Bool) (v : Word) (data : List Byte) (s : State) : Out :=
  let p := bfield v 0 11
  if jtag && s.invasive && s.dbg.module && decide (p < 1152) then .next (s.scanInAll p 32 [] data) else .next s

/-! Counters (R590 to R593). -/

/-- A write of CTR_SNAP (R591). -/
def State.ctrSnapWrite (s : State) (v : Word) : State :=
  let d := s.dbg
  if v.getLsbD 0 then
    { s with dbg := { d with
        coachSnap := d.coachCtr.filter fun e => decide (e.1 < 768), globalSnap := d.globalCtr, snapTick := BitVec.ofNat 64 s.tick } }
  else s

/-- CTR_SNAP (R591). -/
def execCtrSnap (v : Word) (s : State) : Out := s.gate fun s => .next (s.ctrSnapWrite v)

/-- A write of CTR_EXPORT_n (R593). -/
def State.ctrExportWrite (s : State) (n : Nat) (v : Word) : State :=
  let a := bfield v 7 45 * 128
  if s.partOf n < 32 && s.holdsMemory a && s.ownerOf a == s.partOf n then
    { s with dbg := { s.dbg with ctrExport := tset 0 s.dbg.ctrExport n (v &&& 0x000FFFFFFFFFFF81) } }
  else s

/-- CTR_EXPORT_WRITE (R593). -/
def execCtrExportWrite (n : Slot) (v : Word) (s : State) : Out := s.gate fun s => .next (s.ctrExportWrite n v)

/-- The 128 bytes of an export: the tick, and the 13 coach counters. -/
def State.exportBytes (s : State) (n : Nat) : List Byte :=
  natBytes 8 s.tick ++ (span 0 13).flatMap (fun i => bytesOf 8 (tget 0 s.dbg.coachCtr (16 * n + i))) ++ natBytes 16 0

/-- COUNTER_EXPORT (R593): once every 100,000 ticks while enabled. -/
def execCounterExport (n : Slot) (s : State) : Out := s.onModule fun s =>
  let d := s.dbg
  let r := tget 0 d.ctrExport n
  let last := tget 0 d.exportAt n
  if !r.getLsbD 0 || (last != 0 && decide (s.tick + 1 < last + 100000)) then .next s
  else
    let s := s.devWrite (bfield r 7 45 * 128) (s.exportBytes n)
    .next { s with dbg := { s.dbg with exportAt := tset 0 s.dbg.exportAt n (s.tick + 1) } }

end Sys2Proof.Machine
end

