-- ==== Sys2Proof/Machine/HenEval.lean ====
section
/-! DEFINITION. What the scalar operations of a Hen compute: integers, comparisons, floating point on encodings (R80, R84). -/
namespace Sys2Proof.Machine

/-! Integers (RV64I, M, Zba, Zbb, Zicond). -/

def toI (v : Word) : Int := v.toInt
def ofI (v : Int) : Word := BitVec.ofInt 64 v
/-- The low 32 bits, signed, and a 32-bit result sign-extended. -/
def toI32 (v : Word) : Int := (v.setWidth 32).toInt
def low32 (v : Word) : Nat := v.toNat % 2 ^ 32
def ofW (v : Nat) : Word := sext 32 v
def ofIW (v : Int) : Word := (BitVec.ofInt 32 v).signExtend 64

/-- DIV and REM of RISC-V: a zero divisor gives -1 and the dividend, the signed overflow the dividend and 0. -/
def divS (a b : Int) : Int := if b = 0 then -1 else a.tdiv b
def remS (a b : Int) : Int := if b = 0 then a else a.tmod b

def aluEval (o : AluOp) (a b : Word) : Word :=
  let n6 := b.toNat % 64
  let n5 := b.toNat % 32
  match o with
  | .add => a + b
  | .sub => a - b
  | .sll => a <<< n6
  | .slt => if toI a < toI b then 1 else 0
  | .sltu => if a.toNat < b.toNat then 1 else 0
  | .xor => a ^^^ b
  | .srl => a >>> n6
  | .sra => a.sshiftRight n6
  | .or => a ||| b
  | .and => a &&& b
  | .mul => a * b
  | .mulh => ofI (toI a * toI b / 2 ^ 64)
  | .mulhsu => ofI (toI a * (b.toNat : Int) / 2 ^ 64)
  | .mulhu => BitVec.ofNat 64 (a.toNat * b.toNat / 2 ^ 64)
  | .div => ofI (divS (toI a) (toI b))
  | .divu => if b = 0 then ~~~0#64 else BitVec.ofNat 64 (a.toNat / b.toNat)
  | .rem => ofI (remS (toI a) (toI b))
  | .remu => if b = 0 then a else BitVec.ofNat 64 (a.toNat % b.toNat)
  | .addw => ofW (a + b).toNat
  | .subw => ofW (a - b).toNat
  | .sllw => ofW (low32 a * 2 ^ n5)
  | .srlw => ofW (low32 a / 2 ^ n5)
  | .sraw => ofIW (toI32 a / 2 ^ n5)
  | .mulw => ofW (a * b).toNat
  | .divw => ofIW (divS (toI32 a) (toI32 b))
  | .divuw => if low32 b = 0 then ~~~0#64 else ofW (low32 a / low32 b)
  | .remw => ofIW (remS (toI32 a) (toI32 b))
  | .remuw => if low32 b = 0 then ofW (low32 a) else ofW (low32 a % low32 b)
  | .adduw => b + BitVec.ofNat 64 (low32 a)
  | .sh1add => b + a <<< 1
  | .sh2add => b + a <<< 2
  | .sh3add => b + a <<< 3
  | .sh1adduw => b + BitVec.ofNat 64 (low32 a * 2)
  | .sh2adduw => b + BitVec.ofNat 64 (low32 a * 4)
  | .sh3adduw => b + BitVec.ofNat 64 (low32 a * 8)
  | .slliuw => BitVec.ofNat 64 (low32 a * 2 ^ n6)
  | .andn => a &&& ~~~b
  | .orn => a ||| ~~~b
  | .xnor => ~~~(a ^^^ b)
  | .min => if toI a < toI b then a else b
  | .minu => if a.toNat < b.toNat then a else b
  | .max => if toI a < toI b then b else a
  | .maxu => if a.toNat < b.toNat then b else a
  | .rol => a.rotateLeft n6
  | .ror => a.rotateRight n6
  | .rolw => ((a.setWidth 32).rotateLeft n5).signExtend 64
  | .rorw => ((a.setWidth 32).rotateRight n5).signExtend 64
  | .czeroEqz => if b = 0 then 0 else a
  | .czeroNez => if b = 0 then a else 0

/-- Leading zeros of a number of n bits. -/
def clzN (n v : Nat) : Nat := if v = 0 then n else n - 1 - Nat.log2 v
def ctzN : Nat → Nat → Nat
  | 0, _ => 0
  | n + 1, v => if v % 2 = 1 then 0 else 1 + ctzN n (v / 2)

def unEval (o : UnOp) (a : Word) : Word :=
  match o with
  | .clz => BitVec.ofNat 64 (clzN 64 a.toNat)
  | .ctz => BitVec.ofNat 64 (ctzN 64 a.toNat)
  | .cpop => BitVec.ofNat 64 (popcount 64 a.toNat)
  | .clzw => BitVec.ofNat 64 (clzN 32 (low32 a))
  | .ctzw => BitVec.ofNat 64 (ctzN 32 (low32 a))
  | .cpopw => BitVec.ofNat 64 (popcount 32 (low32 a))
  | .sextb => sext 8 a.toNat
  | .sexth => sext 16 a.toNat
  | .zexth => BitVec.ofNat 64 (a.toNat % 65536)
  | .rev8 => ofBytes 64 (bytesOf 8 a).reverse
  | .orcb => ofBytes 64 ((bytesOf 8 a).map fun x => if x = 0 then 0 else 0xFF)

def brEval (o : BrOp) (a b : Word) : Bool :=
  match o with
  | .eq => a == b
  | .ne => a != b
  | .lt => decide (toI a < toI b)
  | .ge => decide (toI b ≤ toI a)
  | .ltu => decide (a.toNat < b.toNat)
  | .geu => decide (b.toNat ≤ a.toNat)

/-! Floating point (F, D, Zfh, Zfbfmin). -/

/-- The sum under a rounding mode: an exact zero of opposite terms is negative when rounding down. -/
def addRound (mode : Rounding) (a b : Num) : Num := a.addWith (mode == .rdn) b

/-- A two-operand operation on encodings. -/
def fpOp (f : FloatFmt) (o : FpOp) (mode : Rounding) (a b : Nat) : Flagged :=
  let x := Num.decode f a
  let y := Num.decode f b
  let snan := isSnan f a || isSnan f b
  let arith (n : Num) (dz : Bool) : Flagged :=
    let (v, fl) := roundFp f mode n
    (v, fl ||| (if dz then flagDZ else 0) ||| invalidIf (snan || (n.isNan && !x.isNan && !y.isNan)))
  let sgn (neg : Bool) : Flagged := (signed f neg (a % 2 ^ f.mag), 0)
  let neg (v : Nat) : Bool := field v f.mag 1 == 1
  match o with
  | .add => arith (addRound mode x y) false
  | .sub => arith (addRound mode x y.flip) false
  | .mul => arith (x.mul y) false
  | .div => arith (Num.div (f.mb + 2) x y)
      (match x, y with
       | .fin _ m _, .fin _ 0 _ => decide (m ≠ 0)
       | _, _ => false)
  | .min =>
    (if x.isNan && y.isNan then canonNan f else if x.isNan then b else if y.isNan then a
     else if x.lt y then a else if y.lt x then b else if neg a then a else b, invalidIf snan)
  | .max =>
    (if x.isNan && y.isNan then canonNan f else if x.isNan then b else if y.isNan then a
     else if x.lt y then b else if y.lt x then a else if neg a then b else a, invalidIf snan)
  | .sgnj => sgn (neg b)
  | .sgnjn => sgn (!neg b)
  | .sgnjx => sgn (neg a != neg b)

/-- ⌊√v⌋, bit by bit from bit k down. -/
def isqrtFrom (v : Nat) : Nat → Nat → Nat
  | 0, r => if (r + 1) * (r + 1) ≤ v then r + 1 else r
  | k + 1, r => isqrtFrom v k (if (r + 2 ^ (k + 1)) * (r + 2 ^ (k + 1)) ≤ v then r + 2 ^ (k + 1) else r)
def isqrt (v : Nat) : Nat := isqrtFrom v (Nat.log2 v / 2 + 1) 0

/-- The square root, exact but for a last bit that stands for any remainder. -/
def sqrtNum (n : Nat) : Num → Num
  | .nan => .nan
  | .inf neg => if neg then .nan else .inf false
  | .fin neg m e =>
    if m = 0 then .fin neg 0 0
    else if neg then .nan
    else
      let sh := 2 * n + 4 + (if (e - (2 * n + 4 : Nat)) % 2 = 0 then 0 else 1)
      let v := m * 2 ^ sh
      let r := isqrt v
      .fin false (2 * r + (if r * r = v then 0 else 1)) ((e - sh) / 2 - 1)

def fpSqrt (f : FloatFmt) (mode : Rounding) (a : Nat) : Flagged :=
  let x := Num.decode f a
  let n := sqrtNum (f.mb + 2) x
  let (v, fl) := roundFp f mode n
  (v, fl ||| invalidIf (isSnan f a || (n.isNan && !x.isNan)))

def fpFma (f : FloatFmt) (negProd negAdd : Bool) (mode : Rounding) (a b c : Nat) : Flagged :=
  let x := Num.decode f a
  let y := Num.decode f b
  let z := Num.decode f c
  let pr := if negProd then (x.mul y).flip else x.mul y
  let n := addRound mode pr (if negAdd then z.flip else z)
  let (v, fl) := roundFp f mode n
  let badProduct := pr.isNan && !x.isNan && !y.isNan
  (v, fl ||| invalidIf (isSnan f a || isSnan f b || isSnan f c || badProduct || (n.isNan && !pr.isNan && !z.isNan)))

def fpCmp (f : FloatFmt) (o : FpCmp) (a b : Nat) : Bool × BitVec 5 :=
  let x := Num.decode f a
  let y := Num.decode f b
  let quiet := isSnan f a || isSnan f b
  let any := x.isNan || y.isNan
  match o with
  | .eq => (x.eqv y, invalidIf quiet)
  | .lt => (x.lt y, invalidIf any)
  | .le => (x.lt y || x.eqv y, invalidIf any)

/-- FCLASS: the ten classes. -/
def fpClass (f : FloatFmt) (a : Nat) : Nat :=
  let neg := field a f.mag 1 == 1
  match Num.decode f a with
  | .nan => if isSnan f a then 2 ^ 8 else 2 ^ 9
  | .inf n => if n then 2 ^ 0 else 2 ^ 7
  | .fin _ m _ =>
    if m = 0 then (if neg then 2 ^ 3 else 2 ^ 4)
    else if m < 2 ^ f.mb then (if neg then 2 ^ 2 else 2 ^ 5)
    else (if neg then 2 ^ 1 else 2 ^ 6)

/-- FCVT to an integer of n bits: saturated with NV out of range, NX where inexact. -/
def fpToInt (f : FloatFmt) (n : Nat) (uns : Bool) (mode : Rounding) (a : Nat) : Int × BitVec 5 :=
  let lo : Int := if uns then 0 else -(2 ^ (n - 1) : Nat)
  let hi : Int := if uns then (2 ^ n : Nat) - 1 else (2 ^ (n - 1) : Nat) - 1
  match Num.decode f a with
  | .nan => (hi, flagNV)
  | .inf neg => (if neg then lo else hi, flagNV)
  | .fin neg m e =>
    let v := roundInt mode neg m e
    if v < lo then (lo, flagNV) else if hi < v then (hi, flagNV)
    else (v, if e < 0 ∧ m % 2 ^ (-e).toNat ≠ 0 then flagNX else 0)

def fpOfInt (f : FloatFmt) (mode : Rounding) (v : Int) : Flagged := roundFp f mode (.fin (decide (v < 0)) v.natAbs 0)

def fpConvert (dst src : FloatFmt) (mode : Rounding) (a : Nat) : Flagged :=
  let (v, fl) := roundFp dst mode (Num.decode src a)
  (v, fl ||| invalidIf (isSnan src a))

/-- Zfbfmin converts only between BF16 and FP32; all other operations on BF16 are illegal. -/
def fpArith : FpFmt → Bool
  | .bf16 => false
  | _ => true
def fpConverts (dst src : FpFmt) : Bool :=
  match dst, src with
  | .bf16, a => a == .s
  | a, .bf16 => a == .s
  | a, b => a != b

end Sys2Proof.Machine
end

