-- ==== Sys2Proof/Machine/HenVec.lean ====
section
/-! DEFINITION. The vector unit of a Hen (V 1.0 with VLEN 512 and ELEN 64, R80): vset, register groups, masks and the loop over
elements. -/
namespace Sys2Proof.Machine

/-! vset. -/

/-- VLMAX of a vtype value: none where it is not supported (SEW 8 to 64, LMUL 1/8 to 8, SEW at most LMUL × ELEN). -/
def vlmaxOf (vt : Nat) : Option Nat :=
  let sew := field vt 3 3
  let lm := field vt 0 3
  if vt ≥ 256 ∨ sew > 3 ∨ lm = 4 then none
  else if lm < 4 then some (64 / 2 ^ sew * 2 ^ lm)
  else if sew + (8 - lm) ≤ 3 then some (64 / 2 ^ sew / 2 ^ (8 - lm))
  else none

/-- The AVL of vsetvli and vsetvl: none keeps vl. -/
def Hen.avlOf (x : Hen) (rd rs1 : Reg) : Option Nat :=
  if rs1 ≠ 0 then some (x.getX rs1).toNat else if rd ≠ 0 then some (2 ^ 64 - 1) else none

/-- vl from AVL and VLMAX (V 1.0): between VLMAX and twice VLMAX any value from ⌈AVL / 2⌉ to VLMAX. -/
def vlOf (avl vlmax : Nat) : Nat :=
  if avl ≤ vlmax then avl
  else if avl ≥ 2 * vlmax then vlmax
  else vlmax - Config.vlChoice avl vlmax % (vlmax - ceilDiv avl 2 + 1)

/-- vsetvli, vsetivli, vsetvl: an unsupported vtype sets vill and clears vl; so does keeping vl under another VLMAX. -/
def Hen.vset (x : Hen) (rd : Reg) (avl : Option Nat) (vt : Nat) : Hen :=
  let bad : Hen := { x with vtype := 0x8000000000000000, vl := 0, vstart := 0 }.setX rd 0
  match vlmaxOf vt with
  | none => { bad with mstatus := x.mstatus ||| 0x600 }
  | some vlmax =>
    let go (n : Nat) : Hen :=
      { (x.setX rd (BitVec.ofNat 64 n)) with
        vtype := BitVec.ofNat 64 vt, vl := BitVec.ofNat 64 n, vstart := 0, mstatus := x.mstatus ||| 0x600 }
    match avl with
    | some a => go (vlOf a vlmax)
    | none => if !x.vill && vlmaxOf x.vtype.toNat == some vlmax then go x.vl.toNat else bad

/-! Vector instructions: fields, register groups, masks, the loop over elements. -/

/-- The fields of an OP-V word: funct6, funct3, vs2, the field of vs1, rs1 or the immediate, vd, and vm. -/
structure VecWord where
  f6 : Nat
  f3 : Nat
  vs2 : Nat
  s1 : Nat
  vd : Nat
  vm : Bool
  deriving DecidableEq, Repr

def vecWord (w : BitVec 32) : VecWord :=
  { f6 := bfield w 26 6, f3 := bfield w 12 3, vs2 := bfield w 20 5, s1 := bfield w 15 5, vd := bfield w 7 5, vm := w.getLsbD 25 }

/-- A register group: first register, element width in bits (1 for a mask), log2 of its registers. -/
structure VecGroup where
  r : Nat
  eew : Nat
  l : Int
  deriving DecidableEq, Repr

def VecGroup.regs (g : VecGroup) : Nat := if g.eew = 1 then 1 else 2 ^ g.l.toNat

/-- The group is one that V 1.0 has: its first register is a multiple of its size. -/
def VecGroup.ok (g : VecGroup) : Bool :=
  g.eew == 1 || (decide (8 ≤ g.eew) && decide (g.eew ≤ 64) && decide (-3 ≤ g.l) && decide (g.l ≤ 3) && g.r % g.regs == 0)

def VecGroup.meets (a b : VecGroup) : Bool := decide (a.r < b.r + b.regs) && decide (b.r < a.r + a.regs)

/-- A destination may overlap a source of its own width, a wider source in its lowest part, a narrower one in its own highest part. -/
def VecGroup.into (d s : VecGroup) : Bool :=
  !d.meets s || d.eew == s.eew
    || (if d.eew < s.eew then d.r == s.r else decide (0 ≤ s.l) && d.r + d.regs == s.r + s.regs)

/-- Sources, with v0 of a masked instruction, of different widths do not overlap. -/
def vecSources (vm : Bool) (srcs : List VecGroup) : Bool :=
  let all := if vm then srcs else { r := 0, eew := 1, l := 0 } :: srcs
  all.all fun a => a.ok && all.all fun b => a.eew == b.eew || !a.meets b

/-- The destination and sources of an instruction are not reserved: apart, where the destination may overlap no source. -/
def vecLegal (vm : Bool) (d : VecGroup) (srcs : List VecGroup) (apart : Bool := false) : Bool :=
  d.ok && (vm || d.eew == 1 || d.r != 0) && vecSources vm srcs && srcs.all fun s => if apart then !d.meets s else d.into s

/-- What an instruction gives an element: its value, floating-point flags, and whether it saturated. -/
abbrev VecResult := Nat × BitVec 5 × Bool

def plainResult (v : Nat) : VecResult := (v, 0, false)

/-- Bit i of a mask register. -/
def Hen.maskBit (x : Hen) (r i : Nat) : Bool := (x.getV r).getLsbD i

/-- An element, or a bit of a mask, written. -/
def Hen.putElem (x : Hen) (g : VecGroup) (i v : Nat) : Hen :=
  if g.eew = 1 then x.setV g.r ((x.getV g.r) &&& ~~~(1#512 <<< i) ||| BitVec.ofNat 512 (v % 2 * 2 ^ i))
  else x.setElem g.r (Nat.log2 g.eew - 3) i v

/-- Flags and saturation of a result accrue. -/
def Hen.vecFlags (x : Hen) (fl : BitVec 5) (sat : Bool) : Hen :=
  let y := x.accrue fl
  if sat then { y with vcsr := y.vcsr ||| 1 } else y

/-- The elements that a vector instruction handles: from vstart to vl. -/
def Hen.body (x : Hen) : List Nat := span x.vstart.toNat (x.vl.toNat - x.vstart.toNat)

/-- An element is active. -/
def Hen.active (x : Hen) (vm : Bool) (i : Nat) : Bool := vm || x.maskBit 0 i

/-- The destination takes f at the elements of a list that are on; every other element stays. -/
def Hen.vecLoop (x : Hen) (d : VecGroup) (l : List Nat) (on : Nat → Bool) (f : Nat → VecResult) : Hen :=
  l.foldl (fun y i => if on i then let r := f i; (y.putElem d i r.1).vecFlags r.2.1 r.2.2 else y) x

/-- A legal instruction of the active elements. -/
def Hen.vecMap (x : Hen) (vm : Bool) (d : VecGroup) (srcs : List VecGroup) (f : Nat → VecResult) : Option Hen :=
  if vecLegal vm d srcs then some (x.vecLoop d x.body (x.active vm) f) else none

/-- log2 of LMUL. -/
def Hen.lmulLog (x : Hen) : Int := let l := bfield x.vtype 0 3; if l < 4 then (l : Int) else (l : Int) - 8

/-- The group of a register at 2^k bytes an element under the current SEW and LMUL. -/
def Hen.group (x : Hen) (r k : Nat) : VecGroup := { r, eew := 8 * 2 ^ k, l := x.lmulLog + (k : Int) - (x.sewLog : Int) }

def maskGroup (r : Nat) : VecGroup := { r, eew := 1, l := 0 }

/-- VLMAX under the current vtype. -/
def Hen.vlmax (x : Hen) : Nat := (vlmaxOf x.vtype.toNat).getD 0

/-- A vector in the second operand (funct3 0, 1 or 2). -/
def VecWord.isV (c : VecWord) : Bool := decide (c.f3 ≤ 2)

/-- Signed reading of w bits, and an integer wrapped to w bits. -/
def asInt (w v : Nat) : Int := if v % 2 ^ w ≥ 2 ^ (w - 1) then ((v % 2 ^ w : Nat) : Int) - (2 ^ w : Nat) else ((v % 2 ^ w : Nat) : Int)
def wrapInt (w : Nat) (v : Int) : Nat := (v % (2 ^ w : Nat)).toNat

end Sys2Proof.Machine
end

