-- ==== Sys2Proof/Machine/HenVecInt.lean ====
section
/-! DEFINITION. Vector integer, fixed-point, mask and permutation instructions (V 1.0, R80). A reserved form is illegal. -/
namespace Sys2Proof.Machine

/-! What an element becomes. -/

/-- v / 2^d rounded by vxrm: to nearest up, to nearest even, down, to odd. -/
def roundOff (rm : Nat) (v : Int) (d : Nat) : Int :=
  let q := v / (2 ^ d : Nat)
  let r := (v % (2 ^ d : Nat)).toNat
  let up := match rm with
    | 0 => d != 0 && decide (2 * r ≥ 2 ^ d)
    | 1 => decide (2 * r > 2 ^ d) || (d != 0 && decide (2 * r = 2 ^ d) && q % 2 == 1)
    | 2 => false
    | _ => r != 0 && q % 2 == 0
  if up then q + 1 else q

/-- A value clipped to a range, and whether it was. -/
def clipInt (lo hi v : Int) : Int × Bool := if v < lo then (lo, true) else if hi < v then (hi, true) else (v, false)

/-- A value saturated to w bits, signed or unsigned. -/
def satInt (signed : Bool) (w : Nat) (v : Int) : VecResult :=
  let top : Int := (2 ^ (if signed then w - 1 else w) : Nat)
  let r := clipInt (if signed then -top else 0) (top - 1) v
  (wrapInt w r.1, 0, r.2)

/-- Operations of OPIVV, OPIVX and OPIVI on elements of one width, by funct6: a from vs2, b the second operand. -/
def vecIntOp (f6 rm w a b : Nat) : Option VecResult :=
  let sa := asInt w a
  let sb := asInt w b
  let ok (v : Nat) : Option VecResult := some (plainResult (v % 2 ^ w))
  match f6 with
  | 0x00 => ok (a + b)
  | 0x02 => ok (a + 2 ^ w - b % 2 ^ w)
  | 0x03 => ok (b + 2 ^ w - a % 2 ^ w)
  | 0x04 => ok (min a b)
  | 0x05 => ok (if sa < sb then a else b)
  | 0x06 => ok (max a b)
  | 0x07 => ok (if sa < sb then b else a)
  | 0x09 => ok (a &&& b)
  | 0x0A => ok (a ||| b)
  | 0x0B => ok (a ^^^ b)
  | 0x20 => some (satInt false w ((a : Int) + b))
  | 0x21 => some (satInt true w (sa + sb))
  | 0x22 => some (satInt false w ((a : Int) - b))
  | 0x23 => some (satInt true w (sa - sb))
  | 0x25 => ok (a * 2 ^ (b % w))
  | 0x27 => some (satInt true w (roundOff rm (sa * sb) (w - 1)))
  | 0x28 => ok (a / 2 ^ (b % w))
  | 0x29 => ok (wrapInt w (sa / (2 ^ (b % w) : Nat)))
  | 0x2A => ok (wrapInt w (roundOff rm a (b % w)))
  | 0x2B => ok (wrapInt w (roundOff rm sa (b % w)))
  | _ => none

/-- The forms of those that V 1.0 has: vrsub has no vector form, subtraction and others no immediate form. -/
def vecIntForm (f6 f3 : Nat) : Bool :=
  if f3 = 0 then f6 != 0x03 else f3 == 4 || [0x00, 0x03, 0x09, 0x0A, 0x0B, 0x20, 0x21, 0x25, 0x28, 0x29, 0x2A, 0x2B].contains f6

/-- Comparisons, by funct6. -/
def vecCmp (f6 w a b : Nat) : Option Bool :=
  let sa := asInt w a
  let sb := asInt w b
  match f6 with
  | 0x18 => some (a == b)
  | 0x19 => some (a != b)
  | 0x1A => some (decide (a < b))
  | 0x1B => some (decide (sa < sb))
  | 0x1C => some (decide (a ≤ b))
  | 0x1D => some (decide (sa ≤ sb))
  | 0x1E => some (decide (b < a))
  | 0x1F => some (decide (sb < sa))
  | _ => none

def vecCmpForm (f6 f3 : Nat) : Bool :=
  if f3 = 0 then decide (f6 < 0x1E) else f3 == 4 || !(f6 == 0x1A || f6 == 0x1B)

/-- Operations of OPMVV and OPMVX on elements of one width: c is the old element of vd. -/
def vecMulOp (f6 rm w a b c : Nat) : Option VecResult :=
  let sa := asInt w a
  let sb := asInt w b
  let ok (v : Int) : Option VecResult := some (plainResult (wrapInt w v))
  let ai : Int := a
  let bi : Int := b
  match f6 with
  | 0x08 => ok (roundOff rm (ai + bi) 1)
  | 0x09 => ok (roundOff rm (sa + sb) 1)
  | 0x0A => ok (roundOff rm (ai - bi) 1)
  | 0x0B => ok (roundOff rm (sa - sb) 1)
  | 0x20 => ok (if b = 0 then -1 else ai / bi)
  | 0x21 => ok (divS sa sb)
  | 0x22 => ok (if b = 0 then ai else ai % bi)
  | 0x23 => ok (remS sa sb)
  | 0x24 => ok (ai * bi / (2 ^ w : Nat))
  | 0x25 => ok (sa * sb)
  | 0x26 => ok (sa * bi / (2 ^ w : Nat))
  | 0x27 => ok (sa * sb / (2 ^ w : Nat))
  | 0x29 => ok (bi * c + ai)
  | 0x2B => ok (ai - bi * c)
  | 0x2D => ok (ai * bi + c)
  | 0x2F => ok ((c : Int) - ai * bi)
  | _ => none

/-- Widening operations: a and b of w bits, or a of 2w bits for funct6 0x34 to 0x37; c the old element of vd; to 2w bits. -/
def vecWideOp (f6 w a b c : Nat) : Option Nat :=
  let sa := asInt w a
  let sb := asInt w b
  let ok (v : Int) : Option Nat := some (wrapInt (2 * w) v)
  let ai : Int := a
  let bi : Int := b
  let ci : Int := c
  match f6 with
  | 0x30 => ok (ai + bi)
  | 0x31 => ok (sa + sb)
  | 0x32 => ok (ai - bi)
  | 0x33 => ok (sa - sb)
  | 0x34 => ok (ai + bi)
  | 0x35 => ok (ai + sb)
  | 0x36 => ok (ai - bi)
  | 0x37 => ok (ai - sb)
  | 0x38 => ok (ai * bi)
  | 0x3A => ok (sa * bi)
  | 0x3B => ok (sa * sb)
  | 0x3C => ok (ai * bi + ci)
  | 0x3D => ok (sa * sb + ci)
  | 0x3E => ok (sa * bi + ci)
  | 0x3F => ok (ai * sb + ci)
  | _ => none

/-- One step of a reduction, by funct6 of OPMVV. -/
def vecRedOp (f6 w a b : Nat) : Nat :=
  match f6 with
  | 0x00 => (a + b) % 2 ^ w
  | 0x01 => a &&& b
  | 0x02 => a ||| b
  | 0x03 => a ^^^ b
  | 0x04 => min a b
  | 0x05 => if asInt w a < asInt w b then a else b
  | 0x06 => max a b
  | _ => if asInt w a < asInt w b then b else a

/-! Operands. -/

/-- The immediate of OPIVI as w bits, sign-extended. -/
def vecImm (c : VecWord) (w : Nat) : Nat := wrapInt w (asInt 5 c.s1)

/-- The second operand at 2^k bytes an element: an element of vs1, the x register of rs1, or the immediate, which shifts, slides and
gathers read unsigned. -/
def Hen.vecB (x : Hen) (c : VecWord) (k : Nat) (uns : Bool) (i : Nat) : Nat :=
  let w := 8 * 2 ^ k
  if c.isV then x.getElem c.s1 k i
  else if c.f3 = 3 then (if uns then c.s1 else vecImm c w)
  else (x.getX (Fin.ofNat 32 c.s1)).toNat % 2 ^ w

/-- The second operand as a source group. -/
def Hen.vecBGroup (x : Hen) (c : VecWord) (k : Nat) : List VecGroup := if c.isV then [x.group c.s1 k] else []

/-- The second operand of a slide or gather: an x register whole. -/
def Hen.vecIndex (x : Hen) (c : VecWord) : Nat := if c.f3 = 3 then c.s1 else (x.getX (Fin.ofNat 32 c.s1)).toNat

/-- Element i of a group of VLMAX elements; zero past its end. -/
def Hen.elemOrZero (x : Hen) (r k i : Nat) : Nat := if i < x.vlmax then x.getElem r k i else 0

/-- vmv1r.v to vmv8r.v: whole registers, from vstart on. -/
def Hen.vecMoveWhole (x : Hen) (c : VecWord) : Option Hen :=
  let n := c.s1 + 1
  if !c.vm || !(n == 1 || n == 2 || n == 4 || n == 8) || c.vd % n != 0 || c.vs2 % n != 0 then none
  else
    let k := x.sewLog
    let all := n * (64 / 2 ^ k)
    some (x.vecLoop { r := c.vd, eew := 8 * 2 ^ k, l := 0 } (span x.vstart.toNat (all - x.vstart.toNat)) (fun _ => true)
      fun i => plainResult (x.getElem c.vs2 k i))

/-- The instructions of OPIVV, OPIVX and OPIVI (funct3 0, 4, 3). -/
def Hen.vecInt (x : Hen) (c : VecWord) : Option Hen :=
  let k := x.sewLog
  let w := 8 * 2 ^ k
  let rm := x.vcsr.toNat / 2
  let d := x.group c.vd k
  let a (i : Nat) : Nat := x.getElem c.vs2 k i
  let ga := x.group c.vs2 k
  let gb := x.vecBGroup c k
  let m (i : Nat) : Nat := if !c.vm && x.maskBit 0 i then 1 else 0
  /- carries: every body element, v0 as a carry -/
  let carry (f : Nat → Nat) : Option Hen :=
    if c.vm || c.f3 = 3 && c.f6 != 0x10 then none
    else if vecLegal false d (ga :: gb) then some (x.vecLoop d x.body (fun _ => true) fun i => plainResult (f i % 2 ^ w)) else none
  let carryOut (f : Nat → Bool) : Option Hen :=
    if c.f3 = 3 && c.f6 != 0x11 then none
    else if vecLegal c.vm (maskGroup c.vd) (ga :: gb) then
      some (x.vecLoop (maskGroup c.vd) x.body (fun _ => true) fun i => plainResult (if f i then 1 else 0))
    else none
  let apart (gs : List VecGroup) (f : Nat → Nat) (l : List Nat) : Option Hen :=
    if vecLegal c.vm d gs true then some (x.vecLoop d l (x.active c.vm) fun i => plainResult (f i)) else none
  /- narrowing: vs2 of twice the width -/
  let narrow (f : Nat → Nat → VecResult) : Option Hen :=
    x.vecMap c.vm d (x.group c.vs2 (k + 1) :: gb) fun i => f (x.getElem c.vs2 (k + 1) i) (x.vecB c k true i % (2 * w))
  match c.f6 with
  | 0x0C => apart (ga :: gb) (fun i => x.elemOrZero c.vs2 k (if c.isV then x.getElem c.s1 k i else x.vecIndex c)) x.body
  | 0x0E =>
    if c.isV then apart [ga, x.group c.s1 1] (fun i => x.elemOrZero c.vs2 k (x.getElem c.s1 1 i)) x.body
    else
      let off := x.vecIndex c
      apart [ga] (fun i => x.getElem c.vs2 k (i - off)) (x.body.filter fun i => decide (off ≤ i))
  | 0x0F =>
    if c.isV then none
    else x.vecMap c.vm d [ga] fun i => plainResult (x.elemOrZero c.vs2 k (i + x.vecIndex c))
  | 0x10 => carry fun i => a i + x.vecB c k false i + m i
  | 0x11 => carryOut fun i => decide (a i + x.vecB c k false i + m i ≥ 2 ^ w)
  | 0x12 => carry fun i => a i + 2 * 2 ^ w - x.vecB c k false i - m i
  | 0x13 => carryOut fun i => decide (a i < x.vecB c k false i + m i)
  | 0x17 =>
    if c.vm then
      if c.vs2 != 0 then none else x.vecMap true d gb fun i => plainResult (x.vecB c k false i)
    else if vecLegal false d (ga :: gb) then
      some (x.vecLoop d x.body (fun _ => true) fun i => plainResult (if x.maskBit 0 i then x.vecB c k false i else a i))
    else none
  | 0x27 =>
    if c.f3 = 3 then x.vecMoveWhole c
    else x.vecMap c.vm d (ga :: gb) fun i => (vecIntOp 0x27 rm w (a i) (x.vecB c k false i)).getD (plainResult 0)
  | 0x2C => narrow fun v s => plainResult (v / 2 ^ s)
  | 0x2D => narrow fun v s => plainResult (wrapInt w (asInt (2 * w) v / (2 ^ s : Nat)))
  | 0x2E => narrow fun v s => satInt false w (roundOff rm v s)
  | 0x2F => narrow fun v s => satInt true w (roundOff rm (asInt (2 * w) v) s)
  | 0x30 | 0x31 =>
    /- widening sums -/
    if c.f3 != 0 || x.vstart != 0 || k > 2 || !vecSources c.vm [ga, { r := c.s1, eew := 2 * w, l := 0 }] then none
    else if x.vl = 0 then some x
    else
      let e (i : Nat) : Nat := if c.f6 = 0x30 then a i else wrapInt (2 * w) (asInt w (a i))
      let sum := (x.body.filter (x.active c.vm)).foldl (fun t i => t + e i) (x.getElem c.s1 (k + 1) 0)
      some (x.setElem c.vd (k + 1) 0 sum)
  | f6 =>
    if 0x18 ≤ f6 ∧ f6 ≤ 0x1F then
      if vecCmpForm f6 c.f3 then
        x.vecMap c.vm (maskGroup c.vd) (ga :: gb) fun i =>
          plainResult (if (vecCmp f6 w (a i) (x.vecB c k false i)).getD false then 1 else 0)
      else none
    else if (vecIntOp f6 0 8 0 0).isNone || !vecIntForm f6 c.f3 then none
    else
      let uns := f6 == 0x25 || decide (0x28 ≤ f6)
      x.vecMap c.vm d (ga :: gb) fun i => (vecIntOp f6 rm w (a i) (x.vecB c k uns i)).getD (plainResult 0)

/-! Mask instructions and moves between files. -/

/-- The set bits of a mask register among the active elements. -/
def Hen.maskOn (x : Hen) (c : VecWord) : List Nat := x.body.filter fun i => x.active c.vm i && x.maskBit c.vs2 i

/-- Mask logic, by funct6 of OPMVV: a from vs2, b from vs1. -/
def maskOp (f6 : Nat) (a b : Bool) : Bool :=
  match f6 with
  | 0x18 => a && !b
  | 0x19 => a && b
  | 0x1A => a || b
  | 0x1B => a != b
  | 0x1C => a || !b
  | 0x1D => !(a && b)
  | 0x1E => !(a || b)
  | _ => a == b

/-- vmsbf, vmsof, vmsif, viota, vid, by the field of vs1. -/
def Hen.vecMaskUnary (x : Hen) (c : VecWord) : Option Hen :=
  let set : Option Nat := (x.maskOn c).head?
  let mask (f : Nat → Bool) : Option Hen :=
    if x.vstart != 0 || c.vd == c.vs2 || (!c.vm && c.vd == 0) then none
    else some (x.vecLoop (maskGroup c.vd) x.body (x.active c.vm) fun i => plainResult (if f i then 1 else 0))
  let first (f : Nat → Nat → Bool) (i : Nat) : Bool := match set with
    | none => f i x.vl.toNat
    | some j => f i j
  match c.s1 with
  | 0x01 => mask (first fun i j => decide (i < j))
  | 0x02 => mask (first fun i j => i == j)
  | 0x03 => mask (first fun i j => decide (i ≤ j))
  | 0x10 =>
    if x.vstart != 0 || !vecLegal c.vm (x.group c.vd x.sewLog) [maskGroup c.vs2] true then none
    else some (x.vecLoop (x.group c.vd x.sewLog) x.body (x.active c.vm) fun i =>
      plainResult ((x.maskOn c).filter fun j => decide (j < i)).length)
  | 0x11 => if c.vs2 != 0 then none else x.vecMap c.vm (x.group c.vd x.sewLog) [] fun i => plainResult i
  | _ => none

/-- vmv.x.s, vcpop, vfirst. -/
def Hen.vecToX (x : Hen) (c : VecWord) : Option Hen :=
  let rd : Reg := Fin.ofNat 32 c.vd
  match c.s1 with
  | 0x00 => if !c.vm then none else some (x.setX rd (sext (8 * 2 ^ x.sewLog) (x.getElem c.vs2 x.sewLog 0)))
  | 0x10 => if x.vstart != 0 then none else some (x.setX rd (BitVec.ofNat 64 (x.maskOn c).length))
  | 0x11 =>
    if x.vstart != 0 then none
    else some (x.setX rd (match (x.maskOn c).head? with
      | some i => BitVec.ofNat 64 i
      | none => ~~~0#64))
  | _ => none

/-- vzext and vsext, by the field of vs1. -/
def Hen.vecExtend (x : Hen) (c : VecWord) : Option Hen :=
  let k := x.sewLog
  let down := match c.s1 with
    | 0x02 | 0x03 => 3
    | 0x04 | 0x05 => 2
    | 0x06 | 0x07 => 1
    | _ => 4
  if down > k then none
  else
    let ks := k - down
    x.vecMap c.vm (x.group c.vd k) [x.group c.vs2 ks] fun i =>
      let v := x.getElem c.vs2 ks i
      plainResult (if c.s1 % 2 = 1 then wrapInt (8 * 2 ^ k) (asInt (8 * 2 ^ ks) v) else v)

/-- Element 0 of vd written from a scalar, where vl is above vstart. -/
def Hen.vecFromScalar (x : Hen) (c : VecWord) (v : Nat) : Option Hen :=
  if !c.vm || c.vs2 != 0 then none else some (if x.vstart.toNat < x.vl.toNat then x.setElem c.vd x.sewLog 0 v else x)

/-- vslide1up and vslide1down with their scalar. -/
def Hen.vecSlide1 (x : Hen) (c : VecWord) (up : Bool) (v : Nat) : Option Hen :=
  let k := x.sewLog
  let d := x.group c.vd k
  if !vecLegal c.vm d [x.group c.vs2 k] up then none
  else some (x.vecLoop d x.body (x.active c.vm) fun i => plainResult
    (if up then (if i = 0 then v else x.getElem c.vs2 k (i - 1))
     else if i + 1 = x.vl.toNat then v else x.elemOrZero c.vs2 k (i + 1)))

/-- vcompress: the elements of vs2 at the set bits of vs1, packed. -/
def Hen.vecCompress (x : Hen) (c : VecWord) : Option Hen :=
  let k := x.sewLog
  let d := x.group c.vd k
  if !c.vm || x.vstart != 0 || !vecLegal true d [x.group c.vs2 k, maskGroup c.s1] true then none
  else
    let on := x.body.filter fun i => x.maskBit c.s1 i
    some (x.vecLoop d (span 0 on.length) (fun _ => true) fun i => plainResult (x.getElem c.vs2 k (on.getD i 0)))

/-- The instructions of OPMVV and OPMVX (funct3 2, 6). -/
def Hen.vecMul (x : Hen) (c : VecWord) : Option Hen :=
  let k := x.sewLog
  let w := 8 * 2 ^ k
  let rm := x.vcsr.toNat / 2
  let d := x.group c.vd k
  let a (i : Nat) : Nat := x.getElem c.vs2 k i
  let b (i : Nat) : Nat := x.vecB c k false i
  let ga := x.group c.vs2 k
  let gb := x.vecBGroup c k
  match c.f6 with
  | 0x0E => if c.isV then none else x.vecSlide1 c true (x.vecB c k false 0)
  | 0x0F => if c.isV then none else x.vecSlide1 c false (x.vecB c k false 0)
  | 0x10 =>
    if c.isV then x.vecToX c
    else x.vecFromScalar c (x.getX (Fin.ofNat 32 c.s1)).toNat
  | 0x12 => if c.isV then x.vecExtend c else none
  | 0x14 => if c.isV then x.vecMaskUnary c else none
  | 0x17 => if c.isV then x.vecCompress c else none
  | f6 =>
    if f6 < 8 then
      if !c.isV || x.vstart != 0 || !vecSources c.vm [ga, { r := c.s1, eew := w, l := 0 }] then none
      else if x.vl = 0 then some x
      else some (x.setElem c.vd k 0 ((x.body.filter (x.active c.vm)).foldl (fun t i => vecRedOp f6 w t (a i)) (x.getElem c.s1 k 0)))
    else if 0x18 ≤ f6 ∧ f6 < 0x20 then
      if !c.isV || !c.vm then none
      else some (x.vecLoop (maskGroup c.vd) x.body (fun _ => true) fun i =>
        plainResult (if maskOp f6 (x.maskBit c.vs2 i) (x.maskBit c.s1 i) then 1 else 0))
    else if 0x30 ≤ f6 then
      if k > 2 || (vecWideOp f6 8 0 0 0).isNone || (f6 == 0x3E && c.isV) then none
      else
        let wide := decide (0x34 ≤ f6) && decide (f6 ≤ 0x37)
        let acc := decide (0x3C ≤ f6)
        let dw := x.group c.vd (k + 1)
        let gs := (if wide then x.group c.vs2 (k + 1) else ga) :: gb ++ (if acc then [dw] else [])
        x.vecMap c.vm dw gs fun i => plainResult ((vecWideOp f6 w (if wide then x.getElem c.vs2 (k + 1) i else a i) (b i)
          (if acc then x.getElem c.vd (k + 1) i else 0)).getD 0)
    else if (vecMulOp f6 0 8 0 0 0).isNone then none
    else x.vecMap c.vm d (ga :: gb) fun i => (vecMulOp f6 rm w (a i) (b i) (x.getElem c.vd k i)).getD (plainResult 0)

end Sys2Proof.Machine
end

