-- ==== Sys2Proof/Machine/HenVecFp.lean ====
section
/-! DEFINITION. Vector floating point (V 1.0, Zvfh, Zvfbfmin, Zvfbfwma, R80), and a vector instruction as a whole. A reserved form is
illegal. -/
namespace Sys2Proof.Machine

/-! Estimates of 7 bits (V 1.0: vfrsqrt7 and vfrec7). -/

/-- By the low bit of the exponent and six bits of the significand. -/
def rsqrt7Table : List Nat :=
  [52, 51, 50, 48, 47, 46, 44, 43, 42, 41, 40, 39, 38, 36, 35, 34, 33, 32, 31, 30, 30, 29, 28, 27, 26, 25, 24, 23, 23, 22, 21, 20] ++
  [19, 19, 18, 17, 16, 16, 15, 14, 14, 13, 12, 12, 11, 10, 10, 9, 9, 8, 7, 7, 6, 6, 5, 4, 4, 3, 3, 2, 2, 1, 1, 0] ++
  [127, 125, 123, 121, 119, 118, 116, 114, 113, 111, 109, 108, 106, 105, 103, 102, 100, 99, 97, 96, 95, 93, 92, 91, 90, 88, 87, 86, 85, 84, 83, 82] ++
  [80, 79, 78, 77, 76, 75, 74, 73, 72, 71, 70, 70, 69, 68, 67, 66, 65, 64, 63, 63, 62, 61, 60, 59, 59, 58, 57, 56, 56, 55, 54, 53]

/-- By seven bits of the significand. -/
def rec7Table : List Nat :=
  [127, 125, 123, 121, 119, 117, 116, 114, 112, 110, 109, 107, 105, 104, 102, 100, 99, 97, 96, 94, 93, 91, 90, 88, 87, 85, 84, 83, 81, 80, 79, 77] ++
  [76, 75, 74, 72, 71, 70, 69, 68, 66, 65, 64, 63, 62, 61, 60, 59, 58, 57, 56, 55, 54, 53, 52, 51, 50, 49, 48, 47, 46, 45, 44, 43] ++
  [42, 41, 40, 40, 39, 38, 37, 36, 35, 35, 34, 33, 32, 31, 31, 30, 29, 28, 28, 27, 26, 25, 25, 24, 23, 23, 22, 21, 21, 20, 19, 19] ++
  [18, 17, 17, 16, 15, 15, 14, 14, 13, 12, 12, 11, 11, 10, 9, 9, 8, 8, 7, 7, 6, 5, 5, 4, 4, 3, 3, 2, 2, 1, 1, 0]

/-- A normalised magnitude: the biased exponent, below 1 for a subnormal number, and the mb bits below the leading one. -/
def normalised (f : FloatFmt) (m : Nat) (e : Int) : Int × Nat :=
  let t := Nat.log2 m
  ((t : Int) + e + f.bias, m * 2 ^ (f.mb - t) - 2 ^ f.mb)

def fpRsqrt7 (f : FloatFmt) (a : Nat) : Flagged :=
  match Num.decode f a with
  | .nan => (canonNan f, invalidIf (isSnan f a))
  | .inf neg => if neg then (canonNan f, flagNV) else (0, 0)
  | .fin neg m e =>
    if m = 0 then (signed f neg f.infMag, flagDZ)
    else if neg then (canonNan f, flagNV)
    else
      let (x, sig) : Int × Nat := normalised f m e
      let out := rsqrt7Table.getD ((x % 2).toNat * 64 + sig / 2 ^ (f.mb - 6)) 0
      (((3 * (f.bias : Int) - 1 - x) / 2).toNat * 2 ^ f.mb + out * 2 ^ (f.mb - 7), 0)

def fpRec7 (f : FloatFmt) (mode : Rounding) (a : Nat) : Flagged :=
  match Num.decode f a with
  | .nan => (canonNan f, invalidIf (isSnan f a))
  | .inf neg => (signed f neg 0, 0)
  | .fin neg m e =>
    if m = 0 then (signed f neg f.infMag, flagDZ)
    else
      let (x, sig) : Int × Nat := normalised f m e
      if x < -1 then
        let toMax := mode == .rtz || (mode == .rdn && !neg) || (mode == .rup && neg)
        (signed f neg (if toMax then f.maxMag else f.infMag), flagOF ||| flagNX)
      else
        let out := rec7Table.getD (sig / 2 ^ (f.mb - 7)) 0 * 2 ^ (f.mb - 7)
        let oe := 2 * (f.bias : Int) - x - 1
        let sub := out / 2 + 2 ^ (f.mb - 1)
        (signed f neg (if oe > 0 then oe.toNat * 2 ^ f.mb + out else if oe = 0 then sub else sub / 2), 0)

/-- A conversion that rounds to odd. -/
def fpConvertOdd (dst src : FloatFmt) (a : Nat) : Flagged :=
  let r := fpConvert dst src .rtz a
  if r.2 &&& flagNX = 0 then r else (if r.1 % 2 = 0 then r.1 + 1 else r.1, r.2)

/-! Operands. -/

/-- The format of elements of 2^k bytes. -/
def vecFmt (k : Nat) : Option FpFmt := match k with
  | 1 => some .h
  | 2 => some .s
  | 3 => some .d
  | _ => none

/-- The second operand in a format: an element of vs1, or the f register of rs1. -/
def Hen.vecFb (x : Hen) (c : VecWord) (k : Nat) (f : FpFmt) (i : Nat) : Nat :=
  if c.isV then x.getElem c.s1 k i else x.getFp f (Fin.ofNat 32 c.s1)

def fpResult (r : Flagged) : VecResult := (r.1, r.2, false)

/-! What an element becomes. -/

/-- Operations on elements of one width, by funct6: a from vs2, b the second operand. -/
def vecFpOp (f6 : Nat) (f : FloatFmt) (mode : Rounding) (a b : Nat) : Option Flagged :=
  match f6 with
  | 0x00 => some (fpOp f .add mode a b)
  | 0x02 => some (fpOp f .sub mode a b)
  | 0x04 => some (fpOp f .min mode a b)
  | 0x06 => some (fpOp f .max mode a b)
  | 0x08 => some (fpOp f .sgnj mode a b)
  | 0x09 => some (fpOp f .sgnjn mode a b)
  | 0x0A => some (fpOp f .sgnjx mode a b)
  | 0x20 => some (fpOp f .div mode a b)
  | 0x21 => some (fpOp f .div mode b a)
  | 0x24 => some (fpOp f .mul mode a b)
  | 0x27 => some (fpOp f .sub mode b a)
  | _ => none

/-- Fused operations, by the low bits of funct6 0x28 to 0x2F: d the old element of vd. -/
def vecFpFma (f6 : Nat) (f : FloatFmt) (mode : Rounding) (a b d : Nat) : Flagged :=
  match f6 with
  | 0x28 => fpFma f false false mode d b a
  | 0x29 => fpFma f true true mode d b a
  | 0x2A => fpFma f false true mode d b a
  | 0x2B => fpFma f true false mode d b a
  | 0x2C => fpFma f false false mode b a d
  | 0x2D => fpFma f true true mode b a d
  | 0x2E => fpFma f false true mode b a d
  | _ => fpFma f true false mode b a d

/-- Comparisons, by funct6. -/
def vecFpCmp (f6 : Nat) (f : FloatFmt) (a b : Nat) : Option (Bool × BitVec 5) :=
  match f6 with
  | 0x18 => some (fpCmp f .eq a b)
  | 0x19 => some (fpCmp f .le a b)
  | 0x1B => some (fpCmp f .lt a b)
  | 0x1C => let r := fpCmp f .eq a b; some (!r.1, r.2)
  | 0x1D => some (fpCmp f .lt b a)
  | 0x1F => some (fpCmp f .le b a)
  | _ => none

/-- An element widened exactly; a signalling NaN raises NV. -/
def fpWiden (dst src : FloatFmt) (a : Nat) : Flagged := fpConvert dst src .rne a

/-- A widening operation: the widened operands, then an operation of the wide format. -/
def widened (a b : Flagged) (op : Nat → Nat → Flagged) : Flagged :=
  let r := op a.1 b.1
  (r.1, a.2 ||| b.2 ||| r.2)

/-- An integer element as a number. -/
def intElem (uns : Bool) (w v : Nat) : Int := if uns then (v : Int) else asInt w v

/-- A float element as an integer of w bits. -/
def fpElemToInt (f : FloatFmt) (w : Nat) (uns : Bool) (mode : Rounding) (a : Nat) : VecResult :=
  let r := fpToInt f w uns mode a
  (wrapInt w r.1, r.2, false)

/-! The instructions. -/

/-- Conversions (VFUNARY0), by the field of vs1: within a width, to twice the width, from twice the width. -/
def Hen.vecConvert (x : Hen) (c : VecWord) (mode : Rounding) : Option Hen :=
  let k := x.sewLog
  let w := 8 * 2 ^ k
  let d := x.group c.vd k
  let dw := x.group c.vd (k + 1)
  let ga := x.group c.vs2 k
  let gw := x.group c.vs2 (k + 1)
  let a (i : Nat) : Nat := x.getElem c.vs2 k i
  let aw (i : Nat) : Nat := x.getElem c.vs2 (k + 1) i
  let uns := c.s1 % 2 == 0
  let md := if c.s1 % 8 = 6 ∨ c.s1 % 8 = 7 then .rtz else mode
  let with_ (j : Nat) (g : FloatFmt → Option Hen) : Option Hen := (vecFmt j).bind fun f => g (fpFmt f)
  let same (r : FloatFmt → Nat → VecResult) : Option Hen := with_ k fun f => x.vecMap c.vm d [ga] fun i => r f (a i)
  match c.s1 with
  | 0x00 | 0x01 | 0x06 | 0x07 => same fun f v => fpElemToInt f w uns md v
  | 0x02 | 0x03 => same fun f v => fpResult (fpOfInt f mode (intElem uns w v))
  | 0x08 | 0x09 | 0x0E | 0x0F => with_ k fun f => x.vecMap c.vm dw [ga] fun i => fpElemToInt f (2 * w) uns md (a i)
  | 0x0A | 0x0B => with_ (k + 1) fun f => x.vecMap c.vm dw [ga] fun i => fpResult (fpOfInt f mode (intElem uns w (a i)))
  | 0x0C => with_ k fun f => with_ (k + 1) fun g => x.vecMap c.vm dw [ga] fun i => fpResult (fpWiden g f (a i))
  | 0x0D => if k != 1 then none else x.vecMap c.vm dw [ga] fun i => fpResult (fpWiden fmtFP32 fmtBF16 (a i))
  | 0x10 | 0x11 | 0x16 | 0x17 => with_ (k + 1) fun f => x.vecMap c.vm d [gw] fun i => fpElemToInt f w uns md (aw i)
  | 0x12 | 0x13 => with_ k fun f => x.vecMap c.vm d [gw] fun i => fpResult (fpOfInt f mode (intElem uns (2 * w) (aw i)))
  | 0x14 => with_ k fun f => with_ (k + 1) fun g => x.vecMap c.vm d [gw] fun i => fpResult (fpConvert f g mode (aw i))
  | 0x15 => with_ k fun f => with_ (k + 1) fun g => x.vecMap c.vm d [gw] fun i => fpResult (fpConvertOdd f g (aw i))
  | 0x1D => if k != 1 then none else x.vecMap c.vm d [gw] fun i => fpResult (fpConvert fmtBF16 fmtFP32 mode (aw i))
  | _ => none

/-- Square root, estimates and classes (VFUNARY1), by the field of vs1. -/
def Hen.vecFpUnary (x : Hen) (c : VecWord) (mode : Rounding) : Option Hen :=
  let k := x.sewLog
  let map (g : FloatFmt → Nat → Flagged) : Option Hen := (vecFmt k).bind fun f =>
    x.vecMap c.vm (x.group c.vd k) [x.group c.vs2 k] fun i => fpResult (g (fpFmt f) (x.getElem c.vs2 k i))
  match c.s1 with
  | 0x00 => map fun f v => fpSqrt f mode v
  | 0x04 => map fun f v => fpRsqrt7 f v
  | 0x05 => map fun f v => fpRec7 f mode v
  | 0x10 => map fun f v => (fpClass f v, 0)
  | _ => none

/-- A reduction: the active elements folded from element 0 of vs1 into element 0 of vd, of 2^j bytes. -/
def Hen.vecFpReduce (x : Hen) (c : VecWord) (j : Nat) (run : List Nat → Nat → Flagged) : Option Hen :=
  let k := x.sewLog
  if !c.isV || x.vstart != 0 || !vecSources c.vm [x.group c.vs2 k, { r := c.s1, eew := 8 * 2 ^ j, l := 0 }] then none
  else if x.vl = 0 then some x
  else
    let r := run ((x.body.filter (x.active c.vm)).map fun i => x.getElem c.vs2 k i) (x.getElem c.s1 j 0)
    some ((x.setElem c.vd j 0 r.1).accrue r.2)

/-- An ordered fold with its flags. -/
def foldFlagged (op : Nat → Nat → Flagged) (l : List Nat) (v : Nat) : Flagged :=
  l.foldl (fun t a => let r := op t.1 a; (r.1, t.2 ||| r.2)) (v, 0)

/-- An unordered sum: in whichever order the device takes; nothing active leaves the scalar. -/
def unorderedSum (f src : FloatFmt) (mode : Rounding) (l : List Nat) (v : Nat) : Flagged :=
  if l.isEmpty then (v, 0)
  else
    let how : Nat := match mode with
      | .rne => 0
      | .rtz => 1
      | .rdn => 2
      | .rup => 3
      | _ => 4
    let r := Config.sumOrder l.length (8 * (f.width + 128 * src.width) + how) (v :: l)
    (r.1.toNat, r.2)

/-- Widening operations (funct6 0x30 to 0x3F). -/
def Hen.vecFpWide (x : Hen) (c : VecWord) (mode : Rounding) : Option Hen :=
  let k := x.sewLog
  let dw := x.group c.vd (k + 1)
  let ga := x.group c.vs2 k
  let gw := x.group c.vs2 (k + 1)
  let gb : List VecGroup := if c.isV then [x.group c.s1 k] else []
  if c.f6 = 0x3B then
    if k != 1 then none
    else x.vecMap c.vm dw (ga :: dw :: gb) fun i => fpResult
      (widened (fpWiden fmtFP32 fmtBF16 (x.getElem c.vs2 k i)) (fpWiden fmtFP32 fmtBF16 (x.vecFb c k .bf16 i)) fun a b =>
        fpFma fmtFP32 false false mode b a (x.getElem c.vd 2 i))
  else
    (vecFmt k).bind fun nf => (vecFmt (k + 1)).bind fun wf =>
      let f := fpFmt nf
      let g := fpFmt wf
      let a (i : Nat) : Flagged := fpWiden g f (x.getElem c.vs2 k i)
      let b (i : Nat) : Flagged := fpWiden g f (x.vecFb c k nf i)
      let aw (i : Nat) : Flagged := (x.getElem c.vs2 (k + 1) i, 0)
      let two (o : FpOp) : Option Hen := x.vecMap c.vm dw (ga :: gb) fun i => fpResult (widened (a i) (b i) (fpOp g o mode))
      let first (o : FpOp) : Option Hen := x.vecMap c.vm dw (gw :: gb) fun i => fpResult (widened (aw i) (b i) (fpOp g o mode))
      let fused (np na : Bool) : Option Hen := x.vecMap c.vm dw (ga :: dw :: gb) fun i => fpResult
        (widened (a i) (b i) fun a b => fpFma g np na mode b a (x.getElem c.vd (k + 1) i))
      match c.f6 with
      | 0x30 => two .add
      | 0x31 => x.vecFpReduce c (k + 1) fun l v => unorderedSum g f mode l v
      | 0x32 => two .sub
      | 0x33 => x.vecFpReduce c (k + 1) fun l v => foldFlagged (fun t e => widened (t, 0) (fpWiden g f e) (fpOp g .add mode)) l v
      | 0x34 => first .add
      | 0x36 => first .sub
      | 0x38 => two .mul
      | 0x3C => fused false false
      | 0x3D => fused true true
      | 0x3E => fused false true
      | 0x3F => fused true false
      | _ => none

/-- The instructions of OPFVV and OPFVF (funct3 1, 5) on elements of one width, and the moves. -/
def Hen.vecFpSame (x : Hen) (c : VecWord) (mode : Rounding) (nf : FpFmt) : Option Hen :=
  let k := x.sewLog
  let f := fpFmt nf
  let d := x.group c.vd k
  let ga := x.group c.vs2 k
  let gb : List VecGroup := if c.isV then [x.group c.s1 k] else []
  let a (i : Nat) : Nat := x.getElem c.vs2 k i
  let b (i : Nat) : Nat := x.vecFb c k nf i
  let reduce (o : FpOp) : Option Hen := x.vecFpReduce c k fun l v => foldFlagged (fpOp f o mode) l v
  match c.f6 with
  | 0x01 => x.vecFpReduce c k fun l v => unorderedSum f f mode l v
  | 0x03 => reduce .add
  | 0x05 => reduce .min
  | 0x07 => reduce .max
  | 0x0E => if c.isV then none else x.vecSlide1 c true (b 0)
  | 0x0F => if c.isV then none else x.vecSlide1 c false (b 0)
  | 0x10 =>
    if !c.isV then x.vecFromScalar c (b 0)
    else if !c.vm || c.s1 != 0 then none
    else some (x.setFp nf (Fin.ofNat 32 c.vd) (a 0))
  | 0x17 =>
    if c.isV then none
    else if c.vm then (if c.vs2 != 0 then none else x.vecMap true d [] fun i => plainResult (b i))
    else if vecLegal false d [ga] then
      some (x.vecLoop d x.body (fun _ => true) fun i => plainResult (if x.maskBit 0 i then b i else a i))
    else none
  | f6 =>
    if 0x18 ≤ f6 ∧ f6 < 0x20 then
      if (vecFpCmp f6 f 0 0).isNone || (c.isV && (f6 == 0x1D || f6 == 0x1F)) then none
      else x.vecMap c.vm (maskGroup c.vd) (ga :: gb) fun i =>
        let r := (vecFpCmp f6 f (a i) (b i)).getD (false, 0)
        (if r.1 then 1 else 0, r.2, false)
    else if 0x28 ≤ f6 ∧ f6 < 0x30 then
      x.vecMap c.vm d (ga :: gb) fun i => fpResult (vecFpFma f6 f mode (a i) (b i) (x.getElem c.vd k i))
    else if (vecFpOp f6 f mode 0 0).isNone || (c.isV && (f6 == 0x21 || f6 == 0x27)) then none
    else x.vecMap c.vm d (ga :: gb) fun i => fpResult ((vecFpOp f6 f mode (a i) (b i)).getD (0, 0))

def Hen.vecFp (x : Hen) (c : VecWord) (mode : Rounding) : Option Hen :=
  if c.f6 ≥ 0x30 then x.vecFpWide c mode
  else if c.f6 = 0x12 then (if c.isV then x.vecConvert c mode else none)
  else if c.f6 = 0x13 then (if c.isV then x.vecFpUnary c mode else none)
  else (vecFmt x.sewLog).bind fun nf => x.vecFpSame c mode nf

/-- An OP-V word that is no vset (V 1.0, R80): illegal under vill, with VS off, or, for floating point, with FS off or a reserved
frm. vstart returns to zero. -/
def Hen.vector (x : Hen) (w : BitVec 32) : Option Hen :=
  if x.vsOff || x.vill || bfield w 0 7 != 0x57 then none
  else
    let c := vecWord w
    let r : Option Hen :=
      if c.f3 = 0 ∨ c.f3 = 3 ∨ c.f3 = 4 then x.vecInt c
      else if c.f3 = 2 ∨ c.f3 = 6 then x.vecMul c
      else if c.f3 = 1 ∨ c.f3 = 5 then
        if x.fsOff then none else (x.rounding 7).bind fun mode => x.vecFp c mode
      else none
    r.map fun y => { y with vstart := 0, mstatus := y.mstatus ||| 0x600 }

end Sys2Proof.Machine
end

