-- ==== Sys2Proof/Machine/HenArith.lean ====
section
/-! DEFINITION. The scalar arithmetic, branches and floating point of a Hen (R80, R84), and ARITHMETIC_INSTRUCTION. -/
namespace Sys2Proof.Machine

/-- A floating-point result written with its flags; in integer registers likewise. -/
def Hen.fpWrite (x : Hen) (f : FpFmt) (rd : Reg) (r : Flagged) : Hen := (x.setFp f rd r.1).accrue r.2
def Hen.intWrite (x : Hen) (rd : Reg) (v : Word) (fl : BitVec 5) : Hen := (x.setX rd v).accrue fl

/-- The effect of a non-memory instruction of len bytes on a Hen, all but its retirement: none where it is illegal. pc is the
next pc. -/
def arithRun (x : Hen) (len : Nat) (i : Arith) : Option (Hen × Word) :=
  let next := x.pc + BitVec.ofNat 64 len
  let plain (y : Hen) : Option (Hen × Word) := some (y, next)
  let fp (ok : Bool) (rm : BitVec 3) (g : Rounding → Hen) : Option (Hen × Word) :=
    if x.fsOff || !ok then none else (x.rounding rm).map fun mode => (g mode, next)
  match i with
  | .op o rd rs1 rs2 => plain (x.setX rd (aluEval o (x.getX rs1) (x.getX rs2)))
  | .opImm o rd rs1 imm => plain (x.setX rd (aluEval o (x.getX rs1) (sext 12 imm.toNat)))
  | .un o rd rs1 => plain (x.setX rd (unEval o (x.getX rs1)))
  | .lui rd imm => plain (x.setX rd (sext 32 (imm.toNat * 4096)))
  | .auipc rd imm => plain (x.setX rd (x.pc + sext 32 (imm.toNat * 4096)))
  | .jal rd off => some (x.setX rd next, x.pc + sext 21 (off.toNat / 2 * 2))
  | .jalr rd rs1 imm => some (x.setX rd next, addImm (x.getX rs1) imm &&& ~~~1#64)
  | .branch o rs1 rs2 off =>
    some (x, if brEval o (x.getX rs1) (x.getX rs2) then x.pc + sext 13 (off.toNat / 2 * 2) else next)
  | .pause => plain x
  | .fp f o rm rd rs1 rs2 =>
    match o with
    | .add | .sub | .mul | .div => fp (fpArith f) rm fun mode => x.fpWrite f rd (fpOp (fpFmt f) o mode (x.getFp f rs1) (x.getFp f rs2))
    | _ => fp (fpArith f) 0 fun mode => x.fpWrite f rd (fpOp (fpFmt f) o mode (x.getFp f rs1) (x.getFp f rs2))
  | .fsqrt f rm rd rs1 => fp (fpArith f) rm fun mode => x.fpWrite f rd (fpSqrt (fpFmt f) mode (x.getFp f rs1))
  | .fma f np na rm rd rs1 rs2 rs3 =>
    fp (fpArith f) rm fun mode => x.fpWrite f rd (fpFma (fpFmt f) np na mode (x.getFp f rs1) (x.getFp f rs2) (x.getFp f rs3))
  | .fcmp f o rd rs1 rs2 => fp (fpArith f) 0 fun _ =>
      let r := fpCmp (fpFmt f) o (x.getFp f rs1) (x.getFp f rs2)
      x.intWrite rd (if r.1 then 1 else 0) r.2
  | .fclass f rd rs1 => fp (fpArith f) 0 fun _ => x.setX rd (BitVec.ofNat 64 (fpClass (fpFmt f) (x.getFp f rs1)))
  | .fcvtToInt f long uns rm rd rs1 => fp (fpArith f) rm fun mode =>
      let r := fpToInt (fpFmt f) (if long then 64 else 32) uns mode (x.getFp f rs1)
      x.intWrite rd (if long then ofI r.1 else ofIW r.1) r.2
  | .fcvtFromInt f long uns rm rd rs1 => fp (fpArith f) rm fun mode =>
      let a := x.getX rs1
      let v : Int := if long then (if uns then (a.toNat : Int) else toI a) else if uns then (low32 a : Int) else toI32 a
      x.fpWrite f rd (fpOfInt (fpFmt f) mode v)
  | .fcvt dst src rm rd rs1 => fp (fpConverts dst src) rm fun mode => x.fpWrite dst rd (fpConvert (fpFmt dst) (fpFmt src) mode (x.getFp src rs1))
  | .fmvToInt f rd rs1 => fp (fpArith f) 0 fun _ => x.setX rd (sext (fpFmt f).width (x.getF rs1).toNat)
  | .fmvFromInt f rd rs1 => fp (fpArith f) 0 fun _ => x.setFp f rd (x.getX rs1).toNat
  | .vsetvli vt rd rs1 => if x.vsOff then none else plain (x.vset rd (x.avlOf rd rs1) vt.toNat)
  | .vsetivli vt rd avl => if x.vsOff then none else plain (x.vset rd (some avl.toNat) vt.toNat)
  | .vsetvl rd rs1 rs2 => if x.vsOff then none else plain (x.vset rd (x.avlOf rd rs1) (x.getX rs2).toNat)
  | .vector w => (x.vector w).map fun y => (y, next)
  | .illegal _ => none

/-- ARITHMETIC_INSTRUCTION (R80, R84); c marks a compressed encoding. An encoding of the three Xcarkan opcodes that R91 does not
list, or with another value in a field that it shows as 00000, is illegal and raises that exception; one that it lists is that
instruction's own row, and nothing happens here. -/
def execArithmeticInstruction (p : Pcell) (h : HenIx) (c : Bool) (i : Arith) (s : State) : Out :=
  let len := if c then 2 else 4
  if !c && i.spellsXcarkan p h then .next s
  else s.henStep p h (.arithmeticInstruction p h c i) len fun s =>
    match arithRun (s.hen p h) len i with
    | none => .next (s.raise p h causeIllegal 0)
    | some (y, pc) => .next ((s.setHen p h { y.retire len with pc := pc }).countCell p 7 1)

end Sys2Proof.Machine
end

