-- ==== Sys2Proof/Machine/RegWrite.lean ====
section
/-! DEFINITION. Writes of BAR0 registers (R11, R12), one function per block over offsets in the block, and configuration requests (R343,
R346, R553). A write of a register that is read-only or reserved is ignored. A write in a protected window that is neither refused nor
ignored is logged (R572). -/
namespace Sys2Proof.Machine

/-- A write-one-to-clear bit in a protected window: logged where it is written as one. -/
def State.w1cLogged (s : State) (off : Nat) (v : Word) (mask : Word) (f : State → State) : State :=
  if v &&& mask = 0 then s else f (s.logWindow off v)

/-- Boot and log block (R579). -/
def State.bootWrite (s : State) (o : Nat) (v : Word) : State :=
  match o with
  | 0x108 => { s with harness := { s.harness with logHead := v } }
  | 0x120 => s.logSignWrite v
  | _ => s

/-- A write of CRASH_PART_p (R482): with an address outside the partition's chunks it is ignored. -/
def State.crashPartWrite (s : State) (q : Nat) (v : Word) : State :=
  let old := tget 0 s.errs.crashPart q
  let a := bfield v 20 32 * 2 ^ 20
  let size := bfield v 52 10
  let inside := s.inPart q a && s.inPart q (a + max 1 (size * 2 ^ 20) - 1)
  if !inside then s else
  let addr := bfield v 20 32
  let full := old.getLsbD 62 && !v.getLsbD 62
  let s := s.logWindow (0x4200 + 8 * q) v
  { s with errs := { s.errs with
    crashPart := tset 0 s.errs.crashPart q (putB 63 (v.getLsbD 63) ||| putB 62 full ||| put 52 size ||| put 20 addr) } }

/-- Fault and recovery block (R482). -/
def State.faultWrite (s : State) (o : Nat) (v : Word) : State :=
  match o with
  | 0x008 => { s with errs := { s.errs with fqHead := BitVec.ofNat 32 v.toNat } }
  | 0x018 => s.w1cLogged 0x4018 v 1 fun s => { s with errs := { s.errs with fqLost := false } }
  | 0x048 => { s with errs := { s.errs with errHead := BitVec.ofNat 32 v.toNat } }
  | 0x058 => s.w1cLogged 0x4058 v 1 fun s => { s with errs := { s.errs with errLost := false } }
  | 0x088 => s.crashFreeWrite v
  | 0x0C0 => s.retireWrite v
  | 0x0C8 => s.w1cLogged 0x40C8 v 2 fun s => { s with errs := { s.errs with retireRefused := false } }
  | 0x100 => s.w1cLogged 0x4100 v 1 fun s => s.warmResetNow 1
  | _ => match regIx o 0x200 32 with
    | some q => s.crashPartWrite q v
    | none => s

/-- The MSI-X table (R343): a vector that becomes unmasked while it is pending goes out. -/
def State.msixWrite (s : State) (o : Nat) (v : Word) : State :=
  match regIx o 0 4096 with
  | none => s
  | some k =>
    let s := s.logWindow (0xF0000 + o) v
    let s := s.setMsixWord k v
    if s.host.msixPending.contains (k / 2) && !s.msixMasked (k / 2) then
      ({ s with host := { s.host with msixPending := s.host.msixPending.filter (· != k / 2) } }).emit (.msix (k / 2))
    else s

/-- Coach command block (R237, R239). -/
def State.coachWrite (s : State) (o : Nat) (v : Word) : State :=
  let n := (o - 0x1000) / 0x100
  if o = 0x00 then s.coachCommand v s.coachRegs.arg []
  else if o = 0x08 then { s with coachRegs := { s.coachRegs with arg := v } }
  else if o = 0x10 then (if v.getLsbD 2 then { s with coachRegs := { s.coachRegs with overrun := false } } else s)
  else if 0x1000 ≤ o ∧ o < 0x1000 + 0x100 * 48 then
    (match o % 0x100 with
     | 0x20 => s.setCoach n { s.coach n with yieldTable := v &&& 0x000FFFFFFFFFE000 }
     | 0x28 => if v.getLsbD 2 then s.setCoach n { s.coach n with cancelled := false } else s
     | _ => s)
  else s

/-- Slice mailbox (R350). -/
def State.mbxWrite (s : State) (o : Nat) (v : Word) : State :=
  if o = 0x80 then s.mbxGo
  else if o = 0x88 then
    { s with host := { s.host with
      mbxOverrun := s.host.mbxOverrun && !v.getLsbD 2, mbxDone := s.host.mbxDone && !v.getLsbD 1 } }
  else match regIx o 0 8 with
    | some i =>
      if s.host.mbxWaits.isSome then { s with host := { s.host with mbxOverrun := true } }
      else { s with host := { s.host with mbxCmd := tset 0 s.host.mbxCmd i v } }
    | none => s

/-- BAR4 segments (R346, R347). -/
def State.segRegWrite (s : State) (o : Nat) (v : Word) : State :=
  if o = 0x200 then (if v.getLsbD 0 then { s with host := { s.host with segBad := false } } else s)
  else match regIx o 0 64 with
    | some k => s.segWrite k v
    | none => s

/-- Stage control block (R145). -/
def State.stageWrite (s : State) (o : Nat) (v : Word) : State :=
  let g := s.stage
  match o with
  | 0x08 => { s with stage := { g with ttImage := v &&& 0x000FFFFFFFFFFFC0 } }
  | 0x10 => s.ttLoadWrite (bfield v 0 6) (v.getLsbD 8)
  | 0x18 => s.ttSwapWrite v
  | 0x20 => { s with stage := { g with late := g.late && !v.getLsbD 3, overrun := g.overrun && !v.getLsbD 2 } }
  | 0x28 => s.slotOwn (bfield v 40 2) (bfield v 34 6) (bfield v 23 11) (bfield v 12 11) (bfield v 0 12)
  | 0x30 => { s with stage := { g with ownMask := v } }
  | 0x38 => { s with stage := { g with park := bfield v 0 48 } }
  | _ => s

/-- Scheduling block (R414). -/
def State.schedWrite (s : State) (o : Nat) (v : Word) : State :=
  if o = 0 then { s with sched := { s.sched with hyst := v } }
  else if o = 8 then { s with sched := { s.sched with promo := v } }
  else match regIx o 0x100 16, regIx o 0x800 16 with
    | some c, _ => s.classWrite c v
    | none, some r => s.inheritWrite r v
    | none, none => s

/-- Memory system block (R275). -/
def State.memSysWrite (s : State) (o : Nat) (v : Word) : State :=
  if o = 0x3000 then s.w1cLogged 0x303000 v 1 fun s => { s with wayConflict := false }
  else match regIx o 0x2000 33 with
    | some k => s.llcWaysWrite k v
    | none => s

/-- A write of COH_CTRL (R309): a field out of its range keeps its value. -/
def State.cohCtrlWrite (s : State) (v : Word) : State :=
  let mode := bfield v 24 2
  let hold := bfield v 0 9
  let s := s.logWindow 0x340000 v
  { s with coh := { s.coh with
    predMode := if mode = 3 then s.coh.predMode else BitVec.ofNat 2 mode
    hold := if 16 ≤ hold ∧ hold ≤ 256 then BitVec.ofNat 9 hold else s.coh.hold } }

/-- Coherence block (R309). -/
def State.cohWrite (s : State) (o : Nat) (v : Word) : State :=
  if o = 0 then s.cohCtrlWrite v
  else if o = 8 then s.w1cLogged 0x340008 v 0xC fun s =>
    { s with coh := { s.coh with strictOver := s.coh.strictOver && !v.getLsbD 3, syncBad := s.coh.syncBad && !v.getLsbD 2 } }
  else match regIx o 0x100 48, regIx o 0x400 32 with
    | some n, _ => if h : n < 48 then s.syncPageWrite ⟨n, h⟩ v else s
    | none, some q => if h : q < 32 then s.cohStrictWrite ⟨q, h⟩ v else s
    | none, none => s

/-- A write of XLT_APERTURE (R314, R342): once, with a BASE of at least 2^51. -/
def State.apertureWrite (s : State) (v : Word) : State :=
  let x := s.xlt
  if x.apertureLocked || bfield v 51 13 == 0 then s
  else
    let s := s.logWindow 0x380000 v
    { s with xlt := { s.xlt with aperture := v &&& 0xFFF8000000000000, apertureLocked := true } }

/-- Translation block (R342). -/
def State.xltWrite (s : State) (o : Nat) (v : Word) : State :=
  match o with
  | 0x000 => s.apertureWrite v
  | 0x010 => s.xltFlushWrite v
  | 0x100 => s.acCtrlWrite v
  | 0x108 => s.acBaseWrite v
  | 0x110 =>
    let s := s.logWindow 0x380110 v
    { s with xlt := { s.xlt with acHead := BitVec.ofNat 32 v.toNat } }
  | _ => s

/-- Power block (R551). -/
def State.powerWrite (s : State) (o : Nat) (v : Word) : State :=
  if o = 0 then s.w1cLogged 0x500000 v 8 fun s => { s with power := { s.power with strictRefused := false } }
  else match regIx o 0x100 32 with
    | some q => s.pwrStrictWrite q v
    | none => s

/-- Stable block (R525). -/
def State.stableWrite (s : State) (o : Nat) (v : Word) : State :=
  let t := s.stable
  if o = 0x80 then s.sbxGoWrite v
  else if o = 0x88 then s.w1cLogged 0x600088 v 6 fun s =>
    { s with stable := { s.stable with sbxOverrun := t.sbxOverrun && !v.getLsbD 2, sbxDone := t.sbxDone && !v.getLsbD 1 } }
  else match regIx o 0 8, regIx o 0x300 32 with
    | some i, _ => s.sbxCmdWrite i v
    | none, some q => s.partErrWrite q v
    | none, none => s

/-- Debug block (R594). -/
def State.debugWrite (s : State) (o : Nat) (v : Word) : State :=
  match o with
  | 0x00 => s.gstopWrite oPcie v
  | 0x10 => if v.getLsbD 63 then s else s.scanWrite false v
  | 0x18 => { s with dbg := { s.dbg with scanAddr := v &&& 0x000FFFFFFFFFF000 } }
  | 0x100 => s.ctrSnapWrite v
  | _ => match regIx o 0x200 48 with
    | some n => s.ctrExportWrite n v
    | none => s

/-! Windows. -/

/-- A write of SP_FLIP_CTRL or SP_FLIP_DATA (R483), protected registers (R572). -/
def State.spFlipRegWrite (s : State) (p : Nat) (data : Bool) (v : Word) : State :=
  let s := s.logWindow (cellWindow p + (if data then 0x210 else 0x208)) v
  let e := s.errs
  { s with errs := if data then { e with spFlipData := tset 0 e.spFlipData p v } else { e with spFlip := tset 0 e.spFlip p (v &&& 0xFF1F) } }

/-- Cell window of a pcell; ignored where the pcell serves a sealed partition (R507). -/
def State.cellWinWrite (s : State) (p o : Nat) (v : Word) : State :=
  let henIx := (o - 0x400) / 0x100
  if s.sealedCell p then s
  else if h : 0x400 ≤ o ∧ o < 0x800 ∧ henIx < 4 then
    let k : HenIx := ⟨henIx, h.2.2⟩
    (match o % 0x100 with
     | 0x00 => s.henCtrl p k v
     | 0x10 => s.setHen p k { s.hen p k with resetPc := v &&& 0x000FFFFFFFFFFFFE }
     | _ => s)
  else match o with
  | 0x050 => if v.getLsbD 0 then s.setOx p (s.ox p).flushWrite else s
  | 0x060 => s.setOx p ((s.ox p).writeSeed v)
  | 0x208 => s.spFlipRegWrite p false v
  | 0x210 => s.spFlipRegWrite p true v
  | 0x810 => if v.getLsbD 0 then s.setDray p 0 (s.dray p 0).flush else s
  | 0x850 => if v.getLsbD 0 then s.setDray p 1 (s.dray p 1).flush else s
  | _ => match regIx o 0x100 16, regIx o 0x900 32 with
    | some b, _ => s.bankOwnWrite p b v
    | none, some j => s.setCell p { s.cell p with streamMap := tset 0 (s.cell p).streamMap j (mapWord j v) }
    | none, none => s

/-- A write of a ring's registers (R198, R199): addresses are kept while the ring is enabled. -/
def State.ringWrite (s : State) (e n o : Nat) (v : Word) : State :=
  let r := (s.engine e).ring n
  let set (r' : Ring) : State := if r.enabled then s else s.setEngine e ((s.engine e).setRing n r')
  match o with
  | 0x00 => set { r with base := v &&& 0x000FFFFFFFFFF000 }
  | 0x08 => s.ringCfgWrite e n v
  | 0x10 => set { r with tailAddr := v &&& 0x000FFFFFFFFFFFF8 }
  | 0x18 => set { r with doneAddr := v &&& 0x000FFFFFFFFFFFF8 }
  | 0x30 => s.ringCtrlWrite e n v
  | _ => s

/-- A write of MC_FLIP_CTRL or MC_FLIP_ADDR (R484), protected registers (R572). -/
def State.mcFlipRegWrite (s : State) (c : Nat) (addr : Bool) (v : Word) : State :=
  let s := s.logWindow (ctlWindow c + (if addr then 0x11018 else 0x11010)) v
  let e := s.errs
  { s with errs := if addr then { e with mcFlipAddr := tset 0 e.mcFlipAddr c (v &&& 0x000FFFFFFFFFFFC0) } else { e with mcFlip := tset 0 e.mcFlip c (v &&& 0xFFFFFFFF03) } }

/-- The window of a stack or of an LPDDR5X controller (R198, R274, R484). -/
def State.ctlWinWrite (s : State) (c o : Nat) (v : Word) : State :=
  match o with
  | 0x00008 => if v.getLsbD 1 then s.setEngine c { s.engine c with mapOverrun := false } else s
  | 0x10000 => if v.getLsbD 1 then s.setMc c { s.mc c with overcommit := false } else s
  | 0x10008 => s.missLastWrite c v
  | 0x11010 => s.mcFlipRegWrite c false v
  | 0x11018 => s.mcFlipRegWrite c true v
  | _ =>
    if 0x1000 ≤ o ∧ o < 0x1000 + 0x40 * 48 then s.ringWrite c ((o - 0x1000) / 0x40) (o % 0x40) v
    else match regIx o 0x2000 (s.mapCount c), regIx o 0x10100 64 with
      | some k, _ => s.mapWrite c k v
      | none, some m => s.mcShareWrite c m v
      | none, none => s

/-- A write of BAR0. -/
def State.bar0Write (s : State) (off : Nat) (v : Word) : State :=
  let (b, o) := regBlock off
  match b with
  | .boot => s.bootWrite o v
  | .fault => s.faultWrite o v
  | .msix => s.msixWrite o v
  | .coach => s.coachWrite o v
  | .mbx => s.mbxWrite o v
  | .seg => s.segRegWrite o v
  | .stage => s.stageWrite o v
  | .sched => s.schedWrite o v
  | .memSys => s.memSysWrite o v
  | .coh => s.cohWrite o v
  | .xlt => s.xltWrite o v
  | .jbn => if o = 8 then s.jbnCtrlWrite v else s
  | .power => s.powerWrite o v
  | .stable => s.stableWrite o v
  | .debug => s.debugWrite o v
  | .cell p => s.cellWinWrite p o v
  | .ctl c => s.ctlWinWrite c o v
  | .none => s

/-- A write of a doorbell page: at an offset that the page does not list it is ignored and counted (R361). -/
def State.pageWrite (s : State) (pg o : Nat) (v : Word) : Out :=
  match o with
  | 0x000 => .next (s.dbTail pg v)
  | 0x040 => .next (s.dbWaitLatch pg v)
  | 0x048 => s.dbWait pg v
  | 0x080 => .next (s.dbSignalLatch pg v)
  | 0x088 => .next (s.dbSignal pg v)
  | 0x0A0 => .next (s.dbQuery pg v)
  | 0x0C0 => .next (s.dbEvent pg v)
  | _ => .next s.dbIgnore

/-- REGISTER_WRITE (R11, R12, R361): of BAR0 (offsets below 2^32) or, at 2^32 and above, of BAR2, as RC_REGISTER_READ reads them. -/
def execRegisterWrite (off : Nat) (v : Word) (s : State) : Out :=
  if off ≥ 2 ^ 32 then s.gateData fun s => s.pageWrite ((off - 2 ^ 32) / 4096) (off % 4096) v else s.gate fun s => .next (s.bar0Write off v)

/-! Configuration space (R343, R346, R553). -/

/-- Bit of the Unsupported Request flag in the Device Status register of the PCI Express capability. -/
def urBit : Nat := 19

/-- The bits of configuration space that R343 and R344 fix: (word, bits, value). The places of the fields within their structures
are PCI Express's own (PRESUMED, log 104). -/
def HostIf.cfgFixed (h : HostIf) : List (BitVec 10 × BitVec 32 × BitVec 32) :=
  let cap (c : Config.PciCap) (w : Nat) : BitVec 10 := Config.cfgCap c + BitVec.ofNat 10 w
  -- IDs and class code
  [(0, 0xFFFF0000, 0x48200000), (2, 0xFFFFFF00, 0x12000000),
  -- BAR0 and BAR2: 64-bit, non-prefetchable, 64 MiB and 256 MiB
    (4, 0x03FFFFFF, 0x4), (6, 0x0FFFFFFF, 0x4),
  -- BAR4: 64-bit, prefetchable, 2^n bytes
    (8, 0xFFFFFFFF, 0xC), (9, BitVec.ofNat 32 (2 ^ (h.bar4Log2 - 32) - 1), 0),
  -- one function: a type 0 header, not multi-function; no INTx
    (3, 0x00FF0000, 0), (15, 0x0000FF00, 0),
  -- Max Payload Size 512, no Function Level Reset; x16 at 128 GT/s, no ASPM; no AtomicOps
    (cap .express 1, 0x10000007, 0x2), (cap .express 2, 0x80000, putB urBit h.urLogged |>.truncate 32),
    (cap .express 3, 0x00000FFF, 0x107), (cap .express 9, 0x000003C0, 0),
  -- MSI-X: 2,048 vectors, table at BAR0 0xF_0000, PBA at BAR0 0xF_8000
    (cap .msix 0, 0x07FF0000, 0x07FF0000), (cap .msix 1, 0xFFFFFFFF, 0x000F0000), (cap .msix 2, 0xFFFFFFFF, 0x000F8000),
  -- ATS: Invalidate Queue Depth 32 (coded 0), Page Aligned Request
    (cap .ats 1, 0x0000003F, 0x20),
  -- PRI: Outstanding Page Request Capacity 512 (R327), and the allocation that the host wrote
    (cap .pri 2, 0xFFFFFFFF, 512), (cap .pri 3, 0xFFFFFFFF, BitVec.ofNat 32 h.pageAlloc),
  -- PASID: 20 bits, Execute Permitted, no Privileged Mode
    (cap .pasid 1, 0x00001F06, 0x00001402),
  -- Resizable BAR: one BAR, BAR4, of 64 GiB to 4 TiB
    (cap .rebar 1, 0xFFFFFFF0, 0x07F00000), (cap .rebar 2, 0x00003FE7, BitVec.ofNat 32 (0x24 + 2 ^ 8 * (h.bar4Log2 - 20))),
  -- 14-bit tags, as requester and completer; no L0p
    (cap .device3 1, 0x0000000E, 0x00000006)]

/-- What a word of configuration space reads: what R343 and R344 fix of it, the subsystem IDs, else what was written or its reset
value. -/
def State.cfgWord (s : State) (n : BitVec 10) : BitVec 32 :=
  if n = 11 then s.harness.subsystem
  else s.host.cfgFixed.foldl (fun w e => if e.1 = n then (w &&& ~~~e.2.1) ||| e.2.2 else w)
    ((tget none s.host.cfg n.toNat).getD (Config.cfgReset n))

/-- The size of BAR4 changes (R344, R347): every segment is disabled. -/
def HostIf.setBar4 (h : HostIf) (lg : Nat) : HostIf :=
  if h.bar4Log2 = lg ∨ lg < 36 ∨ lg > 42 then h else { h.closeSegs with bar4Log2 := lg }

/-- The host writes the page request allocation (R327): requests that now fit go out. -/
def State.setPageAlloc (s : State) (n : Nat) : State :=
  ({ s with host := { s.host with pageAlloc := n } } : State).sendWaiting

/-- A configuration request carried out: its state, and what a read returns. -/
def State.cfgRequest (s : State) (q : CfgReq) : State × BitVec 32 :=
  let h := s.host
  match q.reg, q.write with
  | .word n, none => (s, s.cfgWord n)
  | .word n, some v =>
    let old := s.cfgWord n
    let k := n.toNat
    if k = 0 ∨ k = 2 ∨ k = 11 then (s, 0)
    else
      let mask := if 4 ≤ k ∧ k ≤ 9 then BitVec.allOnes 32 else Config.cfgMask n
      let w := (old &&& ~~~mask) ||| (v &&& mask)
      let ur := h.urLogged && !(n == Config.cfgCap .express + 2 && v.getLsbD urBit)
      let s := { s with host := { h with cfg := tset none h.cfg k (some w), urLogged := ur } }
      (if n == Config.cfgCap .pri + 3 then s.setPageAlloc v.toNat
        else if n == Config.cfgCap .rebar + 2 then { s with host := s.host.setBar4 (20 + bfield (v.zeroExtend 64) 8 6) } else s, 0)
  | .bar4Size, none => (s, BitVec.ofNat 32 h.bar4Log2)
  | .bar4Size, some v => ({ s with host := h.setBar4 v.toNat }, 0)
  | .pageAllocation, none => (s, BitVec.ofNat 32 h.pageAlloc)
  | .pageAllocation, some v => (s.setPageAlloc v.toNat, 0)

/-- CONFIGURATION_REQUEST (R553, R554, R559): Retry Status until the module is ready or in the recovery state; a write completes without
data. -/
def execConfigurationRequest (q : CfgReq) (s : State) : Out :=
  if s.harness.down then .next s
  else if !(s.harness.ready || s.harness.recovery) then .next (s.emit .retryStatus)
  else
    let (s, v) := s.cfgRequest q
    .next (s.emit (.completion (if q.write.isSome then [] else bytesOf 4 v)))

end Sys2Proof.Machine
end

