-- ==== Sys2Proof/Machine/Dispatch.lean ====
section
/-! DEFINITION. The dispatch: one arm per command, each a direct call of its meaning. -/
namespace Sys2Proof.Machine

def exec (i : Instr) (s : State) : Host.Outcome State Fault Refusal :=
  match i with
  | .oxIssue p h vs2 => Sys2Proof.Machine.execOxIssue p h vs2 s
  | .oxDispatch p => Sys2Proof.Machine.execOxDispatch p s
  | .oxNop p => Sys2Proof.Machine.execOxNop p s
  | .wload p => Sys2Proof.Machine.execWload p s
  | .mma p conflicts => Sys2Proof.Machine.execMma p conflicts s
  | .epi p => Sys2Proof.Machine.execEpi p s
  | .cbload p => Sys2Proof.Machine.execCbload p s
  | .tload p => Sys2Proof.Machine.execTload p s
  | .accload p => Sys2Proof.Machine.execAccload p s
  | .barrier p => Sys2Proof.Machine.execBarrier p s
  | .oxRetire p => Sys2Proof.Machine.execOxRetire p s
  | .oxFlush p => Sys2Proof.Machine.execOxFlush p s
  | .oxSrSeedWrite p v => Sys2Proof.Machine.execOxSrSeedWrite p v s
  | .oxStateImageSave p => Sys2Proof.Machine.execOxStateImageSave p s
  | .splB p h rd rs1 imm => Sys2Proof.Machine.execSplB p h rd rs1 imm s
  | .splH p h rd rs1 imm => Sys2Proof.Machine.execSplH p h rd rs1 imm s
  | .splW p h rd rs1 imm => Sys2Proof.Machine.execSplW p h rd rs1 imm s
  | .splD p h rd rs1 imm => Sys2Proof.Machine.execSplD p h rd rs1 imm s
  | .splBu p h rd rs1 imm => Sys2Proof.Machine.execSplBu p h rd rs1 imm s
  | .splHu p h rd rs1 imm => Sys2Proof.Machine.execSplHu p h rd rs1 imm s
  | .splWu p h rd rs1 imm => Sys2Proof.Machine.execSplWu p h rd rs1 imm s
  | .spsB p h rs2 rs1 imm => Sys2Proof.Machine.execSpsB p h rs2 rs1 imm s
  | .spsH p h rs2 rs1 imm => Sys2Proof.Machine.execSpsH p h rs2 rs1 imm s
  | .spsW p h rs2 rs1 imm => Sys2Proof.Machine.execSpsW p h rs2 rs1 imm s
  | .spsD p h rs2 rs1 imm => Sys2Proof.Machine.execSpsD p h rs2 rs1 imm s
  | .vsplV p h vd rs1 => Sys2Proof.Machine.execVsplV p h vd rs1 s
  | .vspsV p h vs3 rs1 => Sys2Proof.Machine.execVspsV p h vs3 rs1 s
  | .oxWait p h rs1 => Sys2Proof.Machine.execOxWait p h rs1 s
  | .drayIssue p h vs2 d => Sys2Proof.Machine.execDrayIssue p h vs2 d s
  | .drayWait p h rs1 d => Sys2Proof.Machine.execDrayWait p h rs1 d s
  | .gigSend p h vs2 => Sys2Proof.Machine.execGigSend p h vs2 s
  | .gigRecv p h vd => Sys2Proof.Machine.execGigRecv p h vd s
  | .bankGive p h rd rs1 rs2 => Sys2Proof.Machine.execBankGive p h rd rs1 rs2 s
  | .bankHandover p b => Sys2Proof.Machine.execBankHandover p b s
  | .bankOwner p h rd rs1 => Sys2Proof.Machine.execBankOwner p h rd rs1 s
  | .epochGet p h rd => Sys2Proof.Machine.execEpochGet p h rd s
  | .yield p h id => Sys2Proof.Machine.execYield p h id s
  | .fenceI p h => Sys2Proof.Machine.execFenceI p h s
  | .cboFlush p h rs1 => Sys2Proof.Machine.execCboFlush p h rs1 s
  | .cboClean p h rs1 => Sys2Proof.Machine.execCboClean p h rs1 s
  | .cboInval p h rs1 => Sys2Proof.Machine.execCboInval p h rs1 s
  | .load p h c k rd rs1 imm => Sys2Proof.Machine.execLoad p h c k rd rs1 imm s
  | .store p h c k rs2 rs1 imm => Sys2Proof.Machine.execStore p h c k rs2 rs1 imm s
  | .amo p h op dbl aq rl rd rs1 rs2 => Sys2Proof.Machine.execAmo p h op dbl aq rl rd rs1 rs2 s
  | .lr p h dbl rd rs1 => Sys2Proof.Machine.execLr p h dbl rd rs1 s
  | .sc p h dbl rd rs1 rs2 => Sys2Proof.Machine.execSc p h dbl rd rs1 rs2 s
  | .lrDeferralEnd p line => Sys2Proof.Machine.execLrDeferralEnd p line s
  | .ecall p h => Sys2Proof.Machine.execEcall p h s
  | .ebreak p h c => Sys2Proof.Machine.execEbreak p h c s
  | .interrupt p h => Sys2Proof.Machine.execInterrupt p h s
  | .mtip p h => Sys2Proof.Machine.execMtip p h s
  | .finishProgram p h => Sys2Proof.Machine.execFinishProgram p h s
  | .henReset p h v => Sys2Proof.Machine.execHenReset p h v s
  | .henRun p h v => Sys2Proof.Machine.execHenRun p h v s
  | .henStop p h v => Sys2Proof.Machine.execHenStop p h v s
  | .softInt p h b => Sys2Proof.Machine.execSoftInt p h b s
  | .frameBoundary => Sys2Proof.Machine.execFrameBoundary s
  | .inject ep lane cyc => Sys2Proof.Machine.execInject ep lane cyc s
  | .hop sw lane cyc => Sys2Proof.Machine.execHop sw lane cyc s
  | .eject ep lane cyc => Sys2Proof.Machine.execEject ep lane cyc s
  | .ttLoad coach => Sys2Proof.Machine.execTtLoad coach s
  | .ttClear coach => Sys2Proof.Machine.execTtClear coach s
  | .ttLoadBegin n => Sys2Proof.Machine.execTtLoadBegin n s
  | .ttSwap v => Sys2Proof.Machine.execTtSwap v s
  | .setOwner coach laneCount laneFirst unit => Sys2Proof.Machine.execSetOwner coach laneCount laneFirst unit s
  | .setLendee coach laneCount laneFirst unit => Sys2Proof.Machine.execSetLendee coach laneCount laneFirst unit s
  | .freeBlocks coach laneCount laneFirst unit => Sys2Proof.Machine.execFreeBlocks coach laneCount laneFirst unit s
  | .clearLendee coach laneCount laneFirst unit => Sys2Proof.Machine.execClearLendee coach laneCount laneFirst unit s
  | .coachPark v => Sys2Proof.Machine.execCoachPark v s
  | .user p m => Sys2Proof.Machine.execUser p m s
  | .semReply p m => Sys2Proof.Machine.execSemReply p m s
  | .doorbell p m => Sys2Proof.Machine.execDoorbell p m s
  | .yieldReq p m => Sys2Proof.Machine.execYieldReq p m s
  | .epochSet p m => Sys2Proof.Machine.execEpochSet p m s
  | .clockSet p m => Sys2Proof.Machine.execClockSet p m s
  | .fault m => Sys2Proof.Machine.execFault m s
  | .nack p h moved => Sys2Proof.Machine.execNack p h moved s
  | .gigResend p h => Sys2Proof.Machine.execGigResend p h s
  | .gigDoorbellRead p h => Sys2Proof.Machine.execGigDoorbellRead p h s
  | .ringFetch e n => Sys2Proof.Machine.execRingFetch e n s
  | .muleNop e n => Sys2Proof.Machine.execMuleNop e n s
  | .gather e n => Sys2Proof.Machine.execGather e n s
  | .scatterAdd e n => Sys2Proof.Machine.execScatterAdd e n s
  | .reduce e n => Sys2Proof.Machine.execReduce e n s
  | .embedBag e n => Sys2Proof.Machine.execEmbedBag e n s
  | .copy e n => Sys2Proof.Machine.execCopy e n s
  | .fill e n => Sys2Proof.Machine.execFill e n s
  | .attend e n => Sys2Proof.Machine.execAttend e n s
  | .run e n => Sys2Proof.Machine.execRun e n s
  | .muleRetire e n => Sys2Proof.Machine.execMuleRetire e n s
  | .ringEnable e n v => Sys2Proof.Machine.execRingEnable e n v s
  | .ringDisable e n => Sys2Proof.Machine.execRingDisable e n s
  | .ringAbort e n => Sys2Proof.Machine.execRingAbort e n s
  | .ringFlush e n => Sys2Proof.Machine.execRingFlush e n s
  | .muleMapWrite e k v => Sys2Proof.Machine.execMuleMapWrite e k v s
  | .muleMapTakeEffect e => Sys2Proof.Machine.execMuleMapTakeEffect e s
  | .coachOpen cmd arg => Sys2Proof.Machine.execCoachOpen cmd arg s
  | .coachClose cmd arg => Sys2Proof.Machine.execCoachClose cmd arg s
  | .hitchCell cmd arg => Sys2Proof.Machine.execHitchCell cmd arg s
  | .unhitchCell cmd arg => Sys2Proof.Machine.execUnhitchCell cmd arg s
  | .moveCell cmd arg => Sys2Proof.Machine.execMoveCell cmd arg s
  | .moveGo cmd arg => Sys2Proof.Machine.execMoveGo cmd arg s
  | .moveCancel cmd arg => Sys2Proof.Machine.execMoveCancel cmd arg s
  | .setMem cmd arg => Sys2Proof.Machine.execSetMem cmd arg s
  | .setLink cmd arg => Sys2Proof.Machine.execSetLink cmd arg s
  | .setWindow cmd arg => Sys2Proof.Machine.execSetWindow cmd arg s
  | .coachReset cmd arg stuck => Sys2Proof.Machine.execCoachReset cmd arg stuck s
  | .quiesce p => Sys2Proof.Machine.execQuiesce p s
  | .targetResume p => Sys2Proof.Machine.execTargetResume p s
  | .moveLost p => Sys2Proof.Machine.execMoveLost p s
  | .overlapWindowClose n => Sys2Proof.Machine.execOverlapWindowClose n s
  | .cellClean p => Sys2Proof.Machine.execCellClean p s
  | .bankOwnWrite p b v => Sys2Proof.Machine.execBankOwnWrite p b v s
  | .drayLoad p d => Sys2Proof.Machine.execDrayLoad p d s
  | .drayStore p d => Sys2Proof.Machine.execDrayStore p d s
  | .recv p d => Sys2Proof.Machine.execRecv p d s
  | .send p d => Sys2Proof.Machine.execSend p d s
  | .prefetch p d => Sys2Proof.Machine.execPrefetch p d s
  | .streamMap p d => Sys2Proof.Machine.execStreamMap p d s
  | .ratomic p d => Sys2Proof.Machine.execRatomic p d s
  | .descriptorComplete p d => Sys2Proof.Machine.execDescriptorComplete p d s
  | .drayFlush p d => Sys2Proof.Machine.execDrayFlush p d s
  | .requestRead ep slot stream => Sys2Proof.Machine.execRequestRead ep slot stream s
  | .requestWrite ep slot stream => Sys2Proof.Machine.execRequestWrite ep slot stream s
  | .requestPrefetch ep slot stream => Sys2Proof.Machine.execRequestPrefetch ep slot stream s
  | .requestAtomic ep slot stream => Sys2Proof.Machine.execRequestAtomic ep slot stream s
  | .statusFlit p stream => Sys2Proof.Machine.execStatusFlit p stream s
  | .regulationWindow c waited => Sys2Proof.Machine.execRegulationWindow c waited s
  | .mcMissLastClear c v => Sys2Proof.Machine.execMcMissLastClear c v s
  | .mcShareWrite c m v => Sys2Proof.Machine.execMcShareWrite c m v s
  | .llcWaysWrite k v => Sys2Proof.Machine.execLlcWaysWrite k v s
  | .refreshChange c mode => Sys2Proof.Machine.execRefreshChange c mode s
  | .getS a line sharedOnly => Sys2Proof.Machine.execGetS a line sharedOnly s
  | .getM a line => Sys2Proof.Machine.execGetM a line s
  | .upgrade a line => Sys2Proof.Machine.execUpgrade a line s
  | .putS a line => Sys2Proof.Machine.execPutS a line s
  | .putE a line => Sys2Proof.Machine.execPutE a line s
  | .putD a line data => Sys2Proof.Machine.execPutD a line data s
  | .amoFar a line body => Sys2Proof.Machine.execAmoFar a line body s
  | .fwdGetS a line requester acks => Sys2Proof.Machine.execFwdGetS a line requester acks s
  | .fwdGetM a line requester acks => Sys2Proof.Machine.execFwdGetM a line requester acks s
  | .inv a line => Sys2Proof.Machine.execInv a line s
  | .snpData a line => Sys2Proof.Machine.execSnpData a line s
  | .snpInv a line => Sys2Proof.Machine.execSnpInv a line s
  | .fwdAmo e line requester body => Sys2Proof.Machine.execFwdAmo e line requester body s
  | .putAck a line => Sys2Proof.Machine.execPutAck a line s
  | .grant a line cont => Sys2Proof.Machine.execGrant a line cont s
  | .done a line => Sys2Proof.Machine.execDone a line s
  | .dataS a line data => Sys2Proof.Machine.execDataS a line data s
  | .dataE a line data => Sys2Proof.Machine.execDataE a line data s
  | .dataM a line data cont wait => Sys2Proof.Machine.execDataM a line data cont wait s
  | .refuse a line code => Sys2Proof.Machine.execRefuse a line code s
  | .retry a line => Sys2Proof.Machine.execRetry a line s
  | .credit a line => Sys2Proof.Machine.execCredit a line s
  | .invAck a line => Sys2Proof.Machine.execInvAck a line s
  | .snpResp a line code => Sys2Proof.Machine.execSnpResp a line code s
  | .wbData a line data => Sys2Proof.Machine.execWbData a line data s
  | .amoResp a line old hot => Sys2Proof.Machine.execAmoResp a line old hot s
  | .holdEnd a line => Sys2Proof.Machine.execHoldEnd a line s
  | .syncPageWrite n v => Sys2Proof.Machine.execSyncPageWrite n v s
  | .syncPageRecallDone => Sys2Proof.Machine.execSyncPageRecallDone s
  | .cohStrictWrite q v => Sys2Proof.Machine.execCohStrictWrite q v s
  | .xltReq p vpn w x pasid tag => Sys2Proof.Machine.execXltReq p vpn w x pasid tag s
  | .xltReqResend p tag => Sys2Proof.Machine.execXltReqResend p tag s
  | .xltResp p r => Sys2Proof.Machine.execXltResp p r s
  | .xltInv p q => Sys2Proof.Machine.execXltInv p q s
  | .xltInvAck p seq => Sys2Proof.Machine.execXltInvAck p seq s
  | .xltPage pasid n prg => Sys2Proof.Machine.execXltPage pasid n prg s
  | .atsTranslationCompletion die c => Sys2Proof.Machine.execAtsTranslationCompletion die c s
  | .atsInvalidateRequest q => Sys2Proof.Machine.execAtsInvalidateRequest q s
  | .invalidationAbandon itag => Sys2Proof.Machine.execInvalidationAbandon itag s
  | .prgResponse prg success => Sys2Proof.Machine.execPrgResponse prg success s
  | .xltFlush v => Sys2Proof.Machine.execXltFlush v s
  | .countDecay => Sys2Proof.Machine.execCountDecay s
  | .acRingReset base v => Sys2Proof.Machine.execAcRingReset base v s
  | .stepStart n => Sys2Proof.Machine.execStepStart n s
  | .stepRetire n => Sys2Proof.Machine.execStepRetire n s
  | .charge n => Sys2Proof.Machine.execCharge n s
  | .promotionCheck n => Sys2Proof.Machine.execPromotionCheck n s
  | .stopBoundary n => Sys2Proof.Machine.execStopBoundary n s
  | .spillSwap n => Sys2Proof.Machine.execSpillSwap n s
  | .spillComplete n => Sys2Proof.Machine.execSpillComplete n s
  | .refill n => Sys2Proof.Machine.execRefill n s
  | .acquire east m => Sys2Proof.Machine.execAcquire east m s
  | .release east m => Sys2Proof.Machine.execRelease east m s
  | .semTry east m => Sys2Proof.Machine.execSemTry east m s
  | .semRead east m => Sys2Proof.Machine.execSemRead east m s
  | .semSet east m => Sys2Proof.Machine.execSemSet east m s
  | .schedClassWrite c v => Sys2Proof.Machine.execSchedClassWrite c v s
  | .inheritCellWrite r v => Sys2Proof.Machine.execInheritCellWrite r v s
  | .commandTimeout n stuck => Sys2Proof.Machine.execCommandTimeout n stuck s
  | .jbnRead k pkt => Sys2Proof.Machine.execJbnRead k pkt s
  | .jbnWrite k pkt => Sys2Proof.Machine.execJbnWrite k pkt s
  | .jbnAtomic k pkt => Sys2Proof.Machine.execJbnAtomic k pkt s
  | .stream k pkt => Sys2Proof.Machine.execStream k pkt s
  | .readResp k pkt => Sys2Proof.Machine.execReadResp k pkt s
  | .writeResp k pkt => Sys2Proof.Machine.execWriteResp k pkt s
  | .atomicResp k pkt => Sys2Proof.Machine.execAtomicResp k pkt s
  | .epochNote k pkt => Sys2Proof.Machine.execEpochNote k pkt s
  | .epochNoteResend n => Sys2Proof.Machine.execEpochNoteResend n s
  | .handover k pkt => Sys2Proof.Machine.execHandover k pkt s
  | .handoverAck k pkt => Sys2Proof.Machine.execHandoverAck k pkt s
  | .handoverLost n tag => Sys2Proof.Machine.execHandoverLost n tag s
  | .fmResp k => Sys2Proof.Machine.execFmResp k s
  | .setId k pkt => Sys2Proof.Machine.execSetId k pkt s
  | .routeHdr k pkt => Sys2Proof.Machine.execRouteHdr k pkt s
  | .memberWrite k pkt => Sys2Proof.Machine.execMemberWrite k pkt s
  | .streamWrite k pkt => Sys2Proof.Machine.execStreamWrite k pkt s
  | .remoteWrite k pkt => Sys2Proof.Machine.execRemoteWrite k pkt s
  | .rehome k pkt => Sys2Proof.Machine.execRehome k pkt s
  | .port k pkt => Sys2Proof.Machine.execPort k pkt s
  | .portUp k => Sys2Proof.Machine.execPortUp k s
  | .portDown k lanes => Sys2Proof.Machine.execPortDown k lanes s
  | .linkCreditBlock k cls credits => Sys2Proof.Machine.execLinkCreditBlock k cls credits s
  | .streamPacketSend east n stream => Sys2Proof.Machine.execStreamPacketSend east n stream s
  | .requestTimeout tag => Sys2Proof.Machine.execRequestTimeout tag s
  | .scrub c => Sys2Proof.Machine.execScrub c s
  | .spFlipArm p v => Sys2Proof.Machine.execSpFlipArm p v s
  | .mcFlipArm c v => Sys2Proof.Machine.execMcFlipArm c v s
  | .retirePage v => Sys2Proof.Machine.execRetirePage v s
  | .retireBank v => Sys2Proof.Machine.execRetireBank v s
  | .retireCell v => Sys2Proof.Machine.execRetireCell v s
  | .collectorClose i_ => Sys2Proof.Machine.execCollectorClose i_ s
  | .faultNotice b => Sys2Proof.Machine.execFaultNotice b s
  | .pcellStopTimeout p => Sys2Proof.Machine.execPcellStopTimeout p s
  | .crashFree v => Sys2Proof.Machine.execCrashFree v s
  | .warmReset => Sys2Proof.Machine.execWarmReset s
  | .warmResetEscalation n => Sys2Proof.Machine.execWarmResetEscalation n s
  | .ceilingRevision p mhz => Sys2Proof.Machine.execCeilingRevision p mhz s
  | .errorSummaryWrite q => Sys2Proof.Machine.execErrorSummaryWrite q s
  | .stop w => Sys2Proof.Machine.execStop w s
  | .resume w => Sys2Proof.Machine.execResume w s
  | .counterExport n => Sys2Proof.Machine.execCounterExport n s
  | .arithmeticInstruction p h c i_ => Sys2Proof.Machine.execArithmeticInstruction p h c i_ s
  | .csrAccess p h op imm csr rd rs1 => Sys2Proof.Machine.execCsrAccess p h op imm csr rd rs1 s
  | .fence p h pred succ => Sys2Proof.Machine.execFence p h pred succ s
  | .wfi p h => Sys2Proof.Machine.execWfi p h s
  | .mret p h => Sys2Proof.Machine.execMret p h s
  | .refillComplete n => Sys2Proof.Machine.execRefillComplete n s
  | .sliceCreate ws => Sys2Proof.Machine.execSliceCreate ws s
  | .sliceDestroy ws => Sys2Proof.Machine.execSliceDestroy ws s
  | .doorbellSet ws => Sys2Proof.Machine.execDoorbellSet ws s
  | .contextCreate ws => Sys2Proof.Machine.execContextCreate ws s
  | .contextTeardown ws => Sys2Proof.Machine.execContextTeardown ws s
  | .fenceInit ws => Sys2Proof.Machine.execFenceInit ws s
  | .fenceFree ws => Sys2Proof.Machine.execFenceFree ws s
  | .fenceTable ws => Sys2Proof.Machine.execFenceTable ws s
  | .coachBind ws => Sys2Proof.Machine.execCoachBind ws s
  | .doorbellTail page v => Sys2Proof.Machine.execDoorbellTail page v s
  | .waitLatch page v => Sys2Proof.Machine.execWaitLatch page v s
  | .waitRegister page v => Sys2Proof.Machine.execWaitRegister page v s
  | .signalLatch page v => Sys2Proof.Machine.execSignalLatch page v s
  | .signal page v => Sys2Proof.Machine.execSignal page v s
  | .fenceQuery page v => Sys2Proof.Machine.execFenceQuery page v s
  | .eventHead page v => Sys2Proof.Machine.execEventHead page v s
  | .eventArm page v => Sys2Proof.Machine.execEventArm page v s
  | .bar4Read off len => Sys2Proof.Machine.execBar4Read off len s
  | .bar4Write off data => Sys2Proof.Machine.execBar4Write off data s
  | .bar4SegWrite k v => Sys2Proof.Machine.execBar4SegWrite k v s
  | .makeResident ctx => Sys2Proof.Machine.execMakeResident ctx s
  | .stableImport ws => Sys2Proof.Machine.execStableImport ws s
  | .destroy ws => Sys2Proof.Machine.execDestroy ws s
  | .partMode ws => Sys2Proof.Machine.execPartMode ws s
  | .ingest ws => Sys2Proof.Machine.execIngest ws s
  | .egest ws => Sys2Proof.Machine.execEgest ws s
  | .lcAdvance ws => Sys2Proof.Machine.execLcAdvance ws s
  | .debugUnlock ws => Sys2Proof.Machine.execDebugUnlock ws s
  | .jtagToken token => Sys2Proof.Machine.execJtagToken token s
  | .getVersion req => Sys2Proof.Machine.execGetVersion req s
  | .getCapabilities req => Sys2Proof.Machine.execGetCapabilities req s
  | .negotiateAlgorithms req => Sys2Proof.Machine.execNegotiateAlgorithms req s
  | .getDigests req => Sys2Proof.Machine.execGetDigests req s
  | .getCertificate req => Sys2Proof.Machine.execGetCertificate req s
  | .challenge req => Sys2Proof.Machine.execChallenge req s
  | .getMeasurements req => Sys2Proof.Machine.execGetMeasurements req s
  | .chunkGet req => Sys2Proof.Machine.execChunkGet req s
  | .getStatus inst body => Sys2Proof.Machine.execGetStatus inst body s
  | .setContract inst body => Sys2Proof.Machine.execSetContract inst body s
  | .setCooling inst body => Sys2Proof.Machine.execSetCooling inst body s
  | .getReport inst body => Sys2Proof.Machine.execGetReport inst body s
  | .minuteClose => Sys2Proof.Machine.execMinuteClose s
  | .controlInterval r => Sys2Proof.Machine.execControlInterval r s
  | .meterSample mV mA => Sys2Proof.Machine.execMeterSample mV mA s
  | .meterCheck firstMw secondMw => Sys2Proof.Machine.execMeterCheck firstMw secondMw s
  | .droop p edges => Sys2Proof.Machine.execDroop p edges s
  | .thermalTrip sensor tempC heldMs => Sys2Proof.Machine.execThermalTrip sensor tempC heldMs s
  | .pwrStrictWrite q v => Sys2Proof.Machine.execPwrStrictWrite q v s
  | .coldReset env => Sys2Proof.Machine.execColdReset env s
  | .perstAssert held => Sys2Proof.Machine.execPerstAssert held s
  | .modRstAssert held => Sys2Proof.Machine.execModRstAssert held s
  | .pwrEnChange high lowMs => Sys2Proof.Machine.execPwrEnChange high lowMs s
  | .inputOutOfRange mV => Sys2Proof.Machine.execInputOutOfRange mV s
  | .refclkSysLoss present => Sys2Proof.Machine.execRefclkSysLoss present s
  | .refclkFabLoss present => Sys2Proof.Machine.execRefclkFabLoss present s
  | .hotReset => Sys2Proof.Machine.execHotReset s
  | .requestUpdate pcie image => Sys2Proof.Machine.execRequestUpdate pcie image s
  | .activateFirmware => Sys2Proof.Machine.execActivateFirmware s
  | .getSensorReading id => Sys2Proof.Machine.execGetSensorReading id s
  | .changeLogDrain => Sys2Proof.Machine.execChangeLogDrain s
  | .logSign v => Sys2Proof.Machine.execLogSign v s
  | .scan jtag v => Sys2Proof.Machine.execScan jtag v s
  | .scanIn jtag v data => Sys2Proof.Machine.execScanIn jtag v data s
  | .ctrSnap v => Sys2Proof.Machine.execCtrSnap v s
  | .ctrExportWrite n v => Sys2Proof.Machine.execCtrExportWrite n v s
  | .registerWrite off v => Sys2Proof.Machine.execRegisterWrite off v s
  | .rcRegisterRead off => Sys2Proof.Machine.execRcRegisterRead off s
  | .configurationRequest q => Sys2Proof.Machine.execConfigurationRequest q s
  | .pcieCompletion addr data => Sys2Proof.Machine.execPcieCompletion addr data s
  | .fuseSeedsAtTest => Sys2Proof.Machine.execFuseSeedsAtTest s
  | .flashHeaderWrite dev off data => Sys2Proof.Machine.execFlashHeaderWrite dev off data s
  | .marginLoss unit lane => Sys2Proof.Machine.execMarginLoss unit lane s

end Sys2Proof.Machine
end

