-- ==== Sys2Proof/Safety.lean ====
section
/-! DEFINITION. The terms in which statements speak: a command that completes, a Hen that executes its instruction, what a
command leaves alone, and canonical tables. -/
namespace Sys2Proof

/-- A command completes in a state: its meaning answers a next state. -/
def Completes (i : Instr) (s : Machine.State) : Prop := ∃ t, Machine.exec i s = .next t

namespace Machine

/-- The table of cells is in canonical form, and so are the register tables of a Hen: it is so in every state that a run
reaches. -/
def State.cellsOk (s : State) : Bool := twf {} s.cells
def Hen.ok (x : Hen) : Bool := twf 0 x.x && twf 0 x.f && twf 0 x.v

/-- A Hen executes an instruction of len bytes: it runs, its clock runs, it is stalled in no other instruction, and its pc
translates to code that has not been modified (R82, R89, R117). -/
def State.henReady (s : State) (p : Nat) (h : HenIx) (i : Instr) (len : Nat) : Bool :=
  let x := s.hen p h
  s.henRuns p h && !Instr.henStalls x i &&
    (match s.fetch p h x.pc len with
     | .ok runs => runs.all fun r => !s.modified x r.1 r.2
     | _ => false)

/-- Every table of the state that is not within a cell, an engine, a slot or a port is in canonical form. -/
def State.canonical (s : State) : Bool :=
  twf {} s.cells && twf {} s.coaches && twf 0 s.mem && twf 0 s.hostMem && twf {} s.mcs && twf none (s.llc.map fun e => (e.1, some e.2)) && twf 0xFFFF s.llcWays &&
  twf 0x3F s.carve && twf {} s.engines && twf {} s.agents && twf {} s.homeLines && twf {} s.homes && twf [] s.refused &&
  twf [] s.retrying && twf {} s.tlbAgents &&
  twf 63 s.stage.owner && twf 63 s.stage.lendee && twf {} s.stage.tt && twf [] s.stage.outQ && twf [] s.stage.inQ &&
  twf 0 s.stage.epDrops && twf 0 s.coh.syncPage && twf 0 s.coh.strict && twf [] s.xlt.ac &&
  twf 0 s.jbn.types && twf {} s.jbn.ports && twf 0 s.jbn.noteAt &&
  twf {} s.host.slices && twf {} s.host.ctxs && twf 63 s.host.handles && twf {} s.host.tables && twf {} s.host.fences &&
  twf {} s.host.pages && twf 0 s.host.mbxCmd && twf 0 s.host.mbxResp && twf 0x3F00 s.host.segs && twf 0 s.host.msixTable &&
  twf none s.host.cfg && twf 0x10000000000 s.sched.classes && twf 0 s.sched.spillArea && twf 0 s.sched.inherit &&
  twf {} s.sched.slots && twf {} s.sched.sems &&
  twf none s.errs.collectors && twf 0 s.errs.noticeAt && twf 0 s.errs.ceCount && twf 0 s.errs.ceAt && twf 0 s.errs.crashPart &&
  twf none s.errs.resets && twf 0 s.errs.spFlip && twf 0 s.errs.spFlipData && twf 0 s.errs.scrubPos && twf 0 s.errs.scrubLap &&
  twf 0 s.errs.scrubStart && twf 0 s.errs.spBad && twf 0 s.errs.memBad && twf 0 s.errs.mcCe && twf 0 s.errs.mcUe &&
  twf 0 s.errs.mcFlip && twf 0 s.errs.mcFlipAddr &&
  twf {} s.stable.stalls && twf 0 s.stable.owners && twf 0 s.stable.imports && twf 0 s.stable.partErr && twf 0 s.stable.errCount &&
  twf 0 s.stable.sbxCmd && twf 0 s.stable.sbxResp && twf 0 s.stable.digests &&
  twf 0 s.power.contract && twf 1000 s.power.strictMhz && twf {} s.power.phases && twf {} s.power.obs &&
  twf 0xFF s.harness.flashA && twf 0xFF s.harness.flashB &&
  twf 0 s.dbg.coachCtr && twf 0 s.dbg.globalCtr && twf 0 s.dbg.coachSnap && twf 0 s.dbg.globalSnap && twf 0 s.dbg.ctrExport &&
  twf 0 s.dbg.exportAt

/-- No word that n bytes of a pcell's scratchpad touch is held with a flipped bit, and no flip is armed for it (R450, R454). -/
def State.spClean (s : State) (p a n : Nat) : Bool :=
  ((wordsOf a n).all fun w => tget 0 s.errs.spBad (spWord p w) == 0) && !(tget 0 s.errs.spFlip p).getLsbD 0

/-- Nothing but one cell differs. -/
def State.onlyCell (s t : State) (p : Nat) : Prop := t = { s with cells := t.cells } ∧ ∀ q, q ≠ p → t.cell q = s.cell q

/-- Nothing but one Hen differs, which is now x, and the counters of its cell. -/
def State.onlyHen (s t : State) (p : Nat) (h : HenIx) (x : Hen) : Prop :=
  s.onlyCell t p ∧ t.cell p = { s.cell p with hens := (s.cell p).hens.set h x, ctrs := (t.cell p).ctrs }

/-- An exception of a Hen's instruction is taken (R112, R113): the trap registers are written and the pc goes to mtvec; in U
mode, but for ECALL and EBREAK, the Hen is also held and the exception reported on the fault path, and the cell may have reached a
yield point without it. -/
def State.trapsTo (s t : State) (p : Nat) (h : HenIx) (cause : Nat) (tval : Word) : Prop :=
  let x := s.hen p h
  if x.mmode || cause = 8 || cause = causeBreak then s.onlyHen t p h (x.trap false cause tval)
  else ∃ u : State,
    u = { s with cells := u.cells, flight := s.flight ++ [(p, .fault (faultMsg p (s.cell p).slot.toNat h (faultCode 2 cause) 0))] } ∧
    (∀ q, q ≠ p → u.cell q = s.cell q) ∧
    u.cell p = { s.cell p with hens := (s.cell p).hens.set h { x.trap false cause tval with run := false }, ctrs := (u.cell p).ctrs } ∧
    t = u.noteYield p

end Machine

end Sys2Proof
end

