-- ==== Sys2Proof/Certificates/Slice0/Obligations.lean ====
section
/-! DEFINITION. The statements about the model that the provers prove. -/
open Sys2Proof Sys2Proof.Machine

/-- SPL loads its bytes little-endian, extends them and writes rd; SPS stores the low bytes of rs2 and nothing else; both trap past the scratchpad. (R92, R94, R112, R113, R117, R253) -/
def Obligations.ScratchpadAccessesMoveTheirBytes : Prop :=
  (∀ (s : State) (p : Pcell) (h : HenIx) (rd rs1 : Reg) (imm : BitVec 12), s.cellsOk = true →
     let x := s.hen p h
     let a := (addImm (x.getX rs1) imm).toNat
     let v := fun n => leNat (readBytes (s.cell p).sp a n)
     let loads := fun (i : Instr) (n : Nat) (r : Word) =>
       s.henReady p h i 4 = true → a + n ≤ 0x200000 → (s.cell p).ownsAll (ownerHen h) a n = true → s.spClean p a n = true →
         ∃ t, exec i s = .next t ∧ s.onlyHen t p h ((x.setX rd r).retire 4)
     loads (.splB p h rd rs1 imm) 1 (sext 8 (v 1)) ∧ loads (.splH p h rd rs1 imm) 2 (sext 16 (v 2)) ∧
     loads (.splW p h rd rs1 imm) 4 (sext 32 (v 4)) ∧ loads (.splD p h rd rs1 imm) 8 (BitVec.ofNat 64 (v 8)) ∧
     loads (.splBu p h rd rs1 imm) 1 (BitVec.ofNat 64 (v 1)) ∧ loads (.splHu p h rd rs1 imm) 2 (BitVec.ofNat 64 (v 2)) ∧
     loads (.splWu p h rd rs1 imm) 4 (BitVec.ofNat 64 (v 4))) ∧
  (∀ (s : State) (p : Pcell) (h : HenIx) (rs2 rs1 : Reg) (imm : BitVec 12), s.cellsOk = true → twf 0 s.errs.spBad = true →
     let x := s.hen p h
     let a := (addImm (x.getX rs1) imm).toNat
     let stores := fun (i : Instr) (n : Nat) =>
       s.henReady p h i 4 = true → a + n ≤ 0x200000 → s.spClean p a n = true →
         ((s.cell p).ownsAll (ownerHen h) a n = true →
           ∃ t, exec i s = .next t ∧ s.onlyCell t p ∧
             t.cell p = { s.cell p with
               hens := (s.cell p).hens.set h (x.retire 4)
               sp := writeBytes (s.cell p).sp a (natBytes n (x.getX rs2).toNat)
               ctrs := (t.cell p).ctrs } ∧
             ∀ j, j < a ∨ a + n ≤ j → tget 0 (t.cell p).sp j = tget 0 (s.cell p).sp j) ∧
         ((s.cell p).ownsAll (ownerHen h) a n = false → exec i s = .fault .bankNotOwned)
     stores (.spsB p h rs2 rs1 imm) 1 ∧ stores (.spsH p h rs2 rs1 imm) 2 ∧
     stores (.spsW p h rs2 rs1 imm) 4 ∧ stores (.spsD p h rs2 rs1 imm) 8) ∧
  (∀ (s : State) (p : Pcell) (h : HenIx) (r rs1 : Reg) (imm : BitVec 12), s.cellsOk = true →
     let a := addImm ((s.hen p h).getX rs1) imm
     let ranged := fun (i : Instr) (n : Nat) => s.henReady p h i 4 = true → 0x200000 < a.toNat + n →
       ∃ t, exec i s = .next t ∧ s.trapsTo t p h 24 a
     let owned := fun (i : Instr) (n : Nat) => s.henReady p h i 4 = true → a.toNat + n ≤ 0x200000 →
       (s.cell p).ownsAll (ownerHen h) a.toNat n = false → ∃ t, exec i s = .next t ∧ s.trapsTo t p h 25 a
     (ranged (.splB p h r rs1 imm) 1 ∧ ranged (.splH p h r rs1 imm) 2 ∧ ranged (.splW p h r rs1 imm) 4 ∧
       ranged (.splD p h r rs1 imm) 8 ∧ ranged (.splBu p h r rs1 imm) 1 ∧ ranged (.splHu p h r rs1 imm) 2 ∧
       ranged (.splWu p h r rs1 imm) 4) ∧
     (ranged (.spsB p h r rs1 imm) 1 ∧ ranged (.spsH p h r rs1 imm) 2 ∧ ranged (.spsW p h r rs1 imm) 4 ∧
       ranged (.spsD p h r rs1 imm) 8) ∧
     (owned (.splB p h r rs1 imm) 1 ∧ owned (.splH p h r rs1 imm) 2 ∧ owned (.splW p h r rs1 imm) 4 ∧
       owned (.splD p h r rs1 imm) 8 ∧ owned (.splBu p h r rs1 imm) 1 ∧ owned (.splHu p h r rs1 imm) 2 ∧
       owned (.splWu p h r rs1 imm) 4))

/-- VSPL.V loads and VSPS.V stores the elements from vstart to vl. (R93, R94) -/
def Obligations.VectorScratchpadMovesElements : Prop :=
  ∀ (s : State) (p : Pcell) (h : HenIx) (v rs1 : Reg), s.cellsOk = true → twf 0 s.errs.spBad = true →
    let x := s.hen p h
    let lg := x.sewLog
    let st := x.vstart.toNat
    let n := (x.vl.toNat - st) * 2 ^ lg
    let a := (x.getX rs1 + BitVec.ofNat 64 (st * 2 ^ lg)).toNat
    let elems := (span st (x.vl.toNat - st)).flatMap fun i => natBytes (2 ^ lg) (x.getElem v lg i)
    let fits := x.vill = false ∧ v.val % x.lmulRegs = 0 ∧ a + n ≤ 0x200000 ∧ (s.cell p).ownsAll (ownerHen h) a n = true ∧
      s.spClean p a n = true
    (s.henReady p h (.vsplV p h v rs1) 4 = true → fits → ∃ t, exec (.vsplV p h v rs1) s = .next t ∧
      s.onlyHen t p h (Hen.retire { x.setElems v lg st (readBytes (s.cell p).sp a n) (x.vl.toNat - st) with vstart := 0 } 4)) ∧
    (s.henReady p h (.vspsV p h v rs1) 4 = true → fits → ∃ t, exec (.vspsV p h v rs1) s = .next t ∧ s.onlyCell t p ∧
      t.cell p = { s.cell p with
        hens := (s.cell p).hens.set h (Hen.retire { x with vstart := 0 } 4)
        sp := writeBytes (s.cell p).sp a elems
        ctrs := (t.cell p).ctrs }) ∧
    (∀ i ∈ [Instr.vsplV p h v rs1, .vspsV p h v rs1], s.henReady p h i 4 = true → x.vill = true →
      ∃ t, exec i s = .next t ∧ s.trapsTo t p h 2 0)

/-- A Hen instruction that need not wait retires with the value it reads. (R36, R95, R96, R97, R98, R100, R102, R103, R104, R110, R116) -/
def Obligations.WaitsAndReadsRetire : Prop :=
  ∀ (s : State) (p : Pcell) (h : HenIx), s.cellsOk = true →
    let x := s.hen p h
    let c := s.cell p
    let retires := fun (i : Instr) (y : Hen) => s.henReady p h i 4 = true →
      ∃ t, exec i s = .next t ∧ s.onlyHen t p h (y.retire 4)
    let reached := fun (count : BitVec 32) (r : Reg) => (count.toNat + 2 ^ 32 - (x.getX r).toNat % 2 ^ 32) % 2 ^ 32 < 2 ^ 31
    (∀ rs1, c.ox.halt = false → reached c.ox.doneCount rs1 → retires (.oxWait p h rs1) x) ∧
    (∀ rs1 d, reached (c.dray d).doneCount rs1 → retires (.drayWait p h rs1 d) x) ∧
    (∀ vs2, c.ox.halt = true → retires (.oxIssue p h vs2) x) ∧
    (∀ vs2 d, (c.dray d).halt = true → retires (.drayIssue p h vs2 d) x) ∧
    (∀ vd m q, x.recvQ = m :: q → retires (.gigRecv p h vd) { x.setV vd (BitVec.ofNat 512 (gigBits m)) with recvQ := q }) ∧
    ((x.mip s.tick c.ox.halt &&& x.mie) ≠ 0 → retires (.wfi p h) x) ∧
    (∀ id, x.yieldPend = false → retires (.yield p h id) { x with lastYield := id }) ∧
    (∀ rd rs1, retires (.bankOwner p h rd rs1) (x.setX rd (BitVec.ofNat 64 (c.bankOwner ((x.getX rs1).toNat % 16)).toNat))) ∧
    (∀ rd, retires (.epochGet p h rd) (x.setX rd (BitVec.ofNat 64 (s.epochOf c.slot.toNat).toNat))) ∧
    (∀ rd rs1 rs2, tget [] c.handover ((x.getX rs1).toNat % 16) = [] →
      c.bankOwner ((x.getX rs1).toNat % 16) ∈ [ownerHen h, ownerOx, 5, 6] →
      BitVec.ofNat 3 (x.getX rs2).toNat = c.bankOwner ((x.getX rs1).toNat % 16) →
      retires (.bankGive p h rd rs1 rs2) (x.setX rd (BitVec.ofNat 64 (c.bankOwner ((x.getX rs1).toNat % 16)).toNat))) ∧
    (∀ pred succ, retires (.fence p h pred succ) x) ∧
    retires (.fenceI p h) { x with fenceSeq := s.writeSeq - 1 }

/-- A Hen stalls in an instruction that cannot complete yet. (R95, R96, R97, R98, R106, R116) -/
def Obligations.FullQueuesAndUnmetWaitsStall : Prop :=
  ∀ (s : State) (p : Pcell) (h : HenIx), s.cellsOk = true →
    let x := s.hen p h
    let c := s.cell p
    let stalls := fun (i : Instr) => s.henReady p h i 4 = true →
      ∃ t, exec i s = .next t ∧ s.onlyHen t p h { x with stall := some i, fetchWait := false }
    let reached := fun (count : BitVec 32) (r : Reg) => (count.toNat + 2 ^ 32 - (x.getX r).toNat % 2 ^ 32) % 2 ^ 32 < 2 ^ 31
    (∀ vs2, c.ox.halt = false → 64 ≤ c.ox.queue.length → stalls (.oxIssue p h vs2)) ∧
    (∀ vs2 d, (c.dray d).halt = false → 16 ≤ (c.dray d).queue.length → stalls (.drayIssue p h vs2 d)) ∧
    (∀ vs2, 8 ≤ x.sendQ.length → stalls (.gigSend p h vs2)) ∧
    (∀ vd, x.recvQ = [] → stalls (.gigRecv p h vd)) ∧
    (∀ rs1, c.ox.halt = false → ¬ reached c.ox.doneCount rs1 → stalls (.oxWait p h rs1)) ∧
    (∀ rs1 d, ¬ reached (c.dray d).doneCount rs1 → stalls (.drayWait p h rs1 d)) ∧
    ((x.mip s.tick c.ox.halt &&& x.mie) = 0 → stalls (.wfi p h))

/-- ECALL, EBREAK and the instruction faults enter M mode at mtvec with the cause, the pc and the status saved. (R81, R96, R100, R112, R113, R614) -/
def Obligations.TrapsEnterMachineMode : Prop :=
  ∀ (s : State) (p : Pcell) (h : HenIx), s.cellsOk = true →
    let x := s.hen p h
    let c := s.cell p
    let traps := fun (i : Instr) (n cause : Nat) (v : Word) => s.henReady p h i n = true →
      ∃ t, exec i s = .next t ∧ s.trapsTo t p h cause v
    (∀ cause v, cause < 2 ^ 63 →
      let y := x.trap false cause v
      y.mepc = x.pc ∧ y.mcause = BitVec.ofNat 64 cause ∧ y.mtval = v ∧ y.mmode = true ∧ y.pc = x.mtvec &&& ~~~3#64 ∧
      y.mstatus.getLsbD 7 = x.mstatus.getLsbD 3 ∧ y.mstatus.getLsbD 3 = false ∧ bfield y.mstatus 11 2 = (if x.mmode then 3 else 0) ∧
      y.x = x.x ∧ y.f = x.f ∧ y.v = x.v) ∧
    (traps (.ecall p h) 4 (if x.mmode then 11 else 8) 0 ∧ traps (.ebreak p h false) 4 3 0 ∧ traps (.ebreak p h true) 2 3 0) ∧
    (∀ rs1, c.ox.halt = true → traps (.oxWait p h rs1) 4 27 c.ox.fault) ∧
    (∀ rd rs1 rs2, let b := (x.getX rs1).toNat % 16
      (tget [] c.handover b).all (fun e => e.2 != h.val) = true →
      (BitVec.ofNat 3 (x.getX rs2).toNat = 7 ∨ c.nextOwner b ∉ [ownerHen h, ownerOx, 5, 6]) →
      traps (.bankGive p h rd rs1 rs2) 4 26 (BitVec.ofNat 64 b)) ∧
    (x.mmode = false → traps (.mret p h) 4 2 0)

/-- MRET returns, an enabled interrupt is taken, a due timer ends a WFI, and a program's end holds its Hen. (R81, R106, R113, R114, R116, R613) -/
def Obligations.ReturnsAndInterrupts : Prop :=
  ∀ (s : State) (p : Pcell) (h : HenIx), s.cellsOk = true →
    let x := s.hen p h
    (s.henReady p h (.mret p h) 4 = true → x.mmode = true → ∃ t, exec (.mret p h) s = .next t ∧
      ∃ m, s.onlyHen t p h { x.retire 4 with pc := x.mepc, mmode := bfield x.mstatus 11 2 == 3, mstatus := m } ∧
        m.getLsbD 3 = x.mstatus.getLsbD 7 ∧ m.getLsbD 7 = true ∧ bfield m 11 2 = 0) ∧
    (∀ n, s.unfrozen p = true → s.henRuns p h = true → x.interruptible = true → (x.mmode = true → x.mstatus.getLsbD 3 = true) →
      (s.mip p h &&& x.mie).getLsbD n = true →
      n ∈ [11, 3, 7, 18, 17, 16] → (∀ k ∈ [11, 3, 7, 18, 17, 16].takeWhile (· ≠ n), (s.mip p h &&& x.mie).getLsbD k = false) →
      ∃ t, exec (.interrupt p h) s = .next t ∧
        t.hen p h = (let y := if x.inWfi then x.retire 4 else x; if x.run then y.trap true n 0 else y) ∧
        (x.yieldId = none → t = (let u := if x.inWfi then (s.unwait p h).done p h 4 id else s.unwait p h
          if x.run then u.setHen p h ((u.hen p h).trap true n 0) else u))) ∧
    (s.mip p h).getLsbD 7 = decide (x.mtimecmp.toNat ≤ s.tick % 2 ^ 64) ∧
    (s.unfrozen p = true → s.henRuns p h = true → x.inWfi = true → (s.mip p h &&& x.mie).getLsbD 7 = true →
      ∃ t, exec (.mtip p h) s = .next t ∧ s.onlyHen t p h (x.retire 4)) ∧
    (s.unfrozen p = true → x.run = true → x.stall = none →
      exec (.finishProgram p h) s = .next ((s.setHen p h { x with run := false, mmode := true }).noteYield p) ∧
      (((s.setHen p h { x with run := false, mmode := true }).cell p).atYield = false →
        (s.setHen p h { x with run := false, mmode := true }).noteYield p = s.setHen p h { x with run := false, mmode := true }))

/-- HEN_CTRL resets, starts and stops its Hen, and drives MSIP. (R115, R116, R117, R614) -/
def Obligations.HenControlWrites : Prop :=
  ∀ (s : State) (p : Pcell) (h : HenIx) (v : Word), s.cellsOk = true → s.pcieOpen = true → s.sealedCell p = false →
    let x := { s.hen p h with softInt := v.getLsbD 2 }
    let z : Hen := { x.reset with fenceSeq := s.writeSeq - 1 }
    exec (.henReset p h v) s = .next (((((s.setCell p ((s.cell p).forgetGives h)).unwait p h).setHen p h
      (if v.getLsbD 0 then { z with run := true, fresh := false, pc := x.resetPc } else z)).noteYield p).checkInvs p) ∧
    (z.run = false ∧ z.mmode = true ∧ (∀ r, z.getX r = 0) ∧ (∀ r, z.getF r = 0) ∧ (∀ r, z.getV r = 0) ∧ z.vl = 0 ∧ z.vill = true ∧
      z.vstart = 0 ∧ z.mstatus.getLsbD 3 = false ∧ bfield z.mstatus 13 2 = 1 ∧ bfield z.mstatus 9 2 = 1 ∧ z.mie = 0 ∧ z.cycle = 0 ∧
      z.instret = 0 ∧ z.reserved = none ∧ z.mcause = 0 ∧ z.mepc = 0 ∧ z.mtval = 0 ∧ z.resetPc = x.resetPc) ∧
    exec (.henRun p h v) s = .next ((s.setHen p h
      (if x.run then x
       else if x.fresh then { x with run := true, fresh := false, pc := x.resetPc, fenceSeq := s.writeSeq - 1 }
       else { x with run := true })).noteYield p) ∧
    exec (.henStop p h v) s = .next ((s.setHen p h
      (if x.fetchWait || (x.interruptible && !x.inWfi) then { x with run := false, stall := none, fetchWait := false }
       else { x with run := false })).noteYield p) ∧
    (∀ b, exec (.softInt p h b) s = .next (s.setHen p h { s.hen p h with softInt := b })) ∧
    ((s.cell p).atYield = false → s.noteYield p = s)

/-- A bank's owner changes only when its handover takes effect. (R99, R100, R101, R250, R251, R252) -/
def Obligations.BankOwnershipMoves : Prop :=
  ∀ (s : State) (p : Pcell), s.cellsOk = true →
    let c := s.cell p
    (∀ (h : HenIx) (rd rs1 rs2 : Reg), let x := s.hen p h
      let b := (x.getX rs1).toNat % 16
      let new : BitVec 3 := BitVec.ofNat 3 (x.getX rs2).toNat
      let i := Instr.bankGive p h rd rs1 rs2
      s.henReady p h i 4 = true →
        let mine := (tget [] c.handover b).any fun e => e.2 == h.val
        (tget [] c.handover b = [] → c.nextOwner b = c.bankOwner b) ∧
        (mine = false → new ≠ 7 → new ≠ c.nextOwner b → c.nextOwner b ∈ [ownerHen h, ownerOx, 5, 6] →
          exec i s = .next (s.setCell p { c with
            hens := c.hens.set h { x with stall := some i, fetchWait := false }
            handover := tset [] c.handover b (tget [] c.handover b ++ [(new, h.val)]) })) ∧
        (mine = true → exec i s = .next (s.setHen p h { x with stall := some i, fetchWait := false }))) ∧
    (∀ (b : BankIx) (v : Word), s.pcieOpen = true → s.sealedCell p = false →
      exec (.bankOwnWrite p b v) s = .next (if v.toNat % 8 = 7 ∨ BitVec.ofNat 3 v.toNat = c.nextOwner b then s
        else s.setCell p { c with handover := tset [] c.handover b (tget [] c.handover b ++ [(BitVec.ofNat 3 v.toNat, 4)]) })) ∧
    (∀ (b : BankIx) (new : BitVec 3) (h : HenIx) (rd rs1 rs2 : Reg) rest, s.unfrozen p = true →
      tget [] c.handover b = (new, h.val) :: rest → (s.hen p h).stall = some (.bankGive p h rd rs1 rs2) → twf 1 c.owner = true →
      ∃ t, exec (.bankHandover p b) s = .next t ∧ s.onlyCell t p ∧ (t.cell p).bankOwner b = new ∧
        (∀ k, k ≠ b.val → (t.cell p).bankOwner k = c.bankOwner k) ∧
        t.hen p h = ((s.hen p h).setX rd (BitVec.ofNat 64 (c.bankOwner b).toNat)).retire 4) ∧
    (∀ (b : BankIx) (new : BitVec 3) rest, s.unfrozen p = true → tget [] c.handover b = (new, 4) :: rest →
      exec (.bankHandover p b) s = .next (s.setCell p { c with
        owner := tset 1 c.owner b new, handover := tset [] c.handover b rest }))

/-- An RV64 arithmetic, branch or vector-configuration instruction writes its result and goes to its next pc. (R80, R84, R91, R112) -/
def Obligations.ArithmeticInstructionsComplete : Prop :=
  ∀ (s : State) (p : Pcell) (h : HenIx) (c : Bool) (i : Arith), s.cellsOk = true →
    let x := s.hen p h
    let len := if c then 2 else 4
    (!c && i.spellsXcarkan p h) = false →
    s.henReady p h (.arithmeticInstruction p h c i) len = true →
    (∀ y pc, arithRun x.unstall len i = some (y, pc) →
      ∃ t, exec (.arithmeticInstruction p h c i) s = .next t ∧ s.onlyHen t p h { y.retire len with pc := pc }) ∧
    (arithRun x.unstall len i = none → ∃ t, exec (.arithmeticInstruction p h c i) s = .next t ∧ s.trapsTo t p h 2 0) ∧
    (∀ o rd rs1 rs2, i = .op o rd rs1 rs2 →
      arithRun x len i = some (x.setX rd (aluEval o (x.getX rs1) (x.getX rs2)), x.pc + BitVec.ofNat 64 len)) ∧
    (∀ o rs1 rs2 off, i = .branch o rs1 rs2 off →
      arithRun x len i = some (x, if brEval o (x.getX rs1) (x.getX rs2) then x.pc + sext 13 (off.toNat / 2 * 2) else x.pc + BitVec.ofNat 64 len)) ∧
    (∀ rd off, i = .jal rd off → arithRun x len i = some (x.setX rd (x.pc + BitVec.ofNat 64 len), x.pc + sext 21 (off.toNat / 2 * 2))) ∧
    (∀ a b : Word,
      aluEval .add a b = a + b ∧ aluEval .sub a b = a - b ∧ aluEval .and a b = a &&& b ∧ aluEval .or a b = a ||| b ∧
      aluEval .xor a b = a ^^^ b ∧ aluEval .mul a b = a * b ∧ aluEval .sltu a b = (if a.toNat < b.toNat then 1 else 0) ∧
      aluEval .slt a b = (if a.toInt < b.toInt then 1 else 0) ∧ aluEval .sll a b = a <<< (b.toNat % 64) ∧
      aluEval .div a 0 = -1 ∧ aluEval .divu a 0 = -1 ∧ aluEval .rem a 0 = a ∧ aluEval .remu a 0 = a ∧
      aluEval .div (BitVec.ofNat 64 (2 ^ 63)) (-1) = BitVec.ofNat 64 (2 ^ 63) ∧ aluEval .rem (BitVec.ofNat 64 (2 ^ 63)) (-1) = 0 ∧
      aluEval .sh3add a b = a * 8 + b ∧ aluEval .andn a b = a &&& ~~~b ∧ aluEval .czeroEqz a 0 = 0)

/-- A CSR instruction reads the old value into rd and writes the new one, and one that may not be done is illegal. (R103, R108, R109, R111, R112, R114) -/
def Obligations.CsrAccessesReadThenWrite : Prop :=
  ∀ (s : State) (p : Pcell) (h : HenIx) (op : CsrOp) (imm : Bool) (csr : BitVec 12) (rd rs1 : Reg), s.cellsOk = true →
    let i := Instr.csrAccess p h op imm csr rd rs1
    let x := s.hen p h
    let arg : Word := if imm then BitVec.ofNat 64 rs1.val else x.getX rs1
    let writes := op = .rw ∨ rs1 ≠ 0
    let new := fun (old : Word) => match op with
      | .rw => arg
      | .rs => old ||| arg
      | .rc => old &&& ~~~arg
    s.henReady p h (.csrAccess p h op imm csr rd rs1) 4 = true →
    (∀ v u, csrAllowed x.mmode (op == .rw || rs1 != 0) csr.toNat = true → (s.setHen p h x.unstall).csrRead p h csr.toNat = some (v, u) →
      exec (.csrAccess p h op imm csr rd rs1) s = .next
        (if op == .rw || rs1 != 0 then (u.done p h 4 fun y => y.setX rd v).csrWrite p h csr.toNat (new v)
         else u.done p h 4 fun y => y.setX rd v)) ∧
    ((csrAllowed x.mmode (op == .rw || rs1 != 0) csr.toNat = false ∨ csrAllowed x.mmode (op == .rw || rs1 != 0) csr.toNat = true ∧
        (s.setHen p h x.unstall).csrRead p h csr.toNat = none) →
      ∃ t, exec i s = .next t ∧ s.trapsTo t p h 2 0) ∧
    (x.mmode = true → csr = 0x340 → ∃ t, exec i s = .next t ∧
      (writes → s.onlyHen t p h { (x.setX rd x.mscratch).retire 4 with mscratch := new x.mscratch }) ∧
      (¬ writes → s.onlyHen t p h ((x.setX rd x.mscratch).retire 4))) ∧
    (x.mmode = true → csr = 0x341 → writes → ∃ t, exec i s = .next t ∧
      s.onlyHen t p h { (x.setX rd x.mepc).retire 4 with mepc := new x.mepc &&& ~~~1#64 }) ∧
    (x.mmode = true → csr = 0x304 → writes → ∃ t, exec i s = .next t ∧
      s.onlyHen t p h { (x.setX rd x.mie).retire 4 with mie := new x.mie &&& 0x70888 }) ∧
    (∀ v : Word, (csr, v) ∈ [(0xCC0, BitVec.ofNat 64 (s.cell p).lcell.toNat), (0xCC2, BitVec.ofNat 64 (s.epochOf (s.cell p).slot.toNat).toNat),
        (0xCC3, BitVec.ofNat 64 (s.cell p).ox.doneCount.toNat)] → ¬ writes →
      ∃ t, exec i s = .next t ∧ s.onlyHen t p h ((x.setX rd v).retire 4))

/-- A load or store whose lines the cell holds completes at once, one whose line is missing waits. (R80, R82, R83, R284, R286) -/
def Obligations.LoadsReadAndStoresWriteHeldLines : Prop :=
  ∀ (s : State) (p : Pcell) (h : HenIx) (c : Bool) (k : LoadKind) (g : StoreKind) (r rs1 : Reg) (imm : BitVec 12), s.cellsOk = true →
    let x := s.hen p h
    let u := s.setHen p h x.unstall
    let len := if c then 2 else 4
    let va := addImm (x.getX rs1) imm
    let at_ := fun (acc : Acc) (n a z : Nat) => s.xlat p h acc va = .ok a ∧ s.xlat p h acc (va + BitVec.ofNat 64 (n - 1)) = .ok z
    (s.henReady p h (.load p h c k r rs1 imm) len = true → ∀ n put fp a z, scalarLoad k = some (n, put, fp) →
      (fp = true → x.fsOff = false) → at_ .load n a z →
      ((∀ l ∈ spotLines n (a, z), (s.agent p l).st.readable = true) →
        ∃ t, exec (.load p h c k r rs1 imm) s = .next t ∧ s.onlyHen t p h ((put x r (leNat (s.spotRead p n (a, z)))).retire len)) ∧
      ((∃ l ∈ spotLines n (a, z), (s.agent p l).st.readable = false) →
        ∃ t, exec (.load p h c k r rs1 imm) s = .next t ∧
          t.hen p h = { x with stall := some (.load p h c k r rs1 imm), fetchWait := false })) ∧
    (s.henReady p h (.store p h c g r rs1 imm) len = true → ∀ n get fp a z, scalarStore g = some (n, get, fp) →
      (fp = true → x.fsOff = false) → at_ .store n a z →
      (∀ l ∈ spotLines n (a, z), (s.agent p l).st.writable = true) →
        exec (.store p h c g r rs1 imm) s = .next ((u.spotWrite p h n (a, z) (natBytes n (get x r))).done p h len id)) ∧
    (∀ m eew nf masked el pas ends, let n := 2 ^ (match el with | e :: _ => e.lg | [] => 0)
      x.vecElems m eew.val nf.val masked r (x.getX rs1) = some el →
      (s.henReady p h (.load p h c (.vec m eew nf masked) r rs1 imm) len = true →
        u.xlatAll p h .load (el.map (·.va)) = (pas, none) →
        u.xlatAll p h .load ((el.map (·.va)).map fun v => v + BitVec.ofNat 64 (n - 1)) = (ends, none) →
        (∀ e ∈ pas.zip ends, ∀ l ∈ spotLines n e, (s.agent p l).st.readable = true) →
        ∃ t, exec (.load p h c (.vec m eew nf masked) r rs1 imm) s = .next t ∧
          s.onlyHen t p h (Hen.retire { (el.zip (pas.zip ends)).foldl (fun y e =>
            y.setElem e.1.reg e.1.lg e.1.i (leNat (u.spotRead p n e.2))) x.unstall with vstart := 0 } len)) ∧
      (s.henReady p h (.store p h c (.vec m eew nf masked) r rs1 imm) len = true → m ≠ .faultFirst →
        u.xlatAll p h .store (el.map (·.va)) = (pas, none) →
        u.xlatAll p h .store ((el.map (·.va)).map fun v => v + BitVec.ofNat 64 (n - 1)) = (ends, none) →
        (∀ e ∈ pas.zip ends, ∀ l ∈ spotLines n e, (s.agent p l).st.writable = true) →
        exec (.store p h c (.vec m eew nf masked) r rs1 imm) s =
          .next (((el.zip (pas.zip ends)).foldl (fun v e => v.spotWrite p h n e.2 (natBytes n (x.getElem e.1.reg e.1.lg e.1.i))) u).done
            p h len fun y => { y with vstart := 0 }))) ∧
    (s.henReady p h (.load p h c k r rs1 imm) len = true → x.fsOff = true → k ∈ [.flh, .flw, .fld] →
      ∃ t, exec (.load p h c k r rs1 imm) s = .next t ∧ s.trapsTo t p h 2 0) ∧
    (s.henReady p h (.store p h c g r rs1 imm) len = true → x.fsOff = true → g ∈ [.fsh, .fsw, .fsd] →
      ∃ t, exec (.store p h c g r rs1 imm) s = .next t ∧ s.trapsTo t p h 2 0) ∧
    (∀ m eew nf masked, s.henReady p h (.load p h c (.vec m eew nf masked) r rs1 imm) len = true →
      x.vecElems m eew.val nf.val masked r (x.getX rs1) = none →
      ∃ t, exec (.load p h c (.vec m eew nf masked) r rs1 imm) s = .next t ∧ s.trapsTo t p h 2 0)

/-- Bytes written into the lines that a cell holds read back, and every other byte of every agent's lines stays. (R279, R284) -/
def Obligations.CellWritesStayInTheirBytes : Prop :=
  ∀ (s : State) (p : Pcell) (h : HenIx) (a : Nat) (bs : List Byte), twf {} s.agents = true → 0 < bs.length → bs.length ≤ 64 →
    a + bs.length ≤ 2 ^ 52 →
    let t := s.cellWrite p h a bs
    t.cellRead p a bs.length = bs ∧ t.mem = s.mem ∧
    (∀ l j, j < 64 → (lineAddr l + j < a ∨ a + bs.length ≤ lineAddr l + j) → byteAt (t.agent p l).data j = byteAt (s.agent p l).data j) ∧
    (∀ q l, q ≠ p.val → q < 2048 → t.agent q l = s.agent q l)

/-- AMO, LR and SC act on a line that the cell holds in E or M, and a misaligned one traps. (R83, R90, R296, R299, R302) -/
def Obligations.AtomicsActOnHeldLines : Prop :=
  ∀ (s : State) (p : Pcell) (h : HenIx) (op : AmoOp) (dbl aq rl : Bool) (rd rs1 rs2 : Reg) (a : Nat), s.cellsOk = true →
    let x := s.hen p h
    let va := x.getX rs1
    let n := if dbl then 8 else 4
    let l := lineNo a
    let val := fun (v : Nat) => if dbl then BitVec.ofNat 64 v else sext 32 v
    let amo := Instr.amo p h op dbl aq rl rd rs1 rs2
    let lr := Instr.lr p h dbl rd rs1
    let sc := Instr.sc p h dbl rd rs1 rs2
    let alone := ∀ g : HenIx, g ≠ h → (s.hen p g).lrDefer ≠ some l
    let at_ := fun (acc : Acc) => x.kept = [] ∧ va.toNat % n = 0 ∧ s.xlat p h acc va = .ok a ∧ s.xlat p h acc (va + BitVec.ofNat 64 (n - 1)) = .ok (a + n - 1)
    (s.henReady p h amo 4 = true → at_ .amo → alone → x.amoChoice ≠ 2 → s.isMule a = false → (x.amoChoice = 0 → s.amoFarHere p a = false) → (s.agent p l).st.writable = true →
      ∃ t, exec amo s = .next t ∧
        let r := amoLine (amoBody op dbl a (x.getX rs2)) (s.agent p l).data
        t.hen p h = { (x.setX rd (val r.2)).retire 4 with amoChoice := 0 } ∧
        (twf {} s.agents = true → (t.agent p l).st = .M)) ∧
    (s.henReady p h amo 4 = true → va.toNat % n = 0 → s.xlat p h .amo va = .ok a → x.amoChoice = 0 → s.amoFarHere p a = true → s.mayRequest p = true →
      ∃ t, exec amo s = .next t ∧ t.hen p h = { x with amoChoice := 2, stall := some amo, fetchWait := false } ∧
        (t.cell p).far = (s.cell p).far ++ [(h.val, l, if x.physical .amo then none else some (s.pasidOf p, va.toNat, (s.cell p).pageLg (s.pasidOf p) (va.toNat % 2 ^ 57)))] ∧
        (s.refusedAt p (homeEp l) = [] → t.flight = s.flight ++ [(p.val, .amoFar p.val l (amoBody op dbl a (x.getX rs2)))])) ∧
    (s.henReady p h lr 4 = true → at_ .lr → (x.lrDefer = none ∨ x.lrDefer = some l) → s.isMule a = false → (s.agent p l).st.writable = true →
      ∃ t, exec lr s = .next t ∧
        s.onlyHen t p h { (x.setX rd (val (leNat (s.cellRead p a n)))).retire 4 with reserved := some l, lrDefer := some l }) ∧
    (s.henReady p h sc 4 = true → at_ .sc → s.isMule a = false → x.reserved ≠ some l →
      ∃ t, exec sc s = .next t ∧ (x.lrDefer = none → s.onlyHen t p h { (x.setX rd 1).retire 4 with reserved := none })) ∧
    (s.henReady p h sc 4 = true → at_ .sc → alone → s.isMule a = false → x.reserved = some l → (s.agent p l).st.writable = true →
      x.lrDefer = none → ∃ t, exec sc s = .next t ∧ t.hen p h = { (x.setX rd 0).retire 4 with reserved := none } ∧
        (twf {} s.agents = true → t.cellRead p a n = natBytes n (x.getX rs2).toNat)) ∧
    (va.toNat % n ≠ 0 →
      (s.henReady p h lr 4 = true → ∃ t, exec lr s = .next t ∧ s.trapsTo t p h 4 va) ∧
      (s.henReady p h amo 4 = true → ∃ t, exec amo s = .next t ∧ s.trapsTo t p h 6 va) ∧
      (s.henReady p h sc 4 = true → ∃ t, exec sc s = .next t ∧ s.trapsTo t p h 6 va))

/-- CBO.FLUSH, CBO.CLEAN and CBO.INVAL act on their line in every cache once it is at rest, and a deferral ends. (R87, R296) -/
def Obligations.CacheBlockOperationsComplete : Prop :=
  (∀ (s : State) (p : Pcell) (h : HenIx) (rs1 : Reg) (a : Nat), s.cellsOk = true →
    let x := s.hen p h
    let va := x.getX rs1
    let l := lineNo a
    let u := s.setHen p h x.unstall
    let m := (s.cell p).slot.toNat
    (s.xlat p h .load va = .ok a ∨ (s.xlat p h .load va = .fail ∧ s.xlat p h .store va = .ok a)) →
    s.holdsMemory a = true → s.mayAccess (s.partOfCell p) a = true → s.quiet l = true →
    (s.agents.any fun e => e.1 / 2048 == l.toNat && e.1 % 2048 != p && s.defers (e.1 % 2048) l) = false →
    (s.henReady p h (.cboFlush p h rs1) 4 = true → exec (.cboFlush p h rs1) s = .next ((u.flushLine l false m).done p h 4 id)) ∧
    (s.henReady p h (.cboClean p h rs1) 4 = true → exec (.cboClean p h rs1) s = .next ((u.cleanLine l m).done p h 4 id)) ∧
    (s.henReady p h (.cboInval p h rs1) 4 = true → exec (.cboInval p h rs1) s = .next ((u.flushLine l x.mmode m).done p h 4 id))) ∧
  (∀ (s : State) (l : LineNo) (discard : Bool) (m q : Nat), twf {} s.agents = true → isCellEp q = true →
    ((s.flushLine l discard m).agent q l).st = .I) ∧
  (∀ (s : State) (p : Pcell) (line : LineNo), s.unfrozen p = true →
    exec (.lrDeferralEnd p line) s = .next (((s.setCell p { s.cell p with
      hens := (s.cell p).hens.map fun y => if y.lrDefer = some line then { y with lrDefer := none } else y }).drainDeferred p line).retryCell p none))

/-- OX.ISSUE, DRAY.ISSUE and GIG.SEND place their operand at the tail of a queue with room. (R28, R95, R97, R98, R151, R156, R255) -/
def Obligations.HenQueuesTakeCommands : Prop :=
  ∀ (s : State) (p : Pcell) (h : HenIx) (vs2 : Reg), s.cellsOk = true →
    let x := s.hen p h
    let c := s.cell p
    let m := gigOfBits (x.getV vs2).toNat
    (s.henReady p h (.oxIssue p h vs2) 4 = true → c.ox.halt = false → c.ox.queue.length < 64 →
      ∃ t, exec (.oxIssue p h vs2) s = .next t ∧ s.onlyCell t p ∧
        t.cell p = { c with hens := c.hens.set h (x.retire 4), ctrs := (t.cell p).ctrs
                            ox := { c.ox with queue := c.ox.queue ++ [BitVec.ofNat 256 (x.getV vs2).toNat] } }) ∧
    (∀ d, s.henReady p h (.drayIssue p h vs2 d) 4 = true → (c.dray d).halt = false → (c.dray d).queue.length < 16 →
      ∃ t, exec (.drayIssue p h vs2 d) s = .next t ∧ s.onlyCell t p ∧
        t.cell p = { c with
          hens := c.hens.set h (x.retire 4)
          ctrs := (t.cell p).ctrs
          drays := c.drays.set d { c.dray d with
            queue := (c.dray d).queue ++ [{ raw := x.getV vs2, umode := !x.mmode, pasid := s.pasidOf p }] } }) ∧
    (s.henReady p h (.gigSend p h vs2) 4 = true → x.sendQ.length < 8 →
      (x.mmode = false → m.type = 0x20 → ∃ t, exec (.gigSend p h vs2) s = .next t ∧ s.onlyCell t p ∧
        t.cell p = { c with hens := c.hens.set h (x.retire 4), ctrs := (t.cell p).ctrs
                            rejects := .ofNat 16 (satInc 16 c.rejects.toNat) }) ∧
      ((x.mmode = true ∨ m.type ≠ 0x20) → ∃ t, exec (.gigSend p h vs2) s = .next t ∧ (t.hen p h).pc = x.pc + 4 ∧
        (x.gigOut = true → s.onlyHen t p h ({ x with sendQ := x.sendQ ++ [m] }.retire 4)) ∧
        (∀ q : Pcell, x.sendQ = [] → x.gigOut = false → x.gigNack = false → x.gigTo = none → c.stopped = false → m.type = 1 →
          m.dst.getLsbD 27 = false → s.cellState p ≠ .free → s.placed c.slot.toNat (BitVec.ofNat 27 m.dst.toNat) = some q.val →
          t.hen p h = { x with sendQ := [m], gigOut := true, gigTo := some q.val }.retire 4 ∧
          t.flight = s.flight ++ [(p.val, .user q { m with coach := c.slot, srcHen := BitVec.ofNat 2 h.val, src := BitVec.ofNat 28 c.lcell.toNat })])))

/-- The Ox dispatches in queue order, NOP and BARRIER complete, and the oldest completed command retires. (R28, R29, R30, R31, R39) -/
def Obligations.OxDispatchesCompletesAndRetires : Prop :=
  (∀ (s : State) (p : Pcell), s.unfrozen p = true →
    let o := s.ox p
    (∀ c q, o.queue = c :: q → o.halt = false → o.frozen = false → (oxPipe c ≠ .none → o.waiting (oxPipe c) < 4) →
      oxCheck (fun b => (s.cell p).bankOwner b == ownerOx) o c = none →
      exec (.oxDispatch p) s = .next (s.setOx p (Ox.settle { o with
        queue := q
        inflight := o.inflight ++ [{ raw := c, kc := if oxOpcode c = 2 then ((o.wbInfo (oxWb c)).map WbMeta.kc).getD 0 else 0, late := o.flushPending }] }))) ∧
    (∀ before e after, o.inflight = before ++ e :: after → e.done = false → oxOpcode e.raw = 0 →
      (∀ b ∈ before, (oxOpcode b.raw = 0 → b.done = true) ∧ oxOpcode b.raw ≠ 7) →
      exec (.oxNop p) s = .next (s.setOx p (Ox.settle { o with inflight := before ++ { e with done := true } :: after }))) ∧
    (∀ e after, o.inflight = e :: after → e.done = false → oxOpcode e.raw = 7 →
      exec (.barrier p) s = .next (s.setOx p (Ox.settle { o with inflight := { e with done := true } :: after }))) ∧
    (∀ e rest, o.inflight = e :: rest → e.done = true →
      exec (.oxRetire p) s = .next (s.setOx p (Ox.settle { o with
        inflight := rest, retiredTag := e.raw.extractLsb' 16 16
        doneCount := if e.raw.getLsbD 15 then o.doneCount + 1 else o.doneCount })))) ∧
  (∀ o : Ox, o.seedPending = none → o.flushAfterEpi = false → o.flushPending = false → o.emptyAfter = [] →
    o.settle = { o with inflight := o.settle.inflight } ∧
    o.settle.inflight.map (fun e => (e.raw, e.kc, e.done, e.last)) = o.inflight.map (fun e => (e.raw, e.kc, e.done, e.last)))

/-- WLOAD, CBLOAD, TLOAD, MMA and ACCLOAD run the head of their pipeline. (R21, R24, R26, R29, R41, R42, R43, R61) -/
def Obligations.OxPipelinesRunTheirHeads : Prop :=
  ∀ (s : State) (p : Pcell), s.cellsOk = true → s.unfrozen p = true →
    let o := s.ox p
    let sp := fun a => tget 0 (s.cell p).sp a
    let clean := fun (e : OxEntry) => (oxPieces (oxReads e.kc e.raw)).all (fun x => s.spClean p x.1 x.2) = true
    let runs := fun (t : State) (o' : Ox) =>
      t = { s with cells := t.cells, dbg := { s.dbg with coachCtr := t.dbg.coachCtr } } ∧ (∀ q, q ≠ p.val → t.cell q = s.cell q) ∧
      t.cell p = { s.cell p with ox := o', ctrs := (t.cell p).ctrs }
    let with_ := fun before (e : OxEntry) after => { o with inflight := before ++ { e with done := true } :: after }
    (∀ before e after, o.head .load = some (before, e, after) → oxReady before e = true → oxOpcode e.raw = 1 → clean e →
      ∃ t, exec (.wload p) s = .next t ∧
        runs t (Ox.settle ((with_ before e after).setWb (oxWb e.raw) (some (wloadTile sp (with_ before e after) e.raw))))) ∧
    (∀ before e after, o.head .load = some (before, e, after) → oxReady before e = true → oxOpcode e.raw = 4 → clean e →
      ∃ t, exec (.cbload p) s = .next t ∧
        runs t (Ox.settle { with_ before e after with cbk := cbloadRun sp (with_ before e after) e.raw (oxf e.raw 32 8) })) ∧
    (∀ before e after, o.head .load = some (before, e, after) → oxReady before e = true → oxOpcode e.raw = 5 → clean e →
      ∃ t, exec (.tload p) s = .next t ∧
        runs t (Ox.settle { with_ before e after with tbl := tloadRun sp (with_ before e after) e.raw 288 })) ∧
    (∀ conflicts before e after w, o.head .array = some (before, e, after) → oxReady before e = true → oxOpcode e.raw = 2 →
      o.wb (oxWb e.raw) = some w → clean e →
      ∃ t, exec (.mma p conflicts) s = .next t ∧
        runs t { Ox.settle { with_ before e after with acc := mmaRun sp (with_ before e after) w e.raw (ox16 e.raw 6) } with
          busy := o.busy + BitVec.ofNat 64 (mmaCycles w e.raw (ox16 e.raw 6) + conflicts) }) ∧
    (∀ before e after, o.head .epilogue = some (before, e, after) → oxReady before e = true → oxOpcode e.raw = 6 → clean e →
      ∃ t, exec (.accload p) s = .next t ∧
        runs t (Ox.settle { with_ before e after with acc := accloadRun sp (with_ before e after) e.raw (ox16 e.raw 6) }))

/-- EPI writes its output rows and scales to banks of the Ox, and stops where the spec leaves it undefined. (R9, R25, R29, R33, R47, R253) -/
def Obligations.EpiWritesItsRows : Prop :=
  ∀ (s : State) (p : Pcell) before e after, s.cellsOk = true → twf 0 s.errs.spBad = true → s.unfrozen p = true →
    let o := s.ox p
    let c := e.raw
    let out := epiRows (fun a => tget 0 (s.cell p).sp a) o c (ox16 c 6) 0 o.seed
    let owned := (oxWriteBanks c).all (fun b => (s.cell p).bankOwner b == ownerOx)
    o.head .epilogue = some (before, e, after) → oxReady before e = true → oxOpcode c = 3 →
      (oxOverlap c = false → owned = true →
        (oxPieces (oxReads e.kc c)).all (fun x => s.spClean p x.1 x.2) = true →
        out.1.all (fun x => s.spClean p x.1 x.2.length) = true →
        ∃ t, exec (.epi p) s = .next t ∧ t = { s with cells := t.cells } ∧ (∀ q, q ≠ p.val → t.cell q = s.cell q) ∧
          t.cell p = { s.cell p with
            ox := Ox.settle { o with inflight := before ++ { e with done := true } :: after, seed := out.2 }
            sp := out.1.foldl (fun m x => writeBytes m x.1 x.2) (s.cell p).sp
            ctrs := (t.cell p).ctrs }) ∧
      (oxOverlap c = true → exec (.epi p) s = .fault .oxOverlap) ∧
      (oxOverlap c = false → owned = false → exec (.epi p) s = .fault .bankNotOwned)

/-- A command that fails its check halts the Ox; FLUSH, the seed and the state image. (R35, R36, R44, R47, R399, R463, R612) -/
def Obligations.OxFaultsHaltAndFlushClears : Prop :=
  ∀ (s : State) (p : Pcell), s.cellsOk = true →
    let o := s.ox p
    let c := s.cell p
    (∀ x q kind addr, s.unfrozen p = true → o.queue = x :: q → o.halt = false → o.frozen = false → o.flushPending = false →
      o.flushAfterEpi = false → (oxPipe x ≠ .none → o.waiting (oxPipe x) < 4) →
      oxCheck (fun b => c.bankOwner b == ownerOx) o x = some (kind, addr) →
      ∃ t, exec (.oxDispatch p) s = .next t ∧
        (t.ox p).queue = [] ∧ (t.ox p).halt = true ∧ (t.ox p).inflight.map (·.raw) = o.inflight.map (·.raw) ∧
        (t.ox p).fault = put 48 (oxTag x) ||| put 40 (oxOpcode x) ||| put 36 kind ||| put 20 addr ||| 1 ∧
        t.flight = s.flight ++ [(p.val, .fault (faultMsg p c.slot.toNat 0 (256 + kind) (oxTag x)))] ∧
        t = { s with cells := t.cells, flight := t.flight }) ∧
    (s.pcieOpen = true → s.sealedCell p = false →
      exec (.oxFlush p) s = .next (s.setOx p (if o.srRunning then { o with flushAfterEpi := true }
        else Ox.settle { o with queue := [], inflight := (o.inflight.filter fun e => e.done || e.started).map fun e => { e with late := false }, flushPending := true }))) ∧
    (o.inflight = [] → o.seedPending = none → o.flushAfterEpi = false →
      Ox.settle { o with queue := [], inflight := [], flushPending := true } = { o with
        queue := [], halt := false, fault := 0, flushPending := false, emptyAfter := []
        wb0 := if o.emptyAfter.contains 0 then none else o.wb0, wb1 := if o.emptyAfter.contains 1 then none else o.wb1 }) ∧
    (∀ v, s.pcieOpen = true → s.sealedCell p = false →
      exec (.oxSrSeedWrite p v) s = .next (s.setOx p (if o.srRunning then { o with seedPending := some (v.truncate 32) } else { o with seed := v.truncate 32 }))) ∧
    (∀ level, s.dbg.module = false → (s.slotSched c.slot.toNat).switch = .spilling level → o.frozen = true → o.drained = true →
      exec (.oxStateImageSave p) s = .next ((s.setSlotSched c.slot.toNat (let x := s.slotSched c.slot.toNat
        x.setLevel level { x.level level with
          cells := (x.level level).cells.map fun e => if e.lcell = c.lcell then { e with ox := o } else e })).spillContext
            c.slot.toNat level c.lcell))

/-- INJECT sends a stream's next flit, HOP forwards the flit of the coach in force and EJECT delivers it. (R118, R121, R122, R123, R131, R136, R140, R208, R209, R582) -/
def Obligations.StageMovesFlits : Prop :=
  ∀ (s : State) (node lane cyc : Nat), s.cellsOk = true → s.dbg.module = false →
    let c := cyc % 1024
    let now := 1024 * s.stage.frame + c
    (∀ sw l lat n lent r f q, lanePartner (epNode node) lane = some (sw, l, lat) → s.injector (epNode node) lane (c / 16) = some (n, lent) →
      s.laneFree sw l (now + lat) = true → (isCellEp node = true → (s.cell node).frozen = false) →
      (isCellEp node = true → (r.inn = 62 → s.cellState node ≠ .moveOut) ∧ (r.inn = 63 → (s.cell node).stub = false)) →
      ((s.tt n).buf (s.tt n).activeB).find? (fun r => r.kind == 1 && r.unit == node && r.out == lane && r.lent == lent && r.covers c) = some r →
      tget [] s.stage.outQ (streamKey node n r.inn) = f :: q →
      ∃ t, exec (.inject node lane cyc) s = .next t ∧
        t.stage = { s.stage with
          outQ := tset [] s.stage.outQ (streamKey node n r.inn) q
          flits := s.stage.flits ++ [{ node := sw, lane := l, at_ := now + lat, flit := {
            payload := f, stream := BitVec.ofNat 6 r.inn, coach := BitVec.ofNat 6 n, tt := (s.tt n).activeB, src := node
            epoch := if n = 62 then 0 else BitVec.ofNat 16 (s.epochOf n).toNat } }] } ∧
        t.jbn = { s.jbn with arriving := leaveIngress (streamKey node n r.inn) s.jbn.arriving } ∧
        t = { s with stage := t.stage, jbn := t.jbn, cells := t.cells, dbg := { s.dbg with coachCtr := t.dbg.coachCtr } } ∧
        ∀ p, t.cell p = { s.cell p with ctrs := (t.cell p).ctrs }) ∧
    (s.injector (epNode node) lane (c / 16) = none → exec (.inject node lane cyc) s = .next s) ∧
    (∀ nd l lat r x, swPartner node lane = some (nd, l, lat) → s.laneFree nd l (now + lat) = true →
      let n := s.coachInForce node lane (c / 16)
      let o := s.blockOwner node lane (c / 16)
      let b := s.tt n
      ttFind (b.buf b.activeB) 2 node lane c = some r → ttFind (b.buf (!b.activeB)) 2 node lane c = none →
      (s.stage.flits.filter fun y => y.node == node && y.lane == r.inn && y.at_ + 2 == now && y.flit.tt == b.activeB) = [x] →
      (x.flit.coach.toNat = n → x.flit.code ≠ 2 →
        let u := s.corrected (2048 + node) x.flit
        exec (.hop node lane cyc) s =
          .next { u.1 with stage := { u.1.stage with flits := u.1.stage.flits ++ [{ node := nd, lane := l, at_ := now + lat, flit := u.2 }] } }) ∧
      ((x.flit.coach.toNat ≠ n ∨ x.flit.code = 2) → exec (.hop node lane cyc) s = .next (s.countCoach o 2 1))) ∧
    (∀ x r, s.stage.flits.find? (fun x => x.node == epNode node && x.lane == lane && x.at_ == now && !x.taken) = some x →
      let n := x.flit.coach.toNat
      let t := { s with stage := { s.stage with
        flits := s.stage.flits.map fun (y : FlitInFlight) => if y.node = epNode node ∧ y.lane = lane ∧ y.at_ = now then { y with taken := true } else y } }
      (x.flit.code = 2 → exec (.eject node lane cyc) s = .next (t.countCoach n 2 1)) ∧
      (x.flit.code = 0 → ttFind ((s.tt n).buf x.flit.tt) 3 node lane c = some r →
        ((isCellEp node && (s.cell node).frozen) = false → exec (.eject node lane cyc) s = .next (t.accept node n r.inn x.flit)) ∧
        ((isCellEp node && (s.cell node).frozen) = true → exec (.eject node lane cyc) s = .next (t.stopFifo node n r.inn x.flit))) ∧
      (n ≠ 62 → s.epochOk n x.flit.epoch = false →
        t.accept node n r.inn x.flit = ((if isCellEp node then t.countCell node 2 1 else t).countCoach n 1 1).staleDrop n)) ∧
    (∀ f, f.code = 0 → s.corrected node f = (s, f)) ∧
    (∀ f, f.code = 1 → s.corrected node f = (s.logErr errCe 7 node 0 0x3F 0xFF 0, { f with code := 0 }))

/-- Timetable loads, clears, swaps and parking, and what a frame boundary does with them. (R124, R134, R136, R137, R138, R140, R146) -/
def Obligations.TimetablesLoadSwapAndFramesAdvance : Prop :=
  (∀ (s : State) (n : Slot) (v : Word),
    (s.pcieOpen = true → s.stage.loading = none → s.swapArmed n = false →
      let g := s.stage.result n 0 0
      exec (.ttLoad (BitVec.ofNat 6 n.val)) s = .next { s with stage := { g with loading := some (n, false, s.stage.ttImage.toNat) } } ∧
      (s.ttMayWrite n = true →
        exec (.ttClear (BitVec.ofNat 6 n.val)) s = .next
          (({ s with stage := g } : State).setTt n { (s.tt n).setBuf (!(s.tt n).activeB) [] with loaded := false }).freeVacated)) ∧
    (∀ coach, s.pcieOpen = true → s.stage.loading.isSome = true →
      ∀ i ∈ [Instr.ttLoad coach, .ttClear coach], exec i s = .next { s with stage := { s.stage with overrun := true } }) ∧
    (∀ a, s.dbg.module = false → s.stage.loading = some (n, false, a) → s.ttMayWrite n = true →
      let u := { s with stage := { s.stage with loading := none } }
      (∀ l, u.ttImage n a = .ok l → exec (.ttLoadBegin n) s = .next
        (u.setTt n { (s.tt n).setBuf (!(s.tt n).activeB) l with loaded := true }).freeVacated) ∧
      (∀ e, u.ttImage n a = .error e → exec (.ttLoadBegin n) s = .next { u with stage := u.stage.result n e.1 e.2 })) ∧
    (s.pcieOpen = true → v.getLsbD 63 = true → bfield v 50 6 = n → s.swapArmed n = false → (s.tt n).loaded = true → s.ttLoading n = false →
      ∃ t, exec (.ttSwap v) s = .next t ∧ t = { s with stage := t.stage } ∧
        t.stage = { s.stage with
          ttSwap := v &&& 0x00FFFFFFFFFFFFFF, ttError := 0, ttRecord := 0, lastCoach := n
          tt := tset {} s.stage.tt n { s.tt n with armed := some (s.stage.frame / 2 ^ 50 * 2 ^ 50 + bfield v 0 50) } }) ∧
    (s.pcieOpen = true → exec (.coachPark v) s = .next { s with stage := { s.stage with park := bfield v 0 48 } })) ∧
  (∀ (s : State), s.dbg.module = false →
    (exec .frameBoundary s = .next ((span 0 48).foldl (fun s n => s.slotBoundary n) s.nextFrame.swapsDue).teardownBoundary) ∧
    s.nextFrame.stage = { s.stage with
      frame := s.stage.frame + 1, parkInForce := s.stage.park, parkPrev := s.stage.parkInForce
      flits := s.stage.flits.filter fun x => decide (x.at_ + 2 ≥ 1024 * (s.stage.frame + 1)) } ∧
    s.nextFrame = { s with stage := s.nextFrame.stage } ∧
    (∀ n b f, s.stage.tt = [(n, b)] → b.armed = some f → f = s.stage.frame + 1 → n < 48 →
      s.nextFrame.swapsDue.tt n =
        { b with activeB := !b.activeB, loaded := false, armed := none, lastSwap := some s.nextFrame.stageNow }))

/-- SET_OWNER, SET_LENDEE, FREE_BLOCKS and CLEAR_LENDEE change the named blocks and no other. (R126, R141, R616) -/
def Obligations.BlockOwnershipCommandsSetTheirBlocks : Prop :=
  ∀ (s : State) (coach : BitVec 6) (count first : BitVec 11) (unit : BitVec 12), twf 63 s.stage.owner = true → twf 63 s.stage.lendee = true →
    let node := if unit.toNat < 2048 then epNode unit.toNat else unit.toNat - 2048
    let bs := s.ownBlocks count.toNat first.toNat unit.toNat
    s.pcieOpen = true → s.stage.loading = none → unit.toNat < 2048 + 22 → 0 < count.toNat → first.toNat + count.toNat ≤ nodeLanes node →
    (∀ x ∈ bs, s.blockOwner x.1 x.2.1 x.2.2 ≠ 62 ∧ ∀ n, s.blockUsed n x = false) →
    let sets := fun (i : Instr) (owner lendee : Nat → Nat) =>
      ∃ t, exec i s = .next t ∧ t = { s with stage := t.stage } ∧
        t.stage = { s.stage with owner := t.stage.owner, lendee := t.stage.lendee, lastCoach := coach.toNat, ttError := 0, ttRecord := 0 } ∧
        ∀ n lane b, lane < 2048 → b < 64 →
          t.blockOwner n lane b = (if (n, lane, b) ∈ bs then owner (s.blockOwner n lane b) else s.blockOwner n lane b) ∧
          t.blockLendee n lane b = (if (n, lane, b) ∈ bs then lendee (s.blockLendee n lane b) else s.blockLendee n lane b)
    (coach.toNat < 48 → sets (.setOwner coach count first unit) (fun _ => coach.toNat) (fun _ => 63)) ∧
    sets (.freeBlocks coach count first unit) (fun _ => 63) (fun _ => 63) ∧
    sets (.clearLendee coach count first unit) id (fun _ => 63) ∧
    (coach.toNat < 48 → (∀ x ∈ bs, let o := s.blockOwner x.1 x.2.1 x.2.2; o ≠ 63 ∧ o ≠ coach.toNat ∧ s.partOf o = s.partOf coach.toNat) →
      sets (.setLendee coach count first unit) id (fun _ => coach.toNat))

/-- USER, SEM_REPLY, DOORBELL, NACK, GIG_RESEND, YIELD_REQ, EPOCH_SET and CLOCK_SET take effect at the cell. (R18, R104, R105, R148, R150, R152, R156, R158, R213, R227, R541) -/
def Obligations.GigMessagesTakeEffectAtTheCell : Prop :=
  (∀ (s : State) (p : Pcell) (h : HenIx) (m : GigMsg), s.cellsOk = true → s.dbg.module = false →
    let d : HenIx := ⟨m.dstHen.toNat, m.dstHen.isLt⟩
    let x := s.hen p d
    let enters := fun (u : State) => u.setHen p d { u.hen p d with recvQ := x.recvQ ++ [m] }
    let taken := fun (i : Instr) => dropWhere (fun e => e.2 == i) s.flight
    (s.cellState p = .hitched → (s.cell p).slot = m.coach → BitVec.ofNat 28 (s.cell p).lcell.toNat = m.dst → s.inOrder (.user p m) = true →
      (x.recvQ.length < 16 → exec (.user p m) s = .next ((enters (s.takeAt p (.user p m))).gigTakenAt m)) ∧
      (16 ≤ x.recvQ.length → ∀ q : Pcell, (s.takeAt p (.user p m)).placed m.coach.toNat (BitVec.ofNat 27 m.src.toNat) = some q.val →
        exec (.user p m) s = .next ((s.takeAt p (.user p m)).sendFrom p (.nack q ⟨m.srcHen.toNat, m.srcHen.isLt⟩ false)))) ∧
    (s.inOrder (.semReply p m) = true →
      (s.cellState p ∉ [CellState.moveOut, .moveIn, .vacated] → x.recvQ.length < 16 → exec (.semReply p m) s = .next (enters (s.takeAt p (.semReply p m)))) ∧
      (s.cellState p ∈ [CellState.moveOut, .moveIn, .vacated] ∨ 16 ≤ x.recvQ.length → ∀ k, s.cellCtx p = some k →
        let u := ((s.take (.semReply p m)).countCell p 6 1).countCell p 5 1
        exec (.semReply p m) s = .next { u with
          flight := u.flight.filter fun e => !sameReply m e.2
          sched := { u.sched with replies := (m :: (s.take (.semReply p m)).repliesBehind m).map (fun r => (bfield m.src 0 27 == epSem true, k, s.tick + 4, r)) ++ s.sched.replies } })) ∧
    (s.inOrder (.doorbell p m) = true → ∃ t, exec (.doorbell p m) s = .next t ∧
      t.hen p d = { x with bellOverrun := x.bellOverrun || x.bellPending, bellPending := true, bellPayload := m.payload } ∧
      t = { s with cells := t.cells, flight := taken (.doorbell p m) }) ∧
    (s.unfrozen p = true → s.henRuns p h = true → (s.hen p h).mmode = true → exec (.gigDoorbellRead p h) s =
      .next (s.setHen p h { s.hen p h with bellOverrun := false, bellPending := false, windowRead := (s.hen p h).bell })) ∧
    (∀ moved, s.inOrder (.nack p h moved) = true → (s.cell (s.movedTo p)).image = none → (s.hen (s.movedTo p) h).gigOut = true →
      ∃ t, exec (.nack p h moved) s = .next t ∧
        t.hen (s.movedTo p) h = { s.hen (s.movedTo p) h with
          gigOut := false, gigNack := true, gigTo := if moved then none else (s.hen (s.movedTo p) h).gigTo } ∧
        t = { s with cells := t.cells, flight := taken (.nack p h moved) }) ∧
    (s.unfrozen p = true → (s.cell p).stopped = false → (s.hen p h).gigNack = true →
      exec (.gigResend p h) s = .next ((s.setCell p { (s.cell p).setHen h { s.hen p h with gigNack := false } with
        retries := .ofNat 16 (satInc 16 (s.cell p).retries.toNat) }).gigPump p h 8)) ∧
    (∀ i ∈ [Instr.user p m, .semReply p m, .doorbell p m, .nack p h true, .yieldReq p m, .epochSet p m, .clockSet p m],
      s.inOrder i = false → exec i s = .next s)) ∧
  (∀ (s : State) (p : Pcell) (m : GigMsg), s.cellsOk = true → s.dbg.module = false →
    let c := s.cell p
    let changes := fun (i : Instr) (told : List GigMsg) (c' : Cell → Prop) => s.inOrder i = true → ∃ t, exec i s = .next t ∧ c' (t.cell p) ∧
      t = { s with
        cells := t.cells, flight := dropWhere (fun e => e.2 == i) s.flight
        sched := { s.sched with yieldAt := told } } ∧ ∀ q, q ≠ p.val → t.cell q = s.cell q
    let others := s.sched.yieldAt.filter fun m => m.src != BitVec.ofNat 28 (2 ^ 27 + p)
    (c.atYield = false →
      changes (.yieldReq p m) others fun d => d = { c with
        yieldFrom := some (bfield m.src 0 11), yieldTold := false, ctrs := d.ctrs
        hens := c.hens.map fun x => { x with yieldPend := true } }) ∧
    (c.atYield = true → changes (.yieldReq p m) (others ++ [yieldAtMsg p (bfield m.src 0 11) c.slot]) fun d => d = { c with
        yieldFrom := some (bfield m.src 0 11), yieldTold := true, ctrs := d.ctrs
        hens := c.hens.map fun x => { x with yieldPend := true, reserved := none, lrDefer := none } }) ∧
    changes (.epochSet p m) s.sched.yieldAt (fun d => d = { c with portEpoch := BitVec.ofNat 32 (bfield m.payload 0 32), ctrs := d.ctrs }) ∧
    (s.cellState p = .hitched → changes (.clockSet p m) s.sched.yieldAt fun d => d = { c with
      freq := BitVec.ofNat 16 (max 1000 (min (bfield m.payload 0 16) (s.ceilNow p) / 25 * 25)), ctrs := d.ctrs }))

/-- A Mule command reads and writes its memory and sends its flits in one run, or faults its ring. (R167, R173, R175, R177, R181, R183, R190, R193, R196) -/
def Obligations.MuleCommandsRunTheirEntry : Prop :=
  ∀ (s : State) (e : EngineIx) (n : Slot) (c : Line), s.dbg.module = false →
    let r := (s.engine e).ring n
    let ctx := s.muCtx e n
    let limit := fun c => s.muLimit e (muA c 1)
    let runs := fun (i : Instr) (op : Nat) (res : RunResult) =>
      r.cur = some c → muOp c = op → r.curDone = false → r.enabled = true → r.halt = false → r.doom = none → s.ringHasTime e n = true →
        let u := (s.muCommit e n res.run).muSend e n res.run
        let x := (u.engine e).ring n
        (s.muCached e n res.run = false →
          (res.run.fault = none → exec i s = .next (u.setRing e n { x with
            curDone := res.next.isNone, prog := if op = 8 then some ((res.next.getD ([], 0)).1, (res.next.getD ([], 0)).2, res.cmd) else none })) ∧
          (∀ k, res.run.fault = some k → exec i s = .next ((u.setRing e n { x with doom := some (k, res.cmd) }).ringDoom e n))) ∧
        (s.muCached e n res.run = true → exec i s = .fault .muleCached)
    let one : RunResult := ⟨(muExec (ctx c) (limit c) c { mem := s.mem }).finish c, c, none⟩
    (r.prog = none →
    runs (.muleNop e n) 0 one ∧ runs (.gather e n) 1 one ∧ runs (.scatterAdd e n) 2 one ∧ runs (.reduce e n) 3 one ∧
    runs (.embedBag e n) 4 one ∧ runs (.copy e n) 5 one ∧ runs (.fill e n) 6 one ∧ runs (.attend e n) 7 one ∧
    runs (.run e n) 8 (muRunProgram ctx (decide (20 ≤ e.val)) limit c { mem := s.mem })) ∧
    (∀ hdr j b, r.prog = some (hdr, j, b) → r.sent = true → runs (.run e n) 8 (muRunFrom ctx (decide (20 ≤ e.val)) limit c hdr j { mem := s.mem }))

/-- Rings fetch, retire and are controlled, and the MULE map clears bits at once and sets them once caches are empty. (R163, R164, R166, R172, R173, R174, R175, R188, R196, R197, R198, R199) -/
def Obligations.RingsAndTheMuleMapObeyTheirRegisters : Prop :=
  (∀ (s : State) (e : EngineIx) (n : Slot) (c : Line) (v : Word),
    let r := (s.engine e).ring n
    (s.dbg.module = false →
      (r.enabled = true → r.halt = false → r.cur = none → s.ringHasTime e n = true → r.head = r.tail →
        exec (.ringFetch e n) s = .next (s.rereadTail (epEngine e) (lineNo r.tailAddr.toNat))) ∧
      (r.enabled = true → r.halt = false → r.cur = none → s.ringHasTime e n = true → r.head ≠ r.tail →
        let l := r.entryAddr r.head.toNat / 64
        s.muBad e (s.partOf n) l = none → s.muLost l = none → s.readLine l = c → (muOp c ≠ 8 → muCheck (decide (20 ≤ e.val)) c = none) →
        exec (.ringFetch e n) s = .next
          (((s.memDemand l 0 mMule).2.countCoach n 12 64).setRing e n { r with head := r.head + 1, cur := some c, curDone := false })) ∧
      (r.cur = some c → r.curDone = true → r.sent = true →
        let u := s.setRing e n { r with cur := none, curDone := false, prog := none, retired := r.retired + 1, tag := c.extractLsb' 16 16 }
        exec (.muleRetire e n) s = .next (if c.getLsbD 15 then u.storeDone e n (muTag c) else u))) ∧
    (s.pcieOpen = true →
      (r.enabled = false →
        let r' := { r with cfg := (v ||| 1) &&& 0x7FFF003E }
        (s.ringCheck e n r' = 0 →
          let on := { r' with enabled := true, error := 0, head := 0, tail := 0, retired := 0, cur := none, curDone := false, doom := none, prog := none }
          let u := (s.setRing e n on).readTail e on
          exec (.ringEnable e n v) s = .next (if (u.agent (epEngine e) (lineNo r.tailAddr.toNat)).st = .S then u.takeTails e (lineNo r.tailAddr.toNat) else u)) ∧
        (s.ringCheck e n r' ≠ 0 →
          exec (.ringEnable e n v) s = .next (s.setRing e n { r' with error := BitVec.ofNat 8 (s.ringCheck e n r') }))) ∧
      (r.halt = true → exec (.ringFlush e n) s = .next (s.setRing e n { r with head := r.tail, halt := false, fault := 0 })) ∧
      (r.cur = some c → r.prog = none → exec (.ringAbort e n) s = .next (s.ringFault e n 0xD c)) ∧
      (r.cur = none → exec (.ringAbort e n) s = .next s ∧ exec (.ringDisable e n) s = .next (s.setRing e n { r with enabled := false })))) ∧
  (∀ (s : State) (e : EngineIx) (k : Nat) (v : Word),
    let x := s.engine e
    (s.pcieOpen = true → k < s.mapCount e →
      (x.mapPending = [] → exec (.muleMapWrite e k v) s = .next (s.setEngine e { x with
        map := tset 0 x.map k (tget 0 x.map k &&& v), mapPending := tset 0 [] k (v &&& ~~~(tget 0 x.map k)) })) ∧
      (x.mapPending ≠ [] → exec (.muleMapWrite e k v) s = .next (s.setEngine e { x with mapOverrun := true }))) ∧
    (let lines := s.knownLines (s.mapWaits e)
     s.dbg.module = false → x.mapPending ≠ [] → (∀ l ∈ lines, s.quiet (BitVec.ofNat 46 l) = true) →
      exec (.muleMapTakeEffect e) s = .next ((lines.foldl (fun s l => s.flushLine (BitVec.ofNat 46 l) false) s).setEngine e { x with
        map := x.mapPending.foldl (fun m b => tset 0 m b.1 (tget 0 m b.1 ||| b.2)) x.map, mapPending := [] })))

/-- A coach command that passes its checks is logged and carried out. (R200, R202, R210, R215, R216, R228, R229, R233, R234, R235, R237, R477) -/
def Obligations.CoachCommandsAct : Prop :=
  ∀ (s : State) (cmd arg : Word) (n : Slot), s.pcieOpen = true → s.coachRegs.resetting = none →
    let s' := { s with coachRegs := { s.coachRegs with arg := arg } }
    let acts := fun (op : Nat) (i : Instr) (f : Word → State → State) =>
      let v := withOp op cmd
      let u := s'.log 0x10 oPcie (if op = 1 then bfield arg 20 5 else (s.coach n).partition.toNat) n v arg
      ccBad v arg = false → ccCoach v = n → (op ≠ 1 → (s.coach n).valid = true) → s'.coachCheck v arg = none →
        exec i s = .next (f v { u with coachRegs := { u.coachRegs with error := 0 } })
    acts 0x01 (.coachOpen cmd arg) (fun v u => u.coachOpen n (ccCell v) arg) ∧
    acts 0x02 (.coachClose cmd arg) (fun _ u => u.coachClose n) ∧
    (∀ stuck, acts 0x03 (.coachReset cmd arg stuck) fun _ u =>
      let u := { u with coachRegs := { u.coachRegs with resetting := some n } }
      let t := u.resetBegin n (if arg.getLsbD 0 then some 0xE else none) none stuck
      if (tget none t.errs.resets n).isSome then t else { t with coachRegs := { t.coachRegs with resetting := none } }) ∧
    acts 0x10 (.hitchCell cmd arg) (fun v u =>
      let t := u.join n (ccUnit v) 0 (ccCell v)
      State.joinClock t (t.setCoach n { t.coach n with
        hitches := (u.coach n).hitches ++ [{ pcell := ccUnit v, lcell := ccCell v, refill := (u.hitchable n (ccCell v)).getD false }] }) (ccUnit v)) ∧
    acts 0x11 (.unhitchCell cmd arg) (fun v u => match u.placed n (ccCell v) with
      | some p => u.setCell p { u.cell p with leaving := true }
      | none => u) ∧
    acts 0x12 (.moveCell cmd arg) (fun v u => match u.placed n (ccCell v) with
      | none => u
      | some p =>
        let t := u.join n (ccUnit v) p (ccCell v)
        let t := (t.setCell (ccUnit v) { t.cell (ccUnit v) with heldSlow := (t.cell p).heldSlow }).setFreq (ccUnit v) (t.cell p).freq.toNat
        let t := t.setCell p { t.cell p with peer := ccUnit v }
        t.setCoach n { t.coach n with moves := (u.coach n).moves ++ [{ lcell := ccCell v, src := p, dst := ccUnit v }] }) ∧
    acts 0x13 (.moveGo cmd arg) (fun _ u => (u.coach n).moves.foldl (fun s m => s.sendYieldReq n m.src)
      (u.setCoach n { u.coach n with phase := 1, quiescedAt := none })) ∧
    acts 0x14 (.moveCancel cmd arg) (fun _ u => u.moveCancel n false) ∧
    acts 0x20 (.setMem cmd arg) (fun v u =>
      let t := u.setShare (ccUnit v) n (bfield arg 0 7)
      t.setCoach n { t.coach n with memShare := tset 0 (u.coach n).memShare (ccUnit v) (BitVec.ofNat 7 (bfield arg 0 7)) }) ∧
    acts 0x21 (.setLink cmd arg) (fun v u =>
      let x : BitVec 7 := BitVec.ofNat 7 (bfield arg 0 7)
      let c := u.coach n
      let pend := c.linkPending.filter fun y => y.1 != ccUnit v
      if x.toNat ≥ (tget 0 c.linkShare (ccUnit v)).toNat then
        u.setCoach n { c with linkShare := tset 0 c.linkShare (ccUnit v) x, linkPending := pend }
      else (u.setCoach n { c with linkPending := (ccUnit v, x) :: pend }).linkSettle n) ∧
    acts 0x30 (.setWindow cmd arg) (fun _ u => u.setCoach n { u.coach n with jbnUs := bfield arg 0 7 })

/-- A coach command that fails a check gives its error and changes nothing else. (R237, R238) -/
def Obligations.CoachCommandsAreChecked : Prop :=
  ∀ (s : State) (cmd arg : Word) (stuck : List Nat), s.pcieOpen = true →
    let s' := { s with coachRegs := { s.coachRegs with arg := arg } }
    ∀ x ∈ [(0x01, Instr.coachOpen cmd arg), (0x02, .coachClose cmd arg), (0x03, .coachReset cmd arg stuck), (0x10, .hitchCell cmd arg),
        (0x11, .unhitchCell cmd arg), (0x12, .moveCell cmd arg), (0x13, .moveGo cmd arg), (0x14, .moveCancel cmd arg),
        (0x20, .setMem cmd arg), (0x21, .setLink cmd arg), (0x30, .setWindow cmd arg)],
      let v := withOp x.1 cmd
      let gives := fun (e : BitVec 8) => exec x.2 s = .next { s with coachRegs := { s.coachRegs with arg := arg, error := e } }
      (s.coachRegs.resetting ≠ none → exec x.2 s = .next { s with coachRegs := { s.coachRegs with arg := arg, overrun := true } }) ∧
      (s.coachRegs.resetting = none →
        (ccBad v arg = true → gives 1) ∧
        (ccBad v arg = false → 48 ≤ ccCoach v → gives 0xB) ∧
        (ccBad v arg = false → ccCoach v < 48 → x.1 ≠ 1 → (s.coach (ccCoach v)).valid = false → gives 2) ∧
        (ccBad v arg = false → ccCoach v < 48 → (x.1 ≠ 1 → (s.coach (ccCoach v)).valid = true) →
          ∀ e, s'.coachCheck v arg = some e → gives (BitVec.ofNat 8 e)))

/-- CLOSE is refused with IN_USE while the slot holds a cell, a share, a Stage block, a timetable, a ring or a context. (R201) -/
def Obligations.ClosingASlotInUseIsRefused : Prop :=
  ∀ (s : State) (cmd arg : Word) (n : Slot), s.pcieOpen = true → s.coachRegs.resetting = none →
    ccBad (withOp 2 cmd) arg = false → ccCoach (withOp 2 cmd) = n → (s.coach n).valid = true →
    ((∃ p, (s.cell p).slot.toNat = n) ∨ (∃ k, tget 0 (s.coach n).memShare k ≠ 0) ∨ (∃ k, tget 0 (s.coach n).linkShare k ≠ 0) ∨
      (∃ node lane b, s.blockOwner node lane b = n ∨ s.blockLendee node lane b = n) ∨ (s.tt n).a ≠ [] ∨ (s.tt n).b ≠ [] ∨
      (∃ e, ((s.engine e).ring n).enabled = true) ∨ (∃ k, s.ctxSlot k = some n.val)) →
    exec (.coachClose cmd arg) s = .next { s with coachRegs := { s.coachRegs with arg := arg, error := 3 } }

/-- QUIESCE, TARGET_RESUME, MOVE_LOST, OVERLAP_WINDOW_CLOSE and CELL_CLEAN take the steps of a move. (R204, R205, R210, R217, R222, R228) -/
def Obligations.MoveBatchesRunTheirCourse : Prop :=
  ∀ (s : State) (p : Pcell) (n : Slot), s.cellsOk = true → (s.cell p).slot.toNat = n →
    let c := s.cell p
    let b := s.coach n
    (s.unfrozen p = true → b.phase = 1 → (b.moves.any fun m => m.src == p.val && !m.quiesced) = true → s.stepRuns n = false →
      c.ox.idle = true → c.draysIdle = true →
      let moves := b.moves.map fun m => if m.src = p.val then { m with quiesced := true } else m
      exec (.quiesce p) s = .next (s.setCoach n { b with moves, quiescedAt := if moves.all (·.quiesced) then some s.stageNow else none })) ∧
    (∀ m im, s.unfrozen p = true → s.moveTo p = some m → c.image = some im → s.cellState p = .moveIn → imageFlits im.live ≤ c.imageGot.length →
      let u := s.restoreCell p im
      exec (.targetResume p) s = .next ((u.leaveYield p).targetGoes p m)) ∧
    (∀ m im, s.dbg.module = false → s.moveTo p = some m → c.image = some im → s.cellState p = .moveIn → c.imageGot.length < imageFlits im.live →
      (s.sendsImage n m.src = true → imageFlits im.live ≤ c.imageSent ∧ c.imageLast + 4 ≤ s.stage.frame) →
      (s.sendsImage n m.src = false → b.m0 + 4 ≤ s.stage.frame) →
      let sp := im.sp.filter fun e => c.imageGot.contains (flitOfByte im.live e.1)
      ((span 0 4096).all c.imageGot.contains = false →
        exec (.moveLost p) s = .next (((s.setCell p { c.clean with sp, heldQ := c.heldQ }).targetGoes p m).stepFault n 8)) ∧
      ((span 0 4096).all c.imageGot.contains = true →
        exec (.moveLost p) s = .next ((((s.restoreCell p { im with sp }).leaveYield p).targetGoes p m).stepFault n 8))) ∧
    (∀ f, s.dbg.module = false → b.closeFrame = some f → f ≤ s.stage.frame →
      exec (.overlapWindowClose n) s = .next ((s.setCoach n { b with closeFrame := none }).clearStubs n)) ∧
    (∀ st, s.unfrozen p = true → c.cleaning = some st → (∀ l ∈ s.linesAt p, s.quiet l = true) →
      let u := ((s.linesAt p).foldl (fun s l => s.dropLine p l false) s).cleanCell p
      exec (.cellClean p) s = .next (u.setCell p { u.cell p with
        st, cleaning := none, slot := 63, lcell := 0, peer := 0, stubQ := c.stubQ, leaving := false, freq := 0, heldSlow := false }).freeVacated)

/-- DRAY_LOAD, DRAY_STORE, PREFETCH and RATOMIC start the oldest descriptor and send its request on the route of its endpoint. (R255, R256, R257, R258, R259, R263, R264, R435) -/
def Obligations.DrayDescriptorsSendTheirRequests : Prop :=
  ∀ (s : State) (p : Pcell) (d : DrayIx) (q : DrayDesc) (rest : List DrayDesc), s.cellsOk = true → s.unfrozen p = true →
    let y := s.dray p d
    let c := s.cell p
    let raw := q.raw
    y.queue = q :: rest → y.halt = false → y.flushPending = false → y.running = [] → c.drayWaits = false → c.ox.frozen = false →
    let y' := { y with queue := rest, nextSeq := y.nextSeq + 1, running := [{ seq := y.nextSeq, desc := q }] }
    let sends := fun (i : Instr) (kind op : Nat) => dKind raw = kind →
      (dReserved raw = true → exec i s = .next (((s.setDray p d y').drayFault p d y.nextSeq 1 (dTag raw)).drayRequests p d kind
        (((s.setDray p d y').drayFault p d y.nextSeq 1 (dTag raw)).dray p d).running)) ∧
      (dReserved raw = false → dBadShape raw = false → dBadRange raw = false → ∀ va lines sp st,
        (if kind = 7 then [(dMem raw, 0, dSp raw)] else dPieces raw) = [(va, lines, sp)] → lines ≤ 64 → y.out = [] → q.umode = false → va < 2 ^ 52 →
        (kind = 7 → 0x4000000000000 ≤ va ∧ va < 0x8000000000000) → c.route d.val (serversOf va) = some st →
        let bytes := if op = 2 then 64 * lines else if op = 4 then 32 else 0
        c.ownsAll (ownerDray d) sp bytes = true → s.spClean p sp bytes = true →
        let k := streamKey p c.slot.toNat st
        exec i s = .next { s.setDray p d { y' with
            running := [{ seq := y.nextSeq, desc := q, next := 1 }]
            out := [{ seq := y.nextSeq, op, stream := st, lines, sp, va, lg := c.pageLg q.pasid (va % 2 ^ 57), addr := va }] } with
          stage := { s.stage with outQ := tset [] s.stage.outQ k (tget [] s.stage.outQ k ++
            requestFlit op (c.mapEntry st).2.2.1 lines (if dAlloc raw then 1 else 0) va :: flitsOf (bytes / 32 + 1) (readBytes c.sp sp bytes)) } })
    sends (.drayLoad p d) 1 1 ∧ sends (.drayStore p d) 2 2 ∧ sends (.prefetch p d) 5 3 ∧ sends (.ratomic p d) 7 4

/-- RECV, SEND, STREAM_MAP, STATUS_FLIT, DESCRIPTOR_COMPLETE and DRAY_FLUSH. (R255, R258, R260, R262, R263, R267) -/
def Obligations.DraysMoveStreamsAndComplete : Prop :=
  ∀ (s : State) (p : Pcell) (d : DrayIx) (r : DrayRun), s.cellsOk = true →
    let y := s.dray p d
    let c := s.cell p
    let raw := r.desc.raw
    (s.unfrozen p = true → y.queue = [] → c.drayWaits = false →
      (∀ f, y.mover 3 = some r → s.recvFlits p (dStream raw) = [f] → c.ownsAll (ownerDray d) (dByte raw r.moved) 32 = true →
        exec (.recv p d) s = .next
          (((s.takeFlits p (dStream raw) 1).spWrite p (dByte raw r.moved) (bytesOf 32 f)).setRun p d { r with moved := r.moved + 32 })) ∧
      (y.mover 4 = some r → y.running.find? (·.seq == r.seq) = some r → twf [] s.stage.outQ = true →
        let units := span (r.moved / 32) ((dRows raw * dRowBytes raw - r.moved) / 32)
        units ≠ [] → (∀ i ∈ units, c.ownsAll (ownerDray d) (dByte raw (32 * i)) 32 = true ∧ s.spClean p (dByte raw (32 * i)) 32 = true) →
        ∃ t, exec (.send p d) s = .next t ∧ t = { s with cells := t.cells, stage := { s.stage with outQ := t.stage.outQ } } ∧
          (∀ q, q ≠ p.val → t.cell q = s.cell q) ∧ t.cell p = { c with drays := c.drays.set d (t.dray p d) } ∧
          t.dray p d = { y with running := y.running.map fun x => if x.seq = r.seq then { r with moved := 32 * (r.moved / 32 + units.length) } else x } ∧
          ∀ k, tget [] t.stage.outQ k = tget [] s.stage.outQ k ++ (if k = streamKey p c.slot.toNat (dStream raw) then
            units.map fun i => ofBytes 256 (readBytes c.sp (dByte raw (32 * i)) 32) else [])) ∧
      (y.mover 6 = some r → c.ownsAll (ownerDray d) (dSp raw) 256 = true → s.spClean p (dSp raw) 256 = true →
        exec (.streamMap p d) s = .next (s.setRun p d
          { r with moved := 256, map := (span 0 32).map fun j => ofBytes 64 (readBytes c.sp (dSp raw + 8 * j) 8) }))) ∧
    (∀ stream req q, s.unfrozen p = true → (if (c.mapEntry stream).2.1 = 0 then (0 : DrayIx) else 1) = d → y.out.find? (·.stream == stream) = some req →
      req.dead = false → y.running.find? (·.seq == req.seq) = some r → tget [] s.stage.inQ (streamKey p c.slot.toNat stream) = q →
      let n := replyFlits req.op req.lines
      n ≤ q.length → bfield (nth 0 q (n - 1)) 8 8 = 0 →
        let data := (q.take (n - 1)).flatMap (bytesOf 32)
        let r' := { r with acked := r.acked + 1, waiting := r.waiting ++ (if req.op = 1 then [(req.sp, data)] else if req.op = 4 then [(req.sp + 24, data.take 8)] else []) }
        let u := { s with stage := { s.stage with inQ := tset [] s.stage.inQ (streamKey p c.slot.toNat stream) (q.drop n) } }
        let v := ((u.setDray p d { y with out := dropFirst req y.out }).setRun p d r').drayDeliver p d r'
        exec (.statusFlit p stream) s = .next ((v.setDray p d (v.dray p d).settle).checkInvs p)) ∧
    (∀ rest, s.unfrozen p = true → y.running = r :: rest → r.waiting = [] → s.runDone p r = true →
      exec (.descriptorComplete p d) s = .next ((s.setCell p { c with streamMap := r.mapped c.streamMap }).setDray p d { y with
        running := rest, doneCount := if raw.getLsbD 15 then y.doneCount + 1 else y.doneCount })) ∧
    (s.pcieOpen = true → s.sealedCell p = false → ∃ t, exec (.drayFlush p d) s = .next t ∧ s.onlyCell t p ∧
      t.cell p = { c with drays := c.drays.set d (t.dray p d) } ∧ (t.dray p d).queue = [] ∧ (t.dray p d).running = [] ∧
      (y.out = [] → (t.dray p d).halt = false ∧ (t.dray p d).fault = 0) ∧
      (t.dray p d).out = y.out.map (fun q => { q with dead := true }) ∧ (t.dray p d).doneCount = y.doneCount)

/-- A memory endpoint takes the oldest read, write or prefetch of a stream, and FAB egress an atomic. (R245, R259, R260, R261, R311, R349, R434, R435) -/
def Obligations.EndpointsAnswerRequests : Prop :=
  ∀ (s : State) (ep n stream : Nat) (f : Unit32) (rest : List Unit32), s.dbg.module = false → memoryEp ep = true →
    let key := streamKey ep n stream
    tget [] s.stage.inQ key = f :: rest → rqData f ≤ rest.length →
    let taken := { s with stage := { s.stage with inQ := tset [] s.stage.inQ key (rest.drop (rqData f)) } }
    let data := (rest.take (rqData f)).flatMap (bytesOf 32)
    let who := s.requester ep n stream (rqAddr f) (rqLines f)
    let room := fun (k : Nat) => s.outboundAt ep n + s.ncReserved ep n + k ≤ 256
    let row := fun (i : Instr) (op : Nat) =>
      (s.ncBusy ep n stream = true ∨ (ep < 1460 ∧ s.homeTurn (s.partOf n) = false) → exec i s = .next s) ∧
      (s.ncBusy ep n stream = false → (ep < 1460 → s.homeTurn (s.partOf n) = true) →
        (ep < 1460 → rqOp f = op → rqBad f = false → op < 4 → room (replyFlits op (rqLines f)) →
          (exec i s = .next (taken.ncOpen ep
            { id := 0, src := .stream ep n stream f, who, alloc := rqAlloc f || decide (op = 3), key := spillKeyOf who n stream
              charge := if stream = 62 then 52 else n, addr := rqAddr f, lines := rqLines f } (if op = 2 then .write data else .read))) ∧
          (s.goodLines ep who (rqAddr f) (rqLines f) = [] → (∀ x ∈ s.nonCaching, x.left ≠ [] ∧ x.id ≠ s.ncNext) →
            exec i s = .next (({ taken with ncNext := s.ncNext + 1 } : State).pushReply ep n (rqReply f)
              (replyUnits (s.firstBad ep who (rqAddr f) (rqLines f)).1 (s.firstBad ep who (rqAddr f) (rqLines f)).2
                (if op = 1 then (span 0 (rqLines f)).flatMap fun _ => natBytes 64 0 else []))))) ∧
        (ep < 1460 → rqOp f = op ∨ (op = 1 ∧ (rqOp f = 0 ∨ 4 < rqOp f)) → rqBad f = true ∨ op = 4 →
          room (1 + (if op = 1 then 2 * min (rqLines f) 64 else 0)) →
          exec i s = .next (taken.pushReply ep n (rqReply f) (failReply f 4 (rqAddr f)))) ∧
        (ep = epPci → rqOp f = op → rqBad f = false → op < 4 →
          exec i s = .next (if op = 1 ∧ s.hostCheck n f = 0 then taken.hostRead n f else taken.serveHost n f data)) ∧
        (ep = epFabW ∨ ep = epFabE → rqOp f = op → rqBad f = false → op ≠ 3 → (s.streamEntry n stream).1 = false →
          let v := taken.fabRequest (decide (ep = epFabE)) n (rqReply f) op (rqLines f) (rqAddr f) (rest.take (rqData f)) (s.partOf n)
          exec i s = .next (v.getD s)))
    row (.requestRead ep n stream) 1 ∧ row (.requestWrite ep n stream) 2 ∧ row (.requestPrefetch ep n stream) 3 ∧ row (.requestAtomic ep n stream) 4

/-- Regulation, shares, refresh and ways at the controllers, sync pages and strict turns at the coherence block. (R249, R269, R272, R273, R274, R294, R297, R309) -/
def Obligations.MemoryAndCoherenceRegistersAreWritten : Prop :=
  (∀ (s : State) (c : CtlIx) (m : Nat) (v : Word),
    let x := s.mc c
    (s.dbg.module = false →
      (x.window.toNat < s.tick / 100 →
        let ends := fun (u : State) => u.setMc c { u.mc c with
          window := BitVec.ofNat 64 (s.tick / 100), served := []
          share := (u.mc c).sharePending.foldl (fun t e => tset 0 t e.1 e.2) (u.mc c).share, sharePending := [] }
        exec (.regulationWindow c []) s = .next (ends s) ∧
        (∀ served, max served (tget 0 x.served m) < (tget 0 x.share m).toNat * (if c.val < 20 then 344 else 16) →
          exec (.regulationWindow c [(m, served)]) s = .next (ends (s.guaranteeMiss c m)))) ∧
      (∀ mode, c.val < 20 → mode ≠ 3 → exec (.refreshChange c mode) s = .next (s.setMc c { x with refresh := mode }))) ∧
    (s.pcieOpen = true →
      (v.getLsbD 0 = true → exec (.mcMissLastClear c v) s = .next (s.setMc c { x with missLast := x.missLast &&& ~~~1#64 })) ∧
      (m ∈ [48, 49, 50, 52] → bfield v 0 7 ≤ 64 → x.shareSum m (bfield v 0 7) ≤ 64 →
        exec (.mcShareWrite c m v) s = .next (s.setMc c { x with sharePending := x.sharePending ++ [(m, BitVec.ofNat 7 (bfield v 0 7))] })) ∧
      (m ∈ [48, 49, 50, 52] → 64 < x.shareSum m (bfield v 0 7) → exec (.mcShareWrite c m v) s = .next (s.setMc c { x with overcommit := true })) ∧
      (m < 33 → s.waysApart m (bfield v 0 16) s.stable.strict = true →
        let u := s.logWindow (0x302000 + 8 * m) v
        exec (.llcWaysWrite m v) s = .next { u with llcWays := tset 0xFFFF u.llcWays m (v.truncate 16) }) ∧
      (m < 33 → s.waysApart m (bfield v 0 16) s.stable.strict = false → exec (.llcWaysWrite m v) s = .next { s with wayConflict := true }))) ∧
  (∀ (s : State) (n : Slot) (q : PartIx) (v : Word),
    let bits : Word := 0x000FFFFFFFFF0001
    (s.pcieOpen = true → s.coh.syncBusy = none →
      let u := s.logWindow (0x340100 + 8 * n) v
      (v.getLsbD 0 = false → (tget 0 s.coh.syncPage n).getLsbD 0 = false →
        exec (.syncPageWrite n v) s = .next { u with coh := { u.coh with syncPage := tset 0 s.coh.syncPage n (v &&& bits) } }) ∧
      (v.getLsbD 0 = true → (s.coach n).valid = true → bfield v 1 15 = 0 → s.inChunk (bfield v 16 36 * 65536) = true → s.ownerOf (bfield v 16 36 * 65536) = s.partOf n →
        exec (.syncPageWrite n v) s = .next { u with coh := { u.coh with syncBusy := some (n, v &&& bits) } }) ∧
      (v.getLsbD 0 = true → (s.coach n).valid = false → exec (.syncPageWrite n v) s = .next { s with coh := { s.coh with syncBad := true } })) ∧
    (s.dbg.module = false → s.coh.syncBusy = some (n, v) →
      let old := tget 0 s.coh.syncPage n
      let lines := s.knownLines fun l => (old.getLsbD 0 && bfield old 16 36 == l / 1024) || (v.getLsbD 0 && bfield v 16 36 == l / 1024)
      (∀ l ∈ lines, s.quiet (BitVec.ofNat 46 l) = true) →
        let u := lines.foldl (fun s l => s.flushLine (BitVec.ofNat 46 l) false) s
        exec .syncPageRecallDone s = .next { u with coh := { u.coh with syncBusy := u.coh.syncNext.head?, syncNext := u.coh.syncNext.tail, syncPage := tset 0 u.coh.syncPage n v } }) ∧
    (s.pcieOpen = true →
      let total := s.coh.strict.foldl (fun t e => if e.1 = q.val then t else t + e.2.toNat) (bfield v 0 7)
      (total ≤ 48 → (bfield v 0 7 = 0 ∨ s.stable.strict.contains q.val = true) →
        let u := s.logWindow (0x340400 + 8 * q) v
        exec (.cohStrictWrite q v) s = .next { u with coh := { u.coh with strict := tset 0 u.coh.strict q (v.truncate 7) } }) ∧
      (48 < total → exec (.cohStrictWrite q v) s = .next { s with coh := { s.coh with strictOver := true } })))

/-- Forwards, snoops and INV act on an agent's line by its state as the agent table says. (R283, R284, R285, R295, R296) -/
def Obligations.AgentsAnswerForwardsByTheirState : Prop :=
  ∀ (s : State) (a : Nat) (l : LineNo) (r : Nat) (acks : Bool), s.unfrozen a = true →
    let x := s.agent a l
    let open_ := s.defers a l = false ∧ x.deferred = []
    let fs := Instr.fwdGetS a l r acks
    let fm := Instr.fwdGetM a l r acks
    let arrives := fun (i : Instr) => (s.takeAt a i)
    let gives := fun (i : Instr) (t : State) => s.inOrder i = true → exec i s = .next t
    (∀ row ∈ [(AgentState.E, (1 : BitVec 2), AgentState.S), (.O, 2, .O), (.M, 2, .O), (.OM_A, 2, .OM_A), (.MI_A, 2, .OI_A), (.OI_A, 2, .OI_A), (.EI_A, 1, .SI_A)],
      open_ → x.st = row.1 → gives fs ((((arrives fs).sendFrom a (.dataS r l x.data)).sendFrom a (.snpResp a l row.2.1)).agentTo a l row.2.2)) ∧
    (∀ row ∈ [(AgentState.E, AgentState.I), (.O, .I), (.M, .I), (.OM_A, .IM_D), (.MI_A, .II_A), (.OI_A, .II_A), (.EI_A, .II_A)],
      open_ → x.st = row.1 → gives fm ((((arrives fm).sendFrom a (.dataM r l x.data true acks)).sendFrom a (.snpResp a l 3)).agentLose a l row.2)) ∧
    (∀ row ∈ [(AgentState.O, AgentState.S), (.M, .S), (.OM_A, .SM_D), (.MI_A, .SI_A), (.OI_A, .SI_A)],
      open_ → x.st = row.1 → gives (.snpData a l) (((arrives (.snpData a l)).sendFrom a (.wbData a l x.data)).agentTo a l row.2)) ∧
    (∀ row ∈ [(AgentState.E, AgentState.S), (.EI_A, .SI_A)],
      open_ → x.st = row.1 → gives (.snpData a l) (((arrives (.snpData a l)).sendFrom a (.snpResp a l 1)).agentTo a l row.2)) ∧
    (∀ row ∈ [(AgentState.O, AgentState.I), (.M, .I), (.OM_A, .IM_D), (.MI_A, .II_A), (.OI_A, .II_A)],
      open_ → x.st = row.1 → gives (.snpInv a l) (((arrives (.snpInv a l)).sendFrom a (.wbData a l x.data)).agentLose a l row.2)) ∧
    (∀ row ∈ [(AgentState.E, AgentState.I), (.EI_A, .II_A)],
      open_ → x.st = row.1 → gives (.snpInv a l) (((arrives (.snpInv a l)).sendFrom a (.snpResp a l 3)).agentLose a l row.2)) ∧
    (∀ i ∈ [fs, fm, .snpData a l, .snpInv a l],
      (x.st = .I → x.deferred = [] → gives i ((arrives i).sendFrom a (.snpResp a l 0))) ∧
      ((x.st = .IM_D ∨ x.st = .IM_A ∨ x.st = .IS_D) → gives i ((arrives i).setAgent a l { x with deferred := x.deferred ++ [i] }))) ∧
    (∀ row ∈ [(AgentState.S, AgentState.I), (.SM_D, .IM_D), (.SI_A, .II_A)], engineOfEp a = none → x.st = row.1 →
      gives (.inv a l) (((arrives (.inv a l)).sendFrom a (.invAck a l)).agentLose a l row.2)) ∧
    (engineOfEp a = none → x.st = .IS_D → gives (.inv a l) (((arrives (.inv a l)).sendFrom a (.invAck a l)).agentTo a l .IS_DI)) ∧
    (engineOfEp a = none → x.st ∉ [.S, .IS_D, .SM_D, .SI_A] → gives (.inv a l) ((arrives (.inv a l)).sendFrom a (.invAck a l)))

/-- Data, grants, acknowledgements, refusals, retries and credits act on an agent as the agent table says. (R166, R167, R284, R286, R293, R295, R303, R304) -/
def Obligations.AgentsTakeTheirResponses : Prop :=
  ∀ (s : State) (a : Pcell) (l : LineNo) (d : Line) (cont : Bool), s.unfrozen a = true →
    let x := s.agent a l
    let gives := fun (i : Instr) (t : State) => s.inOrder i = true → exec i s = .next t
    let fills := fun (i : Instr) (f : State → State) => s.inOrder i = true →
      (s.muleWindow l = false → exec i s = .next (f ((s.takeAt a i).noteCached a l))) ∧ (s.muleWindow l = true → exec i s = .fault .muleCached)
    let wins := fun (y : AgentLine) (u : State) => (u.setAgent a l y).agentWon a l
    (x.st = .IS_D → fills (.dataS a l d) (wins { x with st := .S, data := d, cont := false }) ∧
      fills (.dataE a l d) (wins { x with st := .E, data := d, cont := false, held := true })) ∧
    (x.st ∈ [.IM_D, .SM_D, .IS_D] → fills (.dataM a l d cont false) (wins { x with st := .M, data := d, cont, held := true }) ∧
      fills (.dataM a l d cont true) (fun u => u.setAgent a l { x with st := .IM_A, data := d, cont })) ∧
    (x.st = .IM_A → gives (.done a l) (wins { x with st := .M, held := true } (s.takeAt a (.done a l)))) ∧
    (x.st ∈ [.SM_D, .OM_A] → gives (.grant a l cont) (wins { x with st := .M, cont, held := true } (s.takeAt a (.grant a l cont)))) ∧
    (x.st ∈ [.MI_A, .OI_A, .EI_A, .SI_A, .II_A] → gives (.putAck a l) (wins { deferred := x.deferred } (s.takeAt a (.putAck a l)))) ∧
    (∀ code, x.st ∈ [.IS_D, .IS_DI, .IM_D, .IM_A, .SM_D, .OM_A] → gives (.refuse a l code)
      ((((s.takeAt a (.refuse a l code)).agentLose a l .I).retryCell a (some (l, code))).drainDeferred a l)) ∧
    (∀ so q, tget [] s.retrying (a.val * 2048 + homeEp l) = .getS a l so :: q →
      let k := a.val * 2048 + homeEp l
      let u := s.takeAt a (.retry a l)
      gives (.retry a l) { u with retrying := tset [] s.retrying k q, refused := tset [] s.refused k (tget [] s.refused k ++ [.getS a l so]) }) ∧
    (let k := a.val * 2048 + homeEp l
     let u := { s.takeAt a (.credit a l) with refused := tset [] s.refused k [] }
     (tget [] s.refused k ≠ [] → gives (.credit a l) ((tget [] s.refused k).foldl (fun u i => u.sendFrom a i) u)) ∧
     (tget [] s.refused k = [] → ((s.home (homeEp l)).reserved.find? (·.1 == a.val)) = none → gives (.credit a l) u)) ∧
    exec (.holdEnd a l) s = .next (((s.setAgent a l { x with held := false }).drainDeferred a l).retryCell a none) ∧
    (∀ (h : HenIx) (old : Word) (hot : Bool) (w) (op : AmoOp) (aq rl : Bool) (rd rs1 rs2 : Reg), s.cellsOk = true → (s.cell a).far = [(h.val, l, w)] →
      (s.hen a h).stall = some (.amo a h op true aq rl rd rs1 rs2) →
      let i := Instr.amoResp a l old hot
      let u := s.takeAt a i
      gives i (((((u.setCell a { u.cell a with far := [] }).learn a (lineAddr l) hot).checkInvs a).done a h 4
        fun y => { y.setX rd old with amoChoice := 0 }).retryCell a none))

/-- A request joins its line's queue at the home and is acted on as the home table says. (R268, R287, R288, R290, R293, R294, R301) -/
def Obligations.HomesActOnRequests : Prop :=
  ∀ (s : State) (a : Nat) (l : LineNo) (d : Line) (b : BitVec 192) (so : Bool),
    (s.dbg.module = false → twf {} s.homeLines = true → twf {} s.homes = true → ∀ e ∈ [(Instr.getS a l so, HomeReq.getS a so), (.getM a l, .getM a), (.upgrade a l, .upgrade a), (.putS a l, .putS a),
        (.putE a l, .putE a), (.putD a l d, .putD a d), (.amoFar a l b, .amo a b)],
      let i := e.1
      let r := e.2
      let u := s.take i
      let h := homeEp l
      (s.inOrder i = false ∨ s.homeTurn (s.poolOf a l) = false → exec i s = .next s) ∧
      (s.inOrder i = true → s.homeTurn (s.poolOf a l) = true →
        (r.agent = none ∨ u.entryFor h a l = true → ∀ w,
          let v := if r.agent = none then u else u.setHome h { u.home h with reserved := dropFirst (a, u.poolOf a l) (u.home h).reserved }
          let x := u.homeLine l
          let at_ := v.setHomeLine l { x with queue := [r] }
          x.phase = .stable → x.queue = [] → s.ownerOrdered l = false → at_.homeCheck l r = none → at_.wayWaiters l = [] → (u.home h).retryMap = [] →
          ((at_.dirPlace l).1 = some w ∨ x.noEntry = false ∨ r.allocates = false) →
          exec i s = .next (at_.homeAct l (if x.noEntry = true ∧ r.allocates = true then { x with queue := [], way := w } else { x with queue := [] }) r).ncAnswer) ∧
        (r.agent = some a → u.entryFor h a l = false → ∃ t : State, exec i s = .next t.ncAnswer ∧
          t.flight = u.flight ++ [(h, .retry a l)] ∧ t.retrying = tset [] u.retrying (a * 2048 + h) (tget [] u.retrying (a * 2048 + h) ++ [i]) ∧
          t.homeLines = u.homeLines))) ∧
    (∀ x : HomeLine,
      let di := x.owner = none ∧ x.sharers = []
      (di → ∀ w t, s.homeRead l.toNat (s.partOfAgent a l) (isCellEp a) 0 (s.agentMaster a) = (some w, t) →
        let u := t.noteServed (homeEp l) l a
        s.homeAct l x (.getS a false) = (u.send (.dataE a l w)).setHomeLine l (x.ownedBy a) ∧
        s.homeAct l x (.getM a) = (u.send (.dataM a l w (s.recentOther (homeEp l) l a) false)).setHomeLine l (x.ownedBy a)) ∧
      (∀ w t, x.owner = none → a ∉ x.sharers → x.sharers ≠ [] →
        s.homeRead l.toNat (s.partOfAgent a l) (isCellEp a) 0 (s.agentMaster a) = (some w, t) →
        s.homeAct l x (.getS a so) = ((t.noteServed (homeEp l) l a).send (.dataS a l w)).setHomeLine l (x.addSharer a)) ∧
      (∀ o, x.owner = some o → o ≠ a → x.sharers = [] →
        s.homeAct l x (.getS a so) = (((s.send (.fwdGetS o l a false)).noteServed (homeEp l) l a).setHomeLine l
          { x with phase := .hf false 0 false true false, req := some (.getS a so) }) ∧
        (x.coarse = false → s.homeAct l x (.getM a) = (((s.send (.fwdGetM o l a false)).noteServed (homeEp l) l a).setHomeLine l
          { x with phase := .hf true 0 false true false, req := some (.getM a) })) ∧
        (∀ id, s.isMule (lineAddr l) = false → s.homeAct l x (.read id) = (s.send (.snpData o l)).setHomeLine l { x with phase := .hn 0 true, req := some (.read id) })) ∧
      (x.owner = none → x.sharers = [a] → x.coarse = false → s.homeAct l x (.upgrade a) =
        ((s.noteServed (homeEp l) l a).send (.grant a l (s.recentOther (homeEp l) l a))).setHomeLine l (x.ownedBy a)) ∧
      (x.owner = some a → x.ownedO = false → s.homeAct l x (.putE a) = (s.send (.putAck a l)).setHomeLine l { x with owner := none }) ∧
      (x.owner = some a → s.homeAct l x (.putD a d) =
        ((s.homeWrite l.toNat (s.partOfAgent a l) true d 0 (s.agentMaster a)).send (.putAck a l)).setHomeLine l { x with owner := none, ownedO := false }) ∧
      (x.owner ≠ some a → s.homeAct l x (.putD a d) = (s.send (.putAck a l)).setHomeLine l x) ∧
      (x.owner = none → x.sharers = [a] → s.homeAct l x (.putS a) = (s.send (.putAck a l)).setHomeLine l { x with sharers := [], coarse := false }) ∧
      (di → s.isMule (lineAddr l) = false → s.homeAct l x (.amo a b) = (s.homeAmo l a b false).setHomeLine l x))

/-- INV_ACK, SNP_RESP and WB_DATA end a home's transient state, and FWD_AMO executes a far atomic at its engine. (R194, R195, R289, R301, R302, R305) -/
def Obligations.HomesEndTheirTransientStates : Prop :=
  ∀ (s : State) (a : Nat) (l : LineNo) (r : Nat), s.dbg.module = false →
    let x := s.homeLine l
    let gives := fun (i : Instr) (t : State) => s.inOrder i = true → exec i s = .next t
    let ends := fun (u : State) (y : HomeLine) (q : HomeReq) =>
      (((u.setHomeLine l { y with phase := .stable, req := none, contended := false }).freeEntry l q).homeNext l).ncAnswer
    twf {} s.homeLines = true →
    (∀ n up, x.phase = .ha (n + 2) up → gives (.invAck a l) ((s.take (.invAck a l)).setHomeLine l { x with phase := .ha (n + 1) up }).ncAnswer) ∧
    (x.phase = .ha 1 false → x.req = some (.getM r) → gives (.invAck a l)
      (ends (((s.take (.invAck a l)).setHomeLine l { x with phase := .ha 0 false }).send (.done r l)) ({ x with phase := .ha 0 false }.ownedBy r) (.getM r))) ∧
    (x.phase = .ha 1 true → x.req = some (.upgrade r) → gives (.invAck a l)
      (ends ((((s.take (.invAck a l)).setHomeLine l { x with phase := .ha 0 true }).noteServed (homeEp l) l r).send (.grant r l true))
        ({ x with phase := .ha 0 true }.ownedBy r) (.getM r))) ∧
    (∀ n k sn rf so, x.fwds = [] → x.phase = .hf false n k sn rf → x.req = some (.getS r so) →
      gives (.snpResp a l 1) (ends (s.take (.snpResp a l 1)) (({ x with owner := none, ownedO := false }.addSharer a).addSharer r) (.getS r so)) ∧
      gives (.snpResp a l 2) (ends (s.take (.snpResp a l 2)) ({ x with ownedO := true }.addSharer r) (.getS r so))) ∧
    (∀ n sn (d : Line), x.phase = .hn n sn →
      let u := s.take (.wbData a l d)
      gives (.wbData a l d) (((u.homeWrite l.toNat (u.partOfAgent a l) true d 0 (u.reqMaster x.req)).setHomeLine l
        { x with phase := .hn n false }).homeFinish l).ncAnswer) ∧
    (∀ (e : EngineIx) body d t,
      let u := s.take (.fwdAmo e l r body)
      let from_ := s.amoFrom r l
      (s.amoHasTime e from_.1 = false → gives (.fwdAmo e l r body) s) ∧
      (s.amoHasTime e from_.1 = true → u.memDemand l.toNat 0 from_.2 = (some d, t) →
        gives (.fwdAmo e l r body) ((((((t.memPut l.toNat (amoLine body d).1 from_.2).noteAmo l.toNat body).noteServed (engineFilter e) l r).doneShown r l body).post (epEngine e)
          (.amoResp r l (amoResult body (amoLine body d).2) (x.contended || u.recentOther (engineFilter e) l r))).post (epEngine e) (.snpResp (epEngine e) l 3))))

/-- XLT_REQ is answered from the TLB agent, or becomes one translation request to the host. (R320, R321, R323, R324) -/
def Obligations.TranslationRequestsAreAnswered : Prop :=
  ∀ (s : State) (p : Pcell) (vpn : BitVec 45) (w x : Bool) (pasid : BitVec 20) (tag : BitVec 3),
    let i := Instr.xltReq p vpn w x pasid tag
    let u := s.take i
    let n := (s.cell p).slot
    let g := s.tlbAgent (dieOf p)
    let me : XltWaiter := { pcell := p, tag, w, x }
    (s.dbg.module = false → s.inOrder i = true →
      (s.pasidKnown n.toNat pasid = false → exec i s = .next (u.send (.xltResp p (answerPlain vpn 3 tag)))) ∧
      (s.pasidKnown n.toNat pasid = true →
        (∀ e, tlbEntryFor g.tlb pasid w x (vpn.toNat * 4096) = some e → exec i s = .next (u.send (.xltResp p (answerOk vpn e tag)))) ∧
        (tlbEntryFor g.tlb pasid w x (vpn.toNat * 4096) = none →
          ((g.misses.any fun m => m.pasid == pasid && m.vpn == vpn) = false →
            (g.misses.length < 256 → exec i s = .next ((u.setTlbAgent (dieOf p)
              { g with misses := g.misses ++ [{ pasid, vpn, w, x, slot := n, waiters := [me] }] }).emit (.translationRequest pasid vpn (!w) x))) ∧
            (256 ≤ g.misses.length → exec i s = .next (u.send (.xltResp p (answerPlain vpn 1 tag))))) ∧
          (∀ m, g.misses.find? (fun m => m.pasid == pasid && m.vpn == vpn) = some m →
            let v := u.setTlbAgent (dieOf p) { g with
              misses := g.misses.map fun m => if m.pasid == pasid && m.vpn == vpn then { m with waiters := m.waiters ++ [me] } else m }
            (m.prg = none → m.wantPage = false → exec i s = .next v) ∧
            (∀ (prg : BitVec 9) (k : Slot), m.prg = some prg → n.toNat = k.val →
              exec i s = .next ((v.send (.xltResp p (answerPlain vpn 2 tag))).send (.xltPage pasid k prg))))))) ∧
    (∀ m, s.unfrozen p = true → (s.cell p).misses.find? (fun m => m.tag == tag && m.busy) = some m →
      exec (.xltReqResend p tag) s = .next ((s.setCell p { s.cell p with
        misses := (s.cell p).misses.map fun y => if y.tag = tag then { y with busy := false } else y }).sendFrom p (.xltReq p m.vpn m.w m.x m.pasid tag)))

/-- XLT_RESP and the host's translation completion fill the TLBs, fail the access or make it wait. (R313, R317, R318, R323, R324, R325, R326, R328) -/
def Obligations.TranslationAnswersAreTaken : Prop :=
  ∀ (s : State) (p : Pcell) (r : XltAnswer) (die : DieIx) (c : AtsCompletion),
    (∀ m, s.unfrozen p = true → s.cellsOk = true → s.inOrder (.xltResp p r) = true → (s.cell p).misses.find? (fun m => m.tag == r.tag && m.vpn == r.vpn) = some m →
      let u := s.takeAt p (.xltResp p r)
      let d := u.cell p
      let rest := d.misses.filter fun y => y.tag != r.tag
      let mark := fun (f : L1Miss → L1Miss) => u.setCell p { d with misses := d.misses.map fun y => if y.tag = r.tag then f y else y }
      (r.status = 1 → exec (.xltResp p r) s = .next (mark fun y => { y with busy := true })) ∧
      (r.status = 2 → exec (.xltResp p r) s = .next (mark fun y => { y with page := true })) ∧
      (r.status = 0 →
        let lg := 12 + 9 * r.size.toNat
        let e : TlbEntry := { pasid := m.pasid, vgroup := r.vpn.toNat * 4096 / 2 ^ lg / 16, size := r.size, pbase := r.pbase, mask := r.mask
                              rd := r.rd, wr := r.wr, ex := r.ex }
        let v := u.setCell p { d with misses := rest, tlb := tlbFill d.tlb e (fun _ => true) 256 (Config.plru s.free) }
        exec (.xltResp p r) s = .next ({ v with free := v.free + 1 }.retryCell p none)) ∧
      (3 ≤ r.status.toNat → exec (.xltResp p r) s = .next (((u.setCell p { d with misses := rest }).xltFails p m).retryCell p none))) ∧
    (∀ m, s.dbg.module = false →
      let g := s.tlbAgent die
      g.misses.find? (fun m => m.pasid == c.pasid && m.vpn == c.vpn && m.prg.isNone && !m.wantPage) = some m →
      (m.stale = true → exec (.atsTranslationCompletion die c) s = .next ((s.setTlbAgent die { g with
        misses := g.misses.map fun y => if y = m then { y with stale := false } else y }).emit
          (.translationRequest m.pasid m.vpn (!m.waiters.any (·.w)) (m.waiters.any (·.x))))) ∧
      (m.stale = false →
        (c.ok = false ∨ c.u = true ∨ s.apertureOf c.taddr.toNat = none →
          exec (.atsTranslationCompletion die c) s = .next (m.waiters.foldl (fun (s : State) w => s.xltAnswer w.pcell (answerPlain m.vpn 3 w.tag))
            (s.setTlbAgent die { g with misses := dropFirst m g.misses }))) ∧
        (∀ a, c.ok = true → c.u = false → s.apertureOf c.taddr.toNat = some a →
          let e := completionEntry c a
          let sets := fun (o : TlbEntry) =>
            Config.tlbSet o.vgroup o.size.toNat o.pasid.toNat % 2048 == Config.tlbSet e.vgroup e.size.toNat e.pasid.toNat % 2048
          let tlb := tlbFill g.tlb e sets 8 (Config.plru s.free)
          (e.rd = true ∨ e.wr = true) → (∀ w ∈ m.waiters, (e.look m.pasid (!w.w) w.w w.x (m.vpn.toNat * 4096)).isSome = true) →
          exec (.atsTranslationCompletion die c) s = .next ((m.waiters.foldl (fun (s : State) w => s.xltAnswer w.pcell (answerOk m.vpn
              ((tlb.find? fun o => o.pasid == e.pasid && o.size == e.size && o.vgroup == e.vgroup).getD e) w.tag)) { s with free := s.free + 1 }).setTlbAgent die
            { g with misses := dropFirst m g.misses, tlb }))))

/-- ATS_INVALIDATE_REQUEST, XLT_FLUSH, XLT_INV, XLT_INV_ACK and INVALIDATION_ABANDON carry an invalidation through. (R331, R332, R333, R334, R336) -/
def Obligations.InvalidationsReachEveryCell : Prop :=
  ∀ (s : State) (p : Pcell) (q : XltInvReq) (seq : BitVec 8) (v : Word),
    (s.dbg.module = false → ∀ r : AtsInvalidate,
      (∀ k, r.pasid = some k → exec (.atsInvalidateRequest r) s = .next (s.invalidate (some r.itag) k false r.vpn r.log2)) ∧
      (r.pasid = none → exec (.atsInvalidateRequest r) s = .next (s.invalidate (some r.itag) 0 true r.vpn r.log2))) ∧
    (s.pcieOpen = true →
      ((s.xlt.invalidations.any (·.itag.isNone)) = false →
        exec (.xltFlush v) s = .next ((s.logWindow 0x380010 v).invalidate none (v.truncate 20) (v.getLsbD 20) 0 45)) ∧
      ((s.xlt.invalidations.any (·.itag.isNone)) = true → exec (.xltFlush v) s = .next s)) ∧
    (∀ itag pasid all vpn log2,
      let t := s.invalidate itag pasid all vpn log2
      let q : XltInvReq := { vpn, pasid, allPasid := all, log2, seq := s.xlt.nextSeq }
      t.xlt.nextSeq = s.xlt.nextSeq + 1 ∧ t.tlbAgents = tmap {} s.tlbAgents (fun _ (g : TlbAgent) => { g with
        tlb := tlbClear g.tlb q
        misses := g.misses.map fun m => if m.prg.isNone && !m.wantPage && invCovers q m.pasid (m.vpn.toNat * 4096) then { m with stale := true } else m }) ∧
      (s.invCells = [] → t.outbox = s.outbox ++ (itag.toList.map fun i => .invalidateCompletion i) ∧ t.flight = s.flight ∧
        t.xlt.invalidations = s.xlt.invalidations) ∧
      (∀ cs : List Pcell, cs ≠ [] → s.invCells = cs.map (·.val) → t.outbox = s.outbox ∧
        t.flight = s.flight ++ cs.map (fun (c : Pcell) => (epTlb (dieOf c), .xltInv c q)) ∧
        t.xlt.invalidations = s.xlt.invalidations ++ [{ itag, seq := s.xlt.nextSeq, pasid, all, vpn, log2, awaiting := s.invCells, since := s.tick }])) ∧
    (s.unfrozen p = true →
      (s.inOrder (.xltInv p q) = false → exec (.xltInv p q) s = .next s) ∧
      (s.inOrder (.xltInv p q) = true →
        let u := s.takeAt p (.xltInv p q)
        let w := u.setCell p { u.cell p with tlb := tlbClear (u.cell p).tlb q, invs := (u.cell p).invs ++ [q] }
        exec (.xltInv p q) s = .next (w.checkInvs p) ∧
        (s.cellsOk = true → (u.cell p).invs = [] →
          ((w.cell p).invBlocked q = true → w.checkInvs p = w) ∧
          ((w.cell p).invBlocked q = false → (w.checkInvs p).flight = w.flight ++ [(p.val, .xltInvAck p q.seq)] ∧ ((w.checkInvs p).cell p).invs = [])))) ∧
    (s.dbg.module = false →
      (s.inOrder (.xltInvAck p seq) = false → exec (.xltInvAck p seq) s = .next s) ∧
      (s.inOrder (.xltInvAck p seq) = true → ∀ x, s.xlt.invalidations.find? (fun x => x.seq == seq && x.awaiting.contains p.val) = some x →
        let y := { x with awaiting := x.awaiting.filter (· != p.val) }
        let u := s.take (.xltInvAck p seq)
        let u := { u with xlt := { u.xlt with invalidations := s.xlt.invalidations.map fun z => if z = x then y else z } }
        exec (.xltInvAck p seq) s = .next (if y.awaiting.isEmpty then u.invEnds y else u))) ∧
    (∀ x : Invalidation, (s.invEnds x).xlt.invalidations = dropFirst x s.xlt.invalidations ∧
      (s.invEnds x).outbox = s.outbox ++ (x.itag.toList.map fun i => .invalidateCompletion i)) ∧
    (s.dbg.module = false → ∀ itag,
      let due := fun (x : Invalidation) => decide (x.since + 10000 ≤ s.tick)
      (s.xlt.invalidations.any due = false → exec (.invalidationAbandon itag) s = .next s) ∧
      (∀ x, s.xlt.invalidations.find? (fun x => x.itag == some itag && due x) = some x →
        let u := x.awaiting.foldl (fun (s : State) p => s.abandon p x) s
        let u := (distinct (x.awaiting.map fun p => (u.cell p).slot.toNat)).foldl (fun (s : State) n => s.dropUnstarted n) u
        let u := x.awaiting.foldl (fun (s : State) p => s.checkInvs p) u
        let w := (distinct (x.awaiting.filterMap fun p => u.cellCtx p)).foldl (fun (s : State) k => match s.ctxSlot k with
          | some n => if s.runningCtx n = some k then s.stepFault n 0xC else s.ctxFault k 0xC
          | none => s) u
        exec (.invalidationAbandon itag) s = .next ({ w with xlt := { w.xlt with abandons := .ofNat 16 (satInc 16 w.xlt.abandons.toNat) } }.invEnds x))) ∧
    (∀ (x : Invalidation) (d : DrayIx), s.cellsOk = true →
      let gone : XltInvReq := { vpn := x.vpn, pasid := x.pasid, allPasid := x.all, log2 := x.log2, seq := x.seq }
      ((s.abandon p x).dray p d).out = (s.dray p d).out.filter fun r => !r.covered gone)

/-- After XLT_INV a cell translates no page of the range, and after an invalidate request no TLB agent does. (R316, R331, R332) -/
def Obligations.NoTranslationSurvivesItsInvalidation : Prop :=
  ∀ (s : State) (q : XltInvReq) (pasid : BitVec 20) (va : Nat) (r w x : Bool), va < 2 ^ 57 → invCovers q pasid va = true →
    (∀ (p : Pcell) (t : State), s.cellsOk = true → s.unfrozen p = true → s.inOrder (.xltInv p q) = true → exec (.xltInv p q) s = .next t → tlbLook (t.cell p).tlb pasid r w x va = none) ∧
    (∀ (itag : Option (BitVec 5)) (d : Nat), twf {} s.tlbAgents = true →
      tlbLook ((s.invalidate itag q.pasid q.allPasid q.vpn q.log2).tlbAgent d).tlb pasid r w x va = none)

/-- XLT_PAGE and PRG_RESPONSE carry a page request through, COUNT_DECAY halves the access counts, AC_RING_RESET restarts the ring. (R327, R328, R329, R330, R339, R342) -/
def Obligations.PagesComeAndAccessesAreCounted : Prop :=
  ∀ (s : State) (n : Slot) (pasid : BitVec 20) (prg : BitVec 9) (v : Word),
    (∀ k, s.dbg.module = false → s.inOrder (.xltPage pasid n prg) = true → s.runningCtx n = some k → (∀ j ∈ (s.take (.xltPage pasid n prg)).pageCtxs n pasid prg, j = k) → (s.slice (s.ctx k).slice).pasid = pasid → (s.slotSched n).stopAt = none →
      (s.slotSched n).switch = .none → s.areaHolds n = true → (s.slotSched n).freeLevel ≠ none →
      let u := s.take (.xltPage pasid n prg)
      let u := u.setCtx k { s.ctx k with step := (s.ctx k).step.map fun st => { st with pages := if st.pages.contains prg then st.pages else st.pages ++ [prg] } }
      exec (.xltPage pasid n prg) s = .next (u.setSlotSched n { s.slotSched n with stopAt := some true })) ∧
    (∀ j, s.dbg.module = false → s.inOrder (.xltPage pasid n prg) = true → s.runningCtx n = none → (s.slice (s.ctx j).slice).pasid = pasid →
      (s.take (.xltPage pasid n prg)).pageCtxs n pasid prg = [j] → exec (.xltPage pasid n prg) s = .next ((s.take (.xltPage pasid n prg)).awaitsPage j prg)) ∧
    (s.dbg.module = false → ∀ ok : Bool,
      let late := fun (u : State) => { u with xlt := { u.xlt with latePrg := .ofNat 16 (satInc 16 u.xlt.latePrg.toNat) } }
      ((s.tlbAgents.any fun e => e.2.misses.any fun m => m.prg == some prg) = false → exec (.prgResponse prg ok) s = .next (late s)) ∧
      (∀ d g m, s.tlbAgents.find? (fun e => e.2.misses.any fun m => m.prg == some prg) = some (d, g) →
        g.misses.find? (fun m => m.prg == some prg) = some m → m.waiters = [] → (∀ e ∈ s.flight, ∀ a b, e.2 ≠ .xltPage a b prg) →
        let u := s.setTlbAgent d { g with misses := dropFirst m g.misses }
        let ks := u.pageWaiters m.slot.toNat m.pasid prg
        let waits := ks.any fun k => match (u.ctx k).step with
          | some st => st.pages.contains prg
          | none => false
        (waits = true → exec (.prgResponse prg ok) s = .next (ks.foldl (fun s k =>
          if ok then s.pageCame m.slot.toNat k prg else s.pageFails m.slot.toNat k (BitVec.ofNat 64 (m.vpn.toNat * 4096))) u).sendWaiting) ∧
        (waits = false → exec (.prgResponse prg ok) s = .next (late u).sendWaiting))) ∧
    (s.dbg.module = false → s.tick % 2 ^ s.xlt.decayLog2 = 0 → exec .countDecay s = .next { s with xlt := { s.xlt with
      ac := tmap [] s.xlt.ac fun _ l => l.map fun e => { e with count := e.count / 2, reported := e.reported && decide (e.count / 2 ≥ s.xlt.thresh) } } }) ∧
    (s.pcieOpen = true →
      let u := s.logWindow 0x380108 v
      exec (.acRingReset true v) s = .next { u with xlt := { u.xlt with acRingBase := v &&& ~~~0xFFF#64, acTail := u.xlt.acHead } } ∧
      (10 ≤ bfield v 32 6 → bfield v 32 6 ≤ 40 → 8 ≤ bfield v 3 5 → bfield v 3 5 ≤ 16 →
        let u := s.logWindow 0x380100 v
        exec (.acRingReset false v) s = .next { u with xlt := { u.xlt with acTail := s.xlt.acHead, acCtrl := put 48 (bfield v 48 16) ||| put 32 (bfield v 32 6) ||| put 3 (bfield v 3 5) ||| put 0 (bfield v 0 3) } }))

/-- A step that retires after its deadline retires as any other, and the miss is counted. (R393) -/
def Obligations.AStepPastItsDeadlineStillRetires : Prop :=
  ∀ (s : State) (n : Slot) (k : Nat) (st : StepRec), s.dbg.module = false →
    (s.slotSched n).running = some k → (s.slotSched n).switch = .none → (s.slotSched n).faulted = none → s.stepComplete n = true →
    (s.ctx k).step = some st →
    let u := (s.phaseLearn n).charge n
    let v : State := if stDeadline st.desc ≠ 0 ∧ stDeadline st.desc < s.tick then
      { u with sched := { u.sched with misses := .ofNat 16 (satInc 16 u.sched.misses.toNat) } } else u
    let w := v.setSlotSched n { v.slotSched n with running := none, stopAt := none }
    let x := w.setCtx k { w.ctx k with held := none, step := none, idleSince := s.tick, awake := true }
    exec (.stepRetire n) s = .next ((((x.doSignals k st.desc).stepDone k st).settle).parkIfIdle n) ∧
    (stDeadline st.desc ≠ 0 → stDeadline st.desc < s.tick → u.sched.misses < 0xFFFF → v.sched.misses = s.sched.misses + 1)

/-- STEP_START, STEP_RETIRE, CHARGE, MAKE_RESIDENT, PROMOTION_CHECK and COMMAND_TIMEOUT. (R358, R359, R360, R380, R382, R384, R386, R330, R391, R394, R395, R472) -/
def Obligations.StepsStartAreChargedAndTimeOut : Prop :=
  ∀ (s : State) (n : Slot) (k : Nat) (st : StepRec), s.dbg.module = false → (s.ctx k).step = some st →
    let c := s.ctx k
    let x := s.slotSched n
    let q := s.partOf n
    (s.slotFree n = true → s.stage.loading = none → s.ttMayWrite n = true → s.chosen n = some k → s.ctxState k = some .ready →
      let r := s.shapeTouch q st.desc
      (s.stepBadFields k st.desc = true → exec (.stepStart n) s = .next ((s.ctxFault k stepBad).settle.parkIfIdle n)) ∧
      (s.stepBadFields k st.desc = false → s.stepShape q st.desc = none →
        exec (.stepStart n) s = .next ((r.ctxFault k stepBad).settle.parkIfIdle n)) ∧
      (∀ sh, s.stepBadFields k st.desc = false → s.stepShape q st.desc = some sh →
        (sh.cells ≠ (s.coach n).localCells ∨ (s.coach n).unplaced ≠ [] →
          exec (.stepStart n) s = .next ((r.ctxFault k stepShape).settle.parkIfIdle n)) ∧
        (sh.cells = (s.coach n).localCells → (s.coach n).unplaced = [] →
          (∀ u, r.activate n sh.list = (none, u) → exec (.stepStart n) s = .next ((u.ctxFault k stepTtMissing).settle.parkIfIdle n)) ∧
          (∀ t u, r.activate n sh.list = (some t, u) →
            let v := t.setCoach n { t.coach n with yieldTable := sh.yieldTable &&& 0x000FFFFFFFFFE000#64 }
            exec (.stepStart n) s = .next (((v.lcellsOf n).foldl (fun s p => s.startHens p sh.henMask sh.entry (stArg st.desc)) v).takeCells n k))))) ∧
    (x.running = some k → x.switch = .none → x.faulted = none → s.stepComplete n = true → stDeadline st.desc = 0 →
      let u := (s.phaseLearn n).charge n
      let v := u.setSlotSched n { u.slotSched n with running := none, stopAt := none }
      let w := v.setCtx k { v.ctx k with held := none, step := none, idleSince := s.tick, awake := true }
      exec (.stepRetire n) s = .next ((((w.doSignals k st.desc).stepDone k st).settle).parkIfIdle n)) ∧
    (s.stage.frame % 64 ≠ 0 → exec (.charge n) s = .next s) ∧
    (x.running = some k → s.stage.frame % 64 = 0 → exec (.charge n) s = .next (s.setCtx k { c with
      vt := c.vt + BitVec.ofNat 64 (st.busy * 65536 / (c.weight * s.classScale (stClass st.desc)))
      step := some { st with busy := 0 } })) ∧
    (c.resident = false → s.ctxState k = some .ready → (s.host.ctxs.filter fun e => e.2.resident).length < 64 →
      exec (.makeResident k) s = .next (s.setCtx k { c with resident := true })) ∧
    (let ready := (s.ctxsOf n).filter fun k => s.ctxState k == some .ready
     let u := (ready ++ x.running.toList).foldl (fun s k => s.promote n k) s
     ((u.slotSched n).running = none → exec (.promotionCheck n) s = .next u) ∧
     (∀ v p sv, (u.slotSched n).running = some v → (u.slotSched n).switch = .none → (u.slotSched n).stopAt = none → u.choose n = some p →
       (u.ctx v).step = some sv → sv.pages = [] → u.isPromoted v = false → (u.coach n).span = false → u.areaHolds n = true →
       (u.slotSched n).freeLevel ≠ none →
       let w := if u.isPromoted p && (u.coach n).phase == 1 then u.moveCancel n true else u
       (u.isPromoted p = true ∨
         ((u.ctx v).vt.toNat > (u.ctx p).vt.toNat + u.sched.hyst.toNat ∧ ∀ r, sv.remaining n = some r → 2 * State.spillFrames n ≤ r) →
         exec (.promotionCheck n) s = .next (w.setSlotSched n { w.slotSched n with stopAt := some false, forCtx := some p })) ∧
       (u.isPromoted p = false → (u.ctx v).vt.toNat ≤ (u.ctx p).vt.toNat + u.sched.hyst.toNat → exec (.promotionCheck n) s = .next u)) ∧
     (∀ v p at_, (u.slotSched n).running = some v → (u.slotSched n).switch = .none → (u.slotSched n).stopAt = some at_ → u.choose n = some p →
       u.isPromoted p = true → u.isPromoted v = false → (u.coach n).span = false → (u.coach n).phase = 1 →
       exec (.promotionCheck n) s = .next (u.moveCancel n true))) ∧
    (∀ stuck,
      let expired (j : Nat) : Prop := ∃ sj, (s.ctx j).step = some sj ∧ stTimeoutMs sj.desc * 100000 ≤ sj.count s.tick
      x.running = some k → expired k → (∀ l ∈ x.levels.toList, ∀ j, l.ctx = some j → (s.ctx j).held = some .paged → j ≠ k → ¬ expired j) →
      exec (.commandTimeout n stuck) s = .next ((s.recordFault (stepReport n stepTimeout) (some k) st.num).resetBegin n
        (some (faultCode 0 stepTimeout)) (some k) stuck)) ∧
    (∀ stuck j l, x.running = none → x.levels = #v[{ ctx := some j, cells := l }, {}] → (s.ctx j).held = some .paged → (s.ctx j).step = some st →
      stTimeoutMs st.desc * 100000 ≤ st.count s.tick → exec (.commandTimeout n stuck) s = .next (s.ctxFault j stepPageTimeout))

/-- STOP_BOUNDARY, SPILL_SWAP, SPILL_COMPLETE, REFILL and REFILL_COMPLETE. (R397, R398, R399, R400, R402, R403, R404) -/
def Obligations.PreemptionSpillsAndRefills : Prop :=
  ∀ (s : State) (n : Slot) (k : Nat), s.dbg.module = false →
    let x := s.slotSched n
    (∀ paged level, x.running = some k → x.stopAt = some paged → x.switch = .none → (s.coach n).batch = false → (paged = true ∨ s.isPromoted k = false) →
      x.freeLevel = some level → s.areaHolds n = true →
      let u := s.charge n
      let v := (u.lcellsOf n).foldl (fun (s : State) p => s.setCell p { (s.cell p).stop with live := s.liveOf p (s.coach n).yieldTable }) u
      let c := v.ctx k
      let w := v.setCtx k { c with
        held := some (if paged then .paged else .spilled), step := c.step.map fun st => if paged then st else st.pause v.tick }
      let y : State := if paged then w else
        { w with sched := { w.sched with preempts := .ofNat 16 (satInc 16 w.sched.preempts.toNat) } }
      exec (.stopBoundary n) s = .next (y.setSlotSched n { (y.slotSched n).setLevel level { ctx := some k } with
        stopAt := none, switch := .stopping y.stage.frame paged level })) ∧
    (x.running = some k → x.stopAt = some false → x.switch = .none → (s.coach n).batch = false → s.isPromoted k = true →
      exec (.stopBoundary n) s = .next (s.setSlotSched n { x with stopAt := none, forCtx := none })) ∧
    (∀ f paged level, x.switch = .stopping f paged level → f + 4 ≤ s.stage.frame → (s.lcellsOf n).all s.drained = true → s.mayLoad n = true →
      let got := (s.lcellsOf n).map fun p => s.capture p (s.cell p).live
      let u := s.ownImage n
      let y := u.slotSched n
      exec (.spillSwap n) s = .next (u.setSlotSched n { y.setLevel level { y.level level with cells := got.map (·.1), ecc := got.any (·.2) } with
        switch := .spilling level })) ∧
    (∀ level, x.switch = .spilling level → x.faulted.isSome = true → exec (.spillComplete n) s = .next (s.faultBoundary n)) ∧
    (∀ level, x.switch = .spilling level → x.faulted = none →
      let u := ((s.spillLevel n level).lcellsOf n).foldl (fun (s : State) p => s.spilled n p) (s.spillLevel n level)
      exec (.spillComplete n) s = .next ((u.setSlotSched n { u.slotSched n with running := none, switch := .none }).settle.parkIfIdle n)) ∧
    (∀ level l b, s.spillBankAt n level l b = bfield (tget 0 s.sched.spillArea n) 30 22 * 2 ^ 30 +
      (level * bfield (tget 0 s.sched.spillArea n) 0 11 + (l.toNat - (s.coach n).base.toNat)) * 2228224 + 131072 * (b + 1)) ∧
    (∀ p, (s.cell p).spilled.sp = (s.cell p).sp ∧ (s.cell p).spilled.owner = (s.cell p).owner ∧
      (∀ h : HenIx, (s.cell p).spilled.hens[h].run = false)) ∧
    (∀ level, s.slotFree n = true → s.mayLoad n = true → s.chosen n = some k → s.levelOf n k = some level →
      let u := s.ownImage n
      exec (.refill n) s = .next (u.setSlotSched n { u.slotSched n with switch := .refilling k level })) ∧
    (∀ level st sh t w, x.switch = .refilling k level → (s.ctx k).step = some st → (x.level level).ecc = false → s.stage.loading = none → s.ttMayWrite n = true →
      let u := s.setSlotSched n { x.setLevel level {} with switch := .none }
      (u.ctx k).step = some st → u.stepShape (u.partOf n) st.desc = some sh → u.activate n sh.list = (some t, w) →
      let v := t.setCoach n { t.coach n with yieldTable := sh.yieldTable &&& 0x000FFFFFFFFFE000#64 }
      (∀ im ∈ (x.level level).cells, (v.spillFetch n level im).2 = none) →
      exec (.refillComplete n) s = .next ((((x.level level).cells.map fun im => (v.spillFetch n level im).1).foldl (fun (s : State) im =>
        match s.placed n im.lcell with
        | some p => ((s.restoreCell p im).setCell p (((s.restoreCell p im).cell p).runAgain im.ran)).pumpCell p
        | none => s) ((x.level level).cells.foldl (fun s im => s.fetchTouch n level im) v)).takeCells n k))

/-- ACQUIRE, TRY, RELEASE, READ and SET of a semaphore, and the scheduling registers. (R405, R406, R407, R408, R409, R414) -/
def Obligations.SemaphoreOperationsAct : Prop :=
  (∀ (s : State) (east : Bool) (m : GigMsg) (k : Nat), s.dbg.module = false →
    let p := bfield m.src 0 11
    let n := m.coach.toNat
    let i := semIndex m
    let op := fun (j : Instr) (f : State → GigMsg → Semaphore → State) (o : Nat) =>
      let u := s.take j
      s.inOrder j = true → u.cellCtx p = some k →
      let m' := { m with src := BitVec.ofNat 28 (u.cell p).lcell.toNat }
      let x := u.sem (semKey n i)
      (u.semRefuses east m' o = true → exec j s = .next (u.semReply east n k m' i x.value.toNat 4)) ∧
      (u.semRefuses east m' o = false → exec j s = .next (f u m' x))
    let granted := fun (u : State) (m' : GigMsg) (x : Semaphore) =>
      (u.setSem (semKey n i) (x.grant k (u.cell p).lcell)).semReply east n k m' i (x.value - 1).toNat 0
    op (.acquire east m) (fun u m' x =>
      if x.value ≠ 0 ∧ x.room k = true then granted u m' x
      else if 1024 ≤ u.semWaiters east then u.semReply east n k m' i x.value.toNat 3
      else
        let v := u.setSem (semKey n i) { x with waiters := x.waiters ++ [(k, m')] }
        if u.runningCtx n = some k then v.inherit n i else v) 0 ∧
    op (.semTry east m) (fun u m' x =>
      if x.value ≠ 0 ∧ x.room k = true then granted u m' x else u.semReply east n k m' i x.value.toNat 2) 2 ∧
    op (.release east m) (fun u m' x =>
      let v : BitVec 8 := .ofNat 8 (satInc 8 x.value.toNat)
      let h := (x.holders.map fun e => if e.1 = k then (k, e.2 - 1) else e).filter fun e => e.2 != 0
      ((u.setSem (semKey n i) { x with
        value := v
        holders := h
        grants := (dropFirst (k, (u.cell p).lcell) x.grants).filter fun g => h.any (·.1 == g.1) }).semReply east n k m' i v.toNat 1).semGrant n i x.waiters.length) 1 ∧
    op (.semRead east m) (fun u m' x => u.semReply east n k m' i x.value.toNat 1) 3 ∧
    op (.semSet east m) (fun u m' x =>
      ((u.setSem (semKey n i) { x with value := BitVec.ofNat 8 (semArg m), holders := [], grants := [] }).semReply east n k m' i (semArg m) 1).semGrant
        n i x.waiters.length) 4) ∧
  (∀ (s : State) (c : ClassIx) (r : RegionIx) (v : Word), s.pcieOpen = true →
    (∃ t, exec (.schedClassWrite c v) s = .next t ∧ t.classSlack c.val = bfield v 0 40 ∧
      t.classScale c.val = (if bfield v 40 8 = 0 then s.classScale c.val else bfield v 40 8) ∧
      (∀ d : ClassIx, d ≠ c → t.classSlack d.val = s.classSlack d.val ∧ t.classScale d.val = s.classScale d.val) ∧
      t = { s with sched := { s.sched with classes := t.sched.classes } }) ∧
    (v.getLsbD 63 = false ∨ (bfield v 0 11 < 1152 ∧ regionOf (bfield v 0 11) = r.val) →
      exec (.inheritCellWrite r v) s = .next { s with sched := { s.sched with
        inherit := tset 0 s.sched.inherit r.val (v &&& 0x80000000000007FF#64) } }) ∧
    (v.getLsbD 63 = true → 1152 ≤ bfield v 0 11 ∨ regionOf (bfield v 0 11) ≠ r.val → exec (.inheritCellWrite r v) s = .next s))

/-- SLICE_CREATE, SLICE_DESTROY, DOORBELL_SET, CONTEXT_CREATE, CONTEXT_TEARDOWN, FENCE_INIT, FENCE_FREE, FENCE_TABLE and COACH_BIND. (R350, R351, R352, R353, R354, R355, R361, R364, R375, R376, R617) -/
def Obligations.MailboxCommandsAct : Prop :=
  ∀ (s : State) (ws : List Word), s.pcieOpen = true → s.host.mbxWaits = none →
    let cmd := fun (op : Nat) => (span 0 8).foldl (fun m i => tset 0 m i (if i = 0 then withOp op (mbWord ws 0) else mbWord ws i)) s.host.mbxCmd
    let v := fun (op : Nat) => { s with host := { s.host with mbxCmd := cmd op } }
    let words := fun (op : Nat) => (span 0 8).map fun i => tget 0 (cmd op) i
    let w := fun (op i lo n : Nat) => mbField (words op) i lo n
    let logged := fun (op : Nat) => (v op).log 0x11 oPcie ((v op).mbPart (words op))
      (if op = 0x30 && w op 0 32 6 != 63 then w op 0 32 6 else 63) (mbWord (words op) 0) (mbWord (words op) 1)
    let acts := fun (i : Instr) (op : Nat) (f : State → State) =>
      ((v op).mbCheck (words op) ≠ mbOk → exec i s = .next ((v op).mbxAnswer ((v op).mbCheck (words op)) 0)) ∧
      ((v op).mbCheck (words op) = mbOk → exec i s = .next ((f (logged op)).mbxAnswer mbOk 0))
    acts (.sliceCreate ws) 0x01 (fun u => u.setSlice (w 1 0 8 10) {
      valid := true, partition := BitVec.ofNat 5 (w 1 0 18 5), pasid := BitVec.ofNat 20 (w 1 0 23 20)
      eventBase := mbWord (words 1) 1, eventLog2 := w 1 2 0 5, vector := w 1 2 16 11, waits := w 1 2 32 16 }) ∧
    acts (.sliceDestroy ws) 0x02 (fun u =>
      { u with host := { u.host with
          waits := u.host.waits.filter (fun x => x.slice != w 2 0 8 10), slices := tset {} u.host.slices (w 2 0 8 10) {} } }) ∧
    acts (.doorbellSet ws) 0x03 (fun u =>
      { u with host := { u.host with pages := tset {} u.host.pages (w 3 0 16 16) { ctx := if w 3 1 63 1 = 1 then none else some (w 3 1 0 16) } } }) ∧
    acts (.contextCreate ws) 0x10 (fun u => u.setCtx (w 0x10 0 8 16) {
      valid := true, slice := w 0x10 1 0 10, handle := w 0x10 1 16 12, ringBase := mbWord (words 0x10) 2, ringLog2 := w 0x10 3 0 5
      weight := w 0x10 3 8 8, idleSince := u.tick }) ∧
    (let k := w 0x11 0 8 16
     let u := logged 0x11
     (v 0x11).mbCheck (words 0x11) = mbOk →
      (u.ctxSlot k = none → exec (.contextTeardown ws) s = .next (((u.teardown k none).settle).mbxAnswer mbOk 0)) ∧
      (∀ n, u.ctxSlot k = some n →
        (u.runningCtx n ≠ some k → tget none u.errs.resets n = none →
          exec (.contextTeardown ws) s = .next (((u.teardown k none).settle).mbxAnswer mbOk 0)) ∧
        (u.runningCtx n = some k →
          let t := (u.setCtx k { u.ctx k with closing := true }).discardSteps k ((u.ctx k).tail - (u.ctx k).head).toNat
          exec (.contextTeardown ws) s = .next { t with host := { t.host with mbxWaits := some k } }))) ∧
    acts (.fenceInit ws) 0x20 (fun u =>
      let q := w 0x20 0 8 5
      let f := w 0x20 0 32 20
      let t := (u.fenceLoad q f).setFence q f {
        value := mbWord (words 0x20) 1, target := mbWord (words 0x20) 1, owner := BitVec.ofNat 16 (w 0x20 2 0 16)
        noOwner := w 0x20 2 63 1 == 1, valid := true }
      (t.setTable q { t.tableOf q with made := (t.tableOf q).made ++ [f] }).settle) ∧
    acts (.fenceFree ws) 0x21 (fun u => (u.fenceFree (w 0x21 0 8 5) (w 0x21 0 32 20)).settle) ∧
    acts (.fenceTable ws) 0x22 (fun u =>
      let q := w 0x22 0 8 5
      let e := (u.host.cached.filter fun k => k / 2 ^ 20 == q).foldl (fun (s : State) k => s.fenceEvict k) u
      (e.devZero (mbWord (words 0x22) 1).toNat (2 ^ w 0x22 0 16 5 * 32)).setTable q { base := some (mbWord (words 0x22) 1), log2 := w 0x22 0 16 5, made := [] }) ∧
    acts (.coachBind ws) 0x30 (fun u =>
      ({ u with host := { u.host with
          handles := tset 63 u.host.handles (w 0x30 0 16 12) (BitVec.ofNat 6 (w 0x30 0 32 6)) } } : State).settle)

/-- The doorbell page writes, and the BAR4 window. (R346, R347, R361, R362, R363, R365, R366, R367, R370, R373) -/
def Obligations.DoorbellPagesAct : Prop :=
  ∀ (s : State) (pg : Nat) (v : Word), s.pcieOpen = true → s.dbg.module = false →
    (s.pageCtx pg = none → ∀ i ∈ [Instr.doorbellTail pg v, .waitLatch pg v, .waitRegister pg v, .signalLatch pg v, .signal pg v, .fenceQuery pg v,
        .eventHead pg v, .eventArm pg v], exec i s = .next s.dbIgnore) ∧
    (∀ k, s.pageCtx pg = some k →
      let c := s.ctx k
      let q := s.ctxPart k
      let t : BitVec 32 := BitVec.ofNat 32 (bfield v 0 32)
      ((c.tail - c.head).toNat ≤ (t - c.head).toNat → (t - c.head).toNat ≤ 2 ^ c.ringLog2 →
        exec (.doorbellTail pg v) s = .next (s.setCtx k { c with tail := t }).settle) ∧
      ((t - c.head).toNat < (c.tail - c.head).toNat ∨ 2 ^ c.ringLog2 < (t - c.head).toNat → exec (.doorbellTail pg v) s = .next s.dbIgnore) ∧
      exec (.waitLatch pg v) s = .next (s.setPage pg { s.page pg with waitLatch := some (bfield v 0 20, BitVec.ofNat 32 (bfield v 32 32)) }) ∧
      exec (.signalLatch pg v) s = .next (s.setPage pg { s.page pg with signalLatch := some (bfield v 0 20) }) ∧
      (∀ f cookie, (s.page pg).waitLatch = some (f, cookie) →
        let u := s.fenceLoad q f
        let x := u.fence q f
        (x.valid = false → exec (.waitRegister pg v) s = .next u.dbIgnore) ∧
        let answered := u.event c.slice (fenceEvent cookie f x)
        let waits : State := if (u.slice c.slice).waits ≤ u.waitsOf c.slice then u.event c.slice { fenceEvent cookie f x with kind := evNoRoom, value := 0 }
          else { u with host := { u.host with waits := u.host.waits ++ [{ slice := c.slice, part := q, fence := f, cookie, value := v }] } }
        (x.valid = true → reached x.value v = true → exec (.waitRegister pg v) s = .next answered) ∧
        (x.valid = true → reached x.value v = false → (v - x.value).toNat ≤ 2 ^ 62 → exec (.waitRegister pg v) s = .next waits) ∧
        (x.valid = true → 2 ^ 62 < (v - x.value).toNat → exec (.waitRegister pg v) s = .next answered ∨ exec (.waitRegister pg v) s = .next waits)) ∧
      ((s.page pg).waitLatch = none → exec (.waitRegister pg v) s = .next s.dbIgnore) ∧
      (∀ f, (s.page pg).signalLatch = some f → (s.fence q f).valid = true → exec (.signal pg v) s = .next (s.fenceSignal q f v).settle) ∧
      ((s.page pg).signalLatch = none → exec (.signal pg v) s = .next s.dbIgnore) ∧
      (let f := bfield v 0 20
       let u := s.fenceLoad q f
       (u.fence q f).valid = true →
        exec (.fenceQuery pg v) s = .next (u.event c.slice { fenceEvent (BitVec.ofNat 32 (bfield v 32 32)) f (u.fence q f) with kind := evValue })) ∧
      (let u := (s.setSlice c.slice { s.slice c.slice with head := BitVec.ofNat 32 (bfield v 0 32) }).eventDrain c.slice 65
       exec (.eventHead pg v) s = .next ((u.setSlice c.slice (u.slice c.slice)).eventArmed c.slice) ∧
       exec (.eventArm pg v) s = .next ((u.setSlice c.slice { u.slice c.slice with armed := true }).eventArmed c.slice))) ∧
    (∀ off len data k,
      (∀ a, s.bar4Addr off len = some a → (∀ l, a / 64 ≤ l → 64 * l < a + len → s.lineFails l = false) →
        exec (.bar4Read off len) s = .next ((s.devTouch a len mPcie).emit (.completion (s.devRead a len)))) ∧
      (∀ a l, s.bar4Addr off len = some a → a / 64 ≤ l → 64 * l < a + len → 0 < len → s.lineFails l = true →
        exec (.bar4Read off len) s = .next ((s.devTouch a len mPcie).emit .unsupported)) ∧
      (s.bar4Addr off len = none → exec (.bar4Read off len) s = .next (s.bar4Refuse.emit .unsupported)) ∧
      (∀ a, s.bar4Addr off data.length = some a → exec (.bar4Write off data) s = .next (s.devWrite a data mPcie)) ∧
      (s.bar4Addr off data.length = none → exec (.bar4Write off data) s =
        .next { s.bar4Refuse with host := { s.bar4Refuse.host with urLogged := true } }) ∧
      (bfield v 30 22 * 2 ^ 30 % s.segSize = 0 → bfield v 8 8 ∉ s.stable.sealed → exec (.bar4SegWrite k v) s = .next
        { s with host := { s.host with segs := tset 0x3F00 s.host.segs k.val (v &&& 0x000FFFFFC000FF01#64) } }) ∧
      (bfield v 30 22 * 2 ^ 30 % s.segSize ≠ 0 → exec (.bar4SegWrite k v) s = .next { s with host := { s.host with segBad := true } }))

/-- JBN_READ, JBN_WRITE, JBN_ATOMIC, STREAM, the responses, EPOCH_NOTE, HANDOVER and HANDOVER_ACK. (R419, R423, R427, R433, R434, R435, R436, R437, R440, R441, R443) -/
def Obligations.PacketsOfACoachTakeEffect : Prop :=
  ∀ (s : State) (k : PortIx) (pkt : Packet), (s.jport k).up = true → s.dbg.module = false →
    let typed := fun (t : Nat) => Packet.ofType pkt t
    let u := fun (p : Packet) => ((s.emit (.linkCredits k p.cls.toNat (Packet.credits p))).countGlobal (513 + 4 * k.val) p.payload.length).countGlobal (515 + 4 * k.val) 1
    let takes := fun (i : Instr) (t : Nat) (act : State → Nat → Packet → State) =>
      (∀ n, (u (typed t)).jbnAccept k (typed t) = .inr n →
        exec i s = .next (act ((u (typed t)).countCoach n 10 pkt.payload.length) n (typed t))) ∧
      (∀ d, (u (typed t)).jbnAccept k (typed t) = .inl d → exec i s = .next d)
    let answered := fun (v : State) (n : Nat) (p : Packet) =>
      match v.jbn.reqs.find? fun r => r.tag == p.tag && r.slot == n && r.answer.isNone with
      | none => { v with jbn := { v.jbn with lateResp := .ofNat 16 (satInc 16 v.jbn.lateResp.toNat) } }
      | some r => v.fabAnswer r (r.flits (if p.status.toNat ≤ 4 then p.status.toNat else srBad) p.payload)
    let request := fun (v : State) (n : Nat) (p : Packet) =>
      match v.rehomedTo n p.addr.toNat with
      | some r => if v.tick < r.until_ then v.handOver k n p r else v.dropMisrouted
      | none =>
        if Packet.badRequest p || (p.type == 3 && amoBad (ofBytes 192 (p.payload.take 24))) then v.respond k n p srBad []
        else (v.setJport k { v.jport k with ingress := (v.jport k).ingress ++ [(n, p)] }).ncOpen anyHome
          { id := 0, src := .fabric k n p, who := v.partOf n, alloc := false, key := 0, charge := mJbn, addr := p.addr.toNat
            lines := if p.type.toNat = 3 then 1 else (p.length.toNat + 1) / 2 } (Packet.op p)
    takes (.jbnRead k pkt) 0x01 request ∧ takes (.jbnWrite k pkt) 0x02 request ∧ takes (.jbnAtomic k pkt) 0x03 request ∧
    (∀ (v : State) (q : NcReq) n p, v.nonCaching = [q] → q.left = [] → q.src = .fabric k n p →
      let w : State := { v with nonCaching := [] }
      let line := fun (i : Nat) => match q.got.find? fun e => e.1 == q.addr / 64 + i with
        | some e => bytesOf 64 e.2
        | none => natBytes 64 0
      v.ncAnswer = (w.setJport k { w.jport k with ingress := dropFirst (n, p) (w.jport k).ingress }).respond k n p q.status
        (if p.type.toNat = 1 then ((span 0 q.lines).flatMap line).take (32 * p.length.toNat) else if p.type.toNat = 2 then []
         else bytesOf 8 q.old ++ natBytes 24 0)) ∧
    takes (.stream k pkt) 0x04 (fun v n p =>
      let l := bfield p.addr 0 27
      let key := streamKey (fabEp (portEast k.val)) n p.stream.toNat
      let f := flitsOf 128 p.payload
      if l < (v.coach n).base.toNat ∨ (v.coach n).base.toNat + (v.coach n).localCells ≤ l ∨ p.stream.toNat = 0 ∨ 61 < p.stream.toNat then v.dropMisrouted
      else match (if p.epoch = v.epochOf n then none else v.movedFrom n l) with
        | some src => f.foldl (fun (w : State) x => w.accept src n 63 {
            payload := x, tt := false, stream := p.stream, epoch := BitVec.ofNat 16 p.epoch.toNat, coach := BitVec.ofNat 6 n
            src := fabEp (portEast k.val) }) v
        | none =>
          let w : State := if f = [] then v else { v with jbn := { v.jbn with
            arriving := v.jbn.arriving ++ [{ port := k.val, key, left := f.length, bytes := 64 + p.payload.length }] } }
          w.pushReply (fabEp (portEast k.val)) n p.stream.toNat f) ∧
    takes (.readResp k pkt) 0x10 answered ∧ takes (.writeResp k pkt) 0x11 answered ∧ takes (.atomicResp k pkt) 0x12 answered ∧
    takes (.epochNote k pkt) 0x20 (fun v n p => v.noteArrives n p) ∧
    takes (.handover k pkt) 0x21 (fun v n p =>
      request (v.sendPacket k n 62 { type := 0x22, dst := p.src, src := 0, cls := 2, tag := p.tag, auth := none }) n (handRequest p)) ∧
    takes (.handoverAck k pkt) 0x22 (fun v n p =>
      match v.jbn.handovers.find? fun h => h.1 == n && h.2.1 == p.tag with
      | none => v
      | some h => { v with jbn := { v.jbn with handovers := dropFirst h v.jbn.handovers } })

/-- Port events, link credits, stream packets, timeouts, and the fabric manager's commands. (R417, R424, R425, R433, R436, R440, R443, R445, R446) -/
def Obligations.PortsTimersAndFabricManagement : Prop :=
  ∀ (s : State) (k : PortIx) (pkt : Packet),
    let x := s.jport k
    (∀ id dg, x.disabled = false → s.harness.refFab = true → s.harness.ready = true → s.stable.aliasKey.isSome = true →
      id = (match s.jbn.moduleId with | some m => m.toNat | none => 2 ^ 256 - 1) → dg = (bytesOf 64 (Config.sha512 (bytesOf 32 s.stable.identityPub))).take 32 →
      let u := s.setJport k { x with lanes := 0xFF, credits := true, left := [], held := [] }
      exec (.portUp k) s = .next (u.sendMgmt k (u.signed 0x32 0 0 (bytesOf 32 s.stable.bootNonce ++ natBytes 32 id ++ dg)))) ∧
    (∀ lanes, (s.coaches.all fun e => e.2.linkPending.isEmpty) = true →
      exec (.portDown k lanes) s = .next (s.setJport k { x with lanes, credits := false, left := [], held := [] })) ∧
    (∀ (cls : BitVec 2) c, x.up = true → (s.coaches.all fun e => e.2.linkPending.isEmpty) = true →
      exec (.linkCreditBlock k cls c) s = .next ((s.setJport k { x with
        left := tset 0 x.left cls.toNat (tget 0 x.left cls.toNat + c), held := giveBackCredits cls.toNat c x.held }).portPump k)) ∧
    (s.dbg.module = false →
      (∀ (n : Slot) t, tget 0 s.jbn.noteAt n = t + 1 → t + 100 ≤ s.tick →
        exec (.epochNoteResend n) s = .next (({ s with jbn := { s.jbn with noteAt := tset 0 s.jbn.noteAt n 0 } } : State).sendNotes n)) ∧
      (∀ (n : Slot) tag h, (s.jbn.handovers.find? fun h => h.1 == n.val && h.2.1 == tag) = some h → h.2.2.2 + (s.coach n).jbnUs * 100 ≤ s.tick →
        exec (.handoverLost n tag) s = .next { s with jbn := { s.jbn with
          handovers := dropFirst h s.jbn.handovers
          handoverLost := .ofNat 16 (satInc 16 s.jbn.handoverLost.toNat) } }) ∧
      (∀ east (n : Slot) stream port epoch m, 1 ≤ stream → stream ≤ 61 → s.jbn.moduleId ≠ none → port ≤ 8 → portEast port = east →
        let q := tget [] s.stage.inQ (streamKey (fabEp east) n stream)
        let e := s.streamEntry n stream
        q ≠ [] → e.1 = true → e.2.1 = port → s.memberOf n e.2.2.2 = some (epoch, m) →
        let u : State := { s with stage := { s.stage with inQ := tset [] s.stage.inQ (streamKey (fabEp east) n stream) (q.drop 128) } }
        exec (.streamPacketSend east n stream) s = .next (u.sendPacket port n n
          { type := 0x04, dst := m, src := 0, cls := 0, stream := BitVec.ofNat 6 e.2.2.1, epoch, length := BitVec.ofNat 16 (q.take 128).length
            addr := BitVec.ofNat 64 e.2.2.2.toNat, payload := (q.take 128).flatMap (bytesOf 32), auth := none })) ∧
      (∀ tag r, (s.jbn.reqs.find? fun r => r.tag == tag && r.answer.isNone) = some r → r.issued + bfield s.jbn.ctrl 0 14 * 100 ≤ s.tick →
        let u := s.recallTag r.slot tag
        (r.op ≠ 4 → r.attempt < bfield s.jbn.ctrl 16 3 →
          let r' := { r with attempt := r.attempt + 1, issued := s.tick }
          exec (.requestTimeout tag) s = .next (({ u with jbn := { u.jbn with
            reqs := u.jbn.reqs.map (fun (y : JbnReq) => if y = r then r' else y)
            reissues := .ofNat 16 (satInc 16 u.jbn.reissues.toNat) } } : State).fabIssue r')) ∧
        (r.op = 4 ∨ bfield s.jbn.ctrl 16 3 ≤ r.attempt →
          exec (.requestTimeout tag) s = .next (({ u with jbn := { u.jbn with
            timeouts := .ofNat 16 (satInc 16 u.jbn.timeouts.toNat) } } : State).fabAnswer r (r.flits srTimeout [])))) ∧
      (∀ e, (s.jbn.fmResp.find? fun e => e.1 == k.val) = some e →
        exec (.fmResp k) s = .next (({ s with jbn := { s.jbn with fmResp := dropFirst e s.jbn.fmResp } } : State).sendMgmt k e.2)) ∧
      (x.up = true →
        let p := fun (op : Nat) => { pkt with payload := pkt.payload.take 16 ++ [BitVec.ofNat 8 op] ++ pkt.payload.drop 17 }
        let u := fun (op : Nat) => ((s.emit (.linkCredits k 3 (Packet.credits (p op)))).countGlobal (513 + 4 * k.val) (p op).payload.length).countGlobal (515 + 4 * k.val) 1
        let cmd := fun (i : Instr) (op n : Nat) (good : Bool) (f : State → State) =>
          pkt.isLocal = true ∨ s.jbn.moduleId = some pkt.dst → (u op).fmAccepts (p op) = true →
          let v : State := { u op with jbn := { (u op).jbn with seqFm := fmSeq (p op) } }
          let l := v.log 0x17 oFabric (if n = 63 then 0x3F else v.partOf n) n (fmSeq (p op)) (BitVec.ofNat 64 (op + (fmCoach (p op)).toNat * 2 ^ 32))
          n = 63 ∨ v.slotOf (fmCoach (p op)) = some n →
          exec i s = .next (if good then (f l).fmAnswer k (p op) 0 else l.fmAnswer k (p op) 4)
        cmd (.setId k pkt) 1 63 (s.jbn.moduleId.isNone && decide (fmBody pkt 0 8 < 2 ^ 17 ∧ 8 ≤ fmBodyLen pkt))
          (fun v => { v with jbn := { v.jbn with moduleId := some (BitVec.ofNat 17 (fmBody pkt 0 8)) } }) ∧
        (∀ n, n < 48 →
          cmd (.routeHdr k pkt) 2 n (decide (fmBody pkt 0 8 ≤ 10 ∧ 8 ≤ fmBodyLen pkt)) (fun v => v.devWrite (v.routeArea n) (natBytes 8 (fmBody pkt 0 8))) ∧
          (let i := fmBody pkt 0 4
           let c := fmBody pkt 4 4
           cmd (.memberWrite k pkt) 3 n (decide (1 ≤ c ∧ c ≤ 32 ∧ i + c ≤ 131072 ∧ 8 + 8 * c ≤ fmBodyLen pkt) &&
               (span 0 c).all fun j => field (fmBody pkt (8 + 8 * j) 8) 18 14 == 0)
             (fun v => v.devWrite (v.routeArea n + 0x100000 + 8 * i) (fmBytes pkt 8 (8 * c))) ∧
           cmd (.streamWrite k pkt) 4 n (decide (1 ≤ c ∧ c ≤ 32 ∧ 1 ≤ i ∧ i + c ≤ 62 ∧ 8 + 8 * c ≤ fmBodyLen pkt) &&
               (span 0 c).all fun j => field (fmBody pkt (8 + 8 * j) 8) 27 26 == 0)
             (fun v => v.devWrite (v.routeArea n + 0x200 + 8 * i) (fmBytes pkt 8 (8 * c)))) ∧
          (let w := fmBody pkt 8 32
           let lg := field w 64 6
           cmd (.remoteWrite k pkt) 5 n (decide (fmBody pkt 0 8 ≤ 63 ∧ 40 ≤ fmBodyLen pkt) &&
               ([(0, 30), (50, 14), (70, 2), (97, 7), (105, 23), (180, 12), (224, 32)].all fun r => field w r.1 r.2 == 0) &&
               decide (field w 104 1 = 1 → 30 ≤ lg ∧ lg ≤ 46 ∧ field w 0 50 % 2 ^ lg = 0 ∧ field w 128 52 % 2 ^ lg = 0 ∧
                 field w 72 4 ≤ 4 ∧ 5 ≤ field w 76 4 ∧ field w 76 4 ≤ 8))
             (fun v => v.devWrite (v.routeArea n + 0x800 + 32 * fmBody pkt 0 8) (fmBytes pkt 8 32))) ∧
          (let lg := fmBody pkt 8 8
           let base := fmBody pkt 0 8
           let m := fmBody pkt 16 8
           let nb := fmBody pkt 24 8
           cmd (.rehome k pkt) 6 n (decide (32 ≤ fmBodyLen pkt ∧ 30 ≤ lg ∧ lg ≤ 46 ∧ base % 2 ^ lg = 0 ∧ nb % 2 ^ lg = 0 ∧ base < 2 ^ 52 ∧ nb < 2 ^ 52 ∧ m < 2 ^ 17))
             (fun v =>
               let r : Rehomed := { slot := n, base, log2 := lg, module := BitVec.ofNat 17 m, newBase := nb, until_ := v.tick + (v.coach n).jbnUs * 100 }
               (span 0 9).foldl (fun (t : State) j => t.ingressRehome j n)
                 { v with jbn := { v.jbn with rehomed := r :: v.jbn.rehomed.filter fun y => !(y.slot == n && y.base == base) } }))) ∧
        (let j := fmBody pkt 0 8
         cmd (.port k pkt) 7 63 (decide (j ≤ 8 ∧ fmBody pkt 8 8 ≤ 1 ∧ 16 ≤ fmBodyLen pkt)) (fun v =>
           if fmBody pkt 8 8 = 1 then v.setJport j { v.jport j with disabled := false }
           else (v.setJport j { v.jport j with disabled := true }).portFalls j 0))))

/-- FAULT, collectors and notices, the scrubber, flip tests, retirement, crash slots, resets, ceilings, margins and error summaries. (R454, R455, R456, R459, R460, R461, R465, R468, R470, R474, R478, R480) -/
def Obligations.ErrorsFaultsAndResetsAct : Prop :=
  (∀ (s : State) (m : GigMsg), s.dbg.module = false → s.inOrder (.fault m) = true →
    let u := s.take (.fault m)
    let r := u.reportOf m
    let x := u.slotSched r.slot.toNat
    let held := if isCellEp r.unit = true then (u.cell r.unit).heldBy else none
    (∀ k st, held = some k → (u.ctx k).step = some st →
      let v := u.recordFault r (some k) st.num
      exec (.fault m) s = .next (if (u.ctx k).doomed = none then v.setCtx k { v.ctx k with doomed := some r.code } else v)) ∧
    let inherits := isCellEp r.unit && u.isInheritCell r.unit
    let late := u.lateFault r && x.torn.isSome
    (held = none → inherits = true → exec (.fault m) s = .next (u.recordFault r none 0)) ∧
    (held = none → inherits = false →
      (∀ k st, late = false → x.running = some k → (u.ctx k).step = some st →
        let v := u.recordFault r (some k) st.num
        exec (.fault m) s = .next (if r.slot.toNat < 48 ∧ x.faulted = none then v.setSlotSched r.slot.toNat { x with faulted := some r.code } else v)) ∧
      (∀ k num, late = true ∨ x.running = none → x.torn = some (k, num) → exec (.fault m) s = .next (u.recordFault r (some k) num)) ∧
      (x.running = none → x.torn = none → exec (.fault m) s = .next (u.recordFault r none 0)))) ∧
  (∀ (s : State) (i : Nat) (c : Collector), tget none s.errs.collectors i = some c → c.opened + 100000 ≤ s.tick →
    let e := s.errs
    let u : State := { s with errs := { e with collectors := tset none e.collectors i none, fqSeq := e.fqSeq + 1 } }
    (e.fqTail - e.fqHead = 512 → exec (.collectorClose i) s = .next { u with errs := { u.errs with
      fqLostCount := .ofNat 32 (satAdd 32 e.fqLostCount.toNat c.count), fqLost := true } }) ∧
    (e.fqTail - e.fqHead ≠ 512 →
      let v := u.devWrite (e.fqBase.toNat + e.fqTail.toNat % 512 * 64) (faultBytes c e.fqSeq.toNat)
      exec (.collectorClose i) s = .next (({ v with errs := { v.errs with fqTail := e.fqTail + 1 } } : State).faultNotice (pendingBit c.report.slot.toNat)))) ∧
  (∀ (s : State) (b : Nat), b ∈ s.errs.noticeDue → tget 0 s.errs.noticeAt b - 1 + 100000 ≤ s.tick →
    exec (.faultNotice b) s = .next (({ s with errs := { s.errs with
      noticeDue := s.errs.noticeDue.filter (· != b), noticeAt := tset 0 s.errs.noticeAt b (s.tick + 1) } } : State).msix 1)) ∧
  (∀ (s : State) (c : CtlIx), s.dbg.module = false →
    let pos := tget 0 s.errs.scrubPos c.val
    let a := ctlBase c + 64 * pos
    let bad := tget 0 s.errs.memBad (a / 64)
    let next := fun (u : State) => if pos + 1 < u.ctlLines c then { u with errs := { u.errs with scrubPos := tset 0 u.errs.scrubPos c.val (pos + 1) } }
      else { u with errs := { u.errs with
        scrubPos := tset 0 u.errs.scrubPos c.val 0
        scrubLap := tset 0 u.errs.scrubLap c.val (put 24 ((u.tick - tget 0 u.errs.scrubStart c.val) % 2 ^ 40) |||
          put 8 ((bfield (tget 0 u.errs.scrubLap c.val) 8 16 + 1) % 2 ^ 16))
        scrubStart := tset 0 u.errs.scrubStart c.val u.tick } }
    let x := s.mc c
    let u := (s.setMc c { x with served := tset 0 x.served mScrub (tget 0 x.served mScrub + 1) }).countGlobal (4 * c.val + 3) 64
    (a / 4096 ∈ s.errs.retiredPages → exec (.scrub c) s = .next (next s)) ∧
    (a / 4096 ∉ s.errs.retiredPages →
      (bad = 0 → exec (.scrub c) s = .next (next u)) ∧
      (bad = 100 → exec (.scrub c) s = .next (next ((u.logErr errScrubUe 6 (ctlEp c) a (u.ownerOf a) 0xFF 0).countEcc c false))) ∧
      (bad ≠ 0 → bad ≠ 100 →
        exec (.scrub c) s = .next (next ((u.logErr errScrubCe 6 (ctlEp c) a (u.ownerOf a) (bad - 1) 0).scrubWrite (a / 64)))))) ∧
  (∀ (s : State) (c : CtlIx) (p : Pcell) (v : Word), s.pcieOpen = true →
    (let u := s.log 0x16 oPcie 0x3F 63 (BitVec.ofNat 64 (ctlWindow c + 0x11010)) v
     exec (.mcFlipArm c v) s = .next { u with errs := { u.errs with mcFlip := tset 0 u.errs.mcFlip c.val (v &&& 0xFFFFFFFF03) } }) ∧
    (s.sealedCell p = true → exec (.spFlipArm p v) s = .next s) ∧
    (s.sealedCell p = false → let u := s.log 0x16 oPcie 0x3F 63 (BitVec.ofNat 64 (cellWindow p + 0x208)) v
     exec (.spFlipArm p v) s = .next { u with errs := { u.errs with spFlip := tset 0 u.errs.spFlip p.val (v &&& 0xFF1F) } }) ∧
    (bfield v 62 2 = 0 → let a := bfield v 12 40 * 4096
      (s.errs.retiredPages.length < 4096 → s.holdsMemory a = true →
        let u := (s.log 0x18 oPcie 0x3F 63 v 0).logErr errRetirePage 8 (homeOf a) a (s.ownerOf a) 0xFF 0
        exec (.retirePage v) s = .next { u with errs := { u.errs with retiredPages := u.errs.retiredPages ++ [a / 4096] } }) ∧
      (4096 ≤ s.errs.retiredPages.length ∨ s.holdsMemory a = false →
        exec (.retirePage v) s = .next { s with errs := { s.errs with retireRefused := true } })) ∧
    (bfield v 62 2 = 1 → let q := bfield v 12 11
      let b := bfield v 52 4
      (q < 1152 →
        let l := s.log 0x18 oPcie 0x3F 63 v 0
        let u := l.logErr errRetireBank 8 q q (s.partOfCell q) 0xFF b
        let c := u.cell q
        exec (.retireBank v) s = .next ((u.setCell q { c with badBanks := if c.badBanks.contains b then c.badBanks else c.badBanks ++ [b] }).markFailed q 1)) ∧
      (1152 ≤ q → exec (.retireBank v) s = .next { s with errs := { s.errs with retireRefused := true } })) ∧
    (bfield v 62 2 = 2 → let q := bfield v 12 11
      (q < 1152 → exec (.retireCell v) s = .next ((s.log 0x18 oPcie 0x3F 63 v 0).markFailed q 0)) ∧
      (1152 ≤ q → exec (.retireCell v) s = .next { s with errs := { s.errs with retireRefused := true } })) ∧
    (let k := bfield v 0 4
     let u := s.logWindow 0x4088 v
     exec (.crashFree v) s = .next { u with errs := { u.errs with
      crashUsed := if u.errs.crashUsed.testBit k then u.errs.crashUsed - 2 ^ k else u.errs.crashUsed } }) ∧
    exec .warmReset s = .next (s.warmResetNow 1)) ∧
  (∀ (s : State) (p : Pcell) (n : Slot) (r : ResetRec),
    ((s.cell p).slot.toNat = n.val → tget none s.errs.resets n.val = some r → p.val ∈ r.stuck → r.since + 100000 ≤ s.tick →
      let u := s.markFailed p 3
      let v := u.setCell p { u.cell p with freq := 0, frozen := true }
      let r' : ResetRec := { r with stuck := r.stuck.filter (· != p.val) }
      exec (.pcellStopTimeout p) s = .next (if r'.stuck = [] then
          (match r.crash with
            | some code => v.crashCollect n code r.since r.ran
            | none => v).setReset n { r' with crash := none }
        else v.setReset n r')) ∧
    ((s.cell p).slot.toNat = n.val → tget none s.errs.resets n.val = none → (s.slotSched n).torn.isSome = true →
      (s.cell p).drays.toList.any (·.flushPending) = true → (s.slotSched n).tornAt + 100000 ≤ s.tick →
      exec (.pcellStopTimeout p) s = .next (s.resetBegin n none none [p.val])) ∧
    (tget none s.errs.resets n.val = some r → r.since + 1000000 ≤ s.tick → exec (.warmResetEscalation n) s = .next (s.warmResetNow 2)) ∧
    (∀ (mhz : BitVec 16), mhz.toNat < s.ceilNow p → (s.ceilNow p - mhz.toNat) % 25 = 0 → (s.cell p).ceilAt = 0 ∨ (s.cell p).ceilAt + 2 ^ 32 ≤ s.tick + 1 →
      let u := s.logErr errCeiling 8 p p (s.partOfCell p) 0xFF mhz.toNat
      let v := u.setCell p { u.cell p with ceilDrop := u.ceilFusedOf p - mhz.toNat, ceilAt := u.tick + 1 }
      let w := if mhz.toNat < (v.cell p).freq.toNat then v.setFreq p mhz.toNat else v
      exec (.ceilingRevision p mhz) s = .next (if mhz.toNat < 2000 then w.markFailed p 2 else w)) ∧
    (∀ unit lane, s.harness.ready = true → exec (.marginLoss unit lane) s = .next (s.logErr errMargin 8 unit lane 0x3F 0xFF 0)) ∧
    (∀ q : PartIx, s.tick % 100000 = 0 → (tget 0 s.stable.partErr q.val).getLsbD 0 = true → q.val ∈ s.stable.errChanged →
      let u := s.devWrite (bfield (tget 0 s.stable.partErr q.val) 6 46 * 64) (s.summaryBytes q)
      exec (.errorSummaryWrite q) s = .next { u with stable := { u.stable with errChanged := u.stable.errChanged.filter (· != q.val) } }))

/-- IMPORT, DESTROY, PART_MODE, INGEST, EGEST, LC_ADVANCE and DEBUG_UNLOCK through the Stable mailbox, and JTAG_TOKEN. (R487, R488, R495, R498, R500, R509, R510, R512, R513, R514, R518, R526) -/
def Obligations.StableMailboxCommandsAct : Prop :=
  (∀ (s : State) (ws : List Word), s.pcieOpen = true →
    let u := fun (op : Nat) => ((span 0 8).foldl (fun (s : State) i => s.sbxCmdWrite i (if i = 0 then withOp op (mbWord ws 0) else mbWord ws i)) s).logWindow 0x600080 1
    let words := fun (op : Nat) => (span 0 8).map fun i => tget 0 (u op).stable.sbxCmd i
    let w := fun (op i lo n : Nat) => mbField (words op) i lo n
    let a := fun (op i : Nat) => (mbWord (words op) i).toNat
    let row := fun (i : Instr) (op : Nat) (good : State → Nat × Word × State) =>
      (sbBad (words op) = true → exec i s = .next ((u op).sbxAnswer sbBadCmd 0)) ∧
      (sbBad (words op) = false → exec i s = .next ((good (u op)).2.2.sbxAnswer (good (u op)).1 (good (u op)).2.1))
    row (.stableImport ws) 1 (fun v =>
      if v.readable (a 1 1) 264 = false then (sbRange, 0, v)
      else match v.importCheck (v.devRead (a 1 1) 264) with
        | .inl e => (e, 0, v)
        | .inr (key, k) => (sbOk, BitVec.ofNat 64 k,
            (v.sbxLog (words 1) (sliceNat (v.devRead (a 1 1) 264) 5 1) (BitVec.ofNat 64 k)).importDo (v.devRead (a 1 1) 264) key k)) ∧
    row (.destroy ws) 2 (fun v =>
      if w 2 0 8 8 < 88 then (sbRange, 0, v) else (sbOk, 0, (v.sbxLog (words 2) 0x3F 0).setStall (w 2 0 8 8) {})) ∧
    row (.partMode ws) 3 (fun v =>
      let q := w 3 0 8 5
      let strict := w 3 0 16 1 == 1
      if (v.partMode q strict).1 = sbOk then (sbOk, 0, ((v.sbxLog (words 3) q 0).partMode q strict).2) else ((v.partMode q strict).1, 0, v)) ∧
    row (.ingest ws) 4 (fun v =>
      let go := fun (t : State) => t.ingest (w 4 0 8 5) (w 4 0 16 8) (a 4 1) (a 4 2)
      if (go v).1 = sbOk then (sbOk, 0, (go (v.sbxLog (words 4) (w 4 0 8 5) 0)).2) else ((go v).1, 0, (go v).2)) ∧
    row (.egest ws) 5 (fun v =>
      let label := bytesOf 8 (mbWord (words 5) 4) ++ bytesOf 8 (mbWord (words 5) 5) ++ bytesOf 8 (mbWord (words 5) 6) ++ bytesOf 8 (mbWord (words 5) 7)
      let go := fun (t : State) => t.egest (w 5 0 8 5) (w 5 0 16 8) (a 5 1) (a 5 2) (a 5 3) label
      if (go v).1 = sbOk then go (v.sbxLog (words 5) (w 5 0 8 5) (go v).2.1) else go v) ∧
    row (.lcAdvance ws) 6 (fun v =>
      let token := if a 6 1 = 0 then none else v.tokenAt (a 6 1)
      if a 6 1 ≠ 0 ∧ token = none then (sbRange, 0, v)
      else if v.lcCheck (w 6 0 8 3) token ≠ sbOk then (v.lcCheck (w 6 0 8 3) token, 0, v)
      else
        let l := v.log 0x14 oPcie 0x3F 63 (BitVec.ofNat 64 (w 6 0 8 3)) 0
        (sbOk, 0, { l with stable := { l.stable with
          stalls := [], noMem := true, lcFuses := lcFuse (w 6 0 8 3), held := true, seedsGone := l.stable.seedsGone || decide (w 6 0 8 3 = 5) } }.standStill)) ∧
    row (.debugUnlock ws) 7 (fun v =>
      if v.readable (a 7 1) 136 = false then (sbRange, 0, v)
      else
        let k := v.devRead (a 7 1) 136
        if v.debugCheck k = sbOk then (sbOk, 0, v.debugRaise oPcie (tokenLevel k)) else (v.debugCheck k, 0, v))) ∧
  (∀ (s : State) (level : Nat), s.stable.debugLevel.toNat < level → level ≤ 2 → ∀ origin,
    let l := s.log 0x15 origin 0x3F 63 (BitVec.ofNat 64 level) 0
    let v : State := { l with stable := { l.stable with wasObserve := l.stable.wasObserve || decide (level = 1), debugLevel := BitVec.ofNat 2 level } }
    s.debugRaise origin level = if level = 2 then
      (({ v with stable := { v.stable with stalls := [], noMem := true } } : State).closeAll).destroyStalls else v) ∧
  (∀ (s : State) (token : List Byte), s.harness.down = false → s.stable.held = false → s.stable.lcState ≠ 5 →
    let n := tokenLevel token
    (n = 1 ∨ n = 2 → exec (.jtagToken token) s = .next (if s.debugCheck token = sbOk then s.debugRaise oDebug n else s)) ∧
    (0x10 ≤ n → exec (.jtagToken token) s = .next (if tokenShape token && s.lcCheck (n - 0x10) (some token) == sbOk then s.lcAdvance oDebug (n - 0x10) else s)))

/-- GET_VERSION, GET_CAPABILITIES, NEGOTIATE_ALGORITHMS, GET_DIGESTS, GET_CERTIFICATE, CHALLENGE, GET_MEASUREMENTS and CHUNK_GET. (R485, R492, R514, R515, R516, R608) -/
def Obligations.SpdmRequestsAreAnswered : Prop :=
  ∀ (s : State) (req : List Byte), s.harness.ready = true → s.stable.held = false → s.stable.lcState ≠ 0 → s.stable.lcState ≠ 5 →
    let sends := fun (bs : List Byte) (t : State) => Host.Outcome.next (t.emit (.management bs))
    (s.stable.debugLevel = 2 → ∀ i ∈ [Instr.getVersion req, .getCapabilities req, .negotiateAlgorithms req, .getDigests req, .getCertificate req,
        .challenge req, .getMeasurements req, .chunkGet req], exec i s = sends (spdmError 5) s) ∧
    (s.stable.debugLevel ≠ 2 →
      exec (.getVersion req) s = sends (natBytes 1 0x10 ++ natBytes 1 4 ++ natBytes 2 0 ++ natBytes 1 0 ++ natBytes 1 1 ++ natBytes 2 0x1300)
        { s with stable := { s.stable with spdm := 1, spdmSize := 0, chunks := [] } } ∧
      (sliceNat req 0 1 ≠ 0x13 → ∀ i ∈ [Instr.getCapabilities req, .negotiateAlgorithms req, .getDigests req, .getCertificate req, .challenge req,
        .getMeasurements req, .chunkGet req], exec i s = sends (spdmError 0x41) s) ∧
      (sliceNat req 0 1 = 0x13 →
        (s.stable.spdm = 0 → ∀ i ∈ [Instr.getCapabilities req, .negotiateAlgorithms req, .getDigests req, .getCertificate req, .challenge req,
          .getMeasurements req, .chunkGet req], exec i s = sends (spdmError 4) s) ∧
        (1 ≤ s.stable.spdm.toNat → 42 ≤ sliceNat req 12 4 →
          exec (.getCapabilities req) s = .next (({ s with stable := { s.stable with spdm := 2, spdmSize := sliceNat req 12 4 } } : State).spdmAnswer
            (spdmHead 0x61 0 0 ++ natBytes 4 0 ++ natBytes 4 0x20016 ++ natBytes 4 4608 ++ natBytes 4 65536))) ∧
        (2 ≤ s.stable.spdm.toNat →
          exec (.negotiateAlgorithms req) s = .next (({ s with stable := { s.stable with spdm := 3 } } : State).spdmAnswer (spdmHead 0x63 0 0 ++ s.algorithms req))) ∧
        (2 ≤ s.stable.spdm.toNat → s.stable.chunks ≠ [] → sliceNat req 3 1 = s.stable.chunkHandle.toNat → sliceNat req 4 2 = s.stable.chunkSeq →
          let size := if sliceNat req 4 2 = 0 then natBytes 4 s.stable.chunks.length else []
          let n := s.stable.spdmSize - 12 - size.length
          let rest := s.stable.chunks.drop n
          exec (.chunkGet req) s = sends (spdmHead 6 (if rest.isEmpty then 1 else 0) s.stable.chunkHandle.toNat ++ natBytes 2 (sliceNat req 4 2) ++ natBytes 2 0
              ++ natBytes 4 (min n s.stable.chunks.length) ++ size ++ s.stable.chunks.take n)
            { s with stable := { s.stable with chunks := rest, chunkSeq := sliceNat req 4 2 + 1 } }) ∧
        (s.stable.spdm = 3 →
          let drawn : State := { s with stable := { s.stable with drawn := s.stable.drawn + 1 } }
          let nonce := (bytesOf 64 (Config.random s.stable.drawn)).take 32
          (s.harness.certified = false →
            exec (.getDigests req) s = .next (s.spdmAnswer (spdmHead 1 1 0)) ∧ exec (.getCertificate req) s = sends (spdmError 1) s ∧
            exec (.challenge req) s = sends (spdmError 1) s) ∧
          (s.harness.certified = true →
            let root := Config.spdmBody 0 []
            let certs := root ++ Config.spdmBody 1 [] ++ s.identityCert ++ s.spdmBody 6 []
            let c := natBytes 2 (68 + certs.length) ++ natBytes 2 0 ++ bytesOf 64 (Config.sha512 root) ++ certs
            let off := sliceNat req 4 2
            exec (.getDigests req) s = .next (s.spdmAnswer (spdmHead 1 1 1 ++ bytesOf 64 (Config.sha512 c))) ∧
            (sliceNat req 2 1 % 16 = 0 → exec (.getCertificate req) s = if c.length ≤ off then sends (spdmError 1) s else
              let part := (c.drop off).take (sliceNat req 6 2)
              .next (s.spdmAnswer (spdmHead 2 0 0 ++ natBytes 2 part.length ++ natBytes 2 (c.length - off - part.length) ++ part))) ∧
            (sliceNat req 2 1 = 0 →
              let body := spdmHead 3 0 1 ++ bytesOf 64 (Config.sha512 c) ++ nonce ++ drawn.spdmBody 3 req
              exec (.challenge req) s = .next (drawn.spdmAnswer (body ++ drawn.aliasSign 4 (req ++ body))))) ∧
          (sliceNat req 3 1 ≤ 11 ∨ sliceNat req 3 1 = 0xFF →
            let op := sliceNat req 3 1
            let which := if op = 0 then [] else if op = 0xFF then span 1 11 else [op]
            let record := which.flatMap s.measureBlock
            let signed := sliceNat req 2 1 % 2 == 1
            let body := spdmHead 0x60 (if op = 0 then 11 else 0) 0 ++ natBytes 1 which.length ++ natBytes 3 record.length ++ record
              ++ nonce ++ natBytes 2 0 ++ (if signed then sliceBytes req 37 8 else sliceBytes req 4 8)
            exec (.getMeasurements req) s = .next (drawn.spdmAnswer (body ++ if signed then drawn.aliasSign 5 (req ++ body) else [])))))
    )

/-- The meter, the contract messages, minutes, the control interval, droop, the thermal trip and PWR_STRICT. (R529, R530, R534, R536, R537, R538, R539, R540, R543, R544, R549, R550) -/
def Obligations.PowerIsMeteredAndContracted : Prop :=
  (∀ (s : State) (mV mA : Nat),
    let x := s.power
    let e := if x.inputLimit then min (mV * mA) 4400000000 else mV * mA
    let u : State := { s with power := { x with now := x.now + e, energy := x.energy + e, samples := x.samples + 1, inputMv := mV } }
    exec (.meterSample mV mA) s = .next (if x.history ≠ [] ∧ x.budgetMw * 102 * ((x.samples + 1) * 1000) < (x.now + e) * 100 then
      ({ u with power := { u.power with inputLimit := true } } : State).clockRest fun p => max 1000 ((s.cell p).freq.toNat - 100) else u)) ∧
  (∀ (s : State) (a b : Nat), s.power.meterFault = false →
    ((max a b - min a b) * 100 ≤ 3 * a → exec (.meterCheck a b) s = .next { s with power := { s.power with checkedAt := s.tick + 1 } }) ∧
    (3 * a < (max a b - min a b) * 100 →
      let u : State := { s with power := { s.power with checkedAt := s.tick + 1, meterFault := true, meterGood := 0, sound := false } }
      let v := u.clockRest fun _ => 1000
      exec (.meterCheck a b) s = .next { v with power := { u.power with duty := 2 } })) ∧
  (∀ (s : State) (inst : Byte) (body : List Byte), s.pcieOpen = true →
    let x := s.power
    exec (.getStatus inst []) s = .next (s.contractAnswer 1 inst pcOk (natBytes 8 s.tick ++ natBytes 8 s.minuteNow ++ bytesOf 32 s.stable.bootNonce
      ++ bytesOf 8 x.seq ++ natBytes 2 s.tdp ++ natBytes 2 s.floorEff ++ natBytes 2 s.defaultW ++ natBytes 2 s.avgCapW ++ natBytes 1 x.windowS
      ++ natBytes 1 ((if x.rackKey = 0 then 0 else 1) + (if x.meterFault then 2 else 0)) ++ natBytes 6 0)) ∧
    (s.setContractCheck body ≠ pcOk → exec (.setContract inst body) s = .next (s.contractAnswer 2 inst (s.setContractCheck body) [])) ∧
    (s.setContractCheck body = pcOk →
      let first := sliceNat body 40 8
      let l := s.log 0x13 oMctp 0x3F 63 (BitVec.ofNat 64 (sliceNat body 0 8)) (BitVec.ofNat 64 (2 + 256 * first))
      let es := contractEntries body
      exec (.setContract inst body) s = .next ((({ l with power := { l.power with
        seq := BitVec.ofNat 64 (sliceNat body 0 8)
        contract := (span 0 es.length).foldl (fun m i => tset 0 m (first + i) (nth 0 es i)) l.power.contract } } : State).contractAnswer 2 inst pcOk []).msix 5)) ∧
    (s.setCoolingCheck body ≠ pcOk → exec (.setCooling inst body) s = .next (s.contractAnswer 3 inst (s.setCoolingCheck body) [])) ∧
    (s.setCoolingCheck body = pcOk →
      let l := s.log 0x13 oMctp 0x3F 63 (BitVec.ofNat 64 (sliceNat body 0 8)) 3
      exec (.setCooling inst body) s = .next ((({ l with power := { l.power with
        seq := BitVec.ofNat 64 (sliceNat body 0 8), avgCapW := some (sliceNat body 40 2), windowS := sliceNat body 42 1 } } : State).contractAnswer 3 inst pcOk []).msix 5)) ∧
    (∀ key, s.stable.aliasKey = some key → body.length = 48 → 1 ≤ sliceNat body 8 1 → sliceNat body 8 1 ≤ 16 → sliceNat body 9 7 = 0 →
      let recs := (x.records.filter fun r => decide (sliceNat body 0 8 ≤ sliceNat r 0 8)).take (sliceNat body 8 1)
      exec (.getReport inst body) s = .next (s.contractAnswer 4 inst pcOk (natBytes 1 recs.length ++ natBytes 7 0 ++ recs.flatMap id
        ++ bytesOf 64 (Config.ed25519Sign key (sliceBytes body 16 32 ++ recs.flatMap id)))))) ∧
  (∀ (s : State), s.power.minute < s.minuteNow →
    let x := s.power
    let recs := x.records ++ [s.minuteRecord]
    let u : State := { s with power := { x with
      records := recs.drop (recs.length - 64), contract := tset 0 x.contract x.minute 0, minute := x.minute + 1, energy := 0, peakMw := 0
      sound := !x.meterFault, minuteThermal := false, partMinute := false } }
    let v : State := { u with power := { u.power with floorThen := u.floorEff } }
    exec .minuteClose s = .next (if v.pcieOpen then v.msix 5 else v)) ∧
  (∀ (s : State) (r : PowerReading),
    let x := s.power
    let input := x.now / intervalTicks
    let u : State := { s with power := { x with
      history := (x.now :: x.history).take 60000, inputMw := input, peakMw := max x.peakMw input, now := 0, samples := 0, inputLimit := false
      nonCellMw := input - r.regionMw.foldl (· + ·) 0, tempC := r.tempC, hbmC := r.hbmC, thermal := decide (90 < r.tempC) } }
    let o := u.observe r
    let b : State := { o with power := { o.power with
      budgetMw := o.budget r.tempC, minuteThermal := o.power.minuteThermal || decide (o.budget r.tempC < o.coolBudget) } }
    let a := if b.power.meterFault then b.meterHold else b.allocate r
    let t := a.clockedCells.foldl (fun (s : State) p =>
      if s.strictCell p then s.sendClock p (if (s.cell p).heldSlow then 1000 else s.power.strictOf (s.partOf (s.cell p).slot.toNat)) else s) a
    exec (.controlInterval r) s = .next (if 100 ≤ r.tempC then t.clockedCells.foldl (fun (s : State) p => s.sendClock p 1000) t else t)) ∧
  (∀ (s : State) (p : Pcell) (edges : Nat), s.unfrozen p = true → 1000 < (s.cell p).freq.toNat →
    exec (.droop p edges) s = .next ((s.countCell p 8 1).countCell p 9 (min edges (256 * ((s.cell p).freq.toNat - 1000) / (s.cell p).freq.toNat)))) ∧
  (∀ (s : State) (i ms : Nat) (t : Int), s.harness.powered = true →
    (110 ≤ t → 10 ≤ ms → exec (.thermalTrip i t ms) s = .next ({ s with harness := { s.harness with tripped := true } } : State).coldClear) ∧
    (t < 110 ∨ ms < 10 → exec (.thermalTrip i t ms) s = .next s)) ∧
  (∀ (s : State) (q : PartIx) (v : Word), s.pcieOpen = true → 1000 ≤ bfield v 0 12 → bfield v 0 12 ≤ 2800 → bfield v 0 12 % 25 = 0 →
    let set := fun (t : State) => { t with power := { t.power with strictMhz := tset 1000 t.power.strictMhz q.val (bfield v 0 12) } }
    (State.floorBroken s (set s) = true → exec (.pwrStrictWrite q v) s = .next { s with power := { s.power with strictRefused := true } }) ∧
    (State.floorBroken s (set s) = false → exec (.pwrStrictWrite q v) s = .next (set (s.logWindow (0x500100 + 8 * q.val) v))))

/-- COLD_RESET, the pins, clocks and supply, HOT_RESET, the flash, seeds, updates and sensors. (R347, R487, R552, R553, R558, R560, R568, R570, R571, R602, R603, R607) -/
def Obligations.BootPinsAndUpdatesAct : Prop :=
  (∀ (s : State),
    let c := s.coldClear
    c.cells = [] ∧ c.mem = [] ∧ c.coaches = [] ∧ c.stable.stalls = [] ∧ c.harness.ready = false ∧ c.harness.down = s.harness.down ∧
    c.harness.flashA = s.harness.flashA ∧ c.harness.flashB = s.harness.flashB ∧ c.stable.lcFuses = s.stable.lcFuses ∧ c.cellEnable = s.cellEnable ∧ c.hostMem = s.hostMem ∧
    c.stable.svnFloor = s.stable.svnFloor ∧ c.pending = s.pending) ∧
  (∀ (s : State) (env : BootEnv),
    (s.harness.down = true → exec (.coldReset env) s = .next s) ∧
    (s.harness.down = false →
      let c := s.coldClear
      let nonce : BitVec 512 := Config.random s.stable.drawn
      let b : State := { c with
        tick := min env.ticks 900000000
        stable := { c.stable with drawn := s.stable.drawn + 1, bootNonce := nonce.truncate 256 }
        harness := { c.harness with addrSel := env.addrSel } }
      let ends := fun (t : State) (stage fail : Nat) (scrapped : Bool) => { t with harness := { t.harness with
        recovery := true, scrapped, stage := BitVec.ofNat 8 stage, failStage := BitVec.ofNat 8 fail } }
      let i := b.firstCopy
      let bad := fun (j : Bool) => put (if j then 3 else 2) 1
      (s.stable.lcState = 0 → exec (.coldReset env) s = .next b) ∧
      (s.stable.lcState = 5 → exec (.coldReset env) s = .next (ends b 1 0 true)) ∧
      (s.stable.lcState ≠ 0 → s.stable.lcState ≠ 5 →
        (env.forceRecovery = true → exec (.coldReset env) s = .next (ends b 1 0 false)) ∧
        (env.forceRecovery = false → exec (.coldReset env) s = .next (
          if b.imageGood (b.harness.flash i) = true then b.bootFrom i false (putB 0 i) env
          else if b.imageGood (b.harness.flash !i) = true then b.bootFrom (!i) true (putB 0 (!i) ||| putB 1 true ||| bad i) env
          else ends { b with harness := { b.harness with image := putB 1 true ||| bad i ||| bad (!i) } } 3 3 false))))) ∧
  (∀ (s : State) (h : Bool) (n : Nat),
    let settled := fun (x : Harness) => Host.Outcome.next (if x.down then ({ s with harness := x } : State).coldClear else { s with harness := x })
    exec (.perstAssert h) s = settled { s.harness with perst := h } ∧
    exec (.modRstAssert h) s = settled { s.harness with modRst := h } ∧
    exec (.pwrEnChange h n) s = settled { s.harness with pwrEn := h, tripped := s.harness.tripped && decide (n < 100) } ∧
    exec (.inputOutOfRange n) s = settled { s.harness with inputOk := inputAfter s.harness.inputOk n, tripped := s.harness.tripped && decide (38000 ≤ n) } ∧
    exec (.refclkSysLoss h) s = settled { s.harness with refSys := h } ∧
    exec (.refclkFabLoss true) s = .next { s with harness := { s.harness with refFab := true } } ∧
    exec (.refclkFabLoss false) s = .next ((span 0 9).foldl (fun (t : State) k => t.portFalls k 0) { s with harness := { s.harness with refFab := false } })) ∧
  (∀ (s : State), s.harness.down = false →
    exec .hotReset s = .next { s with host :=
      { (if s.host.bar4Log2 = 36 then s.host else { s.host.closeSegs with bar4Log2 := 36 }) with cfg := [], pageAlloc := 0, urLogged := false } } ∧
    (s.stable.lcState = 0 → s.stable.seedLock = false →
      let l := s.log 0x14 oDebug 0x3F 63 1 0
      exec .fuseSeedsAtTest s = .next (({ l with stable := { l.stable with
        stalls := [], noMem := true, lcFuses := 0b111, held := true, seedsGone := l.stable.seedsGone || false } } : State).standStill).seedsFused) ∧
    (s.stable.lcState ≠ 0 ∨ s.stable.seedLock = true → exec .fuseSeedsAtTest s = .next s)) ∧
  (∀ (s : State) (dev : Bool) (off : Nat) (data : List Byte),
    (s.harness.powered = true → s.harness.modRst = true → off + data.length ≤ 0x20000000 →
      exec (.flashHeaderWrite dev off data) s = .next { s with harness := s.harness.setFlash dev (flashWrite (s.harness.flash dev) off data) }) ∧
    (s.harness.powered = false ∨ s.harness.modRst = false → exec (.flashHeaderWrite dev off data) s = .next s)) ∧
  (∀ (s : State) (pcie : Bool) (image : List Byte) (id : Nat), s.harness.ready = true → s.stable.held = false →
    (s.harness.updated = true →
      exec (.requestUpdate pcie image) s = .next (s.emit (.management (pldmResponse 5 0x10 0x81 []))) ∧
      exec .activateFirmware s = .next (({ s with harness := { s.harness with updated := false } } : State).emit (.management (pldmResponse 5 0x1A 0x8C (natBytes 2 0))))) ∧
    (s.harness.updated = false →
      (let b := s.harness.image.getLsbD 0
       let m := flashWrite (s.harness.flash !b) 0 (image.take 0x8000000)
       let good := s.imageGood m
       let l := s.log 0x1A oMctp 0x3E 63 (putB 0 (!b)) (putB 0 (!good))
       let after := if good then flashWrite m 24 (natBytes 8 (imageGen (s.harness.flash b) + 1)) else m
       exec (.requestUpdate pcie image) s = .next (({ l with harness := Harness.setFlash { l.harness with updated := good } (!b) after } : State).emit (.management (pldmResponse 5 0x10 0 (natBytes 3 0))))) ∧
      exec .activateFirmware s = .next (s.emit (.management (pldmResponse 5 0x1A 0x80 [])))) ∧
    (∀ v, s.sensor id = some v → exec (.getSensorReading id) s = .next (s.emit (.management
      (pldmResponse 2 0x11 0 (natBytes 1 5 ++ natBytes 5 0 ++ bytesOf 4 (BitVec.ofInt 32 v)))))) ∧
    (id = 0 ∨ 8 < id → exec (.getSensorReading id) s = .next (s.emit (.management (pldmResponse 2 0x11 0x80 [])))))

/-- Stop words, scans, counters, the log, register accesses, configuration requests and PCIe completions. (R11, R12, R349, R361, R553, R573, R576, R579, R582, R584, R586, R593) -/
def Obligations.DebugCountersAndRegistersAct : Prop :=
  (∀ (s : State) (w : BitVec 16), s.stable.debugLevel = 2 →
    let l := fun (a : Nat) => s.log 0x16 oDebug 0x3F 63 0x700000 ((withAction a w).zeroExtend 64)
    (w.getLsbD 14 = true →
      exec (.stop w) s = .next { l 1 with dbg := { (l 1).dbg with module := true } } ∧
      exec (.resume w) s = .next { l 2 with dbg := { (l 2).dbg with module := false } }) ∧
    (w.getLsbD 14 = false → bfield w 0 6 < 48 →
      let n := bfield w 0 6
      let u := fun (a : Nat) => ({ l a with dbg := { (l a).dbg with lastCoach := BitVec.ofNat 6 n } } : State)
      exec (.stop w) s = .next (((u 1).stopTargets n).foldl (fun (s : State) p => s.setCell p { s.cell p with frozen := true }) (u 1)) ∧
      exec (.resume w) s = .next ((((u 2).stopTargets n).filter fun p => ((u 2).cell p).frozen).foldl (fun (s : State) p => s.thawCell p) (u 2)))) ∧
  (∀ (s : State) (w : BitVec 16), s.stable.debugLevel ≠ 2 → exec (.stop w) s = .next s ∧ exec (.resume w) s = .next s) ∧
  (∀ (s : State) (v : Word), v.getLsbD 63 = false →
    let p := bfield v 0 11
    let bytes := s.scanBytes p (bfield v 16 6) (bfield v 32 8)
    let e := fun (jtag : Bool) => s.scanCheck jtag v bytes.length
    let u := fun (jtag : Bool) => { s with dbg := { s.dbg with
      scanError := BitVec.ofNat 8 (e jtag), scanBytes := if e jtag = 0 then BitVec.ofNat 32 bytes.length else 0 } }
    (s.harness.down = false →
      exec (.scan true v) s = .next (if e true = 0 then { u true with free := s.free + 1, dbg := { (u true).dbg with scanData := bytes } } else u true)) ∧
    (s.pcieOpen = true →
      exec (.scan false v) s = .next (if e false = 0 then ({ u false with free := s.free + 1 } : State).devWrite s.dbg.scanAddr.toNat bytes else u false)) ∧
    (∀ data, s.stable.debugLevel = 2 → s.dbg.module = true → p < 1152 → exec (.scanIn true v data) s = .next (s.scanInAll p 32 [] data))) ∧
  (∀ (s : State) (n : Slot) (v : Word), s.pcieOpen = true →
    (v.getLsbD 0 = true → exec (.ctrSnap v) s = .next { s with dbg := { s.dbg with
      coachSnap := s.dbg.coachCtr.filter fun e => decide (e.1 < 768), globalSnap := s.dbg.globalCtr, snapTick := BitVec.ofNat 64 s.tick } }) ∧
    (s.partOf n < 32 → s.holdsMemory (bfield v 7 45 * 128) = true → s.ownerOf (bfield v 7 45 * 128) = s.partOf n →
      exec (.ctrExportWrite n v) s = .next { s with dbg := { s.dbg with ctrExport := tset 0 s.dbg.ctrExport n.val (v &&& 0x000FFFFFFFFFFF81) } }) ∧
    (v.getLsbD 0 = true →
      let u := s.logWindow 0x120 v
      exec (.logSign v) s = .next (if u.harness.logSeq.toNat / 65536 < u.logSignNow.harness.logSeq.toNat / 65536 then u.logSignNow.logSignNow
        else u.logSignNow)) ∧
    (∀ off, off < 2 ^ 32 → exec (.registerWrite off v) s = .next (s.bar0Write off v)) ∧
    (∀ pg, s.dbg.module = false →
      (∀ x ∈ [(0x00, Instr.doorbellTail pg v), (0x40, .waitLatch pg v), (0x48, .waitRegister pg v), (0x80, .signalLatch pg v), (0x88, .signal pg v),
          (0xA0, .fenceQuery pg v)], exec (.registerWrite (2 ^ 32 + 4096 * pg + x.1) v) s = exec x.2 s) ∧
      (∀ o, o < 4096 → o ∉ [0x00, 0x40, 0x48, 0x80, 0x88, 0xA0, 0xC0] → exec (.registerWrite (2 ^ 32 + 4096 * pg + o) v) s = .next s.dbIgnore)) ∧
    s.bar0Write 0x4008 v = { s with errs := { s.errs with fqHead := BitVec.ofNat 32 v.toNat } } ∧
    s.bar0Write 0x108 v = { s with harness := { s.harness with logHead := v } } ∧
    s.bar0Write 0x700018 v = { s with dbg := { s.dbg with scanAddr := v &&& 0x000FFFFFFFFFF000 } } ∧
    (∀ off, (regBlock off).1 = .none → s.bar0Write off v = s) ∧
    (s.dbg.module = false →
      (∀ off, off < 2 ^ 32 → exec (.rcRegisterRead off) s = .next ((s.bar0Clear off).emit (.completion (bytesOf 8 (s.bar0Read off))))) ∧
      s.bar0Read 0x4020 = s.errs.fqPending ∧ s.bar0Clear 0x4020 = { s with errs := { s.errs with fqPending := 0 } } ∧
      s.bar0Read 0x10 = BitVec.ofNat 64 s.tick ∧ s.bar0Clear 0x10 = s)) ∧
  (∀ (s : State) (n : Slot), s.dbg.module = false → (tget 0 s.dbg.ctrExport n.val).getLsbD 0 = true →
    tget 0 s.dbg.exportAt n.val = 0 ∨ tget 0 s.dbg.exportAt n.val + 100000 ≤ s.tick + 1 →
    let u := s.devWrite (bfield (tget 0 s.dbg.ctrExport n.val) 7 45 * 128) (s.exportBytes n)
    exec (.counterExport n) s = .next { u with dbg := { u.dbg with exportAt := tset 0 u.dbg.exportAt n.val (u.tick + 1) } }) ∧
  (∀ (s : State) (e : List Byte) (rest : List (List Byte)), s.harness.logBuf = e :: rest → s.harness.logTail.toNat - s.harness.logHead.toNat < 2 ^ 20 →
    exec .changeLogDrain s = .next (({ s with harness := { s.harness with logBuf := rest, logTail := s.harness.logTail + 1 } } : State).devWrite
      (s.harness.logBase.toNat + s.harness.logTail.toNat % 2 ^ 20 * 64) e)) ∧
  (∀ (s : State) (q : CfgReq), s.harness.down = false →
    (s.harness.ready = false → s.harness.recovery = false → exec (.configurationRequest q) s = .next (s.emit .retryStatus)) ∧
    (s.harness.ready = true ∨ s.harness.recovery = true →
      exec (.configurationRequest q) s = .next ((s.cfgRequest q).1.emit (.completion (if q.write.isSome then [] else bytesOf 4 (s.cfgRequest q).2))) ∧
      (∀ n, q = { reg := .word n, write := none } → exec (.configurationRequest q) s = .next (s.emit (.completion (bytesOf 4 (s.cfgWord n))))) ∧
      (∀ v, q = { reg := .bar4Size, write := some v } → v.toNat ≠ s.host.bar4Log2 → 36 ≤ v.toNat → v.toNat ≤ 42 →
        exec (.configurationRequest q) s = .next (({ s with host := { s.host.closeSegs with bar4Log2 := v.toNat } } : State).emit (.completion []))))) ∧
  (∀ (s : State) (a : Nat) (data : List Byte), s.host.reads = [] →
    exec (.pcieCompletion a data) s = .next (({ s with hostMem := writeBytes s.hostMem a data } : State).countGlobal 577 data.length))

/-- A step runs the command at the front of the queue, and the tick advances on an empty queue. (95_what_each_step_holds.md) -/
def Obligations.StepRunsTheFrontCommand : Prop :=
  (∀ (c : Instr) (rest : List Instr) (s : State), step { s with pending := c :: rest } = exec c { s with pending := rest }) ∧
  (∀ (s : State), s.pending = [] → step s = .next ({ s with tick := (s.tick + 1) % 2 ^ 64 } : State).replyPump ∧
    (s.sched.replies = [] → step s = .next { s with tick := (s.tick + 1) % 2 ^ 64 })) ∧
  (∀ (c : Instr) (rest : List Instr) (s : State), s.pending = c :: rest → step s = exec c { s with pending := rest })

/-- After reset the queue is empty, memory is canonical, and the registers read as their tables give. (R46, R251, R309, R342, R346, R414, R449, R482, R551, R579) -/
def Obligations.ResetLeavesTheSpecsValues : Prop :=
  let s := State.reset
  s.pending = [] ∧ s.canonical = true ∧ s.mem = [] ∧ Memory.wf s.mem ∧ Memory.wf s.hostMem ∧ s.flight = [] ∧ s.outbox = [] ∧ s.host.ctxs = [] ∧ s.jbn.reqs = [] ∧
  s.harness.ready = false ∧ (∀ p : Pcell, ∀ h : HenIx, (s.hen p h).run = false ∧ (s.hen p h).mmode = true) ∧
  (∀ p : Pcell, ∀ b : BankIx, (s.cell p).bankOwner b = 1 ∧ (s.cell p).slot = 63) ∧
  (∀ p : Pcell, (s.cell p).ox.idle = true ∧ (s.cell p).draysIdle = true) ∧
  s.bar0Read 0x380100 = 0x4000#64 <<< 48 ||| 27#64 <<< 32 ||| 12#64 <<< 3 ∧
  s.bar0Read 0x340000 = 32 ∧ s.bar0Read 0x200000 = 0x0000010000000000 ∧ s.bar0Read 0x200008 = 0x0000100000000000 ∧
  (∀ c : ClassIx, s.bar0Read (0x200100 + 8 * c.val) = 1#64 <<< 40) ∧ (∀ k : SegIx, s.bar0Read (0x130000 + 8 * k.val) = 0x3F00) ∧
  s.bar0Read 0x400008 = 3#64 <<< 16 ||| 200 ∧ s.bar0Read 0x500020 = 8 ∧ (∀ q : PartIx, s.bar0Read (0x500100 + 8 * q.val) = 1000) ∧
  bfield (s.bar0Read 0x500010) 0 6 = 10 ∧ bfield (s.bar0Read 0x40C8) 32 16 = 1024 ∧ bfield (s.bar0Read 0x0) 24 8 = 1 ∧
  bfield (s.bar0Read 0x500000) 16 16 = (if s.isL1 then 1950 else 2000)

/-- Every step keeps device memory and host memory in their canonical form. (07_memory_tiers_and_regulation.md) -/
def Obligations.MemoryStaysCanonical : Prop :=
  ∀ (s t : State), Memory.wf s.mem → Memory.wf s.hostMem → step s = .next t → Memory.wf t.mem ∧ Memory.wf t.hostMem

/-- The words of the Xcarkan instructions and the instructions decode and encode each other. (R91) -/
def Obligations.XcarkanWordsRoundTrip : Prop :=
  (∀ (i : Instr) (p : Pcell) (h : HenIx), i.xcarkanHen = some (p, h) → ∃ w, encodeXcarkan i = some w ∧ decodeXcarkan p h w = some i) ∧
  (∀ (p : Pcell) (h : HenIx) (w : BitVec 32) (i : Instr), decodeXcarkan p h w = some i → i.xcarkanHen = some (p, h) ∧ encodeXcarkan i = some w) ∧
  (∀ (p : Pcell) (h : HenIx), decodeXcarkan p h 0x03D5B50B = some (.splD p h 10 11 0x3D))
end

