-- ==== Sys2Proof/Laws/Exec.lean ====
section
/-! SUPPORT. What exec answers for each command: its meaning. -/
namespace Sys2Proof.Machine

variable (s : State)

theorem exec_oxIssue (p : Pcell) (h : HenIx) (vs2 : Reg) : exec (.oxIssue p h vs2) s = execOxIssue p h vs2 s := rfl
theorem exec_oxDispatch (p : Pcell) : exec (.oxDispatch p) s = execOxDispatch p s := rfl
theorem exec_oxNop (p : Pcell) : exec (.oxNop p) s = execOxNop p s := rfl
theorem exec_wload (p : Pcell) : exec (.wload p) s = execWload p s := rfl
theorem exec_mma (p : Pcell) (conflicts : Nat) : exec (.mma p conflicts) s = execMma p conflicts s := rfl
theorem exec_epi (p : Pcell) : exec (.epi p) s = execEpi p s := rfl
theorem exec_cbload (p : Pcell) : exec (.cbload p) s = execCbload p s := rfl
theorem exec_tload (p : Pcell) : exec (.tload p) s = execTload p s := rfl
theorem exec_accload (p : Pcell) : exec (.accload p) s = execAccload p s := rfl
theorem exec_barrier (p : Pcell) : exec (.barrier p) s = execBarrier p s := rfl
theorem exec_oxRetire (p : Pcell) : exec (.oxRetire p) s = execOxRetire p s := rfl
theorem exec_oxFlush (p : Pcell) : exec (.oxFlush p) s = execOxFlush p s := rfl
theorem exec_oxSrSeedWrite (p : Pcell) (v : Word) : exec (.oxSrSeedWrite p v) s = execOxSrSeedWrite p v s := rfl
theorem exec_oxStateImageSave (p : Pcell) : exec (.oxStateImageSave p) s = execOxStateImageSave p s := rfl
theorem exec_splB (p : Pcell) (h : HenIx) (rd rs1 : Reg) (imm : BitVec 12) : exec (.splB p h rd rs1 imm) s = execSplB p h rd rs1 imm s := rfl
theorem exec_splH (p : Pcell) (h : HenIx) (rd rs1 : Reg) (imm : BitVec 12) : exec (.splH p h rd rs1 imm) s = execSplH p h rd rs1 imm s := rfl
theorem exec_splW (p : Pcell) (h : HenIx) (rd rs1 : Reg) (imm : BitVec 12) : exec (.splW p h rd rs1 imm) s = execSplW p h rd rs1 imm s := rfl
theorem exec_splD (p : Pcell) (h : HenIx) (rd rs1 : Reg) (imm : BitVec 12) : exec (.splD p h rd rs1 imm) s = execSplD p h rd rs1 imm s := rfl
theorem exec_splBu (p : Pcell) (h : HenIx) (rd rs1 : Reg) (imm : BitVec 12) : exec (.splBu p h rd rs1 imm) s = execSplBu p h rd rs1 imm s := rfl
theorem exec_splHu (p : Pcell) (h : HenIx) (rd rs1 : Reg) (imm : BitVec 12) : exec (.splHu p h rd rs1 imm) s = execSplHu p h rd rs1 imm s := rfl
theorem exec_splWu (p : Pcell) (h : HenIx) (rd rs1 : Reg) (imm : BitVec 12) : exec (.splWu p h rd rs1 imm) s = execSplWu p h rd rs1 imm s := rfl
theorem exec_spsB (p : Pcell) (h : HenIx) (rs2 rs1 : Reg) (imm : BitVec 12) : exec (.spsB p h rs2 rs1 imm) s = execSpsB p h rs2 rs1 imm s := rfl
theorem exec_spsH (p : Pcell) (h : HenIx) (rs2 rs1 : Reg) (imm : BitVec 12) : exec (.spsH p h rs2 rs1 imm) s = execSpsH p h rs2 rs1 imm s := rfl
theorem exec_spsW (p : Pcell) (h : HenIx) (rs2 rs1 : Reg) (imm : BitVec 12) : exec (.spsW p h rs2 rs1 imm) s = execSpsW p h rs2 rs1 imm s := rfl
theorem exec_spsD (p : Pcell) (h : HenIx) (rs2 rs1 : Reg) (imm : BitVec 12) : exec (.spsD p h rs2 rs1 imm) s = execSpsD p h rs2 rs1 imm s := rfl
theorem exec_vsplV (p : Pcell) (h : HenIx) (vd rs1 : Reg) : exec (.vsplV p h vd rs1) s = execVsplV p h vd rs1 s := rfl
theorem exec_vspsV (p : Pcell) (h : HenIx) (vs3 rs1 : Reg) : exec (.vspsV p h vs3 rs1) s = execVspsV p h vs3 rs1 s := rfl
theorem exec_oxWait (p : Pcell) (h : HenIx) (rs1 : Reg) : exec (.oxWait p h rs1) s = execOxWait p h rs1 s := rfl
theorem exec_drayIssue (p : Pcell) (h : HenIx) (vs2 : Reg) (d : DrayIx) : exec (.drayIssue p h vs2 d) s = execDrayIssue p h vs2 d s := rfl
theorem exec_drayWait (p : Pcell) (h : HenIx) (rs1 : Reg) (d : DrayIx) : exec (.drayWait p h rs1 d) s = execDrayWait p h rs1 d s := rfl
theorem exec_gigSend (p : Pcell) (h : HenIx) (vs2 : Reg) : exec (.gigSend p h vs2) s = execGigSend p h vs2 s := rfl
theorem exec_gigRecv (p : Pcell) (h : HenIx) (vd : Reg) : exec (.gigRecv p h vd) s = execGigRecv p h vd s := rfl
theorem exec_bankGive (p : Pcell) (h : HenIx) (rd rs1 rs2 : Reg) : exec (.bankGive p h rd rs1 rs2) s = execBankGive p h rd rs1 rs2 s := rfl
theorem exec_bankHandover (p : Pcell) (b : BankIx) : exec (.bankHandover p b) s = execBankHandover p b s := rfl
theorem exec_bankOwner (p : Pcell) (h : HenIx) (rd rs1 : Reg) : exec (.bankOwner p h rd rs1) s = execBankOwner p h rd rs1 s := rfl
theorem exec_epochGet (p : Pcell) (h : HenIx) (rd : Reg) : exec (.epochGet p h rd) s = execEpochGet p h rd s := rfl
theorem exec_yield (p : Pcell) (h : HenIx) (id : BitVec 12) : exec (.yield p h id) s = execYield p h id s := rfl
theorem exec_fenceI (p : Pcell) (h : HenIx) : exec (.fenceI p h) s = execFenceI p h s := rfl
theorem exec_cboFlush (p : Pcell) (h : HenIx) (rs1 : Reg) : exec (.cboFlush p h rs1) s = execCboFlush p h rs1 s := rfl
theorem exec_cboClean (p : Pcell) (h : HenIx) (rs1 : Reg) : exec (.cboClean p h rs1) s = execCboClean p h rs1 s := rfl
theorem exec_cboInval (p : Pcell) (h : HenIx) (rs1 : Reg) : exec (.cboInval p h rs1) s = execCboInval p h rs1 s := rfl
theorem exec_load (p : Pcell) (h : HenIx) (c : Bool) (k : LoadKind) (rd rs1 : Reg) (imm : BitVec 12) : exec (.load p h c k rd rs1 imm) s = execLoad p h c k rd rs1 imm s := rfl
theorem exec_store (p : Pcell) (h : HenIx) (c : Bool) (k : StoreKind) (rs2 rs1 : Reg) (imm : BitVec 12) : exec (.store p h c k rs2 rs1 imm) s = execStore p h c k rs2 rs1 imm s := rfl
theorem exec_amo (p : Pcell) (h : HenIx) (op : AmoOp) (dbl aq rl : Bool) (rd rs1 rs2 : Reg) : exec (.amo p h op dbl aq rl rd rs1 rs2) s = execAmo p h op dbl aq rl rd rs1 rs2 s := rfl
theorem exec_lr (p : Pcell) (h : HenIx) (dbl : Bool) (rd rs1 : Reg) : exec (.lr p h dbl rd rs1) s = execLr p h dbl rd rs1 s := rfl
theorem exec_sc (p : Pcell) (h : HenIx) (dbl : Bool) (rd rs1 rs2 : Reg) : exec (.sc p h dbl rd rs1 rs2) s = execSc p h dbl rd rs1 rs2 s := rfl
theorem exec_lrDeferralEnd (p : Pcell) (line : LineNo) : exec (.lrDeferralEnd p line) s = execLrDeferralEnd p line s := rfl
theorem exec_ecall (p : Pcell) (h : HenIx) : exec (.ecall p h) s = execEcall p h s := rfl
theorem exec_ebreak (p : Pcell) (h : HenIx) (c : Bool) : exec (.ebreak p h c) s = execEbreak p h c s := rfl
theorem exec_interrupt (p : Pcell) (h : HenIx) : exec (.interrupt p h) s = execInterrupt p h s := rfl
theorem exec_mtip (p : Pcell) (h : HenIx) : exec (.mtip p h) s = execMtip p h s := rfl
theorem exec_finishProgram (p : Pcell) (h : HenIx) : exec (.finishProgram p h) s = execFinishProgram p h s := rfl
theorem exec_henReset (p : Pcell) (h : HenIx) (v : Word) : exec (.henReset p h v) s = execHenReset p h v s := rfl
theorem exec_henRun (p : Pcell) (h : HenIx) (v : Word) : exec (.henRun p h v) s = execHenRun p h v s := rfl
theorem exec_henStop (p : Pcell) (h : HenIx) (v : Word) : exec (.henStop p h v) s = execHenStop p h v s := rfl
theorem exec_softInt (p : Pcell) (h : HenIx) (b : Bool) : exec (.softInt p h b) s = execSoftInt p h b s := rfl
theorem exec_frameBoundary : exec .frameBoundary s = execFrameBoundary s := rfl
theorem exec_inject (ep lane cyc : Nat) : exec (.inject ep lane cyc) s = execInject ep lane cyc s := rfl
theorem exec_hop (sw lane cyc : Nat) : exec (.hop sw lane cyc) s = execHop sw lane cyc s := rfl
theorem exec_eject (ep lane cyc : Nat) : exec (.eject ep lane cyc) s = execEject ep lane cyc s := rfl
theorem exec_ttLoad (coach : BitVec 6) : exec (.ttLoad coach) s = execTtLoad coach s := rfl
theorem exec_ttClear (coach : BitVec 6) : exec (.ttClear coach) s = execTtClear coach s := rfl
theorem exec_ttLoadBegin (n : Slot) : exec (.ttLoadBegin n) s = execTtLoadBegin n s := rfl
theorem exec_ttSwap (v : Word) : exec (.ttSwap v) s = execTtSwap v s := rfl
theorem exec_setOwner (coach : BitVec 6) (laneCount laneFirst : BitVec 11) (unit : BitVec 12) : exec (.setOwner coach laneCount laneFirst unit) s = execSetOwner coach laneCount laneFirst unit s := rfl
theorem exec_setLendee (coach : BitVec 6) (laneCount laneFirst : BitVec 11) (unit : BitVec 12) : exec (.setLendee coach laneCount laneFirst unit) s = execSetLendee coach laneCount laneFirst unit s := rfl
theorem exec_freeBlocks (coach : BitVec 6) (laneCount laneFirst : BitVec 11) (unit : BitVec 12) : exec (.freeBlocks coach laneCount laneFirst unit) s = execFreeBlocks coach laneCount laneFirst unit s := rfl
theorem exec_clearLendee (coach : BitVec 6) (laneCount laneFirst : BitVec 11) (unit : BitVec 12) : exec (.clearLendee coach laneCount laneFirst unit) s = execClearLendee coach laneCount laneFirst unit s := rfl
theorem exec_coachPark (v : Word) : exec (.coachPark v) s = execCoachPark v s := rfl
theorem exec_user (p : Pcell) (m : GigMsg) : exec (.user p m) s = execUser p m s := rfl
theorem exec_semReply (p : Pcell) (m : GigMsg) : exec (.semReply p m) s = execSemReply p m s := rfl
theorem exec_doorbell (p : Pcell) (m : GigMsg) : exec (.doorbell p m) s = execDoorbell p m s := rfl
theorem exec_yieldReq (p : Pcell) (m : GigMsg) : exec (.yieldReq p m) s = execYieldReq p m s := rfl
theorem exec_epochSet (p : Pcell) (m : GigMsg) : exec (.epochSet p m) s = execEpochSet p m s := rfl
theorem exec_clockSet (p : Pcell) (m : GigMsg) : exec (.clockSet p m) s = execClockSet p m s := rfl
theorem exec_fault (m : GigMsg) : exec (.fault m) s = execFault m s := rfl
theorem exec_nack (p : Pcell) (h : HenIx) (moved : Bool) : exec (.nack p h moved) s = execNack p h moved s := rfl
theorem exec_gigResend (p : Pcell) (h : HenIx) : exec (.gigResend p h) s = execGigResend p h s := rfl
theorem exec_gigDoorbellRead (p : Pcell) (h : HenIx) : exec (.gigDoorbellRead p h) s = execGigDoorbellRead p h s := rfl
theorem exec_ringFetch (e : EngineIx) (n : Slot) : exec (.ringFetch e n) s = execRingFetch e n s := rfl
theorem exec_muleNop (e : EngineIx) (n : Slot) : exec (.muleNop e n) s = execMuleNop e n s := rfl
theorem exec_gather (e : EngineIx) (n : Slot) : exec (.gather e n) s = execGather e n s := rfl
theorem exec_scatterAdd (e : EngineIx) (n : Slot) : exec (.scatterAdd e n) s = execScatterAdd e n s := rfl
theorem exec_reduce (e : EngineIx) (n : Slot) : exec (.reduce e n) s = execReduce e n s := rfl
theorem exec_embedBag (e : EngineIx) (n : Slot) : exec (.embedBag e n) s = execEmbedBag e n s := rfl
theorem exec_copy (e : EngineIx) (n : Slot) : exec (.copy e n) s = execCopy e n s := rfl
theorem exec_fill (e : EngineIx) (n : Slot) : exec (.fill e n) s = execFill e n s := rfl
theorem exec_attend (e : EngineIx) (n : Slot) : exec (.attend e n) s = execAttend e n s := rfl
theorem exec_run (e : EngineIx) (n : Slot) : exec (.run e n) s = execRun e n s := rfl
theorem exec_muleRetire (e : EngineIx) (n : Slot) : exec (.muleRetire e n) s = execMuleRetire e n s := rfl
theorem exec_ringEnable (e : EngineIx) (n : Slot) (v : Word) : exec (.ringEnable e n v) s = execRingEnable e n v s := rfl
theorem exec_ringDisable (e : EngineIx) (n : Slot) : exec (.ringDisable e n) s = execRingDisable e n s := rfl
theorem exec_ringAbort (e : EngineIx) (n : Slot) : exec (.ringAbort e n) s = execRingAbort e n s := rfl
theorem exec_ringFlush (e : EngineIx) (n : Slot) : exec (.ringFlush e n) s = execRingFlush e n s := rfl
theorem exec_muleMapWrite (e : EngineIx) (k : Nat) (v : Word) : exec (.muleMapWrite e k v) s = execMuleMapWrite e k v s := rfl
theorem exec_muleMapTakeEffect (e : EngineIx) : exec (.muleMapTakeEffect e) s = execMuleMapTakeEffect e s := rfl
theorem exec_coachOpen (cmd arg : Word) : exec (.coachOpen cmd arg) s = execCoachOpen cmd arg s := rfl
theorem exec_coachClose (cmd arg : Word) : exec (.coachClose cmd arg) s = execCoachClose cmd arg s := rfl
theorem exec_hitchCell (cmd arg : Word) : exec (.hitchCell cmd arg) s = execHitchCell cmd arg s := rfl
theorem exec_unhitchCell (cmd arg : Word) : exec (.unhitchCell cmd arg) s = execUnhitchCell cmd arg s := rfl
theorem exec_moveCell (cmd arg : Word) : exec (.moveCell cmd arg) s = execMoveCell cmd arg s := rfl
theorem exec_moveGo (cmd arg : Word) : exec (.moveGo cmd arg) s = execMoveGo cmd arg s := rfl
theorem exec_moveCancel (cmd arg : Word) : exec (.moveCancel cmd arg) s = execMoveCancel cmd arg s := rfl
theorem exec_setMem (cmd arg : Word) : exec (.setMem cmd arg) s = execSetMem cmd arg s := rfl
theorem exec_setLink (cmd arg : Word) : exec (.setLink cmd arg) s = execSetLink cmd arg s := rfl
theorem exec_setWindow (cmd arg : Word) : exec (.setWindow cmd arg) s = execSetWindow cmd arg s := rfl
theorem exec_coachReset (cmd arg : Word) (stuck : List Nat) : exec (.coachReset cmd arg stuck) s = execCoachReset cmd arg stuck s := rfl
theorem exec_quiesce (p : Pcell) : exec (.quiesce p) s = execQuiesce p s := rfl
theorem exec_targetResume (p : Pcell) : exec (.targetResume p) s = execTargetResume p s := rfl
theorem exec_moveLost (p : Pcell) : exec (.moveLost p) s = execMoveLost p s := rfl
theorem exec_overlapWindowClose (n : Slot) : exec (.overlapWindowClose n) s = execOverlapWindowClose n s := rfl
theorem exec_cellClean (p : Pcell) : exec (.cellClean p) s = execCellClean p s := rfl
theorem exec_bankOwnWrite (p : Pcell) (b : BankIx) (v : Word) : exec (.bankOwnWrite p b v) s = execBankOwnWrite p b v s := rfl
theorem exec_drayLoad (p : Pcell) (d : DrayIx) : exec (.drayLoad p d) s = execDrayLoad p d s := rfl
theorem exec_drayStore (p : Pcell) (d : DrayIx) : exec (.drayStore p d) s = execDrayStore p d s := rfl
theorem exec_recv (p : Pcell) (d : DrayIx) : exec (.recv p d) s = execRecv p d s := rfl
theorem exec_send (p : Pcell) (d : DrayIx) : exec (.send p d) s = execSend p d s := rfl
theorem exec_prefetch (p : Pcell) (d : DrayIx) : exec (.prefetch p d) s = execPrefetch p d s := rfl
theorem exec_streamMap (p : Pcell) (d : DrayIx) : exec (.streamMap p d) s = execStreamMap p d s := rfl
theorem exec_ratomic (p : Pcell) (d : DrayIx) : exec (.ratomic p d) s = execRatomic p d s := rfl
theorem exec_descriptorComplete (p : Pcell) (d : DrayIx) : exec (.descriptorComplete p d) s = execDescriptorComplete p d s := rfl
theorem exec_drayFlush (p : Pcell) (d : DrayIx) : exec (.drayFlush p d) s = execDrayFlush p d s := rfl
theorem exec_requestRead (ep slot stream : Nat) : exec (.requestRead ep slot stream) s = execRequestRead ep slot stream s := rfl
theorem exec_requestWrite (ep slot stream : Nat) : exec (.requestWrite ep slot stream) s = execRequestWrite ep slot stream s := rfl
theorem exec_requestPrefetch (ep slot stream : Nat) : exec (.requestPrefetch ep slot stream) s = execRequestPrefetch ep slot stream s := rfl
theorem exec_requestAtomic (ep slot stream : Nat) : exec (.requestAtomic ep slot stream) s = execRequestAtomic ep slot stream s := rfl
theorem exec_statusFlit (p : Pcell) (stream : Nat) : exec (.statusFlit p stream) s = execStatusFlit p stream s := rfl
theorem exec_regulationWindow (c : CtlIx) (waited : List (Nat × Nat)) : exec (.regulationWindow c waited) s = execRegulationWindow c waited s := rfl
theorem exec_mcMissLastClear (c : CtlIx) (v : Word) : exec (.mcMissLastClear c v) s = execMcMissLastClear c v s := rfl
theorem exec_mcShareWrite (c : CtlIx) (m : Nat) (v : Word) : exec (.mcShareWrite c m v) s = execMcShareWrite c m v s := rfl
theorem exec_llcWaysWrite (k : Nat) (v : Word) : exec (.llcWaysWrite k v) s = execLlcWaysWrite k v s := rfl
theorem exec_refreshChange (c : CtlIx) (mode : BitVec 2) : exec (.refreshChange c mode) s = execRefreshChange c mode s := rfl
theorem exec_getS (a : Nat) (line : LineNo) (sharedOnly : Bool) : exec (.getS a line sharedOnly) s = execGetS a line sharedOnly s := rfl
theorem exec_getM (a : Nat) (line : LineNo) : exec (.getM a line) s = execGetM a line s := rfl
theorem exec_upgrade (a : Nat) (line : LineNo) : exec (.upgrade a line) s = execUpgrade a line s := rfl
theorem exec_putS (a : Nat) (line : LineNo) : exec (.putS a line) s = execPutS a line s := rfl
theorem exec_putE (a : Nat) (line : LineNo) : exec (.putE a line) s = execPutE a line s := rfl
theorem exec_putD (a : Nat) (line : LineNo) (data : Line) : exec (.putD a line data) s = execPutD a line data s := rfl
theorem exec_amoFar (a : Nat) (line : LineNo) (body : BitVec 192) : exec (.amoFar a line body) s = execAmoFar a line body s := rfl
theorem exec_fwdGetS (a : Nat) (line : LineNo) (requester : Nat) (acks : Bool) : exec (.fwdGetS a line requester acks) s = execFwdGetS a line requester acks s := rfl
theorem exec_fwdGetM (a : Nat) (line : LineNo) (requester : Nat) (acks : Bool) : exec (.fwdGetM a line requester acks) s = execFwdGetM a line requester acks s := rfl
theorem exec_inv (a : Nat) (line : LineNo) : exec (.inv a line) s = execInv a line s := rfl
theorem exec_snpData (a : Nat) (line : LineNo) : exec (.snpData a line) s = execSnpData a line s := rfl
theorem exec_snpInv (a : Nat) (line : LineNo) : exec (.snpInv a line) s = execSnpInv a line s := rfl
theorem exec_fwdAmo (e : EngineIx) (line : LineNo) (requester : Nat) (body : BitVec 192) : exec (.fwdAmo e line requester body) s = execFwdAmo e line requester body s := rfl
theorem exec_putAck (a : Nat) (line : LineNo) : exec (.putAck a line) s = execPutAck a line s := rfl
theorem exec_grant (a : Nat) (line : LineNo) (cont : Bool) : exec (.grant a line cont) s = execGrant a line cont s := rfl
theorem exec_done (a : Nat) (line : LineNo) : exec (.done a line) s = execDone a line s := rfl
theorem exec_dataS (a : Nat) (line : LineNo) (data : Line) : exec (.dataS a line data) s = execDataS a line data s := rfl
theorem exec_dataE (a : Nat) (line : LineNo) (data : Line) : exec (.dataE a line data) s = execDataE a line data s := rfl
theorem exec_dataM (a : Nat) (line : LineNo) (data : Line) (cont wait : Bool) : exec (.dataM a line data cont wait) s = execDataM a line data cont wait s := rfl
theorem exec_refuse (a : Nat) (line : LineNo) (code : BitVec 2) : exec (.refuse a line code) s = execRefuse a line code s := rfl
theorem exec_retry (a : Nat) (line : LineNo) : exec (.retry a line) s = execRetry a line s := rfl
theorem exec_credit (a : Nat) (line : LineNo) : exec (.credit a line) s = execCredit a line s := rfl
theorem exec_invAck (a : Nat) (line : LineNo) : exec (.invAck a line) s = execInvAck a line s := rfl
theorem exec_snpResp (a : Nat) (line : LineNo) (code : BitVec 2) : exec (.snpResp a line code) s = execSnpResp a line code s := rfl
theorem exec_wbData (a : Nat) (line : LineNo) (data : Line) : exec (.wbData a line data) s = execWbData a line data s := rfl
theorem exec_amoResp (a : Nat) (line : LineNo) (old : Word) (hot : Bool) : exec (.amoResp a line old hot) s = execAmoResp a line old hot s := rfl
theorem exec_holdEnd (a : Nat) (line : LineNo) : exec (.holdEnd a line) s = execHoldEnd a line s := rfl
theorem exec_syncPageWrite (n : Slot) (v : Word) : exec (.syncPageWrite n v) s = execSyncPageWrite n v s := rfl
theorem exec_syncPageRecallDone : exec .syncPageRecallDone s = execSyncPageRecallDone s := rfl
theorem exec_cohStrictWrite (q : PartIx) (v : Word) : exec (.cohStrictWrite q v) s = execCohStrictWrite q v s := rfl
theorem exec_xltReq (p : Pcell) (vpn : BitVec 45) (w x : Bool) (pasid : BitVec 20) (tag : BitVec 3) : exec (.xltReq p vpn w x pasid tag) s = execXltReq p vpn w x pasid tag s := rfl
theorem exec_xltReqResend (p : Pcell) (tag : BitVec 3) : exec (.xltReqResend p tag) s = execXltReqResend p tag s := rfl
theorem exec_xltResp (p : Pcell) (r : XltAnswer) : exec (.xltResp p r) s = execXltResp p r s := rfl
theorem exec_xltInv (p : Pcell) (q : XltInvReq) : exec (.xltInv p q) s = execXltInv p q s := rfl
theorem exec_xltInvAck (p : Pcell) (seq : BitVec 8) : exec (.xltInvAck p seq) s = execXltInvAck p seq s := rfl
theorem exec_xltPage (pasid : BitVec 20) (n : Slot) (prg : BitVec 9) : exec (.xltPage pasid n prg) s = execXltPage pasid n prg s := rfl
theorem exec_atsTranslationCompletion (die : DieIx) (c : AtsCompletion) : exec (.atsTranslationCompletion die c) s = execAtsTranslationCompletion die c s := rfl
theorem exec_atsInvalidateRequest (q : AtsInvalidate) : exec (.atsInvalidateRequest q) s = execAtsInvalidateRequest q s := rfl
theorem exec_invalidationAbandon (itag : BitVec 5) : exec (.invalidationAbandon itag) s = execInvalidationAbandon itag s := rfl
theorem exec_prgResponse (prg : BitVec 9) (success : Bool) : exec (.prgResponse prg success) s = execPrgResponse prg success s := rfl
theorem exec_xltFlush (v : Word) : exec (.xltFlush v) s = execXltFlush v s := rfl
theorem exec_countDecay : exec .countDecay s = execCountDecay s := rfl
theorem exec_acRingReset (base : Bool) (v : Word) : exec (.acRingReset base v) s = execAcRingReset base v s := rfl
theorem exec_stepStart (n : Slot) : exec (.stepStart n) s = execStepStart n s := rfl
theorem exec_stepRetire (n : Slot) : exec (.stepRetire n) s = execStepRetire n s := rfl
theorem exec_charge (n : Slot) : exec (.charge n) s = execCharge n s := rfl
theorem exec_promotionCheck (n : Slot) : exec (.promotionCheck n) s = execPromotionCheck n s := rfl
theorem exec_stopBoundary (n : Slot) : exec (.stopBoundary n) s = execStopBoundary n s := rfl
theorem exec_spillSwap (n : Slot) : exec (.spillSwap n) s = execSpillSwap n s := rfl
theorem exec_spillComplete (n : Slot) : exec (.spillComplete n) s = execSpillComplete n s := rfl
theorem exec_refill (n : Slot) : exec (.refill n) s = execRefill n s := rfl
theorem exec_acquire (east : Bool) (m : GigMsg) : exec (.acquire east m) s = execAcquire east m s := rfl
theorem exec_release (east : Bool) (m : GigMsg) : exec (.release east m) s = execRelease east m s := rfl
theorem exec_semTry (east : Bool) (m : GigMsg) : exec (.semTry east m) s = execSemTry east m s := rfl
theorem exec_semRead (east : Bool) (m : GigMsg) : exec (.semRead east m) s = execSemRead east m s := rfl
theorem exec_semSet (east : Bool) (m : GigMsg) : exec (.semSet east m) s = execSemSet east m s := rfl
theorem exec_schedClassWrite (c : ClassIx) (v : Word) : exec (.schedClassWrite c v) s = execSchedClassWrite c v s := rfl
theorem exec_inheritCellWrite (r : RegionIx) (v : Word) : exec (.inheritCellWrite r v) s = execInheritCellWrite r v s := rfl
theorem exec_commandTimeout (n : Slot) (stuck : List Nat) : exec (.commandTimeout n stuck) s = execCommandTimeout n stuck s := rfl
theorem exec_jbnRead (k : PortIx) (pkt : Packet) : exec (.jbnRead k pkt) s = execJbnRead k pkt s := rfl
theorem exec_jbnWrite (k : PortIx) (pkt : Packet) : exec (.jbnWrite k pkt) s = execJbnWrite k pkt s := rfl
theorem exec_jbnAtomic (k : PortIx) (pkt : Packet) : exec (.jbnAtomic k pkt) s = execJbnAtomic k pkt s := rfl
theorem exec_stream (k : PortIx) (pkt : Packet) : exec (.stream k pkt) s = execStream k pkt s := rfl
theorem exec_readResp (k : PortIx) (pkt : Packet) : exec (.readResp k pkt) s = execReadResp k pkt s := rfl
theorem exec_writeResp (k : PortIx) (pkt : Packet) : exec (.writeResp k pkt) s = execWriteResp k pkt s := rfl
theorem exec_atomicResp (k : PortIx) (pkt : Packet) : exec (.atomicResp k pkt) s = execAtomicResp k pkt s := rfl
theorem exec_epochNote (k : PortIx) (pkt : Packet) : exec (.epochNote k pkt) s = execEpochNote k pkt s := rfl
theorem exec_epochNoteResend (n : Slot) : exec (.epochNoteResend n) s = execEpochNoteResend n s := rfl
theorem exec_handover (k : PortIx) (pkt : Packet) : exec (.handover k pkt) s = execHandover k pkt s := rfl
theorem exec_handoverAck (k : PortIx) (pkt : Packet) : exec (.handoverAck k pkt) s = execHandoverAck k pkt s := rfl
theorem exec_handoverLost (n : Slot) (tag : BitVec 16) : exec (.handoverLost n tag) s = execHandoverLost n tag s := rfl
theorem exec_fmResp (k : PortIx) : exec (.fmResp k) s = execFmResp k s := rfl
theorem exec_setId (k : PortIx) (pkt : Packet) : exec (.setId k pkt) s = execSetId k pkt s := rfl
theorem exec_routeHdr (k : PortIx) (pkt : Packet) : exec (.routeHdr k pkt) s = execRouteHdr k pkt s := rfl
theorem exec_memberWrite (k : PortIx) (pkt : Packet) : exec (.memberWrite k pkt) s = execMemberWrite k pkt s := rfl
theorem exec_streamWrite (k : PortIx) (pkt : Packet) : exec (.streamWrite k pkt) s = execStreamWrite k pkt s := rfl
theorem exec_remoteWrite (k : PortIx) (pkt : Packet) : exec (.remoteWrite k pkt) s = execRemoteWrite k pkt s := rfl
theorem exec_rehome (k : PortIx) (pkt : Packet) : exec (.rehome k pkt) s = execRehome k pkt s := rfl
theorem exec_port (k : PortIx) (pkt : Packet) : exec (.port k pkt) s = execPort k pkt s := rfl
theorem exec_portUp (k : PortIx) : exec (.portUp k) s = execPortUp k s := rfl
theorem exec_portDown (k : PortIx) (lanes : BitVec 8) : exec (.portDown k lanes) s = execPortDown k lanes s := rfl
theorem exec_linkCreditBlock (k : PortIx) (cls : BitVec 2) (credits : Nat) : exec (.linkCreditBlock k cls credits) s = execLinkCreditBlock k cls credits s := rfl
theorem exec_streamPacketSend (east : Bool) (n : Slot) (stream : Nat) : exec (.streamPacketSend east n stream) s = execStreamPacketSend east n stream s := rfl
theorem exec_requestTimeout (tag : BitVec 16) : exec (.requestTimeout tag) s = execRequestTimeout tag s := rfl
theorem exec_scrub (c : CtlIx) : exec (.scrub c) s = execScrub c s := rfl
theorem exec_spFlipArm (p : Pcell) (v : Word) : exec (.spFlipArm p v) s = execSpFlipArm p v s := rfl
theorem exec_mcFlipArm (c : CtlIx) (v : Word) : exec (.mcFlipArm c v) s = execMcFlipArm c v s := rfl
theorem exec_retirePage (v : Word) : exec (.retirePage v) s = execRetirePage v s := rfl
theorem exec_retireBank (v : Word) : exec (.retireBank v) s = execRetireBank v s := rfl
theorem exec_retireCell (v : Word) : exec (.retireCell v) s = execRetireCell v s := rfl
theorem exec_collectorClose (i_ : Nat) : exec (.collectorClose i_) s = execCollectorClose i_ s := rfl
theorem exec_faultNotice (b : Nat) : exec (.faultNotice b) s = execFaultNotice b s := rfl
theorem exec_pcellStopTimeout (p : Pcell) : exec (.pcellStopTimeout p) s = execPcellStopTimeout p s := rfl
theorem exec_crashFree (v : Word) : exec (.crashFree v) s = execCrashFree v s := rfl
theorem exec_warmReset : exec .warmReset s = execWarmReset s := rfl
theorem exec_warmResetEscalation (n : Slot) : exec (.warmResetEscalation n) s = execWarmResetEscalation n s := rfl
theorem exec_ceilingRevision (p : Pcell) (mhz : BitVec 16) : exec (.ceilingRevision p mhz) s = execCeilingRevision p mhz s := rfl
theorem exec_errorSummaryWrite (q : PartIx) : exec (.errorSummaryWrite q) s = execErrorSummaryWrite q s := rfl
theorem exec_stop (w : BitVec 16) : exec (.stop w) s = execStop w s := rfl
theorem exec_resume (w : BitVec 16) : exec (.resume w) s = execResume w s := rfl
theorem exec_counterExport (n : Slot) : exec (.counterExport n) s = execCounterExport n s := rfl
theorem exec_arithmeticInstruction (p : Pcell) (h : HenIx) (c : Bool) (i_ : Arith) : exec (.arithmeticInstruction p h c i_) s = execArithmeticInstruction p h c i_ s := rfl
theorem exec_csrAccess (p : Pcell) (h : HenIx) (op : CsrOp) (imm : Bool) (csr : BitVec 12) (rd rs1 : Reg) : exec (.csrAccess p h op imm csr rd rs1) s = execCsrAccess p h op imm csr rd rs1 s := rfl
theorem exec_fence (p : Pcell) (h : HenIx) (pred succ : BitVec 4) : exec (.fence p h pred succ) s = execFence p h pred succ s := rfl
theorem exec_wfi (p : Pcell) (h : HenIx) : exec (.wfi p h) s = execWfi p h s := rfl
theorem exec_mret (p : Pcell) (h : HenIx) : exec (.mret p h) s = execMret p h s := rfl
theorem exec_refillComplete (n : Slot) : exec (.refillComplete n) s = execRefillComplete n s := rfl
theorem exec_sliceCreate (ws : List Word) : exec (.sliceCreate ws) s = execSliceCreate ws s := rfl
theorem exec_sliceDestroy (ws : List Word) : exec (.sliceDestroy ws) s = execSliceDestroy ws s := rfl
theorem exec_doorbellSet (ws : List Word) : exec (.doorbellSet ws) s = execDoorbellSet ws s := rfl
theorem exec_contextCreate (ws : List Word) : exec (.contextCreate ws) s = execContextCreate ws s := rfl
theorem exec_contextTeardown (ws : List Word) : exec (.contextTeardown ws) s = execContextTeardown ws s := rfl
theorem exec_fenceInit (ws : List Word) : exec (.fenceInit ws) s = execFenceInit ws s := rfl
theorem exec_fenceFree (ws : List Word) : exec (.fenceFree ws) s = execFenceFree ws s := rfl
theorem exec_fenceTable (ws : List Word) : exec (.fenceTable ws) s = execFenceTable ws s := rfl
theorem exec_coachBind (ws : List Word) : exec (.coachBind ws) s = execCoachBind ws s := rfl
theorem exec_doorbellTail (page : Nat) (v : Word) : exec (.doorbellTail page v) s = execDoorbellTail page v s := rfl
theorem exec_waitLatch (page : Nat) (v : Word) : exec (.waitLatch page v) s = execWaitLatch page v s := rfl
theorem exec_waitRegister (page : Nat) (v : Word) : exec (.waitRegister page v) s = execWaitRegister page v s := rfl
theorem exec_signalLatch (page : Nat) (v : Word) : exec (.signalLatch page v) s = execSignalLatch page v s := rfl
theorem exec_signal (page : Nat) (v : Word) : exec (.signal page v) s = execSignal page v s := rfl
theorem exec_fenceQuery (page : Nat) (v : Word) : exec (.fenceQuery page v) s = execFenceQuery page v s := rfl
theorem exec_eventHead (page : Nat) (v : Word) : exec (.eventHead page v) s = execEventHead page v s := rfl
theorem exec_eventArm (page : Nat) (v : Word) : exec (.eventArm page v) s = execEventArm page v s := rfl
theorem exec_bar4Read (off len : Nat) : exec (.bar4Read off len) s = execBar4Read off len s := rfl
theorem exec_bar4Write (off : Nat) (data : List Byte) : exec (.bar4Write off data) s = execBar4Write off data s := rfl
theorem exec_bar4SegWrite (k : SegIx) (v : Word) : exec (.bar4SegWrite k v) s = execBar4SegWrite k v s := rfl
theorem exec_makeResident (ctx : Nat) : exec (.makeResident ctx) s = execMakeResident ctx s := rfl
theorem exec_stableImport (ws : List Word) : exec (.stableImport ws) s = execStableImport ws s := rfl
theorem exec_destroy (ws : List Word) : exec (.destroy ws) s = execDestroy ws s := rfl
theorem exec_partMode (ws : List Word) : exec (.partMode ws) s = execPartMode ws s := rfl
theorem exec_ingest (ws : List Word) : exec (.ingest ws) s = execIngest ws s := rfl
theorem exec_egest (ws : List Word) : exec (.egest ws) s = execEgest ws s := rfl
theorem exec_lcAdvance (ws : List Word) : exec (.lcAdvance ws) s = execLcAdvance ws s := rfl
theorem exec_debugUnlock (ws : List Word) : exec (.debugUnlock ws) s = execDebugUnlock ws s := rfl
theorem exec_jtagToken (token : List Byte) : exec (.jtagToken token) s = execJtagToken token s := rfl
theorem exec_getVersion (req : List Byte) : exec (.getVersion req) s = execGetVersion req s := rfl
theorem exec_getCapabilities (req : List Byte) : exec (.getCapabilities req) s = execGetCapabilities req s := rfl
theorem exec_negotiateAlgorithms (req : List Byte) : exec (.negotiateAlgorithms req) s = execNegotiateAlgorithms req s := rfl
theorem exec_getDigests (req : List Byte) : exec (.getDigests req) s = execGetDigests req s := rfl
theorem exec_getCertificate (req : List Byte) : exec (.getCertificate req) s = execGetCertificate req s := rfl
theorem exec_challenge (req : List Byte) : exec (.challenge req) s = execChallenge req s := rfl
theorem exec_getMeasurements (req : List Byte) : exec (.getMeasurements req) s = execGetMeasurements req s := rfl
theorem exec_chunkGet (req : List Byte) : exec (.chunkGet req) s = execChunkGet req s := rfl
theorem exec_getStatus (inst : Byte) (body : List Byte) : exec (.getStatus inst body) s = execGetStatus inst body s := rfl
theorem exec_setContract (inst : Byte) (body : List Byte) : exec (.setContract inst body) s = execSetContract inst body s := rfl
theorem exec_setCooling (inst : Byte) (body : List Byte) : exec (.setCooling inst body) s = execSetCooling inst body s := rfl
theorem exec_getReport (inst : Byte) (body : List Byte) : exec (.getReport inst body) s = execGetReport inst body s := rfl
theorem exec_minuteClose : exec .minuteClose s = execMinuteClose s := rfl
theorem exec_controlInterval (r : PowerReading) : exec (.controlInterval r) s = execControlInterval r s := rfl
theorem exec_meterSample (mV mA : Nat) : exec (.meterSample mV mA) s = execMeterSample mV mA s := rfl
theorem exec_meterCheck (firstMw secondMw : Nat) : exec (.meterCheck firstMw secondMw) s = execMeterCheck firstMw secondMw s := rfl
theorem exec_droop (p : Pcell) (edges : Nat) : exec (.droop p edges) s = execDroop p edges s := rfl
theorem exec_thermalTrip (sensor : Nat) (tempC : Int) (heldMs : Nat) : exec (.thermalTrip sensor tempC heldMs) s = execThermalTrip sensor tempC heldMs s := rfl
theorem exec_pwrStrictWrite (q : PartIx) (v : Word) : exec (.pwrStrictWrite q v) s = execPwrStrictWrite q v s := rfl
theorem exec_coldReset (env : BootEnv) : exec (.coldReset env) s = execColdReset env s := rfl
theorem exec_perstAssert (held : Bool) : exec (.perstAssert held) s = execPerstAssert held s := rfl
theorem exec_modRstAssert (held : Bool) : exec (.modRstAssert held) s = execModRstAssert held s := rfl
theorem exec_pwrEnChange (high : Bool) (lowMs : Nat) : exec (.pwrEnChange high lowMs) s = execPwrEnChange high lowMs s := rfl
theorem exec_inputOutOfRange (mV : Nat) : exec (.inputOutOfRange mV) s = execInputOutOfRange mV s := rfl
theorem exec_refclkSysLoss (present : Bool) : exec (.refclkSysLoss present) s = execRefclkSysLoss present s := rfl
theorem exec_refclkFabLoss (present : Bool) : exec (.refclkFabLoss present) s = execRefclkFabLoss present s := rfl
theorem exec_hotReset : exec .hotReset s = execHotReset s := rfl
theorem exec_requestUpdate (pcie : Bool) (image : List Byte) : exec (.requestUpdate pcie image) s = execRequestUpdate pcie image s := rfl
theorem exec_activateFirmware : exec .activateFirmware s = execActivateFirmware s := rfl
theorem exec_getSensorReading (id : Nat) : exec (.getSensorReading id) s = execGetSensorReading id s := rfl
theorem exec_changeLogDrain : exec .changeLogDrain s = execChangeLogDrain s := rfl
theorem exec_logSign (v : Word) : exec (.logSign v) s = execLogSign v s := rfl
theorem exec_scan (jtag : Bool) (v : Word) : exec (.scan jtag v) s = execScan jtag v s := rfl
theorem exec_scanIn (jtag : Bool) (v : Word) (data : List Byte) : exec (.scanIn jtag v data) s = execScanIn jtag v data s := rfl
theorem exec_ctrSnap (v : Word) : exec (.ctrSnap v) s = execCtrSnap v s := rfl
theorem exec_ctrExportWrite (n : Slot) (v : Word) : exec (.ctrExportWrite n v) s = execCtrExportWrite n v s := rfl
theorem exec_registerWrite (off : Nat) (v : Word) : exec (.registerWrite off v) s = execRegisterWrite off v s := rfl
theorem exec_rcRegisterRead (off : Nat) : exec (.rcRegisterRead off) s = execRcRegisterRead off s := rfl
theorem exec_configurationRequest (q : CfgReq) : exec (.configurationRequest q) s = execConfigurationRequest q s := rfl
theorem exec_pcieCompletion (addr : Nat) (data : List Byte) : exec (.pcieCompletion addr data) s = execPcieCompletion addr data s := rfl
theorem exec_fuseSeedsAtTest : exec .fuseSeedsAtTest s = execFuseSeedsAtTest s := rfl
theorem exec_flashHeaderWrite (dev : Bool) (off : Nat) (data : List Byte) : exec (.flashHeaderWrite dev off data) s = execFlashHeaderWrite dev off data s := rfl
theorem exec_marginLoss (unit lane : Nat) : exec (.marginLoss unit lane) s = execMarginLoss unit lane s := rfl

end Sys2Proof.Machine
end

