-- ==== Sys2Proof/Laws/Table.lean ====
section
/-! SUPPORT. Lemmas about the sparse tables: what is read after a write, and that writing keeps the canonical form. -/
namespace Sys2Proof.Machine

variable {α : Type} [DecidableEq α] {d v : α} {m : SMap α} {i j k : Nat}

@[simp] theorem tget_nil (d : α) (i : Nat) : tget d [] i = d := rfl

/-- A write leaves the other keys alone. -/
theorem tget_tset_ne (h : j ≠ i) : tget d (tset d m i v) j = tget d m j := by
  induction m with
  | nil => by_cases hv : v = d <;> simp [tset, tget, hv, Ne.symm h]
  | cons e m ih =>
    obtain ⟨k, w⟩ := e
    simp only [tset]
    by_cases h1 : i < k
    · by_cases hv : v = d <;> simp [h1, hv, tget, Ne.symm h]
    · by_cases h2 : i = k
      · subst h2
        by_cases hv : v = d <;> simp [hv, tget, Ne.symm h]
      · simp only [h1, h2, if_false, tget, ih]

/-- The key of a value other than the default reads as that value. -/
theorem tget_tset_of_ne (hv : v ≠ d) : tget d (tset d m i v) i = v := by
  induction m with
  | nil => simp [tset, tget, hv]
  | cons e m ih =>
    obtain ⟨k, w⟩ := e
    simp only [tset, hv, if_false]
    by_cases h1 : i < k
    · simp [h1, tget]
    · by_cases h2 : i = k
      · simp [h1, h2, tget]
      · simp [h1, h2, tget, Ne.symm h2, ih]

/-- A canonical table lists no key below its first. -/
theorem tget_of_lt {w : α} (hm : twf d ((k, w) :: m) = true) (h : i < k) : tget d ((k, w) :: m) i = d := by
  induction m generalizing k w with
  | nil => simp [tget, Nat.ne_of_gt h]
  | cons e m ih =>
    obtain ⟨k', w'⟩ := e
    simp only [twf, Bool.and_eq_true, decide_eq_true_eq] at hm
    rw [tget, if_neg (Nat.ne_of_gt h)]
    exact ih hm.2 (Nat.lt_trans h hm.1.2)

theorem twf_tail {e : Nat × α} (hm : twf d (e :: m) = true) : twf d m = true := by
  cases m with
  | nil => rfl
  | cons e' m => obtain ⟨k, w⟩ := e; obtain ⟨k', w'⟩ := e'; simp only [twf, Bool.and_eq_true] at hm; exact hm.2

/-- In a canonical table the key reads as what was written, the default too. -/
theorem tget_tset_same (hm : twf d m = true) : tget d (tset d m i v) i = v := by
  by_cases hv : v = d
  · subst hv
    induction m with
    | nil => simp [tset, tget]
    | cons e m ih =>
      obtain ⟨k, w⟩ := e
      simp only [tset, if_true]
      by_cases h1 : i < k
      · simp only [h1, if_true]; exact tget_of_lt hm h1
      · by_cases h2 : i = k
        · subst h2
          simp only [h1, if_true, if_false]
          cases m with
          | nil => rfl
          | cons e' m =>
            obtain ⟨k', w'⟩ := e'
            simp only [twf, Bool.and_eq_true, decide_eq_true_eq] at hm
            exact tget_of_lt hm.2 hm.1.2
        · simp only [h1, h2, if_false, tget, Ne.symm h2]
          exact ih (twf_tail hm)
  · exact tget_tset_of_ne hv

/-- Every key of the table is at least lo. -/
def keysFrom (lo : Nat) (m : SMap α) : Prop := ∀ e ∈ m, lo ≤ e.1

theorem twf_cons {w : α} (hw : w ≠ d) (hm : twf d m = true) (hk : keysFrom (k + 1) m) : twf d ((k, w) :: m) = true := by
  cases m with
  | nil => simp [twf, hw]
  | cons e m =>
    obtain ⟨k', w'⟩ := e
    have := hk (k', w') (by simp)
    simp only [twf, Bool.and_eq_true, decide_eq_true_eq]
    exact ⟨⟨hw, this⟩, hm⟩

theorem twf_keysFrom {w : α} (hm : twf d ((k, w) :: m) = true) : keysFrom (k + 1) m := by
  induction m generalizing k w with
  | nil => intro e he; cases he
  | cons e m ih =>
    obtain ⟨k', w'⟩ := e
    simp only [twf, Bool.and_eq_true, decide_eq_true_eq] at hm
    intro x hx
    cases hx with
    | head => exact hm.1.2
    | tail _ hx => exact Nat.le_trans (Nat.le_of_lt (Nat.succ_lt_succ hm.1.2)) (ih hm.2 x hx)

theorem twf_head {w : α} (hm : twf d ((k, w) :: m) = true) : w ≠ d := by
  cases m with
  | nil => simpa [twf] using hm
  | cons e m => obtain ⟨k', w'⟩ := e; simp only [twf, Bool.and_eq_true, decide_eq_true_eq] at hm; exact hm.1.1

theorem keysFrom_tset {lo : Nat} (h : keysFrom lo m) (hi : lo ≤ i) : keysFrom lo (tset d m i v) := by
  induction m with
  | nil => by_cases hv : v = d <;> simp [tset, hv, keysFrom, hi]
  | cons e m ih =>
    obtain ⟨k, w⟩ := e
    have hk : lo ≤ k := h (k, w) (by simp)
    have ht : keysFrom lo m := fun x hx => h x (by simp [hx])
    simp only [tset]
    split
    · split
      · exact h
      · intro x hx; simp only [List.mem_cons] at hx; obtain rfl | rfl | hx := hx
        · exact hi
        · exact hk
        · exact ht x hx
    · split
      · split
        · exact ht
        · intro x hx; simp only [List.mem_cons] at hx; obtain rfl | hx := hx
          · exact hi
          · exact ht x hx
      · intro x hx; simp only [List.mem_cons] at hx; obtain rfl | hx := hx
        · exact hk
        · exact ih ht x hx

/-- Writing keeps the canonical form. -/
theorem twf_tset (hm : twf d m = true) : twf d (tset d m i v) = true := by
  induction m with
  | nil => by_cases hv : v = d <;> simp [tset, twf, hv]
  | cons e m ih =>
    obtain ⟨k, w⟩ := e
    have ht := twf_tail hm
    have hk := twf_keysFrom hm
    simp only [tset]
    split
    · rename_i h1
      split
      · exact hm
      · rename_i hv
        refine twf_cons hv hm ?_
        intro x hx; simp only [List.mem_cons] at hx; obtain rfl | hx := hx
        · exact h1
        · exact Nat.le_trans (Nat.succ_le_succ (Nat.le_of_lt h1)) (hk x hx)
    · split
      · split
        · exact ht
        · rename_i h1 h2 hv; subst h2; exact twf_cons hv ht hk
      · rename_i h1 h2
        exact twf_cons (twf_head hm) (ih ht) (keysFrom_tset hk (by omega))

/-- Writing the default where it already reads changes nothing. -/
theorem tset_default (hm : twf d m = true) (h : tget d m i = d) : tset d m i d = m := by
  induction m with
  | nil => simp [tset]
  | cons e m ih =>
    obtain ⟨k, w⟩ := e
    simp only [tset]
    split
    · simp
    · split
      · rename_i h2
        subst h2
        simp [tget] at h
        exact absurd h (twf_head hm)
      · rename_i h2
        rw [tget, if_neg (fun e => h2 e.symm)] at h
        rw [ih (twf_tail hm) h]

/-- The second of two writes to a key decides. -/
theorem tset_tset (hm : twf d m = true) {w : α} : tset d (tset d m i v) i w = tset d m i w := by
  induction m with
  | nil => by_cases hv : v = d <;> by_cases hw : w = d <;> simp [tset, hv, hw]
  | cons e m ih =>
    obtain ⟨k, u⟩ := e
    simp only [tset]
    by_cases h1 : i < k
    · by_cases hv : v = d <;> by_cases hw : w = d <;> simp [tset, h1, hv, hw]
    · by_cases h2 : i = k
      · subst h2
        have h3 : tset d m i w = if w = d then m else (i, w) :: m := by
          have hk := twf_keysFrom hm
          cases m with
          | nil => simp [tset]
          | cons e' m' =>
            obtain ⟨k', u'⟩ := e'
            have h4 : i < k' := hk (k', u') (by simp)
            simp [tset, h4]
        by_cases hv : v = d <;> by_cases hw : w = d <;> simp [tset, hv, hw] at h3 ⊢ <;> exact h3
      · simp [tset, h1, h2, ih (twf_tail hm)]

theorem keysFrom_filter {lo : Nat} (h : keysFrom lo m) (f : Nat × α → Bool) : keysFrom lo (m.filter f) := by
  intro x hx
  exact h x (List.mem_filter.mp hx).1

/-- A part of a canonical table is canonical. -/
theorem twf_filter (hm : twf d m = true) (f : Nat × α → Bool) : twf d (m.filter f) = true := by
  induction m with
  | nil => rfl
  | cons e m ih =>
    obtain ⟨k, w⟩ := e
    rw [List.filter_cons]
    split
    · exact twf_cons (twf_head hm) (ih (twf_tail hm)) (keysFrom_filter (twf_keysFrom hm) f)
    · exact ih (twf_tail hm)

/-- A canonical table stays canonical when its values are changed. -/
theorem twf_tmap (hm : twf d m = true) (f : Nat → α → α) : twf d (tmap d m f) = true := by
  induction m with
  | nil => rfl
  | cons e m ih =>
    obtain ⟨k, w⟩ := e
    have hk := twf_keysFrom hm
    have ht := ih (twf_tail hm)
    unfold tmap at *
    rw [List.map_cons, List.filter_cons]
    split
    · rename_i hv
      refine twf_cons (by simpa using hv) ht ?_
      intro x hx
      obtain ⟨y, hy, rfl⟩ := List.mem_map.mp (List.mem_filter.mp hx).1
      exact hk y hy
    · exact ht

theorem Memory.wf_writeBytes {b : SMap Byte} {a : Nat} {bs : List Byte} (h : Memory.wf b) : Memory.wf (writeBytes b a bs) := by
  induction bs generalizing b a with
  | nil => exact h
  | cons x bs ih => exact ih (twf_tset h)

/-- A byte outside the written range reads as before. -/
theorem tget_writeBytes_outside {b : SMap Byte} {a j : Nat} {bs : List Byte} (h : j < a ∨ a + bs.length ≤ j) :
    tget 0 (writeBytes b a bs) j = tget 0 b j := by
  induction bs generalizing b a with
  | nil => rfl
  | cons x bs ih =>
    simp only [List.length_cons] at h
    rw [writeBytes, ih (by omega), tget_tset_ne (by omega)]

/-- The bytes written read back. -/
theorem readBytes_writeBytes {b : SMap Byte} {a : Nat} {bs : List Byte} (h : Memory.wf b) :
    readBytes (writeBytes b a bs) a bs.length = bs := by
  induction bs generalizing b a with
  | nil => rfl
  | cons x bs ih =>
    rw [List.length_cons, readBytes, writeBytes, ih (twf_tset h), tget_writeBytes_outside (by omega), tget_tset_same h]

theorem readBytes_length {b : SMap Byte} {a n : Nat} : (readBytes b a n).length = n := by
  induction n generalizing a with
  | zero => rfl
  | succ n ih => simp [readBytes, ih]

end Sys2Proof.Machine
end

