-- ==== Sys2Proof/Laws/State.lean ====
section
/-! SUPPORT. What each shared update of the state leaves alone, field by field, and what it gives where it acts. -/
namespace Sys2Proof.Machine

variable (s : State)

@[simp] theorem State.setCell_pending (p : Nat) (c : Cell) : (s.setCell p c).pending = s.pending := rfl
@[simp] theorem State.setCell_tick (p : Nat) (c : Cell) : (s.setCell p c).tick = s.tick := rfl
@[simp] theorem State.setCell_free (p : Nat) (c : Cell) : (s.setCell p c).free = s.free := rfl
@[simp] theorem State.setCell_flight (p : Nat) (c : Cell) : (s.setCell p c).flight = s.flight := rfl
@[simp] theorem State.setCell_outbox (p : Nat) (c : Cell) : (s.setCell p c).outbox = s.outbox := rfl
@[simp] theorem State.setCell_isL1 (p : Nat) (c : Cell) : (s.setCell p c).isL1 = s.isL1 := rfl
@[simp] theorem State.setCell_ceilFused (p : Nat) (c : Cell) : (s.setCell p c).ceilFused = s.ceilFused := rfl
@[simp] theorem State.setCell_cellEnable (p : Nat) (c : Cell) : (s.setCell p c).cellEnable = s.cellEnable := rfl
@[simp] theorem State.setCell_stage (p : Nat) (c : Cell) : (s.setCell p c).stage = s.stage := rfl
@[simp] theorem State.setCell_coaches (p : Nat) (c : Cell) : (s.setCell p c).coaches = s.coaches := rfl
@[simp] theorem State.setCell_coachRegs (p : Nat) (c : Cell) : (s.setCell p c).coachRegs = s.coachRegs := rfl
@[simp] theorem State.setCell_mem (p : Nat) (c : Cell) : (s.setCell p c).mem = s.mem := rfl
@[simp] theorem State.setCell_hostMem (p : Nat) (c : Cell) : (s.setCell p c).hostMem = s.hostMem := rfl
@[simp] theorem State.setCell_written (p : Nat) (c : Cell) : (s.setCell p c).written = s.written := rfl
@[simp] theorem State.setCell_writeSeq (p : Nat) (c : Cell) : (s.setCell p c).writeSeq = s.writeSeq := rfl
@[simp] theorem State.setCell_mcs (p : Nat) (c : Cell) : (s.setCell p c).mcs = s.mcs := rfl
@[simp] theorem State.setCell_llc (p : Nat) (c : Cell) : (s.setCell p c).llc = s.llc := rfl
@[simp] theorem State.setCell_llcWays (p : Nat) (c : Cell) : (s.setCell p c).llcWays = s.llcWays := rfl
@[simp] theorem State.setCell_wayConflict (p : Nat) (c : Cell) : (s.setCell p c).wayConflict = s.wayConflict := rfl
@[simp] theorem State.setCell_carve (p : Nat) (c : Cell) : (s.setCell p c).carve = s.carve := rfl
@[simp] theorem State.setCell_engines (p : Nat) (c : Cell) : (s.setCell p c).engines = s.engines := rfl
@[simp] theorem State.setCell_agents (p : Nat) (c : Cell) : (s.setCell p c).agents = s.agents := rfl
@[simp] theorem State.setCell_homeLines (p : Nat) (c : Cell) : (s.setCell p c).homeLines = s.homeLines := rfl
@[simp] theorem State.setCell_homes (p : Nat) (c : Cell) : (s.setCell p c).homes = s.homes := rfl
@[simp] theorem State.setCell_nonCaching (p : Nat) (c : Cell) : (s.setCell p c).nonCaching = s.nonCaching := rfl
@[simp] theorem State.setCell_ncNext (p : Nat) (c : Cell) : (s.setCell p c).ncNext = s.ncNext := rfl
@[simp] theorem State.setCell_muleCached (p : Nat) (c : Cell) : (s.setCell p c).muleCached = s.muleCached := rfl
@[simp] theorem State.setCell_muleGone (p : Nat) (c : Cell) : (s.setCell p c).muleGone = s.muleGone := rfl
@[simp] theorem State.setCell_lineKey (p : Nat) (c : Cell) : (s.setCell p c).lineKey = s.lineKey := rfl
@[simp] theorem State.setCell_refused (p : Nat) (c : Cell) : (s.setCell p c).refused = s.refused := rfl
@[simp] theorem State.setCell_retrying (p : Nat) (c : Cell) : (s.setCell p c).retrying = s.retrying := rfl
@[simp] theorem State.setCell_coh (p : Nat) (c : Cell) : (s.setCell p c).coh = s.coh := rfl
@[simp] theorem State.setCell_tlbAgents (p : Nat) (c : Cell) : (s.setCell p c).tlbAgents = s.tlbAgents := rfl
@[simp] theorem State.setCell_xlt (p : Nat) (c : Cell) : (s.setCell p c).xlt = s.xlt := rfl
@[simp] theorem State.setCell_host (p : Nat) (c : Cell) : (s.setCell p c).host = s.host := rfl
@[simp] theorem State.setCell_sched (p : Nat) (c : Cell) : (s.setCell p c).sched = s.sched := rfl
@[simp] theorem State.setCell_errs (p : Nat) (c : Cell) : (s.setCell p c).errs = s.errs := rfl
@[simp] theorem State.setCell_stable (p : Nat) (c : Cell) : (s.setCell p c).stable = s.stable := rfl
@[simp] theorem State.setCell_jbn (p : Nat) (c : Cell) : (s.setCell p c).jbn = s.jbn := rfl
@[simp] theorem State.setCell_harness (p : Nat) (c : Cell) : (s.setCell p c).harness = s.harness := rfl
@[simp] theorem State.setCell_power (p : Nat) (c : Cell) : (s.setCell p c).power = s.power := rfl
@[simp] theorem State.setCell_dbg (p : Nat) (c : Cell) : (s.setCell p c).dbg = s.dbg := rfl

@[simp] theorem State.setHen_pending (p : Nat) (h : HenIx) (x : Hen) : (s.setHen p h x).pending = s.pending := rfl
@[simp] theorem State.setHen_tick (p : Nat) (h : HenIx) (x : Hen) : (s.setHen p h x).tick = s.tick := rfl
@[simp] theorem State.setHen_free (p : Nat) (h : HenIx) (x : Hen) : (s.setHen p h x).free = s.free := rfl
@[simp] theorem State.setHen_flight (p : Nat) (h : HenIx) (x : Hen) : (s.setHen p h x).flight = s.flight := rfl
@[simp] theorem State.setHen_outbox (p : Nat) (h : HenIx) (x : Hen) : (s.setHen p h x).outbox = s.outbox := rfl
@[simp] theorem State.setHen_isL1 (p : Nat) (h : HenIx) (x : Hen) : (s.setHen p h x).isL1 = s.isL1 := rfl
@[simp] theorem State.setHen_ceilFused (p : Nat) (h : HenIx) (x : Hen) : (s.setHen p h x).ceilFused = s.ceilFused := rfl
@[simp] theorem State.setHen_cellEnable (p : Nat) (h : HenIx) (x : Hen) : (s.setHen p h x).cellEnable = s.cellEnable := rfl
@[simp] theorem State.setHen_stage (p : Nat) (h : HenIx) (x : Hen) : (s.setHen p h x).stage = s.stage := rfl
@[simp] theorem State.setHen_coaches (p : Nat) (h : HenIx) (x : Hen) : (s.setHen p h x).coaches = s.coaches := rfl
@[simp] theorem State.setHen_coachRegs (p : Nat) (h : HenIx) (x : Hen) : (s.setHen p h x).coachRegs = s.coachRegs := rfl
@[simp] theorem State.setHen_mem (p : Nat) (h : HenIx) (x : Hen) : (s.setHen p h x).mem = s.mem := rfl
@[simp] theorem State.setHen_hostMem (p : Nat) (h : HenIx) (x : Hen) : (s.setHen p h x).hostMem = s.hostMem := rfl
@[simp] theorem State.setHen_written (p : Nat) (h : HenIx) (x : Hen) : (s.setHen p h x).written = s.written := rfl
@[simp] theorem State.setHen_writeSeq (p : Nat) (h : HenIx) (x : Hen) : (s.setHen p h x).writeSeq = s.writeSeq := rfl
@[simp] theorem State.setHen_mcs (p : Nat) (h : HenIx) (x : Hen) : (s.setHen p h x).mcs = s.mcs := rfl
@[simp] theorem State.setHen_llc (p : Nat) (h : HenIx) (x : Hen) : (s.setHen p h x).llc = s.llc := rfl
@[simp] theorem State.setHen_llcWays (p : Nat) (h : HenIx) (x : Hen) : (s.setHen p h x).llcWays = s.llcWays := rfl
@[simp] theorem State.setHen_wayConflict (p : Nat) (h : HenIx) (x : Hen) : (s.setHen p h x).wayConflict = s.wayConflict := rfl
@[simp] theorem State.setHen_carve (p : Nat) (h : HenIx) (x : Hen) : (s.setHen p h x).carve = s.carve := rfl
@[simp] theorem State.setHen_engines (p : Nat) (h : HenIx) (x : Hen) : (s.setHen p h x).engines = s.engines := rfl
@[simp] theorem State.setHen_agents (p : Nat) (h : HenIx) (x : Hen) : (s.setHen p h x).agents = s.agents := rfl
@[simp] theorem State.setHen_homeLines (p : Nat) (h : HenIx) (x : Hen) : (s.setHen p h x).homeLines = s.homeLines := rfl
@[simp] theorem State.setHen_homes (p : Nat) (h : HenIx) (x : Hen) : (s.setHen p h x).homes = s.homes := rfl
@[simp] theorem State.setHen_nonCaching (p : Nat) (h : HenIx) (x : Hen) : (s.setHen p h x).nonCaching = s.nonCaching := rfl
@[simp] theorem State.setHen_ncNext (p : Nat) (h : HenIx) (x : Hen) : (s.setHen p h x).ncNext = s.ncNext := rfl
@[simp] theorem State.setHen_muleCached (p : Nat) (h : HenIx) (x : Hen) : (s.setHen p h x).muleCached = s.muleCached := rfl
@[simp] theorem State.setHen_muleGone (p : Nat) (h : HenIx) (x : Hen) : (s.setHen p h x).muleGone = s.muleGone := rfl
@[simp] theorem State.setHen_lineKey (p : Nat) (h : HenIx) (x : Hen) : (s.setHen p h x).lineKey = s.lineKey := rfl
@[simp] theorem State.setHen_refused (p : Nat) (h : HenIx) (x : Hen) : (s.setHen p h x).refused = s.refused := rfl
@[simp] theorem State.setHen_retrying (p : Nat) (h : HenIx) (x : Hen) : (s.setHen p h x).retrying = s.retrying := rfl
@[simp] theorem State.setHen_coh (p : Nat) (h : HenIx) (x : Hen) : (s.setHen p h x).coh = s.coh := rfl
@[simp] theorem State.setHen_tlbAgents (p : Nat) (h : HenIx) (x : Hen) : (s.setHen p h x).tlbAgents = s.tlbAgents := rfl
@[simp] theorem State.setHen_xlt (p : Nat) (h : HenIx) (x : Hen) : (s.setHen p h x).xlt = s.xlt := rfl
@[simp] theorem State.setHen_host (p : Nat) (h : HenIx) (x : Hen) : (s.setHen p h x).host = s.host := rfl
@[simp] theorem State.setHen_sched (p : Nat) (h : HenIx) (x : Hen) : (s.setHen p h x).sched = s.sched := rfl
@[simp] theorem State.setHen_errs (p : Nat) (h : HenIx) (x : Hen) : (s.setHen p h x).errs = s.errs := rfl
@[simp] theorem State.setHen_stable (p : Nat) (h : HenIx) (x : Hen) : (s.setHen p h x).stable = s.stable := rfl
@[simp] theorem State.setHen_jbn (p : Nat) (h : HenIx) (x : Hen) : (s.setHen p h x).jbn = s.jbn := rfl
@[simp] theorem State.setHen_harness (p : Nat) (h : HenIx) (x : Hen) : (s.setHen p h x).harness = s.harness := rfl
@[simp] theorem State.setHen_power (p : Nat) (h : HenIx) (x : Hen) : (s.setHen p h x).power = s.power := rfl
@[simp] theorem State.setHen_dbg (p : Nat) (h : HenIx) (x : Hen) : (s.setHen p h x).dbg = s.dbg := rfl

@[simp] theorem State.setOx_pending (p : Nat) (o : Ox) : (s.setOx p o).pending = s.pending := rfl
@[simp] theorem State.setOx_tick (p : Nat) (o : Ox) : (s.setOx p o).tick = s.tick := rfl
@[simp] theorem State.setOx_free (p : Nat) (o : Ox) : (s.setOx p o).free = s.free := rfl
@[simp] theorem State.setOx_flight (p : Nat) (o : Ox) : (s.setOx p o).flight = s.flight := rfl
@[simp] theorem State.setOx_outbox (p : Nat) (o : Ox) : (s.setOx p o).outbox = s.outbox := rfl
@[simp] theorem State.setOx_isL1 (p : Nat) (o : Ox) : (s.setOx p o).isL1 = s.isL1 := rfl
@[simp] theorem State.setOx_ceilFused (p : Nat) (o : Ox) : (s.setOx p o).ceilFused = s.ceilFused := rfl
@[simp] theorem State.setOx_cellEnable (p : Nat) (o : Ox) : (s.setOx p o).cellEnable = s.cellEnable := rfl
@[simp] theorem State.setOx_stage (p : Nat) (o : Ox) : (s.setOx p o).stage = s.stage := rfl
@[simp] theorem State.setOx_coaches (p : Nat) (o : Ox) : (s.setOx p o).coaches = s.coaches := rfl
@[simp] theorem State.setOx_coachRegs (p : Nat) (o : Ox) : (s.setOx p o).coachRegs = s.coachRegs := rfl
@[simp] theorem State.setOx_mem (p : Nat) (o : Ox) : (s.setOx p o).mem = s.mem := rfl
@[simp] theorem State.setOx_hostMem (p : Nat) (o : Ox) : (s.setOx p o).hostMem = s.hostMem := rfl
@[simp] theorem State.setOx_written (p : Nat) (o : Ox) : (s.setOx p o).written = s.written := rfl
@[simp] theorem State.setOx_writeSeq (p : Nat) (o : Ox) : (s.setOx p o).writeSeq = s.writeSeq := rfl
@[simp] theorem State.setOx_mcs (p : Nat) (o : Ox) : (s.setOx p o).mcs = s.mcs := rfl
@[simp] theorem State.setOx_llc (p : Nat) (o : Ox) : (s.setOx p o).llc = s.llc := rfl
@[simp] theorem State.setOx_llcWays (p : Nat) (o : Ox) : (s.setOx p o).llcWays = s.llcWays := rfl
@[simp] theorem State.setOx_wayConflict (p : Nat) (o : Ox) : (s.setOx p o).wayConflict = s.wayConflict := rfl
@[simp] theorem State.setOx_carve (p : Nat) (o : Ox) : (s.setOx p o).carve = s.carve := rfl
@[simp] theorem State.setOx_engines (p : Nat) (o : Ox) : (s.setOx p o).engines = s.engines := rfl
@[simp] theorem State.setOx_agents (p : Nat) (o : Ox) : (s.setOx p o).agents = s.agents := rfl
@[simp] theorem State.setOx_homeLines (p : Nat) (o : Ox) : (s.setOx p o).homeLines = s.homeLines := rfl
@[simp] theorem State.setOx_homes (p : Nat) (o : Ox) : (s.setOx p o).homes = s.homes := rfl
@[simp] theorem State.setOx_nonCaching (p : Nat) (o : Ox) : (s.setOx p o).nonCaching = s.nonCaching := rfl
@[simp] theorem State.setOx_ncNext (p : Nat) (o : Ox) : (s.setOx p o).ncNext = s.ncNext := rfl
@[simp] theorem State.setOx_muleCached (p : Nat) (o : Ox) : (s.setOx p o).muleCached = s.muleCached := rfl
@[simp] theorem State.setOx_muleGone (p : Nat) (o : Ox) : (s.setOx p o).muleGone = s.muleGone := rfl
@[simp] theorem State.setOx_lineKey (p : Nat) (o : Ox) : (s.setOx p o).lineKey = s.lineKey := rfl
@[simp] theorem State.setOx_refused (p : Nat) (o : Ox) : (s.setOx p o).refused = s.refused := rfl
@[simp] theorem State.setOx_retrying (p : Nat) (o : Ox) : (s.setOx p o).retrying = s.retrying := rfl
@[simp] theorem State.setOx_coh (p : Nat) (o : Ox) : (s.setOx p o).coh = s.coh := rfl
@[simp] theorem State.setOx_tlbAgents (p : Nat) (o : Ox) : (s.setOx p o).tlbAgents = s.tlbAgents := rfl
@[simp] theorem State.setOx_xlt (p : Nat) (o : Ox) : (s.setOx p o).xlt = s.xlt := rfl
@[simp] theorem State.setOx_host (p : Nat) (o : Ox) : (s.setOx p o).host = s.host := rfl
@[simp] theorem State.setOx_sched (p : Nat) (o : Ox) : (s.setOx p o).sched = s.sched := rfl
@[simp] theorem State.setOx_errs (p : Nat) (o : Ox) : (s.setOx p o).errs = s.errs := rfl
@[simp] theorem State.setOx_stable (p : Nat) (o : Ox) : (s.setOx p o).stable = s.stable := rfl
@[simp] theorem State.setOx_jbn (p : Nat) (o : Ox) : (s.setOx p o).jbn = s.jbn := rfl
@[simp] theorem State.setOx_harness (p : Nat) (o : Ox) : (s.setOx p o).harness = s.harness := rfl
@[simp] theorem State.setOx_power (p : Nat) (o : Ox) : (s.setOx p o).power = s.power := rfl
@[simp] theorem State.setOx_dbg (p : Nat) (o : Ox) : (s.setOx p o).dbg = s.dbg := rfl

@[simp] theorem State.setCoach_pending (n : Nat) (c : Coach) : (s.setCoach n c).pending = s.pending := rfl
@[simp] theorem State.setCoach_tick (n : Nat) (c : Coach) : (s.setCoach n c).tick = s.tick := rfl
@[simp] theorem State.setCoach_free (n : Nat) (c : Coach) : (s.setCoach n c).free = s.free := rfl
@[simp] theorem State.setCoach_flight (n : Nat) (c : Coach) : (s.setCoach n c).flight = s.flight := rfl
@[simp] theorem State.setCoach_outbox (n : Nat) (c : Coach) : (s.setCoach n c).outbox = s.outbox := rfl
@[simp] theorem State.setCoach_isL1 (n : Nat) (c : Coach) : (s.setCoach n c).isL1 = s.isL1 := rfl
@[simp] theorem State.setCoach_ceilFused (n : Nat) (c : Coach) : (s.setCoach n c).ceilFused = s.ceilFused := rfl
@[simp] theorem State.setCoach_cellEnable (n : Nat) (c : Coach) : (s.setCoach n c).cellEnable = s.cellEnable := rfl
@[simp] theorem State.setCoach_cells (n : Nat) (c : Coach) : (s.setCoach n c).cells = s.cells := rfl
@[simp] theorem State.setCoach_stage (n : Nat) (c : Coach) : (s.setCoach n c).stage = s.stage := rfl
@[simp] theorem State.setCoach_coachRegs (n : Nat) (c : Coach) : (s.setCoach n c).coachRegs = s.coachRegs := rfl
@[simp] theorem State.setCoach_mem (n : Nat) (c : Coach) : (s.setCoach n c).mem = s.mem := rfl
@[simp] theorem State.setCoach_hostMem (n : Nat) (c : Coach) : (s.setCoach n c).hostMem = s.hostMem := rfl
@[simp] theorem State.setCoach_written (n : Nat) (c : Coach) : (s.setCoach n c).written = s.written := rfl
@[simp] theorem State.setCoach_writeSeq (n : Nat) (c : Coach) : (s.setCoach n c).writeSeq = s.writeSeq := rfl
@[simp] theorem State.setCoach_mcs (n : Nat) (c : Coach) : (s.setCoach n c).mcs = s.mcs := rfl
@[simp] theorem State.setCoach_llc (n : Nat) (c : Coach) : (s.setCoach n c).llc = s.llc := rfl
@[simp] theorem State.setCoach_llcWays (n : Nat) (c : Coach) : (s.setCoach n c).llcWays = s.llcWays := rfl
@[simp] theorem State.setCoach_wayConflict (n : Nat) (c : Coach) : (s.setCoach n c).wayConflict = s.wayConflict := rfl
@[simp] theorem State.setCoach_carve (n : Nat) (c : Coach) : (s.setCoach n c).carve = s.carve := rfl
@[simp] theorem State.setCoach_engines (n : Nat) (c : Coach) : (s.setCoach n c).engines = s.engines := rfl
@[simp] theorem State.setCoach_agents (n : Nat) (c : Coach) : (s.setCoach n c).agents = s.agents := rfl
@[simp] theorem State.setCoach_homeLines (n : Nat) (c : Coach) : (s.setCoach n c).homeLines = s.homeLines := rfl
@[simp] theorem State.setCoach_homes (n : Nat) (c : Coach) : (s.setCoach n c).homes = s.homes := rfl
@[simp] theorem State.setCoach_nonCaching (n : Nat) (c : Coach) : (s.setCoach n c).nonCaching = s.nonCaching := rfl
@[simp] theorem State.setCoach_ncNext (n : Nat) (c : Coach) : (s.setCoach n c).ncNext = s.ncNext := rfl
@[simp] theorem State.setCoach_muleCached (n : Nat) (c : Coach) : (s.setCoach n c).muleCached = s.muleCached := rfl
@[simp] theorem State.setCoach_muleGone (n : Nat) (c : Coach) : (s.setCoach n c).muleGone = s.muleGone := rfl
@[simp] theorem State.setCoach_lineKey (n : Nat) (c : Coach) : (s.setCoach n c).lineKey = s.lineKey := rfl
@[simp] theorem State.setCoach_refused (n : Nat) (c : Coach) : (s.setCoach n c).refused = s.refused := rfl
@[simp] theorem State.setCoach_retrying (n : Nat) (c : Coach) : (s.setCoach n c).retrying = s.retrying := rfl
@[simp] theorem State.setCoach_coh (n : Nat) (c : Coach) : (s.setCoach n c).coh = s.coh := rfl
@[simp] theorem State.setCoach_tlbAgents (n : Nat) (c : Coach) : (s.setCoach n c).tlbAgents = s.tlbAgents := rfl
@[simp] theorem State.setCoach_xlt (n : Nat) (c : Coach) : (s.setCoach n c).xlt = s.xlt := rfl
@[simp] theorem State.setCoach_host (n : Nat) (c : Coach) : (s.setCoach n c).host = s.host := rfl
@[simp] theorem State.setCoach_sched (n : Nat) (c : Coach) : (s.setCoach n c).sched = s.sched := rfl
@[simp] theorem State.setCoach_errs (n : Nat) (c : Coach) : (s.setCoach n c).errs = s.errs := rfl
@[simp] theorem State.setCoach_stable (n : Nat) (c : Coach) : (s.setCoach n c).stable = s.stable := rfl
@[simp] theorem State.setCoach_jbn (n : Nat) (c : Coach) : (s.setCoach n c).jbn = s.jbn := rfl
@[simp] theorem State.setCoach_harness (n : Nat) (c : Coach) : (s.setCoach n c).harness = s.harness := rfl
@[simp] theorem State.setCoach_power (n : Nat) (c : Coach) : (s.setCoach n c).power = s.power := rfl
@[simp] theorem State.setCoach_dbg (n : Nat) (c : Coach) : (s.setCoach n c).dbg = s.dbg := rfl

@[simp] theorem State.setSlotSched_pending (n : Nat) (x : SlotSched) : (s.setSlotSched n x).pending = s.pending := rfl
@[simp] theorem State.setSlotSched_tick (n : Nat) (x : SlotSched) : (s.setSlotSched n x).tick = s.tick := rfl
@[simp] theorem State.setSlotSched_free (n : Nat) (x : SlotSched) : (s.setSlotSched n x).free = s.free := rfl
@[simp] theorem State.setSlotSched_flight (n : Nat) (x : SlotSched) : (s.setSlotSched n x).flight = s.flight := rfl
@[simp] theorem State.setSlotSched_outbox (n : Nat) (x : SlotSched) : (s.setSlotSched n x).outbox = s.outbox := rfl
@[simp] theorem State.setSlotSched_isL1 (n : Nat) (x : SlotSched) : (s.setSlotSched n x).isL1 = s.isL1 := rfl
@[simp] theorem State.setSlotSched_ceilFused (n : Nat) (x : SlotSched) : (s.setSlotSched n x).ceilFused = s.ceilFused := rfl
@[simp] theorem State.setSlotSched_cellEnable (n : Nat) (x : SlotSched) : (s.setSlotSched n x).cellEnable = s.cellEnable := rfl
@[simp] theorem State.setSlotSched_cells (n : Nat) (x : SlotSched) : (s.setSlotSched n x).cells = s.cells := rfl
@[simp] theorem State.setSlotSched_stage (n : Nat) (x : SlotSched) : (s.setSlotSched n x).stage = s.stage := rfl
@[simp] theorem State.setSlotSched_coaches (n : Nat) (x : SlotSched) : (s.setSlotSched n x).coaches = s.coaches := rfl
@[simp] theorem State.setSlotSched_coachRegs (n : Nat) (x : SlotSched) : (s.setSlotSched n x).coachRegs = s.coachRegs := rfl
@[simp] theorem State.setSlotSched_mem (n : Nat) (x : SlotSched) : (s.setSlotSched n x).mem = s.mem := rfl
@[simp] theorem State.setSlotSched_hostMem (n : Nat) (x : SlotSched) : (s.setSlotSched n x).hostMem = s.hostMem := rfl
@[simp] theorem State.setSlotSched_written (n : Nat) (x : SlotSched) : (s.setSlotSched n x).written = s.written := rfl
@[simp] theorem State.setSlotSched_writeSeq (n : Nat) (x : SlotSched) : (s.setSlotSched n x).writeSeq = s.writeSeq := rfl
@[simp] theorem State.setSlotSched_mcs (n : Nat) (x : SlotSched) : (s.setSlotSched n x).mcs = s.mcs := rfl
@[simp] theorem State.setSlotSched_llc (n : Nat) (x : SlotSched) : (s.setSlotSched n x).llc = s.llc := rfl
@[simp] theorem State.setSlotSched_llcWays (n : Nat) (x : SlotSched) : (s.setSlotSched n x).llcWays = s.llcWays := rfl
@[simp] theorem State.setSlotSched_wayConflict (n : Nat) (x : SlotSched) : (s.setSlotSched n x).wayConflict = s.wayConflict := rfl
@[simp] theorem State.setSlotSched_carve (n : Nat) (x : SlotSched) : (s.setSlotSched n x).carve = s.carve := rfl
@[simp] theorem State.setSlotSched_engines (n : Nat) (x : SlotSched) : (s.setSlotSched n x).engines = s.engines := rfl
@[simp] theorem State.setSlotSched_agents (n : Nat) (x : SlotSched) : (s.setSlotSched n x).agents = s.agents := rfl
@[simp] theorem State.setSlotSched_homeLines (n : Nat) (x : SlotSched) : (s.setSlotSched n x).homeLines = s.homeLines := rfl
@[simp] theorem State.setSlotSched_homes (n : Nat) (x : SlotSched) : (s.setSlotSched n x).homes = s.homes := rfl
@[simp] theorem State.setSlotSched_nonCaching (n : Nat) (x : SlotSched) : (s.setSlotSched n x).nonCaching = s.nonCaching := rfl
@[simp] theorem State.setSlotSched_ncNext (n : Nat) (x : SlotSched) : (s.setSlotSched n x).ncNext = s.ncNext := rfl
@[simp] theorem State.setSlotSched_muleCached (n : Nat) (x : SlotSched) : (s.setSlotSched n x).muleCached = s.muleCached := rfl
@[simp] theorem State.setSlotSched_muleGone (n : Nat) (x : SlotSched) : (s.setSlotSched n x).muleGone = s.muleGone := rfl
@[simp] theorem State.setSlotSched_lineKey (n : Nat) (x : SlotSched) : (s.setSlotSched n x).lineKey = s.lineKey := rfl
@[simp] theorem State.setSlotSched_refused (n : Nat) (x : SlotSched) : (s.setSlotSched n x).refused = s.refused := rfl
@[simp] theorem State.setSlotSched_retrying (n : Nat) (x : SlotSched) : (s.setSlotSched n x).retrying = s.retrying := rfl
@[simp] theorem State.setSlotSched_coh (n : Nat) (x : SlotSched) : (s.setSlotSched n x).coh = s.coh := rfl
@[simp] theorem State.setSlotSched_tlbAgents (n : Nat) (x : SlotSched) : (s.setSlotSched n x).tlbAgents = s.tlbAgents := rfl
@[simp] theorem State.setSlotSched_xlt (n : Nat) (x : SlotSched) : (s.setSlotSched n x).xlt = s.xlt := rfl
@[simp] theorem State.setSlotSched_host (n : Nat) (x : SlotSched) : (s.setSlotSched n x).host = s.host := rfl
@[simp] theorem State.setSlotSched_errs (n : Nat) (x : SlotSched) : (s.setSlotSched n x).errs = s.errs := rfl
@[simp] theorem State.setSlotSched_stable (n : Nat) (x : SlotSched) : (s.setSlotSched n x).stable = s.stable := rfl
@[simp] theorem State.setSlotSched_jbn (n : Nat) (x : SlotSched) : (s.setSlotSched n x).jbn = s.jbn := rfl
@[simp] theorem State.setSlotSched_harness (n : Nat) (x : SlotSched) : (s.setSlotSched n x).harness = s.harness := rfl
@[simp] theorem State.setSlotSched_power (n : Nat) (x : SlotSched) : (s.setSlotSched n x).power = s.power := rfl
@[simp] theorem State.setSlotSched_dbg (n : Nat) (x : SlotSched) : (s.setSlotSched n x).dbg = s.dbg := rfl

@[simp] theorem State.setCtx_pending (k : Nat) (x : Context) : (s.setCtx k x).pending = s.pending := rfl
@[simp] theorem State.setCtx_tick (k : Nat) (x : Context) : (s.setCtx k x).tick = s.tick := rfl
@[simp] theorem State.setCtx_free (k : Nat) (x : Context) : (s.setCtx k x).free = s.free := rfl
@[simp] theorem State.setCtx_flight (k : Nat) (x : Context) : (s.setCtx k x).flight = s.flight := rfl
@[simp] theorem State.setCtx_outbox (k : Nat) (x : Context) : (s.setCtx k x).outbox = s.outbox := rfl
@[simp] theorem State.setCtx_isL1 (k : Nat) (x : Context) : (s.setCtx k x).isL1 = s.isL1 := rfl
@[simp] theorem State.setCtx_ceilFused (k : Nat) (x : Context) : (s.setCtx k x).ceilFused = s.ceilFused := rfl
@[simp] theorem State.setCtx_cellEnable (k : Nat) (x : Context) : (s.setCtx k x).cellEnable = s.cellEnable := rfl
@[simp] theorem State.setCtx_cells (k : Nat) (x : Context) : (s.setCtx k x).cells = s.cells := rfl
@[simp] theorem State.setCtx_stage (k : Nat) (x : Context) : (s.setCtx k x).stage = s.stage := rfl
@[simp] theorem State.setCtx_coaches (k : Nat) (x : Context) : (s.setCtx k x).coaches = s.coaches := rfl
@[simp] theorem State.setCtx_coachRegs (k : Nat) (x : Context) : (s.setCtx k x).coachRegs = s.coachRegs := rfl
@[simp] theorem State.setCtx_mem (k : Nat) (x : Context) : (s.setCtx k x).mem = s.mem := rfl
@[simp] theorem State.setCtx_hostMem (k : Nat) (x : Context) : (s.setCtx k x).hostMem = s.hostMem := rfl
@[simp] theorem State.setCtx_written (k : Nat) (x : Context) : (s.setCtx k x).written = s.written := rfl
@[simp] theorem State.setCtx_writeSeq (k : Nat) (x : Context) : (s.setCtx k x).writeSeq = s.writeSeq := rfl
@[simp] theorem State.setCtx_mcs (k : Nat) (x : Context) : (s.setCtx k x).mcs = s.mcs := rfl
@[simp] theorem State.setCtx_llc (k : Nat) (x : Context) : (s.setCtx k x).llc = s.llc := rfl
@[simp] theorem State.setCtx_llcWays (k : Nat) (x : Context) : (s.setCtx k x).llcWays = s.llcWays := rfl
@[simp] theorem State.setCtx_wayConflict (k : Nat) (x : Context) : (s.setCtx k x).wayConflict = s.wayConflict := rfl
@[simp] theorem State.setCtx_carve (k : Nat) (x : Context) : (s.setCtx k x).carve = s.carve := rfl
@[simp] theorem State.setCtx_engines (k : Nat) (x : Context) : (s.setCtx k x).engines = s.engines := rfl
@[simp] theorem State.setCtx_agents (k : Nat) (x : Context) : (s.setCtx k x).agents = s.agents := rfl
@[simp] theorem State.setCtx_homeLines (k : Nat) (x : Context) : (s.setCtx k x).homeLines = s.homeLines := rfl
@[simp] theorem State.setCtx_homes (k : Nat) (x : Context) : (s.setCtx k x).homes = s.homes := rfl
@[simp] theorem State.setCtx_nonCaching (k : Nat) (x : Context) : (s.setCtx k x).nonCaching = s.nonCaching := rfl
@[simp] theorem State.setCtx_ncNext (k : Nat) (x : Context) : (s.setCtx k x).ncNext = s.ncNext := rfl
@[simp] theorem State.setCtx_muleCached (k : Nat) (x : Context) : (s.setCtx k x).muleCached = s.muleCached := rfl
@[simp] theorem State.setCtx_muleGone (k : Nat) (x : Context) : (s.setCtx k x).muleGone = s.muleGone := rfl
@[simp] theorem State.setCtx_lineKey (k : Nat) (x : Context) : (s.setCtx k x).lineKey = s.lineKey := rfl
@[simp] theorem State.setCtx_refused (k : Nat) (x : Context) : (s.setCtx k x).refused = s.refused := rfl
@[simp] theorem State.setCtx_retrying (k : Nat) (x : Context) : (s.setCtx k x).retrying = s.retrying := rfl
@[simp] theorem State.setCtx_coh (k : Nat) (x : Context) : (s.setCtx k x).coh = s.coh := rfl
@[simp] theorem State.setCtx_tlbAgents (k : Nat) (x : Context) : (s.setCtx k x).tlbAgents = s.tlbAgents := rfl
@[simp] theorem State.setCtx_xlt (k : Nat) (x : Context) : (s.setCtx k x).xlt = s.xlt := rfl
@[simp] theorem State.setCtx_sched (k : Nat) (x : Context) : (s.setCtx k x).sched = s.sched := rfl
@[simp] theorem State.setCtx_errs (k : Nat) (x : Context) : (s.setCtx k x).errs = s.errs := rfl
@[simp] theorem State.setCtx_stable (k : Nat) (x : Context) : (s.setCtx k x).stable = s.stable := rfl
@[simp] theorem State.setCtx_jbn (k : Nat) (x : Context) : (s.setCtx k x).jbn = s.jbn := rfl
@[simp] theorem State.setCtx_harness (k : Nat) (x : Context) : (s.setCtx k x).harness = s.harness := rfl
@[simp] theorem State.setCtx_power (k : Nat) (x : Context) : (s.setCtx k x).power = s.power := rfl
@[simp] theorem State.setCtx_dbg (k : Nat) (x : Context) : (s.setCtx k x).dbg = s.dbg := rfl

@[simp] theorem State.setSlice_pending (k : Nat) (x : Slice) : (s.setSlice k x).pending = s.pending := rfl
@[simp] theorem State.setSlice_tick (k : Nat) (x : Slice) : (s.setSlice k x).tick = s.tick := rfl
@[simp] theorem State.setSlice_free (k : Nat) (x : Slice) : (s.setSlice k x).free = s.free := rfl
@[simp] theorem State.setSlice_flight (k : Nat) (x : Slice) : (s.setSlice k x).flight = s.flight := rfl
@[simp] theorem State.setSlice_outbox (k : Nat) (x : Slice) : (s.setSlice k x).outbox = s.outbox := rfl
@[simp] theorem State.setSlice_isL1 (k : Nat) (x : Slice) : (s.setSlice k x).isL1 = s.isL1 := rfl
@[simp] theorem State.setSlice_ceilFused (k : Nat) (x : Slice) : (s.setSlice k x).ceilFused = s.ceilFused := rfl
@[simp] theorem State.setSlice_cellEnable (k : Nat) (x : Slice) : (s.setSlice k x).cellEnable = s.cellEnable := rfl
@[simp] theorem State.setSlice_cells (k : Nat) (x : Slice) : (s.setSlice k x).cells = s.cells := rfl
@[simp] theorem State.setSlice_stage (k : Nat) (x : Slice) : (s.setSlice k x).stage = s.stage := rfl
@[simp] theorem State.setSlice_coaches (k : Nat) (x : Slice) : (s.setSlice k x).coaches = s.coaches := rfl
@[simp] theorem State.setSlice_coachRegs (k : Nat) (x : Slice) : (s.setSlice k x).coachRegs = s.coachRegs := rfl
@[simp] theorem State.setSlice_mem (k : Nat) (x : Slice) : (s.setSlice k x).mem = s.mem := rfl
@[simp] theorem State.setSlice_hostMem (k : Nat) (x : Slice) : (s.setSlice k x).hostMem = s.hostMem := rfl
@[simp] theorem State.setSlice_written (k : Nat) (x : Slice) : (s.setSlice k x).written = s.written := rfl
@[simp] theorem State.setSlice_writeSeq (k : Nat) (x : Slice) : (s.setSlice k x).writeSeq = s.writeSeq := rfl
@[simp] theorem State.setSlice_mcs (k : Nat) (x : Slice) : (s.setSlice k x).mcs = s.mcs := rfl
@[simp] theorem State.setSlice_llc (k : Nat) (x : Slice) : (s.setSlice k x).llc = s.llc := rfl
@[simp] theorem State.setSlice_llcWays (k : Nat) (x : Slice) : (s.setSlice k x).llcWays = s.llcWays := rfl
@[simp] theorem State.setSlice_wayConflict (k : Nat) (x : Slice) : (s.setSlice k x).wayConflict = s.wayConflict := rfl
@[simp] theorem State.setSlice_carve (k : Nat) (x : Slice) : (s.setSlice k x).carve = s.carve := rfl
@[simp] theorem State.setSlice_engines (k : Nat) (x : Slice) : (s.setSlice k x).engines = s.engines := rfl
@[simp] theorem State.setSlice_agents (k : Nat) (x : Slice) : (s.setSlice k x).agents = s.agents := rfl
@[simp] theorem State.setSlice_homeLines (k : Nat) (x : Slice) : (s.setSlice k x).homeLines = s.homeLines := rfl
@[simp] theorem State.setSlice_homes (k : Nat) (x : Slice) : (s.setSlice k x).homes = s.homes := rfl
@[simp] theorem State.setSlice_nonCaching (k : Nat) (x : Slice) : (s.setSlice k x).nonCaching = s.nonCaching := rfl
@[simp] theorem State.setSlice_ncNext (k : Nat) (x : Slice) : (s.setSlice k x).ncNext = s.ncNext := rfl
@[simp] theorem State.setSlice_muleCached (k : Nat) (x : Slice) : (s.setSlice k x).muleCached = s.muleCached := rfl
@[simp] theorem State.setSlice_muleGone (k : Nat) (x : Slice) : (s.setSlice k x).muleGone = s.muleGone := rfl
@[simp] theorem State.setSlice_lineKey (k : Nat) (x : Slice) : (s.setSlice k x).lineKey = s.lineKey := rfl
@[simp] theorem State.setSlice_refused (k : Nat) (x : Slice) : (s.setSlice k x).refused = s.refused := rfl
@[simp] theorem State.setSlice_retrying (k : Nat) (x : Slice) : (s.setSlice k x).retrying = s.retrying := rfl
@[simp] theorem State.setSlice_coh (k : Nat) (x : Slice) : (s.setSlice k x).coh = s.coh := rfl
@[simp] theorem State.setSlice_tlbAgents (k : Nat) (x : Slice) : (s.setSlice k x).tlbAgents = s.tlbAgents := rfl
@[simp] theorem State.setSlice_xlt (k : Nat) (x : Slice) : (s.setSlice k x).xlt = s.xlt := rfl
@[simp] theorem State.setSlice_sched (k : Nat) (x : Slice) : (s.setSlice k x).sched = s.sched := rfl
@[simp] theorem State.setSlice_errs (k : Nat) (x : Slice) : (s.setSlice k x).errs = s.errs := rfl
@[simp] theorem State.setSlice_stable (k : Nat) (x : Slice) : (s.setSlice k x).stable = s.stable := rfl
@[simp] theorem State.setSlice_jbn (k : Nat) (x : Slice) : (s.setSlice k x).jbn = s.jbn := rfl
@[simp] theorem State.setSlice_harness (k : Nat) (x : Slice) : (s.setSlice k x).harness = s.harness := rfl
@[simp] theorem State.setSlice_power (k : Nat) (x : Slice) : (s.setSlice k x).power = s.power := rfl
@[simp] theorem State.setSlice_dbg (k : Nat) (x : Slice) : (s.setSlice k x).dbg = s.dbg := rfl

@[simp] theorem State.setEngine_pending (e : Nat) (x : Engine) : (s.setEngine e x).pending = s.pending := rfl
@[simp] theorem State.setEngine_tick (e : Nat) (x : Engine) : (s.setEngine e x).tick = s.tick := rfl
@[simp] theorem State.setEngine_free (e : Nat) (x : Engine) : (s.setEngine e x).free = s.free := rfl
@[simp] theorem State.setEngine_flight (e : Nat) (x : Engine) : (s.setEngine e x).flight = s.flight := rfl
@[simp] theorem State.setEngine_outbox (e : Nat) (x : Engine) : (s.setEngine e x).outbox = s.outbox := rfl
@[simp] theorem State.setEngine_isL1 (e : Nat) (x : Engine) : (s.setEngine e x).isL1 = s.isL1 := rfl
@[simp] theorem State.setEngine_ceilFused (e : Nat) (x : Engine) : (s.setEngine e x).ceilFused = s.ceilFused := rfl
@[simp] theorem State.setEngine_cellEnable (e : Nat) (x : Engine) : (s.setEngine e x).cellEnable = s.cellEnable := rfl
@[simp] theorem State.setEngine_cells (e : Nat) (x : Engine) : (s.setEngine e x).cells = s.cells := rfl
@[simp] theorem State.setEngine_stage (e : Nat) (x : Engine) : (s.setEngine e x).stage = s.stage := rfl
@[simp] theorem State.setEngine_coaches (e : Nat) (x : Engine) : (s.setEngine e x).coaches = s.coaches := rfl
@[simp] theorem State.setEngine_coachRegs (e : Nat) (x : Engine) : (s.setEngine e x).coachRegs = s.coachRegs := rfl
@[simp] theorem State.setEngine_mem (e : Nat) (x : Engine) : (s.setEngine e x).mem = s.mem := rfl
@[simp] theorem State.setEngine_hostMem (e : Nat) (x : Engine) : (s.setEngine e x).hostMem = s.hostMem := rfl
@[simp] theorem State.setEngine_written (e : Nat) (x : Engine) : (s.setEngine e x).written = s.written := rfl
@[simp] theorem State.setEngine_writeSeq (e : Nat) (x : Engine) : (s.setEngine e x).writeSeq = s.writeSeq := rfl
@[simp] theorem State.setEngine_mcs (e : Nat) (x : Engine) : (s.setEngine e x).mcs = s.mcs := rfl
@[simp] theorem State.setEngine_llc (e : Nat) (x : Engine) : (s.setEngine e x).llc = s.llc := rfl
@[simp] theorem State.setEngine_llcWays (e : Nat) (x : Engine) : (s.setEngine e x).llcWays = s.llcWays := rfl
@[simp] theorem State.setEngine_wayConflict (e : Nat) (x : Engine) : (s.setEngine e x).wayConflict = s.wayConflict := rfl
@[simp] theorem State.setEngine_carve (e : Nat) (x : Engine) : (s.setEngine e x).carve = s.carve := rfl
@[simp] theorem State.setEngine_agents (e : Nat) (x : Engine) : (s.setEngine e x).agents = s.agents := rfl
@[simp] theorem State.setEngine_homeLines (e : Nat) (x : Engine) : (s.setEngine e x).homeLines = s.homeLines := rfl
@[simp] theorem State.setEngine_homes (e : Nat) (x : Engine) : (s.setEngine e x).homes = s.homes := rfl
@[simp] theorem State.setEngine_nonCaching (e : Nat) (x : Engine) : (s.setEngine e x).nonCaching = s.nonCaching := rfl
@[simp] theorem State.setEngine_ncNext (e : Nat) (x : Engine) : (s.setEngine e x).ncNext = s.ncNext := rfl
@[simp] theorem State.setEngine_muleCached (e : Nat) (x : Engine) : (s.setEngine e x).muleCached = s.muleCached := rfl
@[simp] theorem State.setEngine_muleGone (e : Nat) (x : Engine) : (s.setEngine e x).muleGone = s.muleGone := rfl
@[simp] theorem State.setEngine_lineKey (e : Nat) (x : Engine) : (s.setEngine e x).lineKey = s.lineKey := rfl
@[simp] theorem State.setEngine_refused (e : Nat) (x : Engine) : (s.setEngine e x).refused = s.refused := rfl
@[simp] theorem State.setEngine_retrying (e : Nat) (x : Engine) : (s.setEngine e x).retrying = s.retrying := rfl
@[simp] theorem State.setEngine_coh (e : Nat) (x : Engine) : (s.setEngine e x).coh = s.coh := rfl
@[simp] theorem State.setEngine_tlbAgents (e : Nat) (x : Engine) : (s.setEngine e x).tlbAgents = s.tlbAgents := rfl
@[simp] theorem State.setEngine_xlt (e : Nat) (x : Engine) : (s.setEngine e x).xlt = s.xlt := rfl
@[simp] theorem State.setEngine_host (e : Nat) (x : Engine) : (s.setEngine e x).host = s.host := rfl
@[simp] theorem State.setEngine_sched (e : Nat) (x : Engine) : (s.setEngine e x).sched = s.sched := rfl
@[simp] theorem State.setEngine_errs (e : Nat) (x : Engine) : (s.setEngine e x).errs = s.errs := rfl
@[simp] theorem State.setEngine_stable (e : Nat) (x : Engine) : (s.setEngine e x).stable = s.stable := rfl
@[simp] theorem State.setEngine_jbn (e : Nat) (x : Engine) : (s.setEngine e x).jbn = s.jbn := rfl
@[simp] theorem State.setEngine_harness (e : Nat) (x : Engine) : (s.setEngine e x).harness = s.harness := rfl
@[simp] theorem State.setEngine_power (e : Nat) (x : Engine) : (s.setEngine e x).power = s.power := rfl
@[simp] theorem State.setEngine_dbg (e : Nat) (x : Engine) : (s.setEngine e x).dbg = s.dbg := rfl

@[simp] theorem State.setMc_pending (c : Nat) (x : Mc) : (s.setMc c x).pending = s.pending := rfl
@[simp] theorem State.setMc_tick (c : Nat) (x : Mc) : (s.setMc c x).tick = s.tick := rfl
@[simp] theorem State.setMc_free (c : Nat) (x : Mc) : (s.setMc c x).free = s.free := rfl
@[simp] theorem State.setMc_flight (c : Nat) (x : Mc) : (s.setMc c x).flight = s.flight := rfl
@[simp] theorem State.setMc_outbox (c : Nat) (x : Mc) : (s.setMc c x).outbox = s.outbox := rfl
@[simp] theorem State.setMc_isL1 (c : Nat) (x : Mc) : (s.setMc c x).isL1 = s.isL1 := rfl
@[simp] theorem State.setMc_ceilFused (c : Nat) (x : Mc) : (s.setMc c x).ceilFused = s.ceilFused := rfl
@[simp] theorem State.setMc_cellEnable (c : Nat) (x : Mc) : (s.setMc c x).cellEnable = s.cellEnable := rfl
@[simp] theorem State.setMc_cells (c : Nat) (x : Mc) : (s.setMc c x).cells = s.cells := rfl
@[simp] theorem State.setMc_stage (c : Nat) (x : Mc) : (s.setMc c x).stage = s.stage := rfl
@[simp] theorem State.setMc_coaches (c : Nat) (x : Mc) : (s.setMc c x).coaches = s.coaches := rfl
@[simp] theorem State.setMc_coachRegs (c : Nat) (x : Mc) : (s.setMc c x).coachRegs = s.coachRegs := rfl
@[simp] theorem State.setMc_mem (c : Nat) (x : Mc) : (s.setMc c x).mem = s.mem := rfl
@[simp] theorem State.setMc_hostMem (c : Nat) (x : Mc) : (s.setMc c x).hostMem = s.hostMem := rfl
@[simp] theorem State.setMc_written (c : Nat) (x : Mc) : (s.setMc c x).written = s.written := rfl
@[simp] theorem State.setMc_writeSeq (c : Nat) (x : Mc) : (s.setMc c x).writeSeq = s.writeSeq := rfl
@[simp] theorem State.setMc_llc (c : Nat) (x : Mc) : (s.setMc c x).llc = s.llc := rfl
@[simp] theorem State.setMc_llcWays (c : Nat) (x : Mc) : (s.setMc c x).llcWays = s.llcWays := rfl
@[simp] theorem State.setMc_wayConflict (c : Nat) (x : Mc) : (s.setMc c x).wayConflict = s.wayConflict := rfl
@[simp] theorem State.setMc_carve (c : Nat) (x : Mc) : (s.setMc c x).carve = s.carve := rfl
@[simp] theorem State.setMc_engines (c : Nat) (x : Mc) : (s.setMc c x).engines = s.engines := rfl
@[simp] theorem State.setMc_agents (c : Nat) (x : Mc) : (s.setMc c x).agents = s.agents := rfl
@[simp] theorem State.setMc_homeLines (c : Nat) (x : Mc) : (s.setMc c x).homeLines = s.homeLines := rfl
@[simp] theorem State.setMc_homes (c : Nat) (x : Mc) : (s.setMc c x).homes = s.homes := rfl
@[simp] theorem State.setMc_nonCaching (c : Nat) (x : Mc) : (s.setMc c x).nonCaching = s.nonCaching := rfl
@[simp] theorem State.setMc_ncNext (c : Nat) (x : Mc) : (s.setMc c x).ncNext = s.ncNext := rfl
@[simp] theorem State.setMc_muleCached (c : Nat) (x : Mc) : (s.setMc c x).muleCached = s.muleCached := rfl
@[simp] theorem State.setMc_muleGone (c : Nat) (x : Mc) : (s.setMc c x).muleGone = s.muleGone := rfl
@[simp] theorem State.setMc_lineKey (c : Nat) (x : Mc) : (s.setMc c x).lineKey = s.lineKey := rfl
@[simp] theorem State.setMc_refused (c : Nat) (x : Mc) : (s.setMc c x).refused = s.refused := rfl
@[simp] theorem State.setMc_retrying (c : Nat) (x : Mc) : (s.setMc c x).retrying = s.retrying := rfl
@[simp] theorem State.setMc_coh (c : Nat) (x : Mc) : (s.setMc c x).coh = s.coh := rfl
@[simp] theorem State.setMc_tlbAgents (c : Nat) (x : Mc) : (s.setMc c x).tlbAgents = s.tlbAgents := rfl
@[simp] theorem State.setMc_xlt (c : Nat) (x : Mc) : (s.setMc c x).xlt = s.xlt := rfl
@[simp] theorem State.setMc_host (c : Nat) (x : Mc) : (s.setMc c x).host = s.host := rfl
@[simp] theorem State.setMc_sched (c : Nat) (x : Mc) : (s.setMc c x).sched = s.sched := rfl
@[simp] theorem State.setMc_errs (c : Nat) (x : Mc) : (s.setMc c x).errs = s.errs := rfl
@[simp] theorem State.setMc_stable (c : Nat) (x : Mc) : (s.setMc c x).stable = s.stable := rfl
@[simp] theorem State.setMc_jbn (c : Nat) (x : Mc) : (s.setMc c x).jbn = s.jbn := rfl
@[simp] theorem State.setMc_harness (c : Nat) (x : Mc) : (s.setMc c x).harness = s.harness := rfl
@[simp] theorem State.setMc_power (c : Nat) (x : Mc) : (s.setMc c x).power = s.power := rfl
@[simp] theorem State.setMc_dbg (c : Nat) (x : Mc) : (s.setMc c x).dbg = s.dbg := rfl

@[simp] theorem State.setTt_pending (n : Nat) (x : TtBuffers) : (s.setTt n x).pending = s.pending := rfl
@[simp] theorem State.setTt_tick (n : Nat) (x : TtBuffers) : (s.setTt n x).tick = s.tick := rfl
@[simp] theorem State.setTt_free (n : Nat) (x : TtBuffers) : (s.setTt n x).free = s.free := rfl
@[simp] theorem State.setTt_flight (n : Nat) (x : TtBuffers) : (s.setTt n x).flight = s.flight := rfl
@[simp] theorem State.setTt_outbox (n : Nat) (x : TtBuffers) : (s.setTt n x).outbox = s.outbox := rfl
@[simp] theorem State.setTt_isL1 (n : Nat) (x : TtBuffers) : (s.setTt n x).isL1 = s.isL1 := rfl
@[simp] theorem State.setTt_ceilFused (n : Nat) (x : TtBuffers) : (s.setTt n x).ceilFused = s.ceilFused := rfl
@[simp] theorem State.setTt_cellEnable (n : Nat) (x : TtBuffers) : (s.setTt n x).cellEnable = s.cellEnable := rfl
@[simp] theorem State.setTt_cells (n : Nat) (x : TtBuffers) : (s.setTt n x).cells = s.cells := rfl
@[simp] theorem State.setTt_coaches (n : Nat) (x : TtBuffers) : (s.setTt n x).coaches = s.coaches := rfl
@[simp] theorem State.setTt_coachRegs (n : Nat) (x : TtBuffers) : (s.setTt n x).coachRegs = s.coachRegs := rfl
@[simp] theorem State.setTt_mem (n : Nat) (x : TtBuffers) : (s.setTt n x).mem = s.mem := rfl
@[simp] theorem State.setTt_hostMem (n : Nat) (x : TtBuffers) : (s.setTt n x).hostMem = s.hostMem := rfl
@[simp] theorem State.setTt_written (n : Nat) (x : TtBuffers) : (s.setTt n x).written = s.written := rfl
@[simp] theorem State.setTt_writeSeq (n : Nat) (x : TtBuffers) : (s.setTt n x).writeSeq = s.writeSeq := rfl
@[simp] theorem State.setTt_mcs (n : Nat) (x : TtBuffers) : (s.setTt n x).mcs = s.mcs := rfl
@[simp] theorem State.setTt_llc (n : Nat) (x : TtBuffers) : (s.setTt n x).llc = s.llc := rfl
@[simp] theorem State.setTt_llcWays (n : Nat) (x : TtBuffers) : (s.setTt n x).llcWays = s.llcWays := rfl
@[simp] theorem State.setTt_wayConflict (n : Nat) (x : TtBuffers) : (s.setTt n x).wayConflict = s.wayConflict := rfl
@[simp] theorem State.setTt_carve (n : Nat) (x : TtBuffers) : (s.setTt n x).carve = s.carve := rfl
@[simp] theorem State.setTt_engines (n : Nat) (x : TtBuffers) : (s.setTt n x).engines = s.engines := rfl
@[simp] theorem State.setTt_agents (n : Nat) (x : TtBuffers) : (s.setTt n x).agents = s.agents := rfl
@[simp] theorem State.setTt_homeLines (n : Nat) (x : TtBuffers) : (s.setTt n x).homeLines = s.homeLines := rfl
@[simp] theorem State.setTt_homes (n : Nat) (x : TtBuffers) : (s.setTt n x).homes = s.homes := rfl
@[simp] theorem State.setTt_nonCaching (n : Nat) (x : TtBuffers) : (s.setTt n x).nonCaching = s.nonCaching := rfl
@[simp] theorem State.setTt_ncNext (n : Nat) (x : TtBuffers) : (s.setTt n x).ncNext = s.ncNext := rfl
@[simp] theorem State.setTt_muleCached (n : Nat) (x : TtBuffers) : (s.setTt n x).muleCached = s.muleCached := rfl
@[simp] theorem State.setTt_muleGone (n : Nat) (x : TtBuffers) : (s.setTt n x).muleGone = s.muleGone := rfl
@[simp] theorem State.setTt_lineKey (n : Nat) (x : TtBuffers) : (s.setTt n x).lineKey = s.lineKey := rfl
@[simp] theorem State.setTt_refused (n : Nat) (x : TtBuffers) : (s.setTt n x).refused = s.refused := rfl
@[simp] theorem State.setTt_retrying (n : Nat) (x : TtBuffers) : (s.setTt n x).retrying = s.retrying := rfl
@[simp] theorem State.setTt_coh (n : Nat) (x : TtBuffers) : (s.setTt n x).coh = s.coh := rfl
@[simp] theorem State.setTt_tlbAgents (n : Nat) (x : TtBuffers) : (s.setTt n x).tlbAgents = s.tlbAgents := rfl
@[simp] theorem State.setTt_xlt (n : Nat) (x : TtBuffers) : (s.setTt n x).xlt = s.xlt := rfl
@[simp] theorem State.setTt_host (n : Nat) (x : TtBuffers) : (s.setTt n x).host = s.host := rfl
@[simp] theorem State.setTt_sched (n : Nat) (x : TtBuffers) : (s.setTt n x).sched = s.sched := rfl
@[simp] theorem State.setTt_errs (n : Nat) (x : TtBuffers) : (s.setTt n x).errs = s.errs := rfl
@[simp] theorem State.setTt_stable (n : Nat) (x : TtBuffers) : (s.setTt n x).stable = s.stable := rfl
@[simp] theorem State.setTt_jbn (n : Nat) (x : TtBuffers) : (s.setTt n x).jbn = s.jbn := rfl
@[simp] theorem State.setTt_harness (n : Nat) (x : TtBuffers) : (s.setTt n x).harness = s.harness := rfl
@[simp] theorem State.setTt_power (n : Nat) (x : TtBuffers) : (s.setTt n x).power = s.power := rfl
@[simp] theorem State.setTt_dbg (n : Nat) (x : TtBuffers) : (s.setTt n x).dbg = s.dbg := rfl

@[simp] theorem State.countCell_pending (p i n : Nat) : (s.countCell p i n).pending = s.pending := rfl
@[simp] theorem State.countCell_tick (p i n : Nat) : (s.countCell p i n).tick = s.tick := rfl
@[simp] theorem State.countCell_free (p i n : Nat) : (s.countCell p i n).free = s.free := rfl
@[simp] theorem State.countCell_flight (p i n : Nat) : (s.countCell p i n).flight = s.flight := rfl
@[simp] theorem State.countCell_outbox (p i n : Nat) : (s.countCell p i n).outbox = s.outbox := rfl
@[simp] theorem State.countCell_isL1 (p i n : Nat) : (s.countCell p i n).isL1 = s.isL1 := rfl
@[simp] theorem State.countCell_ceilFused (p i n : Nat) : (s.countCell p i n).ceilFused = s.ceilFused := rfl
@[simp] theorem State.countCell_cellEnable (p i n : Nat) : (s.countCell p i n).cellEnable = s.cellEnable := rfl
@[simp] theorem State.countCell_stage (p i n : Nat) : (s.countCell p i n).stage = s.stage := rfl
@[simp] theorem State.countCell_coaches (p i n : Nat) : (s.countCell p i n).coaches = s.coaches := rfl
@[simp] theorem State.countCell_coachRegs (p i n : Nat) : (s.countCell p i n).coachRegs = s.coachRegs := rfl
@[simp] theorem State.countCell_mem (p i n : Nat) : (s.countCell p i n).mem = s.mem := rfl
@[simp] theorem State.countCell_hostMem (p i n : Nat) : (s.countCell p i n).hostMem = s.hostMem := rfl
@[simp] theorem State.countCell_written (p i n : Nat) : (s.countCell p i n).written = s.written := rfl
@[simp] theorem State.countCell_writeSeq (p i n : Nat) : (s.countCell p i n).writeSeq = s.writeSeq := rfl
@[simp] theorem State.countCell_mcs (p i n : Nat) : (s.countCell p i n).mcs = s.mcs := rfl
@[simp] theorem State.countCell_llc (p i n : Nat) : (s.countCell p i n).llc = s.llc := rfl
@[simp] theorem State.countCell_llcWays (p i n : Nat) : (s.countCell p i n).llcWays = s.llcWays := rfl
@[simp] theorem State.countCell_wayConflict (p i n : Nat) : (s.countCell p i n).wayConflict = s.wayConflict := rfl
@[simp] theorem State.countCell_carve (p i n : Nat) : (s.countCell p i n).carve = s.carve := rfl
@[simp] theorem State.countCell_engines (p i n : Nat) : (s.countCell p i n).engines = s.engines := rfl
@[simp] theorem State.countCell_agents (p i n : Nat) : (s.countCell p i n).agents = s.agents := rfl
@[simp] theorem State.countCell_homeLines (p i n : Nat) : (s.countCell p i n).homeLines = s.homeLines := rfl
@[simp] theorem State.countCell_homes (p i n : Nat) : (s.countCell p i n).homes = s.homes := rfl
@[simp] theorem State.countCell_nonCaching (p i n : Nat) : (s.countCell p i n).nonCaching = s.nonCaching := rfl
@[simp] theorem State.countCell_ncNext (p i n : Nat) : (s.countCell p i n).ncNext = s.ncNext := rfl
@[simp] theorem State.countCell_muleCached (p i n : Nat) : (s.countCell p i n).muleCached = s.muleCached := rfl
@[simp] theorem State.countCell_muleGone (p i n : Nat) : (s.countCell p i n).muleGone = s.muleGone := rfl
@[simp] theorem State.countCell_lineKey (p i n : Nat) : (s.countCell p i n).lineKey = s.lineKey := rfl
@[simp] theorem State.countCell_refused (p i n : Nat) : (s.countCell p i n).refused = s.refused := rfl
@[simp] theorem State.countCell_retrying (p i n : Nat) : (s.countCell p i n).retrying = s.retrying := rfl
@[simp] theorem State.countCell_coh (p i n : Nat) : (s.countCell p i n).coh = s.coh := rfl
@[simp] theorem State.countCell_tlbAgents (p i n : Nat) : (s.countCell p i n).tlbAgents = s.tlbAgents := rfl
@[simp] theorem State.countCell_xlt (p i n : Nat) : (s.countCell p i n).xlt = s.xlt := rfl
@[simp] theorem State.countCell_host (p i n : Nat) : (s.countCell p i n).host = s.host := rfl
@[simp] theorem State.countCell_sched (p i n : Nat) : (s.countCell p i n).sched = s.sched := rfl
@[simp] theorem State.countCell_errs (p i n : Nat) : (s.countCell p i n).errs = s.errs := rfl
@[simp] theorem State.countCell_stable (p i n : Nat) : (s.countCell p i n).stable = s.stable := rfl
@[simp] theorem State.countCell_jbn (p i n : Nat) : (s.countCell p i n).jbn = s.jbn := rfl
@[simp] theorem State.countCell_harness (p i n : Nat) : (s.countCell p i n).harness = s.harness := rfl
@[simp] theorem State.countCell_power (p i n : Nat) : (s.countCell p i n).power = s.power := rfl
@[simp] theorem State.countCell_dbg (p i n : Nat) : (s.countCell p i n).dbg = s.dbg := rfl

@[simp] theorem State.countCoach_pending (n i k : Nat) : (s.countCoach n i k).pending = s.pending := by unfold State.countCoach; split <;> rfl
@[simp] theorem State.countCoach_tick (n i k : Nat) : (s.countCoach n i k).tick = s.tick := by unfold State.countCoach; split <;> rfl
@[simp] theorem State.countCoach_free (n i k : Nat) : (s.countCoach n i k).free = s.free := by unfold State.countCoach; split <;> rfl
@[simp] theorem State.countCoach_flight (n i k : Nat) : (s.countCoach n i k).flight = s.flight := by unfold State.countCoach; split <;> rfl
@[simp] theorem State.countCoach_outbox (n i k : Nat) : (s.countCoach n i k).outbox = s.outbox := by unfold State.countCoach; split <;> rfl
@[simp] theorem State.countCoach_isL1 (n i k : Nat) : (s.countCoach n i k).isL1 = s.isL1 := by unfold State.countCoach; split <;> rfl
@[simp] theorem State.countCoach_ceilFused (n i k : Nat) : (s.countCoach n i k).ceilFused = s.ceilFused := by unfold State.countCoach; split <;> rfl
@[simp] theorem State.countCoach_cellEnable (n i k : Nat) : (s.countCoach n i k).cellEnable = s.cellEnable := by unfold State.countCoach; split <;> rfl
@[simp] theorem State.countCoach_cells (n i k : Nat) : (s.countCoach n i k).cells = s.cells := by unfold State.countCoach; split <;> rfl
@[simp] theorem State.countCoach_stage (n i k : Nat) : (s.countCoach n i k).stage = s.stage := by unfold State.countCoach; split <;> rfl
@[simp] theorem State.countCoach_coaches (n i k : Nat) : (s.countCoach n i k).coaches = s.coaches := by unfold State.countCoach; split <;> rfl
@[simp] theorem State.countCoach_coachRegs (n i k : Nat) : (s.countCoach n i k).coachRegs = s.coachRegs := by unfold State.countCoach; split <;> rfl
@[simp] theorem State.countCoach_mem (n i k : Nat) : (s.countCoach n i k).mem = s.mem := by unfold State.countCoach; split <;> rfl
@[simp] theorem State.countCoach_hostMem (n i k : Nat) : (s.countCoach n i k).hostMem = s.hostMem := by unfold State.countCoach; split <;> rfl
@[simp] theorem State.countCoach_written (n i k : Nat) : (s.countCoach n i k).written = s.written := by unfold State.countCoach; split <;> rfl
@[simp] theorem State.countCoach_writeSeq (n i k : Nat) : (s.countCoach n i k).writeSeq = s.writeSeq := by unfold State.countCoach; split <;> rfl
@[simp] theorem State.countCoach_mcs (n i k : Nat) : (s.countCoach n i k).mcs = s.mcs := by unfold State.countCoach; split <;> rfl
@[simp] theorem State.countCoach_llc (n i k : Nat) : (s.countCoach n i k).llc = s.llc := by unfold State.countCoach; split <;> rfl
@[simp] theorem State.countCoach_llcWays (n i k : Nat) : (s.countCoach n i k).llcWays = s.llcWays := by unfold State.countCoach; split <;> rfl
@[simp] theorem State.countCoach_wayConflict (n i k : Nat) : (s.countCoach n i k).wayConflict = s.wayConflict := by unfold State.countCoach; split <;> rfl
@[simp] theorem State.countCoach_carve (n i k : Nat) : (s.countCoach n i k).carve = s.carve := by unfold State.countCoach; split <;> rfl
@[simp] theorem State.countCoach_engines (n i k : Nat) : (s.countCoach n i k).engines = s.engines := by unfold State.countCoach; split <;> rfl
@[simp] theorem State.countCoach_agents (n i k : Nat) : (s.countCoach n i k).agents = s.agents := by unfold State.countCoach; split <;> rfl
@[simp] theorem State.countCoach_homeLines (n i k : Nat) : (s.countCoach n i k).homeLines = s.homeLines := by unfold State.countCoach; split <;> rfl
@[simp] theorem State.countCoach_homes (n i k : Nat) : (s.countCoach n i k).homes = s.homes := by unfold State.countCoach; split <;> rfl
@[simp] theorem State.countCoach_nonCaching (n i k : Nat) : (s.countCoach n i k).nonCaching = s.nonCaching := by unfold State.countCoach; split <;> rfl
@[simp] theorem State.countCoach_ncNext (n i k : Nat) : (s.countCoach n i k).ncNext = s.ncNext := by unfold State.countCoach; split <;> rfl
@[simp] theorem State.countCoach_muleCached (n i k : Nat) : (s.countCoach n i k).muleCached = s.muleCached := by unfold State.countCoach; split <;> rfl
@[simp] theorem State.countCoach_muleGone (n i k : Nat) : (s.countCoach n i k).muleGone = s.muleGone := by unfold State.countCoach; split <;> rfl
@[simp] theorem State.countCoach_lineKey (n i k : Nat) : (s.countCoach n i k).lineKey = s.lineKey := by unfold State.countCoach; split <;> rfl
@[simp] theorem State.countCoach_refused (n i k : Nat) : (s.countCoach n i k).refused = s.refused := by unfold State.countCoach; split <;> rfl
@[simp] theorem State.countCoach_retrying (n i k : Nat) : (s.countCoach n i k).retrying = s.retrying := by unfold State.countCoach; split <;> rfl
@[simp] theorem State.countCoach_coh (n i k : Nat) : (s.countCoach n i k).coh = s.coh := by unfold State.countCoach; split <;> rfl
@[simp] theorem State.countCoach_tlbAgents (n i k : Nat) : (s.countCoach n i k).tlbAgents = s.tlbAgents := by unfold State.countCoach; split <;> rfl
@[simp] theorem State.countCoach_xlt (n i k : Nat) : (s.countCoach n i k).xlt = s.xlt := by unfold State.countCoach; split <;> rfl
@[simp] theorem State.countCoach_host (n i k : Nat) : (s.countCoach n i k).host = s.host := by unfold State.countCoach; split <;> rfl
@[simp] theorem State.countCoach_sched (n i k : Nat) : (s.countCoach n i k).sched = s.sched := by unfold State.countCoach; split <;> rfl
@[simp] theorem State.countCoach_errs (n i k : Nat) : (s.countCoach n i k).errs = s.errs := by unfold State.countCoach; split <;> rfl
@[simp] theorem State.countCoach_stable (n i k : Nat) : (s.countCoach n i k).stable = s.stable := by unfold State.countCoach; split <;> rfl
@[simp] theorem State.countCoach_jbn (n i k : Nat) : (s.countCoach n i k).jbn = s.jbn := by unfold State.countCoach; split <;> rfl
@[simp] theorem State.countCoach_harness (n i k : Nat) : (s.countCoach n i k).harness = s.harness := by unfold State.countCoach; split <;> rfl
@[simp] theorem State.countCoach_power (n i k : Nat) : (s.countCoach n i k).power = s.power := by unfold State.countCoach; split <;> rfl

@[simp] theorem State.countGlobal_pending (i k : Nat) : (s.countGlobal i k).pending = s.pending := rfl
@[simp] theorem State.countGlobal_tick (i k : Nat) : (s.countGlobal i k).tick = s.tick := rfl
@[simp] theorem State.countGlobal_free (i k : Nat) : (s.countGlobal i k).free = s.free := rfl
@[simp] theorem State.countGlobal_flight (i k : Nat) : (s.countGlobal i k).flight = s.flight := rfl
@[simp] theorem State.countGlobal_outbox (i k : Nat) : (s.countGlobal i k).outbox = s.outbox := rfl
@[simp] theorem State.countGlobal_isL1 (i k : Nat) : (s.countGlobal i k).isL1 = s.isL1 := rfl
@[simp] theorem State.countGlobal_ceilFused (i k : Nat) : (s.countGlobal i k).ceilFused = s.ceilFused := rfl
@[simp] theorem State.countGlobal_cellEnable (i k : Nat) : (s.countGlobal i k).cellEnable = s.cellEnable := rfl
@[simp] theorem State.countGlobal_cells (i k : Nat) : (s.countGlobal i k).cells = s.cells := rfl
@[simp] theorem State.countGlobal_stage (i k : Nat) : (s.countGlobal i k).stage = s.stage := rfl
@[simp] theorem State.countGlobal_coaches (i k : Nat) : (s.countGlobal i k).coaches = s.coaches := rfl
@[simp] theorem State.countGlobal_coachRegs (i k : Nat) : (s.countGlobal i k).coachRegs = s.coachRegs := rfl
@[simp] theorem State.countGlobal_mem (i k : Nat) : (s.countGlobal i k).mem = s.mem := rfl
@[simp] theorem State.countGlobal_hostMem (i k : Nat) : (s.countGlobal i k).hostMem = s.hostMem := rfl
@[simp] theorem State.countGlobal_written (i k : Nat) : (s.countGlobal i k).written = s.written := rfl
@[simp] theorem State.countGlobal_writeSeq (i k : Nat) : (s.countGlobal i k).writeSeq = s.writeSeq := rfl
@[simp] theorem State.countGlobal_mcs (i k : Nat) : (s.countGlobal i k).mcs = s.mcs := rfl
@[simp] theorem State.countGlobal_llc (i k : Nat) : (s.countGlobal i k).llc = s.llc := rfl
@[simp] theorem State.countGlobal_llcWays (i k : Nat) : (s.countGlobal i k).llcWays = s.llcWays := rfl
@[simp] theorem State.countGlobal_wayConflict (i k : Nat) : (s.countGlobal i k).wayConflict = s.wayConflict := rfl
@[simp] theorem State.countGlobal_carve (i k : Nat) : (s.countGlobal i k).carve = s.carve := rfl
@[simp] theorem State.countGlobal_engines (i k : Nat) : (s.countGlobal i k).engines = s.engines := rfl
@[simp] theorem State.countGlobal_agents (i k : Nat) : (s.countGlobal i k).agents = s.agents := rfl
@[simp] theorem State.countGlobal_homeLines (i k : Nat) : (s.countGlobal i k).homeLines = s.homeLines := rfl
@[simp] theorem State.countGlobal_homes (i k : Nat) : (s.countGlobal i k).homes = s.homes := rfl
@[simp] theorem State.countGlobal_nonCaching (i k : Nat) : (s.countGlobal i k).nonCaching = s.nonCaching := rfl
@[simp] theorem State.countGlobal_ncNext (i k : Nat) : (s.countGlobal i k).ncNext = s.ncNext := rfl
@[simp] theorem State.countGlobal_muleCached (i k : Nat) : (s.countGlobal i k).muleCached = s.muleCached := rfl
@[simp] theorem State.countGlobal_muleGone (i k : Nat) : (s.countGlobal i k).muleGone = s.muleGone := rfl
@[simp] theorem State.countGlobal_lineKey (i k : Nat) : (s.countGlobal i k).lineKey = s.lineKey := rfl
@[simp] theorem State.countGlobal_refused (i k : Nat) : (s.countGlobal i k).refused = s.refused := rfl
@[simp] theorem State.countGlobal_retrying (i k : Nat) : (s.countGlobal i k).retrying = s.retrying := rfl
@[simp] theorem State.countGlobal_coh (i k : Nat) : (s.countGlobal i k).coh = s.coh := rfl
@[simp] theorem State.countGlobal_tlbAgents (i k : Nat) : (s.countGlobal i k).tlbAgents = s.tlbAgents := rfl
@[simp] theorem State.countGlobal_xlt (i k : Nat) : (s.countGlobal i k).xlt = s.xlt := rfl
@[simp] theorem State.countGlobal_host (i k : Nat) : (s.countGlobal i k).host = s.host := rfl
@[simp] theorem State.countGlobal_sched (i k : Nat) : (s.countGlobal i k).sched = s.sched := rfl
@[simp] theorem State.countGlobal_errs (i k : Nat) : (s.countGlobal i k).errs = s.errs := rfl
@[simp] theorem State.countGlobal_stable (i k : Nat) : (s.countGlobal i k).stable = s.stable := rfl
@[simp] theorem State.countGlobal_jbn (i k : Nat) : (s.countGlobal i k).jbn = s.jbn := rfl
@[simp] theorem State.countGlobal_harness (i k : Nat) : (s.countGlobal i k).harness = s.harness := rfl
@[simp] theorem State.countGlobal_power (i k : Nat) : (s.countGlobal i k).power = s.power := rfl

@[simp] theorem State.send_pending (i : Instr) : (s.send i).pending = s.pending := rfl
@[simp] theorem State.send_tick (i : Instr) : (s.send i).tick = s.tick := rfl
@[simp] theorem State.send_free (i : Instr) : (s.send i).free = s.free := rfl
@[simp] theorem State.send_outbox (i : Instr) : (s.send i).outbox = s.outbox := rfl
@[simp] theorem State.send_isL1 (i : Instr) : (s.send i).isL1 = s.isL1 := rfl
@[simp] theorem State.send_ceilFused (i : Instr) : (s.send i).ceilFused = s.ceilFused := rfl
@[simp] theorem State.send_cellEnable (i : Instr) : (s.send i).cellEnable = s.cellEnable := rfl
@[simp] theorem State.send_cells (i : Instr) : (s.send i).cells = s.cells := rfl
@[simp] theorem State.send_stage (i : Instr) : (s.send i).stage = s.stage := rfl
@[simp] theorem State.send_coaches (i : Instr) : (s.send i).coaches = s.coaches := rfl
@[simp] theorem State.send_coachRegs (i : Instr) : (s.send i).coachRegs = s.coachRegs := rfl
@[simp] theorem State.send_mem (i : Instr) : (s.send i).mem = s.mem := rfl
@[simp] theorem State.send_hostMem (i : Instr) : (s.send i).hostMem = s.hostMem := rfl
@[simp] theorem State.send_written (i : Instr) : (s.send i).written = s.written := rfl
@[simp] theorem State.send_writeSeq (i : Instr) : (s.send i).writeSeq = s.writeSeq := rfl
@[simp] theorem State.send_mcs (i : Instr) : (s.send i).mcs = s.mcs := rfl
@[simp] theorem State.send_llc (i : Instr) : (s.send i).llc = s.llc := rfl
@[simp] theorem State.send_llcWays (i : Instr) : (s.send i).llcWays = s.llcWays := rfl
@[simp] theorem State.send_wayConflict (i : Instr) : (s.send i).wayConflict = s.wayConflict := rfl
@[simp] theorem State.send_carve (i : Instr) : (s.send i).carve = s.carve := rfl
@[simp] theorem State.send_engines (i : Instr) : (s.send i).engines = s.engines := rfl
@[simp] theorem State.send_agents (i : Instr) : (s.send i).agents = s.agents := rfl
@[simp] theorem State.send_homeLines (i : Instr) : (s.send i).homeLines = s.homeLines := rfl
@[simp] theorem State.send_homes (i : Instr) : (s.send i).homes = s.homes := rfl
@[simp] theorem State.send_nonCaching (i : Instr) : (s.send i).nonCaching = s.nonCaching := rfl
@[simp] theorem State.send_ncNext (i : Instr) : (s.send i).ncNext = s.ncNext := rfl
@[simp] theorem State.send_muleCached (i : Instr) : (s.send i).muleCached = s.muleCached := rfl
@[simp] theorem State.send_muleGone (i : Instr) : (s.send i).muleGone = s.muleGone := rfl
@[simp] theorem State.send_lineKey (i : Instr) : (s.send i).lineKey = s.lineKey := rfl
@[simp] theorem State.send_refused (i : Instr) : (s.send i).refused = s.refused := rfl
@[simp] theorem State.send_retrying (i : Instr) : (s.send i).retrying = s.retrying := rfl
@[simp] theorem State.send_coh (i : Instr) : (s.send i).coh = s.coh := rfl
@[simp] theorem State.send_tlbAgents (i : Instr) : (s.send i).tlbAgents = s.tlbAgents := rfl
@[simp] theorem State.send_xlt (i : Instr) : (s.send i).xlt = s.xlt := rfl
@[simp] theorem State.send_host (i : Instr) : (s.send i).host = s.host := rfl
@[simp] theorem State.send_sched (i : Instr) : (s.send i).sched = s.sched := rfl
@[simp] theorem State.send_errs (i : Instr) : (s.send i).errs = s.errs := rfl
@[simp] theorem State.send_stable (i : Instr) : (s.send i).stable = s.stable := rfl
@[simp] theorem State.send_jbn (i : Instr) : (s.send i).jbn = s.jbn := rfl
@[simp] theorem State.send_harness (i : Instr) : (s.send i).harness = s.harness := rfl
@[simp] theorem State.send_power (i : Instr) : (s.send i).power = s.power := rfl
@[simp] theorem State.send_dbg (i : Instr) : (s.send i).dbg = s.dbg := rfl

@[simp] theorem State.take_pending (i : Instr) : (s.take i).pending = s.pending := rfl
@[simp] theorem State.take_tick (i : Instr) : (s.take i).tick = s.tick := rfl
@[simp] theorem State.take_free (i : Instr) : (s.take i).free = s.free := rfl
@[simp] theorem State.take_outbox (i : Instr) : (s.take i).outbox = s.outbox := rfl
@[simp] theorem State.take_isL1 (i : Instr) : (s.take i).isL1 = s.isL1 := rfl
@[simp] theorem State.take_ceilFused (i : Instr) : (s.take i).ceilFused = s.ceilFused := rfl
@[simp] theorem State.take_cellEnable (i : Instr) : (s.take i).cellEnable = s.cellEnable := rfl
@[simp] theorem State.take_cells (i : Instr) : (s.take i).cells = s.cells := rfl
@[simp] theorem State.take_stage (i : Instr) : (s.take i).stage = s.stage := rfl
@[simp] theorem State.take_coaches (i : Instr) : (s.take i).coaches = s.coaches := rfl
@[simp] theorem State.take_coachRegs (i : Instr) : (s.take i).coachRegs = s.coachRegs := rfl
@[simp] theorem State.take_mem (i : Instr) : (s.take i).mem = s.mem := rfl
@[simp] theorem State.take_hostMem (i : Instr) : (s.take i).hostMem = s.hostMem := rfl
@[simp] theorem State.take_written (i : Instr) : (s.take i).written = s.written := rfl
@[simp] theorem State.take_writeSeq (i : Instr) : (s.take i).writeSeq = s.writeSeq := rfl
@[simp] theorem State.take_mcs (i : Instr) : (s.take i).mcs = s.mcs := rfl
@[simp] theorem State.take_llc (i : Instr) : (s.take i).llc = s.llc := rfl
@[simp] theorem State.take_llcWays (i : Instr) : (s.take i).llcWays = s.llcWays := rfl
@[simp] theorem State.take_wayConflict (i : Instr) : (s.take i).wayConflict = s.wayConflict := rfl
@[simp] theorem State.take_carve (i : Instr) : (s.take i).carve = s.carve := rfl
@[simp] theorem State.take_engines (i : Instr) : (s.take i).engines = s.engines := rfl
@[simp] theorem State.take_agents (i : Instr) : (s.take i).agents = s.agents := rfl
@[simp] theorem State.take_homeLines (i : Instr) : (s.take i).homeLines = s.homeLines := rfl
@[simp] theorem State.take_homes (i : Instr) : (s.take i).homes = s.homes := rfl
@[simp] theorem State.take_nonCaching (i : Instr) : (s.take i).nonCaching = s.nonCaching := rfl
@[simp] theorem State.take_ncNext (i : Instr) : (s.take i).ncNext = s.ncNext := rfl
@[simp] theorem State.take_muleCached (i : Instr) : (s.take i).muleCached = s.muleCached := rfl
@[simp] theorem State.take_muleGone (i : Instr) : (s.take i).muleGone = s.muleGone := rfl
@[simp] theorem State.take_lineKey (i : Instr) : (s.take i).lineKey = s.lineKey := rfl
@[simp] theorem State.take_refused (i : Instr) : (s.take i).refused = s.refused := rfl
@[simp] theorem State.take_retrying (i : Instr) : (s.take i).retrying = s.retrying := rfl
@[simp] theorem State.take_coh (i : Instr) : (s.take i).coh = s.coh := rfl
@[simp] theorem State.take_tlbAgents (i : Instr) : (s.take i).tlbAgents = s.tlbAgents := rfl
@[simp] theorem State.take_xlt (i : Instr) : (s.take i).xlt = s.xlt := rfl
@[simp] theorem State.take_host (i : Instr) : (s.take i).host = s.host := rfl
@[simp] theorem State.take_sched (i : Instr) : (s.take i).sched = s.sched := rfl
@[simp] theorem State.take_errs (i : Instr) : (s.take i).errs = s.errs := rfl
@[simp] theorem State.take_stable (i : Instr) : (s.take i).stable = s.stable := rfl
@[simp] theorem State.take_jbn (i : Instr) : (s.take i).jbn = s.jbn := rfl
@[simp] theorem State.take_harness (i : Instr) : (s.take i).harness = s.harness := rfl
@[simp] theorem State.take_power (i : Instr) : (s.take i).power = s.power := rfl
@[simp] theorem State.take_dbg (i : Instr) : (s.take i).dbg = s.dbg := rfl

@[simp] theorem State.emit_pending (o : Output) : (s.emit o).pending = s.pending := rfl
@[simp] theorem State.emit_tick (o : Output) : (s.emit o).tick = s.tick := rfl
@[simp] theorem State.emit_free (o : Output) : (s.emit o).free = s.free := rfl
@[simp] theorem State.emit_flight (o : Output) : (s.emit o).flight = s.flight := rfl
@[simp] theorem State.emit_isL1 (o : Output) : (s.emit o).isL1 = s.isL1 := rfl
@[simp] theorem State.emit_ceilFused (o : Output) : (s.emit o).ceilFused = s.ceilFused := rfl
@[simp] theorem State.emit_cellEnable (o : Output) : (s.emit o).cellEnable = s.cellEnable := rfl
@[simp] theorem State.emit_cells (o : Output) : (s.emit o).cells = s.cells := rfl
@[simp] theorem State.emit_stage (o : Output) : (s.emit o).stage = s.stage := rfl
@[simp] theorem State.emit_coaches (o : Output) : (s.emit o).coaches = s.coaches := rfl
@[simp] theorem State.emit_coachRegs (o : Output) : (s.emit o).coachRegs = s.coachRegs := rfl
@[simp] theorem State.emit_mem (o : Output) : (s.emit o).mem = s.mem := rfl
@[simp] theorem State.emit_hostMem (o : Output) : (s.emit o).hostMem = s.hostMem := rfl
@[simp] theorem State.emit_written (o : Output) : (s.emit o).written = s.written := rfl
@[simp] theorem State.emit_writeSeq (o : Output) : (s.emit o).writeSeq = s.writeSeq := rfl
@[simp] theorem State.emit_mcs (o : Output) : (s.emit o).mcs = s.mcs := rfl
@[simp] theorem State.emit_llc (o : Output) : (s.emit o).llc = s.llc := rfl
@[simp] theorem State.emit_llcWays (o : Output) : (s.emit o).llcWays = s.llcWays := rfl
@[simp] theorem State.emit_wayConflict (o : Output) : (s.emit o).wayConflict = s.wayConflict := rfl
@[simp] theorem State.emit_carve (o : Output) : (s.emit o).carve = s.carve := rfl
@[simp] theorem State.emit_engines (o : Output) : (s.emit o).engines = s.engines := rfl
@[simp] theorem State.emit_agents (o : Output) : (s.emit o).agents = s.agents := rfl
@[simp] theorem State.emit_homeLines (o : Output) : (s.emit o).homeLines = s.homeLines := rfl
@[simp] theorem State.emit_homes (o : Output) : (s.emit o).homes = s.homes := rfl
@[simp] theorem State.emit_nonCaching (o : Output) : (s.emit o).nonCaching = s.nonCaching := rfl
@[simp] theorem State.emit_ncNext (o : Output) : (s.emit o).ncNext = s.ncNext := rfl
@[simp] theorem State.emit_muleCached (o : Output) : (s.emit o).muleCached = s.muleCached := rfl
@[simp] theorem State.emit_muleGone (o : Output) : (s.emit o).muleGone = s.muleGone := rfl
@[simp] theorem State.emit_lineKey (o : Output) : (s.emit o).lineKey = s.lineKey := rfl
@[simp] theorem State.emit_refused (o : Output) : (s.emit o).refused = s.refused := rfl
@[simp] theorem State.emit_retrying (o : Output) : (s.emit o).retrying = s.retrying := rfl
@[simp] theorem State.emit_coh (o : Output) : (s.emit o).coh = s.coh := rfl
@[simp] theorem State.emit_tlbAgents (o : Output) : (s.emit o).tlbAgents = s.tlbAgents := rfl
@[simp] theorem State.emit_xlt (o : Output) : (s.emit o).xlt = s.xlt := rfl
@[simp] theorem State.emit_host (o : Output) : (s.emit o).host = s.host := rfl
@[simp] theorem State.emit_sched (o : Output) : (s.emit o).sched = s.sched := rfl
@[simp] theorem State.emit_errs (o : Output) : (s.emit o).errs = s.errs := rfl
@[simp] theorem State.emit_stable (o : Output) : (s.emit o).stable = s.stable := rfl
@[simp] theorem State.emit_jbn (o : Output) : (s.emit o).jbn = s.jbn := rfl
@[simp] theorem State.emit_harness (o : Output) : (s.emit o).harness = s.harness := rfl
@[simp] theorem State.emit_power (o : Output) : (s.emit o).power = s.power := rfl
@[simp] theorem State.emit_dbg (o : Output) : (s.emit o).dbg = s.dbg := rfl

@[simp] theorem State.stepFault_pending (n k : Nat) : (s.stepFault n k).pending = s.pending := rfl
@[simp] theorem State.stepFault_tick (n k : Nat) : (s.stepFault n k).tick = s.tick := rfl
@[simp] theorem State.stepFault_free (n k : Nat) : (s.stepFault n k).free = s.free := rfl
@[simp] theorem State.stepFault_outbox (n k : Nat) : (s.stepFault n k).outbox = s.outbox := rfl
@[simp] theorem State.stepFault_isL1 (n k : Nat) : (s.stepFault n k).isL1 = s.isL1 := rfl
@[simp] theorem State.stepFault_ceilFused (n k : Nat) : (s.stepFault n k).ceilFused = s.ceilFused := rfl
@[simp] theorem State.stepFault_cellEnable (n k : Nat) : (s.stepFault n k).cellEnable = s.cellEnable := rfl
@[simp] theorem State.stepFault_cells (n k : Nat) : (s.stepFault n k).cells = s.cells := rfl
@[simp] theorem State.stepFault_stage (n k : Nat) : (s.stepFault n k).stage = s.stage := rfl
@[simp] theorem State.stepFault_coaches (n k : Nat) : (s.stepFault n k).coaches = s.coaches := rfl
@[simp] theorem State.stepFault_coachRegs (n k : Nat) : (s.stepFault n k).coachRegs = s.coachRegs := rfl
@[simp] theorem State.stepFault_mem (n k : Nat) : (s.stepFault n k).mem = s.mem := rfl
@[simp] theorem State.stepFault_hostMem (n k : Nat) : (s.stepFault n k).hostMem = s.hostMem := rfl
@[simp] theorem State.stepFault_written (n k : Nat) : (s.stepFault n k).written = s.written := rfl
@[simp] theorem State.stepFault_writeSeq (n k : Nat) : (s.stepFault n k).writeSeq = s.writeSeq := rfl
@[simp] theorem State.stepFault_mcs (n k : Nat) : (s.stepFault n k).mcs = s.mcs := rfl
@[simp] theorem State.stepFault_llc (n k : Nat) : (s.stepFault n k).llc = s.llc := rfl
@[simp] theorem State.stepFault_llcWays (n k : Nat) : (s.stepFault n k).llcWays = s.llcWays := rfl
@[simp] theorem State.stepFault_wayConflict (n k : Nat) : (s.stepFault n k).wayConflict = s.wayConflict := rfl
@[simp] theorem State.stepFault_carve (n k : Nat) : (s.stepFault n k).carve = s.carve := rfl
@[simp] theorem State.stepFault_engines (n k : Nat) : (s.stepFault n k).engines = s.engines := rfl
@[simp] theorem State.stepFault_agents (n k : Nat) : (s.stepFault n k).agents = s.agents := rfl
@[simp] theorem State.stepFault_homeLines (n k : Nat) : (s.stepFault n k).homeLines = s.homeLines := rfl
@[simp] theorem State.stepFault_homes (n k : Nat) : (s.stepFault n k).homes = s.homes := rfl
@[simp] theorem State.stepFault_nonCaching (n k : Nat) : (s.stepFault n k).nonCaching = s.nonCaching := rfl
@[simp] theorem State.stepFault_ncNext (n k : Nat) : (s.stepFault n k).ncNext = s.ncNext := rfl
@[simp] theorem State.stepFault_muleCached (n k : Nat) : (s.stepFault n k).muleCached = s.muleCached := rfl
@[simp] theorem State.stepFault_muleGone (n k : Nat) : (s.stepFault n k).muleGone = s.muleGone := rfl
@[simp] theorem State.stepFault_lineKey (n k : Nat) : (s.stepFault n k).lineKey = s.lineKey := rfl
@[simp] theorem State.stepFault_refused (n k : Nat) : (s.stepFault n k).refused = s.refused := rfl
@[simp] theorem State.stepFault_retrying (n k : Nat) : (s.stepFault n k).retrying = s.retrying := rfl
@[simp] theorem State.stepFault_coh (n k : Nat) : (s.stepFault n k).coh = s.coh := rfl
@[simp] theorem State.stepFault_tlbAgents (n k : Nat) : (s.stepFault n k).tlbAgents = s.tlbAgents := rfl
@[simp] theorem State.stepFault_xlt (n k : Nat) : (s.stepFault n k).xlt = s.xlt := rfl
@[simp] theorem State.stepFault_host (n k : Nat) : (s.stepFault n k).host = s.host := rfl
@[simp] theorem State.stepFault_sched (n k : Nat) : (s.stepFault n k).sched = s.sched := rfl
@[simp] theorem State.stepFault_errs (n k : Nat) : (s.stepFault n k).errs = s.errs := rfl
@[simp] theorem State.stepFault_stable (n k : Nat) : (s.stepFault n k).stable = s.stable := rfl
@[simp] theorem State.stepFault_jbn (n k : Nat) : (s.stepFault n k).jbn = s.jbn := rfl
@[simp] theorem State.stepFault_harness (n k : Nat) : (s.stepFault n k).harness = s.harness := rfl
@[simp] theorem State.stepFault_power (n k : Nat) : (s.stepFault n k).power = s.power := rfl
@[simp] theorem State.stepFault_dbg (n k : Nat) : (s.stepFault n k).dbg = s.dbg := rfl

@[simp] theorem State.sendFrom_pending (a : Nat) (i : Instr) : (s.sendFrom a i).pending = s.pending := by unfold State.sendFrom; split <;> rfl
@[simp] theorem State.sendFrom_tick (a : Nat) (i : Instr) : (s.sendFrom a i).tick = s.tick := by unfold State.sendFrom; split <;> rfl
@[simp] theorem State.sendFrom_free (a : Nat) (i : Instr) : (s.sendFrom a i).free = s.free := by unfold State.sendFrom; split <;> rfl
@[simp] theorem State.sendFrom_outbox (a : Nat) (i : Instr) : (s.sendFrom a i).outbox = s.outbox := by unfold State.sendFrom; split <;> rfl
@[simp] theorem State.sendFrom_isL1 (a : Nat) (i : Instr) : (s.sendFrom a i).isL1 = s.isL1 := by unfold State.sendFrom; split <;> rfl
@[simp] theorem State.sendFrom_ceilFused (a : Nat) (i : Instr) : (s.sendFrom a i).ceilFused = s.ceilFused := by unfold State.sendFrom; split <;> rfl
@[simp] theorem State.sendFrom_cellEnable (a : Nat) (i : Instr) : (s.sendFrom a i).cellEnable = s.cellEnable := by unfold State.sendFrom; split <;> rfl
@[simp] theorem State.sendFrom_stage (a : Nat) (i : Instr) : (s.sendFrom a i).stage = s.stage := by unfold State.sendFrom; split <;> rfl
@[simp] theorem State.sendFrom_coaches (a : Nat) (i : Instr) : (s.sendFrom a i).coaches = s.coaches := by unfold State.sendFrom; split <;> rfl
@[simp] theorem State.sendFrom_coachRegs (a : Nat) (i : Instr) : (s.sendFrom a i).coachRegs = s.coachRegs := by unfold State.sendFrom; split <;> rfl
@[simp] theorem State.sendFrom_mem (a : Nat) (i : Instr) : (s.sendFrom a i).mem = s.mem := by unfold State.sendFrom; split <;> rfl
@[simp] theorem State.sendFrom_hostMem (a : Nat) (i : Instr) : (s.sendFrom a i).hostMem = s.hostMem := by unfold State.sendFrom; split <;> rfl
@[simp] theorem State.sendFrom_written (a : Nat) (i : Instr) : (s.sendFrom a i).written = s.written := by unfold State.sendFrom; split <;> rfl
@[simp] theorem State.sendFrom_writeSeq (a : Nat) (i : Instr) : (s.sendFrom a i).writeSeq = s.writeSeq := by unfold State.sendFrom; split <;> rfl
@[simp] theorem State.sendFrom_mcs (a : Nat) (i : Instr) : (s.sendFrom a i).mcs = s.mcs := by unfold State.sendFrom; split <;> rfl
@[simp] theorem State.sendFrom_llc (a : Nat) (i : Instr) : (s.sendFrom a i).llc = s.llc := by unfold State.sendFrom; split <;> rfl
@[simp] theorem State.sendFrom_llcWays (a : Nat) (i : Instr) : (s.sendFrom a i).llcWays = s.llcWays := by unfold State.sendFrom; split <;> rfl
@[simp] theorem State.sendFrom_wayConflict (a : Nat) (i : Instr) : (s.sendFrom a i).wayConflict = s.wayConflict := by unfold State.sendFrom; split <;> rfl
@[simp] theorem State.sendFrom_carve (a : Nat) (i : Instr) : (s.sendFrom a i).carve = s.carve := by unfold State.sendFrom; split <;> rfl
@[simp] theorem State.sendFrom_engines (a : Nat) (i : Instr) : (s.sendFrom a i).engines = s.engines := by unfold State.sendFrom; split <;> rfl
@[simp] theorem State.sendFrom_agents (a : Nat) (i : Instr) : (s.sendFrom a i).agents = s.agents := by unfold State.sendFrom; split <;> rfl
@[simp] theorem State.sendFrom_homeLines (a : Nat) (i : Instr) : (s.sendFrom a i).homeLines = s.homeLines := by unfold State.sendFrom; split <;> rfl
@[simp] theorem State.sendFrom_homes (a : Nat) (i : Instr) : (s.sendFrom a i).homes = s.homes := by unfold State.sendFrom; split <;> rfl
@[simp] theorem State.sendFrom_nonCaching (a : Nat) (i : Instr) : (s.sendFrom a i).nonCaching = s.nonCaching := by unfold State.sendFrom; split <;> rfl
@[simp] theorem State.sendFrom_ncNext (a : Nat) (i : Instr) : (s.sendFrom a i).ncNext = s.ncNext := by unfold State.sendFrom; split <;> rfl
@[simp] theorem State.sendFrom_muleCached (a : Nat) (i : Instr) : (s.sendFrom a i).muleCached = s.muleCached := by unfold State.sendFrom; split <;> rfl
@[simp] theorem State.sendFrom_muleGone (a : Nat) (i : Instr) : (s.sendFrom a i).muleGone = s.muleGone := by unfold State.sendFrom; split <;> rfl
@[simp] theorem State.sendFrom_lineKey (a : Nat) (i : Instr) : (s.sendFrom a i).lineKey = s.lineKey := by unfold State.sendFrom; split <;> rfl
@[simp] theorem State.sendFrom_refused (a : Nat) (i : Instr) : (s.sendFrom a i).refused = s.refused := by unfold State.sendFrom; split <;> rfl
@[simp] theorem State.sendFrom_retrying (a : Nat) (i : Instr) : (s.sendFrom a i).retrying = s.retrying := by unfold State.sendFrom; split <;> rfl
@[simp] theorem State.sendFrom_coh (a : Nat) (i : Instr) : (s.sendFrom a i).coh = s.coh := by unfold State.sendFrom; split <;> rfl
@[simp] theorem State.sendFrom_tlbAgents (a : Nat) (i : Instr) : (s.sendFrom a i).tlbAgents = s.tlbAgents := by unfold State.sendFrom; split <;> rfl
@[simp] theorem State.sendFrom_xlt (a : Nat) (i : Instr) : (s.sendFrom a i).xlt = s.xlt := by unfold State.sendFrom; split <;> rfl
@[simp] theorem State.sendFrom_host (a : Nat) (i : Instr) : (s.sendFrom a i).host = s.host := by unfold State.sendFrom; split <;> rfl
@[simp] theorem State.sendFrom_sched (a : Nat) (i : Instr) : (s.sendFrom a i).sched = s.sched := by unfold State.sendFrom; split <;> rfl
@[simp] theorem State.sendFrom_errs (a : Nat) (i : Instr) : (s.sendFrom a i).errs = s.errs := by unfold State.sendFrom; split <;> rfl
@[simp] theorem State.sendFrom_stable (a : Nat) (i : Instr) : (s.sendFrom a i).stable = s.stable := by unfold State.sendFrom; split <;> rfl
@[simp] theorem State.sendFrom_jbn (a : Nat) (i : Instr) : (s.sendFrom a i).jbn = s.jbn := by unfold State.sendFrom; split <;> rfl
@[simp] theorem State.sendFrom_harness (a : Nat) (i : Instr) : (s.sendFrom a i).harness = s.harness := by unfold State.sendFrom; split <;> rfl
@[simp] theorem State.sendFrom_power (a : Nat) (i : Instr) : (s.sendFrom a i).power = s.power := by unfold State.sendFrom; split <;> rfl
@[simp] theorem State.sendFrom_dbg (a : Nat) (i : Instr) : (s.sendFrom a i).dbg = s.dbg := by unfold State.sendFrom; split <;> rfl

@[simp] theorem State.takeAt_pending (a : Nat) (i : Instr) : (s.takeAt a i).pending = s.pending := by unfold State.takeAt; simp only []; split <;> rfl
@[simp] theorem State.takeAt_tick (a : Nat) (i : Instr) : (s.takeAt a i).tick = s.tick := by unfold State.takeAt; simp only []; split <;> rfl
@[simp] theorem State.takeAt_free (a : Nat) (i : Instr) : (s.takeAt a i).free = s.free := by unfold State.takeAt; simp only []; split <;> rfl
@[simp] theorem State.takeAt_outbox (a : Nat) (i : Instr) : (s.takeAt a i).outbox = s.outbox := by unfold State.takeAt; simp only []; split <;> rfl
@[simp] theorem State.takeAt_isL1 (a : Nat) (i : Instr) : (s.takeAt a i).isL1 = s.isL1 := by unfold State.takeAt; simp only []; split <;> rfl
@[simp] theorem State.takeAt_ceilFused (a : Nat) (i : Instr) : (s.takeAt a i).ceilFused = s.ceilFused := by unfold State.takeAt; simp only []; split <;> rfl
@[simp] theorem State.takeAt_cellEnable (a : Nat) (i : Instr) : (s.takeAt a i).cellEnable = s.cellEnable := by unfold State.takeAt; simp only []; split <;> rfl
@[simp] theorem State.takeAt_stage (a : Nat) (i : Instr) : (s.takeAt a i).stage = s.stage := by unfold State.takeAt; simp only []; split <;> rfl
@[simp] theorem State.takeAt_coaches (a : Nat) (i : Instr) : (s.takeAt a i).coaches = s.coaches := by unfold State.takeAt; simp only []; split <;> rfl
@[simp] theorem State.takeAt_coachRegs (a : Nat) (i : Instr) : (s.takeAt a i).coachRegs = s.coachRegs := by unfold State.takeAt; simp only []; split <;> rfl
@[simp] theorem State.takeAt_mem (a : Nat) (i : Instr) : (s.takeAt a i).mem = s.mem := by unfold State.takeAt; simp only []; split <;> rfl
@[simp] theorem State.takeAt_hostMem (a : Nat) (i : Instr) : (s.takeAt a i).hostMem = s.hostMem := by unfold State.takeAt; simp only []; split <;> rfl
@[simp] theorem State.takeAt_written (a : Nat) (i : Instr) : (s.takeAt a i).written = s.written := by unfold State.takeAt; simp only []; split <;> rfl
@[simp] theorem State.takeAt_writeSeq (a : Nat) (i : Instr) : (s.takeAt a i).writeSeq = s.writeSeq := by unfold State.takeAt; simp only []; split <;> rfl
@[simp] theorem State.takeAt_mcs (a : Nat) (i : Instr) : (s.takeAt a i).mcs = s.mcs := by unfold State.takeAt; simp only []; split <;> rfl
@[simp] theorem State.takeAt_llc (a : Nat) (i : Instr) : (s.takeAt a i).llc = s.llc := by unfold State.takeAt; simp only []; split <;> rfl
@[simp] theorem State.takeAt_llcWays (a : Nat) (i : Instr) : (s.takeAt a i).llcWays = s.llcWays := by unfold State.takeAt; simp only []; split <;> rfl
@[simp] theorem State.takeAt_wayConflict (a : Nat) (i : Instr) : (s.takeAt a i).wayConflict = s.wayConflict := by unfold State.takeAt; simp only []; split <;> rfl
@[simp] theorem State.takeAt_carve (a : Nat) (i : Instr) : (s.takeAt a i).carve = s.carve := by unfold State.takeAt; simp only []; split <;> rfl
@[simp] theorem State.takeAt_engines (a : Nat) (i : Instr) : (s.takeAt a i).engines = s.engines := by unfold State.takeAt; simp only []; split <;> rfl
@[simp] theorem State.takeAt_agents (a : Nat) (i : Instr) : (s.takeAt a i).agents = s.agents := by unfold State.takeAt; simp only []; split <;> rfl
@[simp] theorem State.takeAt_homeLines (a : Nat) (i : Instr) : (s.takeAt a i).homeLines = s.homeLines := by unfold State.takeAt; simp only []; split <;> rfl
@[simp] theorem State.takeAt_homes (a : Nat) (i : Instr) : (s.takeAt a i).homes = s.homes := by unfold State.takeAt; simp only []; split <;> rfl
@[simp] theorem State.takeAt_nonCaching (a : Nat) (i : Instr) : (s.takeAt a i).nonCaching = s.nonCaching := by unfold State.takeAt; simp only []; split <;> rfl
@[simp] theorem State.takeAt_ncNext (a : Nat) (i : Instr) : (s.takeAt a i).ncNext = s.ncNext := by unfold State.takeAt; simp only []; split <;> rfl
@[simp] theorem State.takeAt_muleCached (a : Nat) (i : Instr) : (s.takeAt a i).muleCached = s.muleCached := by unfold State.takeAt; simp only []; split <;> rfl
@[simp] theorem State.takeAt_muleGone (a : Nat) (i : Instr) : (s.takeAt a i).muleGone = s.muleGone := by unfold State.takeAt; simp only []; split <;> rfl
@[simp] theorem State.takeAt_lineKey (a : Nat) (i : Instr) : (s.takeAt a i).lineKey = s.lineKey := by unfold State.takeAt; simp only []; split <;> rfl
@[simp] theorem State.takeAt_refused (a : Nat) (i : Instr) : (s.takeAt a i).refused = s.refused := by unfold State.takeAt; simp only []; split <;> rfl
@[simp] theorem State.takeAt_retrying (a : Nat) (i : Instr) : (s.takeAt a i).retrying = s.retrying := by unfold State.takeAt; simp only []; split <;> rfl
@[simp] theorem State.takeAt_coh (a : Nat) (i : Instr) : (s.takeAt a i).coh = s.coh := by unfold State.takeAt; simp only []; split <;> rfl
@[simp] theorem State.takeAt_tlbAgents (a : Nat) (i : Instr) : (s.takeAt a i).tlbAgents = s.tlbAgents := by unfold State.takeAt; simp only []; split <;> rfl
@[simp] theorem State.takeAt_xlt (a : Nat) (i : Instr) : (s.takeAt a i).xlt = s.xlt := by unfold State.takeAt; simp only []; split <;> rfl
@[simp] theorem State.takeAt_host (a : Nat) (i : Instr) : (s.takeAt a i).host = s.host := by unfold State.takeAt; simp only []; split <;> rfl
@[simp] theorem State.takeAt_sched (a : Nat) (i : Instr) : (s.takeAt a i).sched = s.sched := by unfold State.takeAt; simp only []; split <;> rfl
@[simp] theorem State.takeAt_errs (a : Nat) (i : Instr) : (s.takeAt a i).errs = s.errs := by unfold State.takeAt; simp only []; split <;> rfl
@[simp] theorem State.takeAt_stable (a : Nat) (i : Instr) : (s.takeAt a i).stable = s.stable := by unfold State.takeAt; simp only []; split <;> rfl
@[simp] theorem State.takeAt_jbn (a : Nat) (i : Instr) : (s.takeAt a i).jbn = s.jbn := by unfold State.takeAt; simp only []; split <;> rfl
@[simp] theorem State.takeAt_harness (a : Nat) (i : Instr) : (s.takeAt a i).harness = s.harness := by unfold State.takeAt; simp only []; split <;> rfl
@[simp] theorem State.takeAt_power (a : Nat) (i : Instr) : (s.takeAt a i).power = s.power := by unfold State.takeAt; simp only []; split <;> rfl
@[simp] theorem State.takeAt_dbg (a : Nat) (i : Instr) : (s.takeAt a i).dbg = s.dbg := by unfold State.takeAt; simp only []; split <;> rfl

@[simp] theorem State.cellFault_pending (p k code tag : Nat) : (s.cellFault p k code tag).pending = s.pending := by unfold State.cellFault; simp
@[simp] theorem State.cellFault_tick (p k code tag : Nat) : (s.cellFault p k code tag).tick = s.tick := by unfold State.cellFault; simp
@[simp] theorem State.cellFault_free (p k code tag : Nat) : (s.cellFault p k code tag).free = s.free := by unfold State.cellFault; simp
@[simp] theorem State.cellFault_outbox (p k code tag : Nat) : (s.cellFault p k code tag).outbox = s.outbox := by unfold State.cellFault; simp
@[simp] theorem State.cellFault_isL1 (p k code tag : Nat) : (s.cellFault p k code tag).isL1 = s.isL1 := by unfold State.cellFault; simp
@[simp] theorem State.cellFault_ceilFused (p k code tag : Nat) : (s.cellFault p k code tag).ceilFused = s.ceilFused := by unfold State.cellFault; simp
@[simp] theorem State.cellFault_cellEnable (p k code tag : Nat) : (s.cellFault p k code tag).cellEnable = s.cellEnable := by unfold State.cellFault; simp
@[simp] theorem State.cellFault_stage (p k code tag : Nat) : (s.cellFault p k code tag).stage = s.stage := by unfold State.cellFault; simp
@[simp] theorem State.cellFault_coaches (p k code tag : Nat) : (s.cellFault p k code tag).coaches = s.coaches := by unfold State.cellFault; simp
@[simp] theorem State.cellFault_coachRegs (p k code tag : Nat) : (s.cellFault p k code tag).coachRegs = s.coachRegs := by unfold State.cellFault; simp
@[simp] theorem State.cellFault_mem (p k code tag : Nat) : (s.cellFault p k code tag).mem = s.mem := by unfold State.cellFault; simp
@[simp] theorem State.cellFault_hostMem (p k code tag : Nat) : (s.cellFault p k code tag).hostMem = s.hostMem := by unfold State.cellFault; simp
@[simp] theorem State.cellFault_written (p k code tag : Nat) : (s.cellFault p k code tag).written = s.written := by unfold State.cellFault; simp
@[simp] theorem State.cellFault_writeSeq (p k code tag : Nat) : (s.cellFault p k code tag).writeSeq = s.writeSeq := by unfold State.cellFault; simp
@[simp] theorem State.cellFault_mcs (p k code tag : Nat) : (s.cellFault p k code tag).mcs = s.mcs := by unfold State.cellFault; simp
@[simp] theorem State.cellFault_llc (p k code tag : Nat) : (s.cellFault p k code tag).llc = s.llc := by unfold State.cellFault; simp
@[simp] theorem State.cellFault_llcWays (p k code tag : Nat) : (s.cellFault p k code tag).llcWays = s.llcWays := by unfold State.cellFault; simp
@[simp] theorem State.cellFault_wayConflict (p k code tag : Nat) : (s.cellFault p k code tag).wayConflict = s.wayConflict := by unfold State.cellFault; simp
@[simp] theorem State.cellFault_carve (p k code tag : Nat) : (s.cellFault p k code tag).carve = s.carve := by unfold State.cellFault; simp
@[simp] theorem State.cellFault_engines (p k code tag : Nat) : (s.cellFault p k code tag).engines = s.engines := by unfold State.cellFault; simp
@[simp] theorem State.cellFault_agents (p k code tag : Nat) : (s.cellFault p k code tag).agents = s.agents := by unfold State.cellFault; simp
@[simp] theorem State.cellFault_homeLines (p k code tag : Nat) : (s.cellFault p k code tag).homeLines = s.homeLines := by unfold State.cellFault; simp
@[simp] theorem State.cellFault_homes (p k code tag : Nat) : (s.cellFault p k code tag).homes = s.homes := by unfold State.cellFault; simp
@[simp] theorem State.cellFault_nonCaching (p k code tag : Nat) : (s.cellFault p k code tag).nonCaching = s.nonCaching := by unfold State.cellFault; simp
@[simp] theorem State.cellFault_ncNext (p k code tag : Nat) : (s.cellFault p k code tag).ncNext = s.ncNext := by unfold State.cellFault; simp
@[simp] theorem State.cellFault_muleCached (p k code tag : Nat) : (s.cellFault p k code tag).muleCached = s.muleCached := by unfold State.cellFault; simp
@[simp] theorem State.cellFault_muleGone (p k code tag : Nat) : (s.cellFault p k code tag).muleGone = s.muleGone := by unfold State.cellFault; simp
@[simp] theorem State.cellFault_lineKey (p k code tag : Nat) : (s.cellFault p k code tag).lineKey = s.lineKey := by unfold State.cellFault; simp
@[simp] theorem State.cellFault_refused (p k code tag : Nat) : (s.cellFault p k code tag).refused = s.refused := by unfold State.cellFault; simp
@[simp] theorem State.cellFault_retrying (p k code tag : Nat) : (s.cellFault p k code tag).retrying = s.retrying := by unfold State.cellFault; simp
@[simp] theorem State.cellFault_coh (p k code tag : Nat) : (s.cellFault p k code tag).coh = s.coh := by unfold State.cellFault; simp
@[simp] theorem State.cellFault_tlbAgents (p k code tag : Nat) : (s.cellFault p k code tag).tlbAgents = s.tlbAgents := by unfold State.cellFault; simp
@[simp] theorem State.cellFault_xlt (p k code tag : Nat) : (s.cellFault p k code tag).xlt = s.xlt := by unfold State.cellFault; simp
@[simp] theorem State.cellFault_host (p k code tag : Nat) : (s.cellFault p k code tag).host = s.host := by unfold State.cellFault; simp
@[simp] theorem State.cellFault_sched (p k code tag : Nat) : (s.cellFault p k code tag).sched = s.sched := by unfold State.cellFault; simp
@[simp] theorem State.cellFault_errs (p k code tag : Nat) : (s.cellFault p k code tag).errs = s.errs := by unfold State.cellFault; simp
@[simp] theorem State.cellFault_stable (p k code tag : Nat) : (s.cellFault p k code tag).stable = s.stable := by unfold State.cellFault; simp
@[simp] theorem State.cellFault_jbn (p k code tag : Nat) : (s.cellFault p k code tag).jbn = s.jbn := by unfold State.cellFault; simp
@[simp] theorem State.cellFault_harness (p k code tag : Nat) : (s.cellFault p k code tag).harness = s.harness := by unfold State.cellFault; simp
@[simp] theorem State.cellFault_power (p k code tag : Nat) : (s.cellFault p k code tag).power = s.power := by unfold State.cellFault; simp
@[simp] theorem State.cellFault_dbg (p k code tag : Nat) : (s.cellFault p k code tag).dbg = s.dbg := by unfold State.cellFault; simp

/-! A unit read after it is replaced. -/

theorem State.cell_setCell (p : Nat) (c : Cell) (hw : twf {} s.cells = true) : (s.setCell p c).cell p = c :=
  tget_tset_same hw
theorem State.cell_setCell_ne {p q : Nat} (c : Cell) (hq : q ≠ p) : (s.setCell p c).cell q = s.cell q := tget_tset_ne hq
theorem State.setCell_setCell (p : Nat) (c e : Cell) (hw : twf {} s.cells = true) : (s.setCell p c).setCell p e = s.setCell p e := by
  simp only [State.setCell, tset_tset hw]
theorem State.hen_setHen (p : Nat) (h : HenIx) (x : Hen) (hw : twf {} s.cells = true) : (s.setHen p h x).hen p h = x := by
  rw [State.hen, State.setHen, s.cell_setCell p _ hw]; simp [Cell.setHen]
theorem State.hen_setHen_ne (p : Nat) {h g : HenIx} (x : Hen) (hw : twf {} s.cells = true) (hg : h ≠ g) :
    (s.setHen p h x).hen p g = s.hen p g := by
  have : (h : Nat) ≠ g := fun e => hg (Fin.ext e)
  rw [State.hen, State.setHen, s.cell_setCell p _ hw]; simp [Cell.setHen, State.hen, this]
theorem State.ox_setOx (p : Nat) (o : Ox) (hw : twf {} s.cells = true) : (s.setOx p o).ox p = o := by
  rw [State.ox, State.setOx, s.cell_setCell p _ hw]
theorem State.coach_setCoach (n : Nat) (c : Coach) (hw : twf {} s.coaches = true) : (s.setCoach n c).coach n = c :=
  tget_tset_same hw
theorem State.coach_setCoach_ne {n m : Nat} (c : Coach) (hm : m ≠ n) : (s.setCoach n c).coach m = s.coach m := tget_tset_ne hm
theorem State.engine_setEngine (e : Nat) (x : Engine) (hw : twf {} s.engines = true) : (s.setEngine e x).engine e = x :=
  tget_tset_same hw
theorem State.mc_setMc (c : Nat) (x : Mc) (hw : twf {} s.mcs = true) : (s.setMc c x).mc c = x := tget_tset_same hw
theorem State.tt_setTt (n : Nat) (x : TtBuffers) (hw : twf {} s.stage.tt = true) : (s.setTt n x).tt n = x := tget_tset_same hw
theorem State.ctx_setCtx (k : Nat) (x : Context) (hw : twf {} s.host.ctxs = true) : (s.setCtx k x).ctx k = x := tget_tset_same hw
theorem State.slice_setSlice (k : Nat) (x : Slice) (hw : twf {} s.host.slices = true) : (s.setSlice k x).slice k = x :=
  tget_tset_same hw
theorem State.slotSched_set (n : Nat) (x : SlotSched) (hw : twf {} s.sched.slots = true) :
    (s.setSlotSched n x).slotSched n = x := tget_tset_same hw

/-- Replacing a unit keeps its table canonical. -/
theorem State.setCell_wf (p : Nat) (c : Cell) (hw : twf {} s.cells = true) : twf {} (s.setCell p c).cells = true := twf_tset hw
theorem State.setHen_wf (p : Nat) (h : HenIx) (x : Hen) (hw : twf {} s.cells = true) : twf {} (s.setHen p h x).cells = true :=
  twf_tset hw
theorem State.countCell_wf (p i n : Nat) (hw : twf {} s.cells = true) : twf {} (s.countCell p i n).cells = true := twf_tset hw

/-- x0 reads zero and keeps nothing (RV64). -/
@[simp] theorem Hen.getX_zero (x : Hen) : x.getX 0 = 0 := rfl
@[simp] theorem Hen.setX_zero (x : Hen) (v : Word) : x.setX 0 v = x := rfl
theorem Hen.getX_setX (x : Hen) (r : Reg) (v : Word) (hw : twf 0 x.x = true) (hr : r ≠ 0) : (x.setX r v).getX r = v := by
  rw [Hen.getX, if_neg hr, Hen.setX, if_neg hr]; exact tget_tset_same hw
theorem Hen.getX_setX_ne (x : Hen) {r q : Reg} (v : Word) (hq : q ≠ r) : (x.setX r v).getX q = x.getX q := by
  unfold Hen.getX Hen.setX
  split
  · rfl
  · split
    · rfl
    · exact tget_tset_ne fun e => hq (Fin.ext e)

/-! Memory. -/

/-- Every write to device memory keeps its canonical form. -/
theorem State.writeMem_wf (a : Nat) (bs : List Byte) (h : Memory.wf s.mem) : Memory.wf (s.writeMem a bs).mem := by
  unfold State.writeMem
  split
  · exact h
  · exact Memory.wf_writeBytes h
theorem State.writeLine_wf (l : Nat) (v : Line) (h : Memory.wf s.mem) : Memory.wf (s.writeLine l v).mem := s.writeMem_wf _ _ h
theorem State.writePhys_wf (a : Nat) (bs : List Byte) (h : Memory.wf s.mem) : Memory.wf (s.writePhys a bs).mem := by
  unfold State.writePhys
  split
  · exact s.writeMem_wf _ _ h
  · exact h

/-- A write to device memory leaves every byte outside it alone. -/
theorem State.writeMem_outside (a : Nat) (bs : List Byte) (j : Nat) (h : j < a ∨ a + bs.length ≤ j) :
    tget 0 (s.writeMem a bs).mem j = tget 0 s.mem j := by
  unfold State.writeMem
  split
  · rfl
  · exact tget_writeBytes_outside h

/-! The gates: a command either meets its gate, and answers what its body answers, or leaves the state but for a completion. -/

theorem State.onClock_run (p : Nat) (f : State → Out) (h : s.unfrozen p = true) : s.onClock p f = f s := by simp [State.onClock, h]
theorem State.onClock_stop (p : Nat) (f : State → Out) (h : s.unfrozen p = false) : s.onClock p f = .next s := by
  simp [State.onClock, h]
theorem State.onModule_run (f : State → Out) (h : s.dbg.module = false) : s.onModule f = f s := by simp [State.onModule, h]
theorem State.onModule_stop (f : State → Out) (h : s.dbg.module = true) : s.onModule f = .next s := by simp [State.onModule, h]
theorem State.gate_open (f : State → Out) (h : s.pcieOpen = true) : s.gate f = f s := by simp [State.gate, h]
theorem State.gate_shut (f : State → Out) (h : s.pcieOpen = false) (hd : s.harness.down = false) :
    s.gate f = .next (s.emit .unsupported) := by simp [State.gate, h, hd]
theorem State.gate_down (f : State → Out) (h : s.pcieOpen = false) (hd : s.harness.down = true) : s.gate f = .next s := by
  simp [State.gate, h, hd]
theorem State.gateData_open (f : State → Out) (h : s.pcieOpen = true) (hm : s.dbg.module = false) : s.gateData f = f s := by
  simp [State.gateData, State.gate, h, hm]
theorem State.gateCell_open (p : Nat) (f : State → Out) (h : s.pcieOpen = true) (hs : s.sealedCell p = false) :
    s.gateCell p f = f s := by simp [State.gateCell, State.gate, h, hs]
theorem State.gateCell_sealed (p : Nat) (f : State → Out) (h : s.pcieOpen = true) (hs : s.sealedCell p = true) :
    s.gateCell p f = .next s := by simp [State.gateCell, State.gate, h, hs]

/-- What a Hen instruction can do before its own effect: nothing, a fetch fault, a miss, or the stop on modified code (R82,
R89); else its body answers, with the Hen's stall cleared. -/
theorem State.henStep_cases (p : Nat) (h : HenIx) (i : Instr) (len : Nat) (body : State → Out) :
    s.henStep p h i len body = .next s ∨
    (∃ va, s.fetch p h (s.hen p h).pc len = .fail va ∧ s.henStep p h i len body = .next (s.raise p h causeFetchFault va)) ∨
    (∃ t, s.fetch p h (s.hen p h).pc len = .miss t ∧
      s.henStep p h i len body = .next (t.setHen p h { t.hen p h with stall := some i, fetchWait := true })) ∨
    s.henStep p h i len body = .fault .modifiedCode ∨
    s.henStep p h i len body = body (s.setHen p h (s.hen p h).unstall) := by
  unfold State.henStep
  simp only []
  split
  · exact .inl rfl
  · split
    · exact .inr (.inl ⟨_, by assumption, rfl⟩)
    · exact .inr (.inr (.inl ⟨_, by assumption, rfl⟩))
    · split
      · exact .inr (.inr (.inr (.inl rfl)))
      · exact .inr (.inr (.inr (.inr rfl)))

/-- A Hen that runs and fetches its instruction executes it. -/
theorem State.henStep_run (p : Nat) (h : HenIx) (i : Instr) (len : Nat) (runs : List (Nat × Nat)) (body : State → Out)
    (hr : s.henRuns p h = true) (hs : Instr.henStalls (s.hen p h) i = false)
    (hf : s.fetch p h (s.hen p h).pc len = .ok runs)
    (hm : (runs.any fun r => s.modified (s.hen p h) r.1 r.2) = false) :
    s.henStep p h i len body = body (s.setHen p h (s.hen p h).unstall) := by
  simp [State.henStep, hr, hs, hf, hm]

end Sys2Proof.Machine
end

