-- ==== Sys2Proof/Laws/Hen.lean ====
section
/-! SUPPORT. What a Hen's instruction does once the Hen executes it: the state that its body sees, and that what follows
changes nothing but that Hen and its cell's counters. -/
namespace Sys2Proof.Machine

variable {s t : State} {p : Nat} {h : HenIx} {x y : Hen}

/-- A Hen that executes its instruction runs its body, which sees the Hen with its stall cleared. -/
theorem State.henStep_ready {i : Instr} {len : Nat} {body : State → Out} (hr : s.henReady p h i len = true) :
    s.henStep p h i len body = body (s.setHen p h (s.hen p h).unstall) := by
  unfold State.henReady at hr
  simp only [Bool.and_eq_true, Bool.not_eq_true'] at hr
  obtain ⟨⟨h1, h2⟩, h3⟩ := hr
  split at h3
  · rename_i runs hf
    refine s.henStep_run p h i len runs body h1 h2 hf ?_
    simpa only [List.all_eq_true, Bool.not_eq_true', List.any_eq_false, Bool.not_eq_true] using h3
  · cases h3

theorem State.onlyCell_refl (s : State) (p : Nat) : s.onlyCell s p := ⟨rfl, fun _ _ => rfl⟩

theorem State.onlyCell_setCell (ht : s.onlyCell t p) (c : Cell) : s.onlyCell (t.setCell p c) p := by
  obtain ⟨h1, h2⟩ := ht
  refine ⟨?_, fun q hq => by rw [State.cell_setCell_ne _ _ hq, h2 q hq]⟩
  rw [h1]; rfl

theorem State.cellsOk_setCell (hw : t.cellsOk = true) (c : Cell) : (t.setCell p c).cellsOk = true :=
  twf_tset hw

theorem State.onlyHen_setHen (hw : s.cellsOk = true) (x : Hen) : s.onlyHen (s.setHen p h x) p h x := by
  refine ⟨State.onlyCell_setCell (s.onlyCell_refl p) _, ?_⟩
  rw [State.setHen, s.cell_setCell p _ hw]; rfl

theorem State.onlyHen_hen (ht : s.onlyHen t p h x) : t.hen p h = x := by
  rw [State.hen, ht.2]; simp

theorem State.onlyHen_setHen' (hw : t.cellsOk = true) (ht : s.onlyHen t p h x) (y : Hen) : s.onlyHen (t.setHen p h y) p h y := by
  refine ⟨State.onlyCell_setCell ht.1 _, ?_⟩
  rw [State.setHen, t.cell_setCell p _ hw, Cell.setHen, ht.2]; simp

theorem State.onlyHen_countCell (hw : t.cellsOk = true) (ht : s.onlyHen t p h x) (i n : Nat) :
    s.onlyHen (t.countCell p i n) p h x := by
  refine ⟨State.onlyCell_setCell ht.1 _, ?_⟩
  rw [State.countCell, t.cell_setCell p _ hw, Cell.count, ht.2]

/-- An instruction that retires changes nothing but its Hen and the cell's counters. -/
theorem State.onlyHen_done (hw : t.cellsOk = true) (ht : s.onlyHen t p h x) (len : Nat) (f : Hen → Hen) :
    s.onlyHen (t.done p h len f) p h ((f x).retire len) := by
  unfold State.done
  rw [State.onlyHen_hen ht]
  exact State.onlyHen_countCell (State.cellsOk_setCell hw _) (State.onlyHen_setHen' hw ht _) _ _

@[simp] theorem Hen.getX_unstall (x : Hen) (r : Reg) : x.unstall.getX r = x.getX r := rfl
@[simp] theorem Hen.getV_unstall (x : Hen) (r : Nat) : x.unstall.getV r = x.getV r := rfl
@[simp] theorem Hen.retire_unstall (x : Hen) (n : Nat) : x.unstall.retire n = x.retire n := rfl
@[simp] theorem Hen.setX_unstall (x : Hen) (r : Reg) (v : Word) (n : Nat) :
    (x.unstall.setX r v).retire n = (x.setX r v).retire n := by unfold Hen.setX; split <;> rfl

/-- What the scratchpad of a pcell gives does not depend on its Hens. -/
theorem State.cell_setHen (hw : s.cellsOk = true) (x : Hen) : (s.setHen p h x).cell p = (s.cell p).setHen h x :=
  s.cell_setCell p _ hw
@[simp] theorem Cell.setHen_sp (c : Cell) (x : Hen) : (c.setHen h x).sp = c.sp := rfl
@[simp] theorem Cell.setHen_ox (c : Cell) (x : Hen) : (c.setHen h x).ox = c.ox := rfl
@[simp] theorem Cell.setHen_ownsAll (c : Cell) (x : Hen) (w : BitVec 3) (a n : Nat) :
    (c.setHen h x).ownsAll w a n = c.ownsAll w a n := rfl
@[simp] theorem Cell.setHen_bankOwner (c : Cell) (x : Hen) (b : Nat) : (c.setHen h x).bankOwner b = c.bankOwner b := rfl
@[simp] theorem Cell.setHen_slot (c : Cell) (x : Hen) : (c.setHen h x).slot = c.slot := rfl
@[simp] theorem Cell.setHen_handover (c : Cell) (x : Hen) : (c.setHen h x).handover = c.handover := rfl
@[simp] theorem Cell.setHen_dray (c : Cell) (x : Hen) (d : DrayIx) : (c.setHen h x).dray d = c.dray d := rfl

@[simp] theorem Hen.trap_unstall (x : Hen) (b : Bool) (c : Nat) (v : Word) : x.unstall.trap b c v = x.trap b c v := rfl

theorem State.onlyHen_post (a : Nat) (i : Instr) (ht : s.onlyHen t p h x) :
    t.post a i = { s with cells := (t.post a i).cells, flight := s.flight ++ [(a, i)] } ∧
    (∀ q, q ≠ p → (t.post a i).cell q = s.cell q) ∧
    (t.post a i).cell p = { s.cell p with hens := (s.cell p).hens.set h x, ctrs := ((t.post a i).cell p).ctrs } := by
  refine ⟨?_, ht.1.2, ht.2⟩
  rw [State.post, ht.1.1]

/-- Taking an exception, from the state that an instruction's body sees (R112, R113). -/
theorem State.trapsTo_raise (hw : s.cellsOk = true) (c : Nat) (v : Word) :
    s.trapsTo ((s.setHen p h (s.hen p h).unstall).raise p h c v) p h c v := by
  have ho := State.onlyHen_setHen (p := p) (h := h) hw (s.hen p h).unstall
  have hx := State.onlyHen_hen ho
  have hw' : (s.setHen p h (s.hen p h).unstall).cellsOk = true := State.cellsOk_setCell hw _
  unfold State.trapsTo State.raise
  have he : (s.hen p h).unstall.mmode = (s.hen p h).mmode := rfl
  simp only [hx, he, Hen.trap_unstall]
  split
  · exact State.onlyHen_setHen' hw' ho _
  · have h1 := State.onlyHen_setHen' hw' ho { (s.hen p h).trap false c v with run := false }
    have hw1 := State.cellsOk_setCell (p := p) hw' (((s.setHen p h (s.hen p h).unstall).cell p).setHen h
      { (s.hen p h).trap false c v with run := false })
    have hs : (((s.setHen p h (s.hen p h).unstall).setHen p h { (s.hen p h).trap false c v with run := false }).cell p).slot =
        (s.cell p).slot := by rw [h1.2]
    unfold State.cellFault State.sendFrom
    rw [hs]
    split
    · obtain ⟨h2, h3, h4⟩ := State.onlyHen_post _ _ (State.onlyHen_countCell hw1 h1 5 1)
      exact ⟨_, h2, h3, h4, rfl⟩
    · obtain ⟨h2, h3, h4⟩ := State.onlyHen_post _ _ h1
      exact ⟨_, h2, h3, h4, rfl⟩

/-- Clean words are read as they stand (R450 to R453). -/
theorem State.spUncorr_clean {a n : Nat} (hc : s.spClean p a n = true) : s.spUncorr p a n = none := by
  unfold State.spClean at hc
  simp only [Bool.and_eq_true, List.all_eq_true, beq_iff_eq] at hc
  unfold State.spUncorr
  rw [List.find?_eq_none]
  intro w hx
  rw [hc.1 w hx]; simp

theorem State.spTouchWord_clean {w : Nat} (hw : tget 0 s.errs.spBad (spWord p w) = 0) : s.spTouchWord p w = s := by
  unfold State.spTouchWord
  rw [hw]; rfl

/-- Touching clean words changes nothing. -/
theorem State.spTouchWords_clean {l : List Nat} (hl : ∀ w ∈ l, tget 0 s.errs.spBad (spWord p w) = 0) :
    l.foldl (fun s w => s.spTouchWord p w) s = s := by
  induction l with
  | nil => rfl
  | cons w l ih =>
    rw [List.foldl_cons, State.spTouchWord_clean (hl w (by simp))]
    exact ih fun x hx => hl x (by simp [hx])

theorem State.spTouch_clean {a n : Nat} (hc : s.spClean p a n = true) : s.spTouch p a n = s := by
  unfold State.spClean at hc
  simp only [Bool.and_eq_true, List.all_eq_true, beq_iff_eq] at hc
  exact State.spTouchWords_clean hc.1

/-- The words that a write merges into are words of its range. -/
theorem mem_mergedWords {a n w : Nat} (hw : w ∈ mergedWords a n) : w ∈ wordsOf a n := (List.mem_filter.mp hw).1

theorem State.spMergeBad_clean {a n : Nat} (hc : s.spClean p a n = true) : s.spMergeBad p a n = none := by
  unfold State.spClean at hc
  simp only [Bool.and_eq_true, List.all_eq_true, beq_iff_eq] at hc
  unfold State.spMergeBad
  rw [List.find?_eq_none]
  intro w hx
  rw [hc.1 w (mem_mergedWords hx)]; simp

/-- A write to clean words changes the bytes of the scratchpad and its counter, and nothing else (R92, R450). -/
theorem State.spWrite_clean {a : Nat} {bs : List Byte} (hb : twf 0 s.errs.spBad = true) (hn : bs ≠ [])
    (hc : s.spClean p a bs.length = true) :
    s.spWrite p a bs =
      (s.setCell p { s.cell p with sp := writeBytes (s.cell p).sp a bs }).countCell p 4 (128 * linesTouched a bs.length) := by
  unfold State.spClean at hc
  simp only [Bool.and_eq_true, List.all_eq_true, beq_iff_eq, Bool.not_eq_true'] at hc
  have he : (wordsOf a bs.length).foldl (fun m w => tset 0 m (spWord p w) 0) s.errs.spBad = s.errs.spBad := by
    have h1 := hc.1
    generalize wordsOf a bs.length = l at h1
    induction l with
    | nil => rfl
    | cons w l ih => rw [List.foldl_cons, tset_default hb (h1 w (by simp))]; exact ih fun x hx => h1 x (by simp [hx])
  have hne : bs.isEmpty = false := by cases bs <;> simp_all
  have ht : (mergedWords a bs.length).foldl (fun s w => s.spTouchWord p w) s = s :=
    State.spTouchWords_clean fun w hx => hc.1 w (mem_mergedWords hx)
  unfold State.spWrite
  simp only [hne, Bool.false_eq_true, if_false, ht, State.setCell_errs, he]
  unfold State.spFlipWrite
  simp only [hc.2, Bool.false_and, Bool.false_eq_true, if_false]
  rfl

end Sys2Proof.Machine
end

