-- ==== Sys2Proof/WellFormed.lean ====
section
/-! DEFINITION. Well-formed commands: those whose operands lie in the ranges and agree with one another as the spec says. A command
that is not well-formed is one that nothing in the spec sends; its meaning in Machine/ is total all the same. -/
namespace Sys2Proof

/-- Fields and width of a vector access (V 1.0): whole-register accesses take 1, 2, 4 or 8 registers and no mask, mask accesses
one field of bytes and no mask. -/
def vecWellFormed (m : VecMode) (eew : Fin 4) (nf : Fin 8) (masked : Bool) : Bool :=
  match m with
  | .whole => !masked && (nf == 0 || nf == 1 || nf == 3 || nf == 7)
  | .mask => !masked && nf == 0 && eew == 0
  | _ => true

def LoadKind.wellFormed : LoadKind → Bool
  | .vec m eew nf masked => vecWellFormed m eew nf masked
  | _ => true

def StoreKind.wellFormed : StoreKind → Bool
  | .vec m eew nf masked => m != .faultFirst && vecWellFormed m eew nf masked
  | _ => true

/-- RV64GC has compressed loads and stores of these widths alone; their offsets are below 512. -/
def LoadKind.compressible : LoadKind → Bool
  | .w | .d | .fld => true
  | _ => false

def StoreKind.compressible : StoreKind → Bool
  | .w | .d | .fsd => true
  | _ => false

/-- The operations that have an immediate form; a shift's amount fits its width. -/
def AluOp.immediate (o : AluOp) (imm : BitVec 12) : Bool :=
  match o with
  | .add | .slt | .sltu | .xor | .or | .and | .addw => true
  | .sll | .srl | .sra | .slliuw | .ror => imm.toNat < 64
  | .sllw | .srlw | .sraw | .rorw => imm.toNat < 32
  | _ => false

/-- Rounding modes 5 and 6 are reserved. -/
def rmOk (rm : BitVec 3) : Bool := rm != 5 && rm != 6

/-- Operands of a Hen's arithmetic and branch instructions (R80): BF16 has conversions to and from single precision alone
(Zfbfmin). -/
def Arith.wellFormed : Arith → Bool
  | .opImm o _ _ imm => o.immediate imm
  | .op o _ _ _ => o != .slliuw
  | .jal _ off => !off.getLsbD 0
  | .branch _ _ _ off => !off.getLsbD 0
  | .fp f o rm _ _ _ => f != .bf16 && (rmOk rm || o == .min || o == .max || o == .sgnj || o == .sgnjn || o == .sgnjx)
  | .fsqrt f rm _ _ => f != .bf16 && rmOk rm
  | .fma f _ _ rm _ _ _ _ => f != .bf16 && rmOk rm
  | .fcmp f _ _ _ _ => f != .bf16
  | .fclass f _ _ => f != .bf16
  | .fcvtToInt f _ _ rm _ _ => f != .bf16 && rmOk rm
  | .fcvtFromInt f _ _ rm _ _ => f != .bf16 && rmOk rm
  | .fcvt dst src rm _ _ => rmOk rm && dst != src && (if dst == .bf16 then src == .s else src != .bf16 || dst == .s)
  | .fmvToInt f _ _ => f != .bf16
  | .fmvFromInt f _ _ => f != .bf16
  | .vector w => w.toNat % 128 == 0x57 && w.toNat / 2 ^ 12 % 8 != 7
  | _ => true

/-- The operations that the C extension encodes. -/
def Arith.compressible : Arith → Bool
  | .op o rd rs1 _ => (o == .add || o == .sub || o == .xor || o == .or || o == .and || o == .addw || o == .subw) && (rd == rs1 || (o == .add && rs1 == 0))
  | .opImm o rd rs1 _ => o == .add || o == .addw || ((o == .sll || o == .srl || o == .sra || o == .and) && rd == rs1)
  | .lui _ _ => true
  | .jal rd _ => rd == 0
  | .jalr rd _ imm => (rd == 0 || rd == 1) && imm == 0
  | .branch o _ rs2 _ => (o == .eq || o == .ne) && rs2 == 0
  | .illegal w => w.toNat < 2 ^ 16
  | _ => false

/-- The Stage lanes of an endpoint (R119); 0 for a Gig-only or unassigned number. -/
def epLanes (ep : Nat) : Nat :=
  if ep < 1152 then 1 else if ep < 1460 then 2 else if ep < 1462 then 16 else if ep = 1462 then 4 else if ep < 1465 then 2 else 0
def epLane (ep lane : Nat) : Bool := lane < epLanes ep

/-- The output lanes of a switch (R118). -/
def swLanes (sw : Nat) : Nat := if sw < 16 then 232 else if sw < 20 then 1066 else if sw < 22 then 118 else 0

/-- The endpoints that answer the requests of R260: slices, LPDDR5X controllers, the FAB endpoints, PCI. -/
def memEp (ep : Nat) : Bool := (1152 ≤ ep && ep < 1408) || (1428 ≤ ep && ep < 1463)

/-- A message of a type to a cell (R149, R150). -/
def GigMsg.isTo (m : GigMsg) (type : BitVec 8) (p : Pcell) : Bool :=
  m.type == type && (!m.dst.getLsbD 27 || m.dst == BitVec.ofNat 28 (2 ^ 27 + p.val))

/-- A SEM_OP of an operation that one of the semaphore units holds (R405, R406): SEM_W the semaphores below 64. -/
def GigMsg.isSemOp (m : GigMsg) (east : Bool) (op : Nat) : Bool :=
  m.type == 0x23 && m.dst == BitVec.ofNat 28 (2 ^ 27 + (if east then 1492 else 1491)) && m.payload.toNat / 16 % 8 == op
    && m.payload.getLsbD 47 == east

/-- A packet of a type (R419, R421): whole units of 32 bytes, LENGTH as the payload but for READ. -/
def Packet.isType (k : Packet) (type : BitVec 8) : Bool :=
  k.type == type && k.payload.length % 32 == 0 && k.payload.length ≤ 4096
    && (if type == 1 then k.payload.isEmpty && k.length.toNat ≤ 128 else k.length.toNat * 32 == k.payload.length)

/-- A fabric-manager command (R446): OP stands in byte 16 of the payload. -/
def Packet.isFm (k : Packet) (op : Byte) : Bool := k.type == 0x30 && k.payload.getD 16 0 == op

/-- The operands of a command lie in their ranges; one arm per constructor, the rows without a check last. -/
def Instr.wellFormed : Instr → Bool
  | .load _ _ c k _ _ imm => k.wellFormed && (!c || (k.compressible && imm.toNat < 512))
  | .store _ _ c k _ _ imm => k.wellFormed && (!c || (k.compressible && imm.toNat < 512))
  | .inject ep lane cyc => epLane ep lane && cyc < 1024
  | .hop sw lane cyc => lane < swLanes sw && cyc < 1024
  | .eject ep lane cyc => epLane ep lane && cyc < 1024
  | .user p m => m.isTo 0x01 p
  | .semReply p m => m.isTo 0x02 p
  | .doorbell p m => m.isTo 0x10 p
  | .yieldReq p m => m.isTo 0x11 p
  | .epochSet p m => m.isTo 0x12 p
  | .clockSet p m => m.isTo 0x13 p
  | .fault m => m.type == 0x20
  | .muleMapWrite e k _ => if e.val < 20 then decide (k < 640) else decide (k < 512)
  | .coachReset _ _ stuck => stuck.all fun p => p < 1152
  | .requestRead ep slot sn => memEp ep && (slot < 48 || slot == 62) && 1 ≤ sn && sn < 64
  | .requestWrite ep slot sn => memEp ep && (slot < 48 || slot == 62) && 1 ≤ sn && sn < 64
  | .requestPrefetch ep slot sn => memEp ep && (slot < 48 || slot == 62) && 1 ≤ sn && sn < 64
  | .requestAtomic ep slot sn => memEp ep && (slot < 48 || slot == 62) && 1 ≤ sn && sn < 64
  | .statusFlit _ sn => 1 ≤ sn && sn < 64
  | .regulationWindow _ waited => waited.all fun e => e.1 < 64
  | .mcShareWrite _ m _ => m < 64
  | .llcWaysWrite k _ => k ≤ 32
  | .refreshChange c mode => c.val < 20 && mode != 3
  | .getS a _ _ => a < 2048
  | .getM a _ => a < 2048
  | .upgrade a _ => a < 2048
  | .putS a _ => a < 2048
  | .putE a _ => a < 2048
  | .putD a _ _ => a < 2048
  | .amoFar a _ _ => a < 2048
  | .fwdGetS a _ requester _ => a < 2048 && requester < 2048
  | .fwdGetM a _ requester _ => a < 2048 && requester < 2048
  | .inv a _ => a < 2048
  | .snpData a _ => a < 2048
  | .snpInv a _ => a < 2048
  | .fwdAmo _ _ requester _ => requester < 2048
  | .putAck a _ => a < 2048
  | .grant a _ _ => a < 2048
  | .done a _ => a < 2048
  | .dataS a _ _ => a < 2048
  | .dataE a _ _ => a < 2048
  | .dataM a _ _ _ _ => a < 2048
  | .refuse a _ _ => a < 2048
  | .retry a _ => a < 2048
  | .credit a _ => a < 2048
  | .invAck a _ => a < 2048
  | .snpResp a _ _ => a < 2048
  | .wbData a _ _ => a < 2048
  | .amoResp a _ _ _ => a < 2048
  | .holdEnd a _ => a < 2048
  | .atsTranslationCompletion _ c => 12 ≤ c.sizeLog2 && c.sizeLog2 ≤ 52
  | .acquire east m => m.isSemOp east 0
  | .release east m => m.isSemOp east 1
  | .semTry east m => m.isSemOp east 2
  | .semRead east m => m.isSemOp east 3
  | .semSet east m => m.isSemOp east 4
  | .commandTimeout _ stuck => stuck.all fun p => p < 1152
  | .jbnRead _ pkt => pkt.isType 0x01
  | .jbnWrite _ pkt => pkt.isType 0x02
  | .jbnAtomic _ pkt => pkt.isType 0x03
  | .stream _ pkt => pkt.isType 0x04
  | .readResp _ pkt => pkt.isType 0x10
  | .writeResp _ pkt => pkt.isType 0x11
  | .atomicResp _ pkt => pkt.isType 0x12
  | .epochNote _ pkt => pkt.isType 0x20
  | .handover _ pkt => pkt.isType 0x21
  | .handoverAck _ pkt => pkt.isType 0x22
  | .setId _ pkt => pkt.isFm 0x01
  | .routeHdr _ pkt => pkt.isFm 0x02
  | .memberWrite _ pkt => pkt.isFm 0x03
  | .streamWrite _ pkt => pkt.isFm 0x04
  | .remoteWrite _ pkt => pkt.isFm 0x05
  | .rehome _ pkt => pkt.isFm 0x06
  | .port _ pkt => pkt.isFm 0x07
  | .portDown _ lanes => lanes != 0xFF
  | .linkCreditBlock _ _ credits => credits < 2 ^ 16
  | .streamPacketSend _ _ sn => 1 ≤ sn && sn ≤ 61
  | .collectorClose i => i < 64
  | .faultNotice b => b < 48 || b == 63
  | .arithmeticInstruction p h c i => i.wellFormed && (if c then i.compressible else !i.spellsXcarkan p h)
  | .sliceCreate ws => ws.length ≤ 8
  | .sliceDestroy ws => ws.length ≤ 8
  | .doorbellSet ws => ws.length ≤ 8
  | .contextCreate ws => ws.length ≤ 8
  | .contextTeardown ws => ws.length ≤ 8
  | .fenceInit ws => ws.length ≤ 8
  | .fenceFree ws => ws.length ≤ 8
  | .fenceTable ws => ws.length ≤ 8
  | .coachBind ws => ws.length ≤ 8
  | .doorbellTail page _ => page < 65536
  | .waitLatch page _ => page < 65536
  | .waitRegister page _ => page < 65536
  | .signalLatch page _ => page < 65536
  | .signal page _ => page < 65536
  | .fenceQuery page _ => page < 65536
  | .eventHead page _ => page < 65536
  | .eventArm page _ => page < 65536
  | .bar4Read _ len => 0 < len
  | .bar4Write _ data => !data.isEmpty
  | .stableImport ws => ws.length ≤ 8
  | .destroy ws => ws.length ≤ 8
  | .partMode ws => ws.length ≤ 8
  | .ingest ws => ws.length ≤ 8
  | .egest ws => ws.length ≤ 8
  | .lcAdvance ws => ws.length ≤ 8
  | .debugUnlock ws => ws.length ≤ 8
  | .jtagToken token => token.length == 136
  | .controlInterval r => r.regionMw.length == 16 && r.activity.all fun e => e.1 < 1152
  | .thermalTrip sensor _ _ => sensor < 38
  | .coldReset env => env.badCells.all fun p => p < 1152
  | .getSensorReading id => 1 ≤ id && id ≤ 8
  | .registerWrite off _ => off % 8 == 0
  | .rcRegisterRead off => off % 8 == 0
  | .pcieCompletion _ data => !data.isEmpty
  | .flashHeaderWrite _ off data => off + data.length ≤ 2 ^ 29
  | .oxIssue _ _ _ | .oxDispatch _ | .oxNop _ | .wload _ | .mma _ _ | .epi _ | .cbload _ | .tload _ | .accload _ | .barrier _
  | .oxRetire _ | .oxFlush _ | .oxSrSeedWrite _ _ | .oxStateImageSave _ | .splB _ _ _ _ _ | .splH _ _ _ _ _ | .splW _ _ _ _ _
  | .splD _ _ _ _ _ | .splBu _ _ _ _ _ | .splHu _ _ _ _ _ | .splWu _ _ _ _ _ | .spsB _ _ _ _ _ | .spsH _ _ _ _ _
  | .spsW _ _ _ _ _ | .spsD _ _ _ _ _ | .vsplV _ _ _ _ | .vspsV _ _ _ _ | .oxWait _ _ _ | .drayIssue _ _ _ _
  | .drayWait _ _ _ _ | .gigSend _ _ _ | .gigRecv _ _ _ | .bankGive _ _ _ _ _ | .bankHandover _ _ | .bankOwner _ _ _ _
  | .epochGet _ _ _ | .yield _ _ _ | .fenceI _ _ | .cboFlush _ _ _ | .cboClean _ _ _ | .cboInval _ _ _ | .amo _ _ _ _ _ _ _ _ _
  | .lr _ _ _ _ _ | .sc _ _ _ _ _ _ | .lrDeferralEnd _ _ | .ecall _ _ | .ebreak _ _ _ | .interrupt _ _ | .mtip _ _
  | .finishProgram _ _ | .henReset _ _ _ | .henRun _ _ _ | .henStop _ _ _ | .softInt _ _ _ | .frameBoundary | .ttLoad _
  | .ttClear _ | .ttLoadBegin _ | .ttSwap _ | .setOwner _ _ _ _ | .setLendee _ _ _ _ | .freeBlocks _ _ _ _
  | .clearLendee _ _ _ _ | .coachPark _ | .nack _ _ _ | .gigResend _ _ | .gigDoorbellRead _ _ | .ringFetch _ _ | .muleNop _ _
  | .gather _ _ | .scatterAdd _ _ | .reduce _ _ | .embedBag _ _ | .copy _ _ | .fill _ _ | .attend _ _ | .run _ _
  | .muleRetire _ _ | .ringEnable _ _ _ | .ringDisable _ _ | .ringAbort _ _ | .ringFlush _ _ | .muleMapTakeEffect _
  | .coachOpen _ _ | .coachClose _ _ | .hitchCell _ _ | .unhitchCell _ _ | .moveCell _ _ | .moveGo _ _ | .moveCancel _ _
  | .setMem _ _ | .setLink _ _ | .setWindow _ _ | .quiesce _ | .targetResume _ | .moveLost _ | .overlapWindowClose _
  | .cellClean _ | .bankOwnWrite _ _ _ | .drayLoad _ _ | .drayStore _ _ | .recv _ _ | .send _ _ | .prefetch _ _
  | .streamMap _ _ | .ratomic _ _ | .descriptorComplete _ _ | .drayFlush _ _ | .mcMissLastClear _ _ | .syncPageWrite _ _
  | .syncPageRecallDone | .cohStrictWrite _ _ | .xltReq _ _ _ _ _ _ | .xltReqResend _ _ | .xltResp _ _ | .xltInv _ _
  | .xltInvAck _ _ | .xltPage _ _ _ | .atsInvalidateRequest _ | .invalidationAbandon _ | .prgResponse _ _ | .xltFlush _
  | .countDecay | .acRingReset _ _ | .stepStart _ | .stepRetire _ | .charge _ | .promotionCheck _ | .stopBoundary _
  | .spillSwap _ | .spillComplete _ | .refill _ | .schedClassWrite _ _ | .inheritCellWrite _ _ | .epochNoteResend _
  | .handoverLost _ _ | .fmResp _ | .portUp _ | .requestTimeout _ | .scrub _ | .spFlipArm _ _ | .mcFlipArm _ _ | .retirePage _
  | .retireBank _ | .retireCell _ | .pcellStopTimeout _ | .crashFree _ | .warmReset | .warmResetEscalation _
  | .ceilingRevision _ _ | .errorSummaryWrite _ | .stop _ | .resume _ | .counterExport _ | .csrAccess _ _ _ _ _ _ _
  | .fence _ _ _ _ | .wfi _ _ | .mret _ _ | .refillComplete _ | .bar4SegWrite _ _ | .makeResident _ | .getVersion _
  | .getCapabilities _ | .negotiateAlgorithms _ | .getDigests _ | .getCertificate _ | .challenge _ | .getMeasurements _
  | .chunkGet _ | .getStatus _ _ | .setContract _ _ | .setCooling _ _ | .getReport _ _ | .minuteClose | .meterSample _ _
  | .meterCheck _ _ | .droop _ _ | .pwrStrictWrite _ _ | .perstAssert _ | .modRstAssert _ | .pwrEnChange _ _
  | .inputOutOfRange _ | .refclkSysLoss _ | .refclkFabLoss _ | .hotReset | .requestUpdate _ _ | .activateFirmware
  | .changeLogDrain | .logSign _ | .scan _ _ | .scanIn _ _ _ | .ctrSnap _ | .ctrExportWrite _ _ | .configurationRequest _
  | .fuseSeedsAtTest | .marginLoss _ _ => true

end Sys2Proof
end

