-- ==== Sys2Proof/Tests/Slice0.lean ====
section
/-! SUPPORT. Tests: the checks of well-formedness refuse ill-formed commands, words decode as R91 gives them, and for each
statement with hypotheses a state and operands that meet them all. -/
namespace Sys2Proof.Tests
open Sys2Proof.Machine
/-! One theorem after another: their evaluations side by side would take the memory of all of them at once. -/
set_option Elab.async false

/-- A cell state in which Hen 0 of pcell 0 runs in M mode from address 0. -/
def henRun : Hen := { run := true, fresh := false }
def cellRun : Cell := { hens := (Vector.replicate 4 {}).set 0 henRun }
def henState : State := { cells := [(0, cellRun)] }
def default_msg : GigMsg := { type := 1, src := 0, dst := 0, coach := 0, srcHen := 0, dstHen := 0, payload := 0 }
def somePacket : Packet := { type := 1, dst := 0, src := 0, cls := 0, auth := none }

/-! Every check of well-formedness refuses an ill-formed command, and the smallest change that mends it passes. -/
theorem test_refuses_hen : ([
  .load 0 0 true .b 1 2 0, .load 0 0 true .d 1 2 512, .load 0 0 false (.vec .whole 0 2 false) 1 2 0,
  .store 0 0 true .h 1 2 0, .store 0 0 false (.vec .mask 1 0 false) 1 2 0, .store 0 0 false (.vec .mask 0 0 true) 1 2 0,
  .arithmeticInstruction 0 0 false (.opImm .sub 1 2 0), .arithmeticInstruction 0 0 false (.opImm .srlw 1 2 32),
  .arithmeticInstruction 0 0 false (.jal 1 3), .arithmeticInstruction 0 0 false (.branch .eq 1 2 1),
  .arithmeticInstruction 0 0 false (.fp .bf16 .add 0 1 2 3), .arithmeticInstruction 0 0 false (.fsqrt .s 5 1 2),
  .arithmeticInstruction 0 0 false (.fcvt .bf16 .d 0 1 2), .arithmeticInstruction 0 0 false (.vector 0x57FFF),
  .arithmeticInstruction 0 0 true (.op .mul 1 1 2), .arithmeticInstruction 0 0 true (.illegal 0x10000)] : List Instr).all
    (fun i => !i.wellFormed) = true := by decide

theorem test_accepts_hen : ([
  .load 0 0 true .w 1 2 0, .load 0 0 true .d 1 2 504, .load 0 0 false (.vec .whole 0 3 false) 1 2 0,
  .store 0 0 true .fsd 1 2 0, .store 0 0 false (.vec .mask 0 0 false) 1 2 0,
  .arithmeticInstruction 0 0 false (.opImm .srlw 1 2 31), .arithmeticInstruction 0 0 false (.jal 1 2),
  .arithmeticInstruction 0 0 false (.fcvt .bf16 .s 0 1 2), .arithmeticInstruction 0 0 false (.vector 0x57),
  .arithmeticInstruction 0 0 true (.op .add 1 0 2), .oxNop 0] : List Instr).all (fun i => i.wellFormed) = true := by decide

theorem test_refuses_stage : ([.inject 1152 2 0, .eject 1488 0 0, .hop 22 0 0, .hop 20 118 0, .hop 0 0 1024,
  .user 0 { default_msg with type := 2 }, .semReply 0 default_msg, .doorbell 0 default_msg, .yieldReq 0 default_msg,
  .epochSet 0 default_msg, .clockSet 1 { default_msg with type := 0x13, dst := 0x8000000 }, .fault default_msg,
  .acquire true { default_msg with type := 0x23, dst := 0x80005D3 }, .semTry false { default_msg with type := 0x23, dst := 0x80005D3 }]
    : List Instr).all (fun i => !i.wellFormed) = true := by decide

theorem test_accepts_stage : ([.inject 1152 1 1023, .eject 1463 1 0, .hop 20 117 0, .user 0 default_msg,
  .clockSet 1 { default_msg with type := 0x13, dst := 0x8000001 }, .acquire false { default_msg with type := 0x23, dst := 0x80005D3 }]
    : List Instr).all (fun i => i.wellFormed) = true := by decide

theorem test_refuses_memory : ([.muleMapWrite 0 640 0, .muleMapWrite 20 512 0, .requestRead 0 0 1, .requestWrite 1152 48 1,
  .requestPrefetch 1152 0 0, .requestAtomic 1463 0 1, .statusFlit 0 64, .regulationWindow 0 [(64, 0)], .mcShareWrite 0 64 0,
  .llcWaysWrite 33 0, .refreshChange 20 0, .refreshChange 0 3, .getM 2048 0, .fwdGetS 0 0 2048 false, .fwdAmo 0 0 2048 0,
  .coachReset 0 0 [1152], .commandTimeout 0 [1152], .collectorClose 64, .faultNotice 48] : List Instr).all
    (fun i => !i.wellFormed) = true := by decide

theorem test_refuses_fabric : ([.jbnRead 0 { somePacket with payload := List.replicate 32 0 }, .jbnWrite 0 somePacket,
  .jbnRead 0 { somePacket with length := 129 }, .stream 0 { somePacket with type := 4, length := 1 },
  .setId 0 somePacket, .rehome 0 { somePacket with type := 0x30 }, .portDown 0 0xFF, .linkCreditBlock 0 0 65536,
  .streamPacketSend false 0 62] : List Instr).all (fun i => !i.wellFormed) = true := by decide

theorem test_refuses_host : ([.sliceCreate (List.replicate 9 0), .doorbellTail 65536 0, .bar4Read 0 0, .bar4Write 0 [],
  .stableImport (List.replicate 9 0), .jtagToken [], .pcieCompletion 0 [],
  .atsTranslationCompletion 0 { pasid := 0, vpn := 0, ok := true, u := false, taddr := 0, sizeLog2 := 11, r := true, w := true, x := false },
  .controlInterval { tempC := 20, hbmC := 20, regionMw := [], activity := [] }, .thermalTrip 38 20 0,
  .coldReset { ticks := 0, addrSel := 0, forceRecovery := false, trainFails := false, crossFails := false, badCells := [1152] },
  .getSensorReading 0, .getSensorReading 9, .registerWrite 4 0, .rcRegisterRead 4, .flashHeaderWrite false (2 ^ 29) [0]]
    : List Instr).all (fun i => !i.wellFormed) = true := by decide

/-! Vector arithmetic by hand (V 1.0): elements of v2 and v4, the mask in v0. -/
def vecHen (vtype : Nat) (v2 v4 v0 : Line) : Hen :=
  { v := [(0, v0), (2, v2), (4, v4)], vl := 4, vtype := BitVec.ofNat 64 vtype }

theorem test_vadd_masked : ((vecHen 0 0x807FFA01 0xFF010A02 0b1101).vector 0x002204D7).map (fun y => y.getV 9) = some 0x7F800003 := by decide +kernel
theorem test_vsadd_saturates : ((vecHen 0 0x807FFA01 0xFF010A02 0).vector 0x862204D7).map (fun y => (y.getV 9, y.vcsr)) = some (0x807F0403, 1) := by decide +kernel
theorem test_vwadd_reserved_overlap : ((vecHen 0 1 2 0).vector 0xC6222157).isNone = true := by decide
theorem test_vfadd_snan : ((vecHen 0x10 0x7F8000013F800000 0x3F8000003F000000 0).vector 0x022214D7).map
    (fun y => (y.getElem 9 2 0, y.getElem 9 2 1, y.fcsr)) = some (0x3FC00000, 0x7FC00000, 0x10) := by decide +kernel

/-- ScratchpadAccessesMoveTheirBytes: a Hen that owns bank 0 loads at its first and, for SPL_D, its last byte that fits. -/
theorem witness_spl : henState.cellsOk = true ∧
    (∀ i ∈ [Instr.splB 0 0 5 1 0, .splH 0 0 5 1 0, .splW 0 0 5 1 0, .splD 0 0 0 1 0, .splBu 0 0 5 1 0, .splHu 0 0 5 1 0, .splWu 0 0 5 1 0],
      henState.henReady 0 0 i 4 = true) ∧
    (henState.cell 0).ownsAll (ownerHen 0) 0 8 = true ∧ (henState.cell 0).ownsAll (ownerHen 0) (0x200000 - 8) 8 = true ∧
    henState.spClean 0 0 8 = true := by decide
/-- ScratchpadAccessesMoveTheirBytes: HEN_0 owns bank 0 and the last bytes of bank 15; it does not own bank 1 once it is DRAY_0's. -/
theorem witness_sps : henState.cellsOk = true ∧ twf 0 henState.errs.spBad = true ∧
    (∀ i ∈ [Instr.spsB 0 0 2 1 0, .spsH 0 0 2 1 0, .spsW 0 0 2 1 0, .spsD 0 0 2 1 0], henState.henReady 0 0 i 4 = true) ∧
    henState.spClean 0 0 8 = true ∧ (henState.cell 0).ownsAll (ownerHen 0) 0 8 = true ∧
    ({ owner := [(0, 5)] } : Cell).ownsAll (ownerHen 0) 0 8 = false := by decide
/-- ScratchpadAccessesMoveTheirBytes: one byte past the end with x1 = 0x1FFFFF (SPL_H), the last byte with SPL_B; a bank of DRAY_0's. -/
theorem witness_spTraps :
    let s : State := { cells := [(0, { cellRun with hens := (Vector.replicate 4 {}).set 0 { henRun with x := [(1, 0x1FFFFF)] }, owner := [(15, 5)] })] }
    s.cellsOk = true ∧ s.henReady 0 0 (.splH 0 0 5 1 0) 4 = true ∧
    0x200000 < (addImm ((s.hen 0 0).getX 1) 0).toNat + 2 ∧ (addImm ((s.hen 0 0).getX 1) 0).toNat + 1 ≤ 0x200000 ∧
    (s.cell 0).ownsAll (ownerHen 0) 0x1FFFFF 1 = false := by decide

/-- VectorScratchpadMovesElements: four 32-bit elements, of which vstart skips one; vill set, as after reset. -/
theorem witness_vspl :
    let x : Hen := { henRun with vl := 4, vtype := 0x10, vstart := 1 }
    let s : State := { cells := [(0, { cellRun with hens := (Vector.replicate 4 {}).set 0 x })] }
    s.cellsOk = true ∧ s.henReady 0 0 (.vsplV 0 0 8 1) 4 = true ∧ s.henReady 0 0 (.vspsV 0 0 8 1) 4 = true ∧ x.vill = false ∧
    8 % x.lmulRegs = 0 ∧ x.sewLog = 2 ∧ (s.cell 0).ownsAll (ownerHen 0) 4 12 = true ∧ s.spClean 0 4 12 = true ∧
    henRun.vill = true ∧ henState.henReady 0 0 (.vsplV 0 0 8 1) 4 = true ∧ henState.henReady 0 0 (.vspsV 0 0 8 1) 4 = true := by
  decide

/-- WaitsAndReadsRetire: a count that has just reached the awaited value modulo 2^32; a message in the queue; a pending software
interrupt that mie enables; a bank that HEN_0 owns and keeps. -/
theorem witness_retire :
    let x : Hen := { henRun with x := [(1, 0xFFFFFFFF), (2, 1)], recvQ := [default_msg], softInt := true, mie := 8 }
    let c : Cell := { cellRun with hens := (Vector.replicate 4 {}).set 0 x, ox := { doneCount := 0xFFFFFFFF } }
    let s : State := { cells := [(0, c)] }
    s.cellsOk = true ∧
    (∀ i ∈ [Instr.oxWait 0 0 1, .drayWait 0 0 0 1, .gigRecv 0 0 4, .wfi 0 0, .yield 0 0 0, .bankOwner 0 0 3 0, .epochGet 0 0 3,
      .bankGive 0 0 3 0 2, .fence 0 0 15 15, .fenceI 0 0], s.henReady 0 0 i 4 = true) ∧
    c.ox.halt = false ∧ (c.ox.doneCount.toNat + 2 ^ 32 - (x.getX 1).toNat % 2 ^ 32) % 2 ^ 32 < 2 ^ 31 ∧
    (((c.dray 1).doneCount).toNat + 2 ^ 32 - (x.getX 0).toNat % 2 ^ 32) % 2 ^ 32 < 2 ^ 31 ∧ x.recvQ ≠ [] ∧
    (x.mip 0 c.ox.halt &&& x.mie) ≠ 0 ∧ x.yieldPend = false ∧ tget [] c.handover 0 = [] ∧ c.bankOwner 0 = ownerHen 0 ∧
    BitVec.ofNat 3 (x.getX 2).toNat = c.bankOwner 0 ∧
    (let s : State := { cells := [(0, { cellRun with ox := { halt := true }, drays := (Vector.replicate 2 {}).set 1 { halt := true } })] }
     s.henReady 0 0 (.oxIssue 0 0 1) 4 = true ∧ s.henReady 0 0 (.drayIssue 0 0 1 1) 4 = true ∧ (s.cell 0).ox.halt = true ∧
     ((s.cell 0).dray 1).halt = true) := by decide

/-- FullQueuesAndUnmetWaitsStall: queues that have just become full, counts one short of the awaited value. -/
theorem witness_stall :
    let x : Hen := { henRun with x := [(1, 1)], sendQ := List.replicate 8 default_msg }
    let c : Cell := { cellRun with hens := (Vector.replicate 4 {}).set 0 x, ox := { queue := List.replicate 64 0 }, drays := (Vector.replicate 2 {}).set 0 { queue := List.replicate 16 { raw := 0, umode := false, pasid := 0 } } }
    let s : State := { cells := [(0, c)] }
    s.cellsOk = true ∧
    (∀ i ∈ [Instr.oxIssue 0 0 1, .drayIssue 0 0 1 0, .gigSend 0 0 1, .gigRecv 0 0 1, .oxWait 0 0 1, .drayWait 0 0 1 0, .wfi 0 0],
      s.henReady 0 0 i 4 = true) ∧
    c.ox.halt = false ∧ (c.dray 0).halt = false ∧ 64 ≤ c.ox.queue.length ∧ 16 ≤ (c.dray 0).queue.length ∧ 8 ≤ x.sendQ.length ∧
    x.recvQ = [] ∧ ¬ (c.ox.doneCount.toNat + 2 ^ 32 - (x.getX 1).toNat % 2 ^ 32) % 2 ^ 32 < 2 ^ 31 ∧
    ¬ ((c.dray 0).doneCount.toNat + 2 ^ 32 - (x.getX 1).toNat % 2 ^ 32) % 2 ^ 32 < 2 ^ 31 ∧
    (x.mip 0 c.ox.halt &&& x.mie) = 0 := by decide

/-- TrapsEnterMachineMode: a Hen in M mode whose Ox is halted and whose bank 1 HEN_1 owns; one in U mode, whose pc 0 is translated. -/
theorem witness_traps :
    let x : Hen := { henRun with x := [(1, 1), (2, 7)] }
    let c : Cell := { cellRun with hens := (Vector.replicate 4 {}).set 0 x, ox := { halt := true, fault := 5 }, owner := [(1, 2)] }
    let u : Cell := { cellRun with hens := (Vector.replicate 4 {}).set 0 { henRun with mmode := false }, tlb := [{ pasid := 0, vgroup := 0, size := 0, pbase := 0, mask := 1, rd := true, wr := true, ex := true }] }
    let s : State := { cells := [(0, c), (1, u)] }
    s.cellsOk = true ∧ (∀ i ∈ [Instr.ecall 0 0, .ebreak 0 0 false, .oxWait 0 0 0, .bankGive 0 0 3 0 2, .bankGive 0 0 3 1 0], s.henReady 0 0 i 4 = true) ∧
    s.henReady 0 0 (.ebreak 0 0 true) 2 = true ∧ s.henReady 1 0 (.ecall 1 0) 4 = true ∧ s.henReady 1 0 (.mret 1 0) 4 = true ∧
    (s.hen 1 0).mmode = false ∧ c.ox.halt = true ∧ tget [] c.handover 0 = [] ∧ BitVec.ofNat 3 (x.getX 2).toNat = 7 ∧
    c.nextOwner 1 ∉ [ownerHen 0, ownerOx, 5, 6] := by decide

/-- ReturnsAndInterrupts: a doorbell and a software interrupt pending, both enabled in U mode; a Hen in WFI whose timer is due; a
running Hen without a stall beside another that runs. -/
theorem witness_interrupt :
    let x : Hen := { henRun with mmode := false, bellPending := true, softInt := true, mie := 0x808 }
    let y : Hen := { henRun with stall := some (.wfi 0 1), mie := 0x80, mtimecmp := 0 }
    let s : State := { cells := [(0, { cellRun with hens := ((Vector.replicate 4 {}).set 0 x).set 1 y })] }
    s.cellsOk = true ∧ henState.henReady 0 0 (.mret 0 0) 4 = true ∧ henRun.mmode = true ∧ s.unfrozen 0 = true ∧ s.henRuns 0 0 = true ∧
    x.interruptible = true ∧ x.inWfi = false ∧ x.yieldId = none ∧ x.run = true ∧ x.stall = none ∧
    (s.mip 0 0 &&& x.mie).getLsbD 11 = true ∧ (s.mip 0 0 &&& x.mie).getLsbD 3 = true ∧
    s.henRuns 0 1 = true ∧ y.inWfi = true ∧ (s.mip 0 1 &&& y.mie).getLsbD 7 = true ∧
    ((s.setHen 0 0 { x with run := false, mmode := true }).cell 0).atYield = false := by decide

/-- HenControlWrites: a ready module with a Hen that runs; the cell is at no yield point. -/
theorem witness_henCtrl :
    let s : State := { cells := [(0, { cellRun with hens := ((Vector.replicate 4 {}).set 0 henRun).set 1 { fresh := false } })], harness := { ready := true } }
    s.cellsOk = true ∧ s.pcieOpen = true ∧ s.sealedCell 0 = false ∧ (s.hen 0 0).run = true ∧ (s.hen 0 0).stall = none ∧
    (s.hen 0 2).run = false ∧ (s.hen 0 2).fresh = true ∧ (s.hen 0 1).run = false ∧ (s.hen 0 1).fresh = false ∧
    (s.cell 0).atYield = false := by decide

/-- BankOwnershipMoves: HEN_0 gives its bank 0 to HEN_1; the same Hen stalled in it with the handover pending; a BANK_OWN write. -/
theorem witness_bank :
    let x : Hen := { henRun with x := [(2, 2)] }
    let s : State := { cells := [(0, { cellRun with hens := (Vector.replicate 4 {}).set 0 x })], harness := { ready := true } }
    let g : Instr := .bankGive 0 0 3 0 2
    let t : State := { cells := [(0, { cellRun with hens := (Vector.replicate 4 {}).set 0 { x with stall := some g }, handover := [(0, [(2, 0)]), (15, [(5, 4)])] })] }
    s.cellsOk = true ∧ s.henReady 0 0 g 4 = true ∧ tget [] (s.cell 0).handover 0 = [] ∧ (s.cell 0).bankOwner 0 = ownerHen 0 ∧
    s.pcieOpen = true ∧ s.sealedCell 0 = false ∧ t.cellsOk = true ∧ t.unfrozen 0 = true ∧ t.henReady 0 0 g 4 = true ∧
    tget [] (t.cell 0).handover 0 = (2, (0 : HenIx).val) :: [] ∧ (t.hen 0 0).stall = some g ∧ tget [] (t.cell 0).handover 15 = [(5, 4)] ∧
    twf 1 (t.cell 0).owner = true := by decide

/-- ArithmeticInstructionsComplete: a plain and a compressed instruction of a running Hen, and an illegal one. -/
theorem witness_arith : henState.cellsOk = true ∧
    henState.henReady 0 0 (.arithmeticInstruction 0 0 false (.op .add 5 1 2)) 4 = true ∧
    henState.henReady 0 0 (.arithmeticInstruction 0 0 true (.op .add 5 5 2)) 2 = true ∧
    henState.henReady 0 0 (.arithmeticInstruction 0 0 false (.illegal 0)) 4 = true ∧
    Arith.spellsXcarkan 0 0 (.op .add 5 1 2) = false ∧ Arith.spellsXcarkan 0 0 (.illegal 0) = false ∧
    (arithRun henRun.unstall 4 (.op .add 5 1 2)).isSome = true ∧ arithRun henRun.unstall 4 (.illegal 0) = none := by decide

/-- CsrAccessesReadThenWrite: M mode may access mscratch, mepc and mie; a write of a read-only CSR, and a CSR that does not exist. -/
theorem witness_csr : henState.cellsOk = true ∧ henRun.mmode = true ∧
    (∀ i ∈ [Instr.csrAccess 0 0 .rw false 0x340 5 1, .csrAccess 0 0 .rs false 0x340 5 0, .csrAccess 0 0 .rc true 0x341 5 1,
      .csrAccess 0 0 .rw false 0x304 5 1, .csrAccess 0 0 .rs false 0xCC0 5 0, .csrAccess 0 0 .rw false 0xCC0 5 1,
      .csrAccess 0 0 .rs false 0x180 5 0], henState.henReady 0 0 i 4 = true) ∧
    csrAllowed true true 0xCC0 = false ∧ csrAllowed true false 0x180 = true ∧
    (henState.setHen 0 0 henRun.unstall).csrRead 0 0 0x180 = none ∧ csrAllowed true true 0x340 = true ∧
    ((henState.setHen 0 0 henRun.unstall).csrRead 0 0 0x340).isSome = true := by decide

/-- LoadsReadAndStoresWriteHeldLines: the cell holds line 0 in M and line 2 in S; a load at 0, one that crosses into line 1, a store;
a vector access of two words at 0. -/
theorem witness_mem :
    let s : State := { henState with agents := [(0, { st := .M }), (2 * 2048, { st := .S })] }
    s.cellsOk = true ∧ s.henReady 0 0 (.load 0 0 false .d 5 1 0) 4 = true ∧ s.henReady 0 0 (.store 0 0 false .d 5 1 0) 4 = true ∧
    s.henReady 0 0 (.load 0 0 false .h 5 1 63) 4 = true ∧ s.henReady 0 0 (.load 0 0 false (.vec .unit 2 0 false) 5 1 0) 4 = true ∧
    (match s.xlat 0 0 .load 0, s.xlat 0 0 .store 7 with | .ok a, .ok b => a == 0 && b == 7 | _, _ => false) = true ∧
    spotLines 8 (0, 7) = [0] ∧ (s.agent 0 0).st.readable = true ∧ (s.agent 0 0).st.writable = true ∧
    (s.agent 0 1).st.readable = false ∧ spotLines 2 (63, 64) = [0, 1] ∧ henRun.fsOff = false ∧
    (henRun.vecElems .unit 2 0 false 5 0).isNone = true ∧
    (let x : Hen := { henRun with vl := 2, vtype := 0x10 }
     let u : State := { s with cells := [(0, { cellRun with hens := (Vector.replicate 4 {}).set 0 x })] }
     u.henReady 0 0 (.load 0 0 false (.vec .unit 2 0 false) 5 1 0) 4 = true ∧
     u.henReady 0 0 (.store 0 0 false (.vec .unit 2 0 false) 5 1 0) 4 = true ∧
     (match x.vecElems .unit 2 0 false 5 0 with | some el => el.map (·.va) == [0, 4] && el.map (·.lg) == [2, 2] | none => false) = true ∧
     (u.xlatAll 0 0 .load [0, 4]).1 = [0, 4] ∧ (u.xlatAll 0 0 .load [0, 4]).2.isNone = true ∧
     (u.xlatAll 0 0 .store [3, 7]).1 = [3, 7] ∧ (u.xlatAll 0 0 .store [3, 7]).2.isNone = true ∧
     spotLines 4 (4, 7) = [0]) ∧
    (let u : State := { cells := [(0, { cellRun with hens := (Vector.replicate 4 {}).set 0 { henRun with mstatus := 0 } })] }
     u.henReady 0 0 (.load 0 0 false .flw 5 1 0) 4 = true ∧ u.henReady 0 0 (.store 0 0 true .fsd 5 1 0) 2 = true ∧ (u.hen 0 0).fsOff = true) := by decide

/-- CellWritesStayInTheirBytes: eight bytes that cross from line 0 into line 1. -/
theorem witness_cellWrite :
    let s : State := { henState with agents := [(0, { st := .M }), (2048, { st := .E })] }
    twf {} s.agents = true ∧ (s.cellWrite 0 0 60 [1, 2, 3, 4, 5, 6, 7, 8]).cellRead 0 60 8 = [1, 2, 3, 4, 5, 6, 7, 8] ∧
    (s.cellWrite 0 0 60 [1, 2, 3, 4, 5, 6, 7, 8]).cellRead 0 59 1 = [0] := by decide +kernel

/-- AtomicsActOnHeldLines: line 0 held in M, with and without a reservation on it, and a misaligned address. -/
theorem witness_amo :
    let s : State := { henState with agents := [(0, { st := .M })], coh := { predMode := 1 } }
    let u : State := { s with cells := [(0, { cellRun with hens := (Vector.replicate 4 {}).set 0 { henRun with reserved := some 0, x := [(1, 1)] } })] }
    let f : State := { henState with coh := { predMode := 2 } }
    f.henReady 0 0 (.amo 0 0 .add true false false 5 0 2) 4 = true ∧ f.amoFarHere 0 0 = true ∧ f.mayRequest 0 = true ∧ f.refusedAt 0 (homeEp 0) = [] ∧
    s.cellsOk = true ∧ s.henReady 0 0 (.amo 0 0 .add true false false 5 0 2) 4 = true ∧ s.henReady 0 0 (.lr 0 0 true 5 0) 4 = true ∧
    s.henReady 0 0 (.sc 0 0 true 5 0 2) 4 = true ∧ (s.hen 0 0).amoChoice = 0 ∧ s.amoFarHere 0 0 = false ∧ s.isMule 0 = false ∧
    (s.agent 0 0).st.writable = true ∧ (s.hen 0 0).reserved ≠ some 0 ∧ (∀ g : HenIx, g ≠ 0 → (s.hen 0 g).lrDefer ≠ some 0) ∧ (s.hen 0 0).kept = [] ∧ (∀ g : HenIx, g ≠ 0 → (u.hen 0 g).lrDefer ≠ some 0) ∧ (u.hen 0 0).kept = [] ∧
    (s.hen 0 0).lrDefer = none ∧ twf {} s.agents = true ∧
    (match s.xlat 0 0 .amo 0, s.xlat 0 0 .lr 7, s.xlat 0 0 .sc 0 with | .ok a, .ok b, .ok c => a == 0 && b == 7 && c == 0 | _, _, _ => false) = true ∧
    u.henReady 0 0 (.sc 0 0 true 5 0 2) 4 = true ∧ (u.hen 0 0).reserved = some 0 ∧ u.henReady 0 0 (.lr 0 0 true 5 1) 4 = true ∧
    u.henReady 0 0 (.amo 0 0 .add false false false 5 1 2) 4 = true ∧ u.henReady 0 0 (.sc 0 0 true 5 1 2) 4 = true ∧
    ((u.hen 0 0).getX 1).toNat % 8 ≠ 0 := by decide

/-- CacheBlockOperationsComplete: a line of partition 0's chunk, held in S by one cell, hitched to a coach of partition 0. -/
theorem witness_cbo :
    let s : State := { henState with cells := [(0, { cellRun with slot := 0, st := .hitched })], coaches := [(0, { valid := true })], carve := [(0, 0)], agents := [(0, { st := .S })] }
    s.cellsOk = true ∧ s.henReady 0 0 (.cboFlush 0 0 1) 4 = true ∧ s.henReady 0 0 (.cboClean 0 0 1) 4 = true ∧ s.henReady 0 0 (.cboInval 0 0 1) 4 = true ∧
    (match s.xlat 0 0 .load 0 with | .ok a => a == 0 | _ => false) = true ∧ s.holdsMemory 0 = true ∧ s.mayAccess (s.partOfCell 0) 0 = true ∧
    s.quiet 0 = true ∧ (s.agents.any fun e => e.1 / 2048 == 0 && e.1 % 2048 != 0 && s.defers (e.1 % 2048) 0) = false ∧
    twf {} s.agents = true ∧ isCellEp 1151 = true ∧ s.unfrozen 0 = true := by decide

/-- HenQueuesTakeCommands: empty queues of a running Hen; a USER message to lcell 3 of the Hen's coach, which pcell 7 holds, and the
same from a Hen whose port holds a message; a FAULT from U mode. -/
theorem witness_issue : henState.cellsOk = true ∧ henState.henReady 0 0 (.oxIssue 0 0 1) 4 = true ∧
    henState.henReady 0 0 (.drayIssue 0 0 1 1) 4 = true ∧ henState.henReady 0 0 (.gigSend 0 0 1) 4 = true ∧
    (henState.cell 0).ox.halt = false ∧ ((henState.cell 0).dray 1).halt = false ∧ ((henState.cell 0).dray 1).queue = [] ∧
    (henState.hen 0 0).sendQ = [] ∧ (List.replicate 63 (0 : Unit32)).length < 64 ∧
    (let m : GigMsg := { default_msg with dst := 3 }
     let x : Hen := { henRun with v := [(1, BitVec.ofNat 512 (gigBits m))] }
     let y : Hen := { henRun with mmode := false, v := [(1, BitVec.ofNat 512 0x20)] }
     let tlb : TlbEntry := { pasid := 0, vgroup := 0, size := 0, pbase := 0, mask := 1, rd := true, wr := true, ex := true }
     let c : Cell := { st := .hitched, slot := 0, tlb := [tlb], hens := ((Vector.replicate 4 {}).set 0 x).set 1 y }
     let s : State := { cells := [(0, c), (7, { st := .hitched, slot := 0, lcell := 3 })] }
     s.cellsOk = true ∧ s.henReady 0 0 (.gigSend 0 0 1) 4 = true ∧ gigOfBits (x.getV 1).toNat = m ∧ s.cellState 0 ≠ .free ∧
     s.placed 0 3 = some 7 ∧ s.henReady 0 1 (.gigSend 0 1 1) 4 = true ∧ (gigOfBits (y.getV 1).toNat).type = 0x20) := by decide +kernel

def oxState (o : Ox) : State := { cells := [(0, { ox := o, slot := 0, owner := (List.range 16).map fun b => (b, 0) })] }
/-- OxDispatchesCompletesAndRetires: a BARRIER in front of an empty pipeline, a NOP behind a finished command, a command that retires. -/
theorem witness_ox : (oxState { queue := [7] }).unfrozen 0 = true ∧ oxPipe 7 = .none ∧
    oxCheck (fun b => ((oxState {}).cell 0).bankOwner b == ownerOx) {} 7 = none ∧ oxOpcode 0 = 0 ∧ oxOpcode 7 = 7 ∧
    oxOpcode 5 ≠ 7 ∧ (Ox.waiting { inflight := [{ raw := 5 }, { raw := 5 }, { raw := 5 }] } .load) < 4 ∧
    ((oxState { inflight := [{ raw := 5, done := true }, { raw := 0 }] }).ox 0).inflight = [{ raw := 5, done := true }] ++ { raw := 0 } :: [] ∧
    ({} : Ox).seedPending = none ∧ ({} : Ox).emptyAfter = [] := by
  decide

/-- OxPipelinesRunTheirHeads: one started command of each opcode alone in flight (a one-unit CBLOAD, a TLOAD, and the smallest
others), an MMA with its weights loaded. -/
theorem witness_pipes : (∀ c ∈ [(1, OxPipe.load), (0x100000004, .load), (5, .load), (2, .array), (6, .epilogue)].map (fun x => (x.1, x.2)),
    let e : OxEntry := { raw := BitVec.ofNat 256 c.1, started := true }
    let o : Ox := { inflight := [e] }
    (oxState o).cellsOk = true ∧ (oxState o).unfrozen 0 = true ∧ o.head c.2 = some ([], e, []) ∧ oxReady [] e = true ∧
    (oxPieces (oxReads e.kc e.raw)).all (fun x => (oxState o).spClean 0 x.1 x.2) = true) ∧
    (∀ x ∈ [(1, 1), (0x100000004, 4), (5, 5), (2, 2), (6, 6)], oxOpcode (BitVec.ofNat 256 x.1) = x.2) ∧
    (Ox.wb { wb0 := some { fmt := 0, sparse := false, kc := 64, ncols := 1, cols := [[]] } } (oxWb 2)).isSome = true := by decide +kernel

/-- EpiWritesItsRows: one FP32 element to unit 0; the same with its BIAS read there; a bank of another unit. -/
theorem witness_epi :
    let c : Unit32 := BitVec.ofNat 256 (3 + 0xC * 2 ^ 32 + 2 ^ 48 + 2 ^ 64)
    let d : Unit32 := c ||| 0x2000
    let e : OxEntry := { raw := c, started := true }
    let s := oxState { inflight := [e] }
    s.cellsOk = true ∧ twf 0 s.errs.spBad = true ∧ s.unfrozen 0 = true ∧ (s.ox 0).head .epilogue = some ([], e, []) ∧
    oxReady [] e = true ∧ oxOpcode c = 3 ∧ oxOverlap c = false ∧ oxOverlap d = true ∧ oxOpcode d = 3 ∧
    (oxState { inflight := [{ raw := d, started := true }] }).unfrozen 0 = true ∧
    (oxWriteBanks c).all (fun b => (s.cell 0).bankOwner b == ownerOx) = true ∧
    (oxWriteBanks c).all (fun b => ({} : Cell).bankOwner b == ownerOx) = false ∧
    (oxPieces (oxReads 0 c)).all (fun x => s.spClean 0 x.1 x.2) = true ∧ s.spClean 0 0 4 = true := by decide +kernel

def upState : State := { harness := { ({} : State).harness with ready := true } }
/-- OxFaultsHaltAndFlushClears: opcode 8 is illegal; an idle Ox; a spilling cell whose Ox is frozen and drained. -/
theorem witness_oxFault :
    let s := oxState { queue := [8] }
    let u := { oxState { emptyAfter := [0] } with harness := upState.harness }
    let w := { oxState { frozen := true } with sched := { slots := [(0, { switch := .spilling 1 })] } }
    s.cellsOk = true ∧ s.unfrozen 0 = true ∧ oxPipe 8 = .none ∧ oxCheck (fun b => (s.cell 0).bankOwner b == ownerOx) (s.ox 0) 8 = some (1, 0) ∧ (s.ox 0).flushPending = false ∧ (s.ox 0).flushAfterEpi = false ∧
    u.cellsOk = true ∧ u.pcieOpen = true ∧ u.sealedCell 0 = false ∧ (u.ox 0).srRunning = false ∧ (u.ox 0).inflight = [] ∧ (u.ox 0).seedPending = none ∧
    w.dbg.module = false ∧ (w.slotSched 0).switch = .spilling 1 ∧ (w.ox 0).frozen = true ∧ (w.ox 0).drained = true := by decide

/-- A state in which coach 3 owns every lane block used here, with one record for each kind: cell 0 injects on lane 0 and ejects,
switch 0 forwards lane 0 to lane 1. -/
def stageState : State :=
  { stage := {
      owner := [(blockKey 0 1 0, 3), (blockKey 2048 0 0, 3)]
      tt := [(3, { a := [⟨1, false, 0, 0, 5, 0, 1, 1⟩, ⟨2, false, 0, 1, 0, 4, 1, 1⟩, ⟨3, false, 0, 0, 5, 2, 1, 1⟩] })]
      outQ := [(streamKey 0 3 5, [9])]
      flits := [{ node := 0, lane := 0, at_ := 2, flit := ⟨9, 5, 0, false, 3, 0, 0, 0⟩ },
        { node := 2048, lane := 0, at_ := 2, flit := ⟨9, 5, 7, false, 3, 0, 0, 0⟩ }] } }
/-- StageMovesFlits: each record meets its flit; the injected flit arrives on a lane that is free then. -/
theorem witness_inject :
    let z : State := { stageState with stage := { stageState.stage with flits := [] } }
    z.cellsOk = true ∧ z.dbg.module = false ∧ lanePartner (epNode 0) 0 = some (0, 0, 2) ∧
    z.injector (epNode 0) 0 0 = some (3, false) ∧ z.laneFree 0 0 2 = true ∧ (z.cell 0).frozen = false ∧ (5 : Nat) ≠ 62 ∧ (5 : Nat) ≠ 63 ∧
    ((z.tt 3).buf (z.tt 3).activeB).find? (fun r => r.kind == 1 && r.unit == 0 && r.out == 0 && r.lent == false && r.covers 0) =
      some ⟨1, false, 0, 0, 5, 0, 1, 1⟩ ∧ tget [] z.stage.outQ (streamKey 0 3 5) = [9] ∧ z.injector (epNode 1) 0 0 = none := by decide
/-- StageMovesFlits: a switch's one flit, whole and of the coach in force, or of another coach, or with an uncorrectable code. -/
theorem witness_hop : stageState.cellsOk = true ∧ stageState.dbg.module = false ∧
    swPartner 0 1 = some (2049, 0, 2) ∧ stageState.laneFree 2049 0 6 = true ∧ stageState.coachInForce 0 1 0 = 3 ∧
    ttFind ((stageState.tt 3).buf false) 2 0 1 4 = some ⟨2, false, 0, 1, 0, 4, 1, 1⟩ ∧ ttFind ((stageState.tt 3).buf true) 2 0 1 4 = none ∧
    (stageState.stage.flits.filter fun y => y.node == 0 && y.lane == 0 && y.at_ + 2 == 4 && y.flit.tt == false) =
      [{ node := 0, lane := 0, at_ := 2, flit := ⟨9, 5, 0, false, 3, 0, 0, 0⟩ }] ∧
    (⟨9, 5, 0, false, 3, 0, 1, 0⟩ : Flit).coach.toNat = 3 ∧ (⟨9, 5, 0, false, 3, 0, 1, 0⟩ : Flit).code ≠ 2 ∧
    (⟨9, 5, 0, false, 4, 0, 0, 0⟩ : Flit).coach.toNat ≠ 3 ∧ (⟨9, 5, 0, false, 3, 0, 2, 0⟩ : Flit).code = 2 := by decide
/-- StageMovesFlits: the ejected flit is whole and its epoch 7 stale; one with an uncorrectable code; a stopped pcell. -/
theorem witness_eject :
    let z : State := { stageState with cells := [(0, { frozen := true })] }
    stageState.stage.flits.find? (fun x => x.node == epNode 0 && x.lane == 0 && x.at_ == 2 && !x.taken) =
      some { node := 2048, lane := 0, at_ := 2, flit := ⟨9, 5, 7, false, 3, 0, 0, 0⟩ } ∧
    z.stage.flits.find? (fun x => x.node == epNode 0 && x.lane == 0 && x.at_ == 2 && !x.taken) =
      some { node := 2048, lane := 0, at_ := 2, flit := ⟨9, 5, 7, false, 3, 0, 0, 0⟩ } ∧
    (stageState.cell 0).frozen = false ∧ (z.cell 0).frozen = true ∧ z.cellsOk = true ∧ (⟨9, 5, 7, false, 3, 0, 2, 0⟩ : Flit).code = 2 ∧
    ttFind ((stageState.tt 3).buf false) 3 0 0 2 = some ⟨3, false, 0, 0, 5, 2, 1, 1⟩ ∧ stageState.epochOk 3 7 = false := by decide

/-- TimetablesLoadSwapAndFramesAdvance: slot 47 with nothing armed, a load in progress whose image has version 0, a loaded buffer. -/
theorem witness_tt :
    let l : State := { upState with stage := { loading := some (47, false, 0) } }
    let u : State := { upState with stage := { tt := [(47, { loaded := true })] } }
    upState.pcieOpen = true ∧ upState.stage.loading = none ∧ upState.swapArmed 47 = false ∧ upState.ttMayWrite 47 = true ∧
    l.pcieOpen = true ∧ l.stage.loading.isSome = true ∧ l.dbg.module = false ∧ l.ttMayWrite 47 = true ∧
    (match upState.ttImage 47 0 with | .error e => e == (2, 0) | .ok _ => false) = true ∧
    (0x80BC000000000005#64).getLsbD 63 = true ∧ bfield (0x80BC000000000005#64) 50 6 = 47 ∧ u.pcieOpen = true ∧ u.swapArmed 47 = false ∧
    (u.tt 47).loaded = true ∧ u.ttLoading 47 = false := by decide +kernel
/-- TimetablesLoadSwapAndFramesAdvance: an image of one HOP record that coach 3 may use passes every check. -/
theorem witness_image :
    let z : State := { stageState with mem := [(0, 1), (4, 1), (8, 99), (9, 152), (10, 20), (11, 7), (32, 2), (36, 1), (40, 4), (42, 1), (44, 1)] }
    (match z.ttImage 3 0 with | .ok l => l == [⟨2, false, 0, 1, 0, 4, 1, 1⟩] | .error _ => false) = true := by decide +kernel
/-- TimetablesLoadSwapAndFramesAdvance: the state after reset, and a swap armed for frame 1. -/
theorem witness_frame : (State.reset : State).dbg.module = false ∧
    ({ stage := { tt := [(3, { armed := some 1 })] } } : State).stage.tt = [(3, { armed := some 1 })] := by decide

/-- BlockOwnershipCommandsSetTheirBlocks: block 0 of lane 0 of pcell 0, free, and owned by coach 3 of the partition of coach 4. -/
theorem witness_own :
    let s : State := { upState with stage := { ownMask := 1 }, coaches := [(3, { valid := true }), (4, { valid := true })] }
    let u : State := { s with stage := { s.stage with owner := [(blockKey 2048 0 0, 3)] } }
    s.ownBlocks 1 0 0 = [(2048, 0, 0)] ∧ s.blockOwner 2048 0 0 = 63 ∧ s.stage.tt = [] ∧ s.pcieOpen = true ∧ s.stage.loading = none ∧
    nodeLanes (epNode 0) = 1 ∧ twf 63 s.stage.owner = true ∧ twf 63 u.stage.owner = true ∧ u.ownBlocks 1 0 0 = [(2048, 0, 0)] ∧ u.pcieOpen = true ∧
    u.blockOwner 2048 0 0 = 3 ∧ u.partOf 3 = u.partOf 4 := by decide

def userMsg : GigMsg := { type := 1, src := 0, dst := 7, coach := 3, srcHen := 0, dstHen := 1, payload := 5 }
def gigState (n : Nat) : State :=
  let x : Hen := { recvQ := List.replicate n userMsg, gigOut := true, gigNack := true, run := true, fresh := false, mmode := true }
  { upState with cells := [(0, { st := .hitched, slot := 3, lcell := 7, hens := (Vector.replicate 4 {}).set 1 x })] }
/-- GigMessagesTakeEffectAtTheCell: a queue of 15 and one of 16 messages; a sending port that waits. -/
theorem witness_gig : (gigState 15).cellsOk = true ∧ (gigState 15).dbg.module = false ∧ (gigState 15).cellState 0 = .hitched ∧
    ((gigState 15).cell 0).slot = userMsg.coach ∧ BitVec.ofNat 28 ((gigState 15).cell 0).lcell.toNat = userMsg.dst ∧
    ((gigState 15).hen 0 1).recvQ.length < 16 ∧ 16 ≤ ((gigState 16).hen 0 1).recvQ.length ∧
    ((gigState 16).takeAt 0 (.user 0 userMsg)).placed 3 7 = some 0 ∧ ((gigState 15).cell 0).image.isNone = true ∧ ((gigState 15).hen 0 1).gigOut = true ∧
    (gigState 15).movedTo 0 = 0 ∧ ((gigState 15).hen 0 1).gigNack = true ∧ (gigState 15).unfrozen 0 = true ∧ ((gigState 15).cell 0).stopped = false ∧
    (gigState 15).henRuns 0 1 = true ∧ ((gigState 15).hen 0 1).mmode = true ∧ (gigState 15).inOrder (.user 0 userMsg) = true ∧
    (gigState 16).inOrder (.semReply 0 userMsg) = true ∧ ({ gigState 16 with sched := { slots := [(3, { running := some 2 })] } } : State).cellCtx 0 = some 2 ∧ (gigState 15).inOrder (.doorbell 0 userMsg) = true ∧
    (gigState 15).inOrder (.nack 0 1 false) = true := by decide
/-- GigMessagesTakeEffectAtTheCell: one SEM_REPLY in flight before another of the same port and destination, which waits. -/
theorem witness_order :
    let z : State := { gigState 15 with flight := [(1491, .semReply 0 userMsg), (1491, .semReply 0 { userMsg with payload := 6 })] }
    z.inOrder (.semReply 0 userMsg) = true ∧ z.inOrder (.semReply 0 { userMsg with payload := 6 }) = false ∧ z.cellsOk = true ∧
    z.dbg.module = false := by decide
/-- GigMessagesTakeEffectAtTheCell: a hitched pcell with one Hen that runs outside a YIELD, and one whose Hen waits in YIELD 9. -/
theorem witness_cellMessages :
    ({ hens := (Vector.replicate 4 {}).set 1 { run := true, stall := some (.yield 0 1 9) } } : Cell).atYield = true ∧
    let s : State := { cells := [(0, { st := .hitched, slot := 3, hens := (Vector.replicate 4 {}).set 1 { run := true } })] }
    s.cellsOk = true ∧ s.dbg.module = false ∧ (s.cell 0).atYield = false ∧ s.cellState 0 = .hitched ∧
    s.inOrder (.yieldReq 0 userMsg) = true ∧ s.inOrder (.epochSet 0 userMsg) = true ∧ s.inOrder (.clockSet 0 userMsg) = true := by decide

/-- HBM3E engine 0 with a MULE region at address 0 that belongs to partition 0, coach 3 of it, and a ring of slot 3 that runs c. -/
def muleState (c : Line) (agents : SMap AgentLine) : State :=
  { upState with
    engines := [(0, { map := [(0, 1)], rings := [(3, { enabled := true, cur := some c })] })]
    coaches := [(3, { valid := true })], carve := [(0, 0)], agents }
/-- A FILL of one 32-byte row of INT8 elements with 5 at address 0. -/
def fillCmd : Line := 6
/-- MuleCommandsRunTheirEntry: each opcode as the current entry; a FILL with an open shape, without and with a cached line; a RUN
without iterations faults. -/
theorem witness_muleRun : (muleState 6 []).dbg.module = false ∧
    (∀ op ∈ List.range 9, muOp (BitVec.ofNat 512 op) = op) ∧
    ((muleState 6 []).engine 0).ring 3 = { enabled := true, cur := some 6 } ∧
    ((muleState 0 []).muCached 0 3 (muExec ((muleState 0 []).muCtx 0 3 0) 4 0 { mem := [] })) = false ∧
    (muExec ((muleState 0 []).muCtx 0 3 0) 4 0 { mem := [] }).fault = none ∧
    (({ prog := some ([], 1, 8) } : Ring).sent = true ∧ ({} : Ring).prog = none ∧ ({} : Ring).doom = none) ∧
    (muRunProgram ((muleState 8 []).muCtx 0 3) false (fun _ => 0) 8 { mem := [] }).run.fault = some 4 ∧
    (muleState 0 [(0, { st := .S })]).muCached 0 3 { mem := [], reads := [(0, 32)] } = true ∧ (muleState 6 []).ringHasTime 0 3 = true := by decide +kernel

/-- RingsAndTheMuleMapObeyTheirRegisters: an idle ring one entry behind its tail, a finished entry, a halted ring, an enable that
fails because the slot is closed. -/
theorem witness_ring :
    let idle : State := { muleState 0 [] with engines := [(0, { map := [(0, 1)], rings := [(3, { enabled := true, tail := 1 })] })] }
    let fin : State := { muleState 0 [] with engines := [(0, { rings := [(3, { enabled := true, cur := some 0x8000, curDone := true })] })] }
    let off : State := { muleState 0 [] with engines := [(0, { map := [(0, 1)], rings := [(3, { halt := true, tailAddr := 0x200000, doneAddr := 0x200000 })] })] }
    idle.dbg.module = false ∧ idle.pcieOpen = true ∧ ((idle.engine 0).ring 3).cur.isNone = true ∧ idle.muBad 0 (idle.partOf 3) 0 = none ∧
    idle.lineBad 0 = false ∧ (idle.readLine 0) = 0 ∧ muCheck false 0 = none ∧ idle.muLost 0 = none ∧ idle.ringHasTime 0 3 = true ∧ ((idle.engine 0).ring 3).head ≠ ((idle.engine 0).ring 3).tail ∧
    ((fin.engine 0).ring 3).curDone = true ∧ ((fin.engine 0).ring 3).sent = true ∧ fin.pcieOpen = true ∧
    ((off.engine 0).ring 3).enabled = false ∧ off.ringCheck 0 3 { (off.engine 0).ring 3 with cfg := 0x1000C &&& 0x7FFF003E } = 0 ∧
    off.ringCheck 0 4 {} = 5 ∧ ((off.engine 0).ring 3).halt = true := by decide +kernel
/-- RingsAndTheMuleMapObeyTheirRegisters: no bit waits, and one bit waits with no line of its region known. -/
theorem witness_map :
    let w : State := { upState with engines := [(0, { mapPending := [(0, 1)] })] }
    upState.pcieOpen = true ∧ 639 < upState.mapCount 0 ∧ (upState.engine 0).mapPending = [] ∧ w.pcieOpen = true ∧
    (w.engine 0).mapPending ≠ [] ∧ w.dbg.module = false ∧ w.knownLines (w.mapWaits 0) = [] := by decide

/-- Slot 3 open in partition 0, with lcell 0 on pcell 0, one move to pcell 1 if moving, and a loaded timetable buffer. -/
def coachState (cells moves : Bool) (phase : BitVec 2) : State :=
  let mv : List Move := if moves then [{ lcell := 0, src := 0, dst := 1 }] else []
  let c : Coach := { valid := true, localCells := if cells then 1 else 0, moves := mv, phase }
  { upState with
    coaches := [(3, c)], stage := { tt := [(3, { loaded := true })] }
    cells := if cells then [(0, { st := .hitched, slot := 3, lcell := 0 })] else [] }
/-- CoachCommandsAct: each command on a slot where its checks pass, the last share and window values in range. -/
theorem witness_coachCommands : (coachState false false 0).pcieOpen = true ∧ (coachState false false 0).coachRegs.resetting = none ∧
    ((coachState false false 0).coach 3).valid = true ∧
    (∀ x ∈ [(0x01, 0x400, 0x1F00000), (0x02, 0x300, 0), (0x03, 0x300, 1), (0x10, 0x00000300, 0), (0x20, 0x330300, 64), (0x21, 0x80300, 60), (0x30, 0x300, 64)],
      ccBad (withOp x.1 (BitVec.ofNat 64 x.2.1)) (BitVec.ofNat 64 x.2.2) = false ∧
      (ccCoach (withOp x.1 (BitVec.ofNat 64 x.2.1)) = 3 ∨ x.1 = 1 ∧ ccCoach (withOp x.1 (BitVec.ofNat 64 x.2.1)) = 4) ∧
      ((coachState false false 0).coachCheck (withOp x.1 (BitVec.ofNat 64 x.2.1)) (BitVec.ofNat 64 x.2.2) = none ∨ x.1 = 2)) ∧
    ({ upState with coaches := [(3, { valid := true })] } : State).coachCheck 0x302 0 = none ∧
    (coachState true false 0).coachCheck 0x311 0 = none ∧ ccBad 0x311 0 = false ∧ (coachState true false 0).coachCheck 0x10312 0 = none ∧
    ccBad 0x10312 0 = false ∧ (coachState true true 0).coachCheck 0x313 0 = none ∧ ccBad 0x313 0 = false ∧
    (coachState true true 1).coachCheck 0x314 0 = none ∧ ccBad 0x314 0 = false := by decide

/-- CoachCommandsAreChecked: a reserved bit, slots 48 and 47, a share of 65, and a RESET in progress. -/
theorem witness_coachChecks : ccBad 0x4302 0 = true ∧ ccBad 0x3002 0 = false ∧ ccCoach 0x3002 = 48 ∧ ccCoach 0x2F02 = 47 ∧
    (upState.coach 47).valid = false ∧ (coachState false false 0).coachCheck 0x330320 65 = some 0xB ∧ ccBad 0x330320 65 = false ∧
    ({ upState with coachRegs := { resetting := some 3 } } : State).pcieOpen = true := by decide

/-- ClosingASlotInUseIsRefused: an open slot with one cell; then one with a share, a block, a ring and a context each. -/
theorem witness_close : (coachState true false 0).coachRegs.resetting = none ∧ (coachState true false 0).pcieOpen = true ∧ ccBad (withOp 2 0x300) 0 = false ∧
    ccCoach (withOp 2 0x300) = 3 ∧ ((coachState true false 0).coach 3).valid = true ∧ ((coachState true false 0).cell 0).slot = 3 ∧
    (let s : State := { upState with
      coaches := [(3, { valid := true, memShare := [(51, 1)], linkShare := [(8, 1)] })]
      stage := { owner := [(63, 3)], tt := [(3, { b := [⟨1, false, 0, 0, 5, 0, 1, 1⟩] })] }
      engines := [(51, { rings := [(3, { enabled := true })] })], host := { ctxs := [(9, { valid := true })], handles := [(0, 3)] } }
     tget 0 (s.coach 3).memShare 51 ≠ 0 ∧ tget 0 (s.coach 3).linkShare 8 ≠ 0 ∧ s.blockOwner 0 0 63 = 3 ∧
     (s.tt 3).b ≠ [] ∧ ((s.engine 51).ring 3).enabled = true ∧ s.ctxSlot 9 = some 3) := by decide

/-- A target of slot 3 that waits for the flits of an image with no live bank, of which got have come. -/
def targetState (got : List Nat) : State :=
  let im : CellSpill := ⟨0, 0, 0, .replicate 4 {}, {}, .replicate 2 {}, [], [], [], [], [], 0, []⟩
  { cells := [(1, { st := .moveIn, slot := 3, image := some im, imageSent := 4096, imageGot := got })]
    coaches := [(3, { valid := true, moves := [{ lcell := 0, src := 0, dst := 1 }], phase := 2, closeFrame := some 2 })], stage := { frame := 4 } }
/-- MoveBatchesRunTheirCourse: an idle source; a target with a whole image, and one with nothing; a window that is over; a cell that leaves. -/
theorem witness_moves : (coachState true true 1).cellsOk = true ∧ ((coachState true true 1).cell 0).slot.toNat = 3 ∧ (coachState true true 1).unfrozen 0 = true ∧
    (((coachState true true 1).coach 3).moves.any fun m => m.src == 0 && !m.quiesced) = true ∧ (coachState true true 1).stepRuns 3 = false ∧
    ((coachState true true 1).cell 0).ox.idle = true ∧ ((coachState true true 1).cell 0).draysIdle = true ∧
    (targetState []).sendsImage 3 0 = false ∧ ((targetState []).coach 3).m0 + 4 ≤ (targetState []).stage.frame ∧
    (targetState []).cellsOk = true ∧ (targetState []).unfrozen 1 = true ∧ (targetState []).cellState 1 = .moveIn ∧
    ((targetState []).moveTo 1).isSome = true ∧ ((targetState []).cell 1).image.isSome = true ∧ imageFlits 0 = 4096 ∧
    ((targetState (List.replicate 4096 0)).cell 1).imageGot.length = 4096 ∧
    (span 0 4096).all (fun _ => false) = false ∧ ((targetState []).coach 3).closeFrame = some 2 ∧
    (let s : State := { cells := [(0, { slot := 3, cleaning := some .vacated })] }
     s.cellsOk = true ∧ s.unfrozen 0 = true ∧ s.linesAt 0 = []) := by decide +kernel
/-- MoveBatchesRunTheirCourse: a target of an image with one live bank whose cell state came whole, and nothing of the bank. -/
theorem witness_wholeState :
    let im : CellSpill := ⟨0, 0, 0, .replicate 4 {}, {}, .replicate 2 {}, [], [], [], [], [], 1, []⟩
    let got := span 0 4096
    let s : State := { cells := [(1, { st := .moveIn, slot := 3, image := some im, imageGot := got })], stage := { frame := 4 }
                       coaches := [(3, { valid := true, moves := [{ lcell := 0, src := 0, dst := 1 }], phase := 2 })] }
    s.sendsImage 3 0 = false ∧ (s.coach 3).m0 + 4 ≤ s.stage.frame ∧ s.dbg.module = false ∧ s.cellState 1 = .moveIn ∧
    (s.cell 1).imageGot.length < imageFlits im.live ∧ got.all (s.cell 1).imageGot.contains = true := by
  refine ⟨by decide, by decide, by decide, by decide +kernel, by decide +kernel, ?_⟩
  show (span 0 4096).all (span 0 4096).contains = true
  simp only [List.all_eq_true, List.contains_iff_mem, imp_self, implies_true]

/-- A descriptor of kind k for one row of 64 bytes at address a (32 for kind 7), scratchpad offset 0. -/
def desc (k a : Nat) : Line := BitVec.ofNat 512 (k + 2 ^ 32 + (if k = 7 then 32 else 64) * 2 ^ 64 + a * 2 ^ 192)
/-- DRAY_1 of pcell 0, which owns bank 0 and whose stream 1 leads to endpoint ep with replies on stream 2. -/
def drayState (c : Line) (ep : Nat) : State :=
  let y : Dray := { queue := [{ raw := c, umode := false, pasid := 0 }] }
  { cells := [(0, { drays := (Vector.replicate 2 {}).set 1 y, owner := [(0, 6)], streamMap := [(0, BitVec.ofNat 64 ((0x81020000 + ep) * 2 ^ 32))] })] }
/-- DrayDescriptorsSendTheirRequests: each kind at the home of line 0, RATOMIC at the first remote address; a reserved KIND. -/
theorem witness_dray : (∀ x ∈ [(1, 0, 1152), (2, 0, 1152), (5, 0, 1152), (7, 0x4000000000000, 1460)],
    let s := drayState (desc x.1 x.2.1) x.2.2
    let c := desc x.1 x.2.1
    s.cellsOk = true ∧ s.unfrozen 0 = true ∧ (s.dray 0 1).queue.length = 1 ∧ (s.cell 0).drayWaits = false ∧ (s.cell 0).ox.frozen = false ∧
    dKind c = x.1 ∧ dReserved c = false ∧ dBadShape c = false ∧ dBadRange c = false ∧
    (if x.1 = 7 then [(dMem c, 0, dSp c)] else dPieces c) = [(x.2.1, if x.1 = 7 then 0 else 1, 0)] ∧
    (s.cell 0).route 1 (serversOf x.2.1) = some 1 ∧ (s.cell 0).ownsAll (ownerDray 1) 0 64 = true ∧ s.spClean 0 0 64 = true) ∧
    dReserved (desc 1 0 ||| 0x100) = true := by decide +kernel

/-- DRAY_0 of pcell 0, which owns bank 0, with a running descriptor and flits on stream 5. -/
def runState (c : Line) (q : List Unit32) (out : List DrayReq) : State :=
  let y : Dray := { running := [{ seq := 0, desc := { raw := c, umode := false, pasid := 0 }, next := 1, acked := 1 }], out }
  { upState with
    cells := [(0, { drays := (Vector.replicate 2 {}).set 0 y, owner := [(0, 5)] })]
    stage := { inQ := if q.isEmpty then [] else [(streamKey 0 63 5, q)] } }
def rowDesc (k : Nat) : Line := BitVec.ofNat 512 (k + 5 * 2 ^ 16 + 2 ^ 32 + 32 * 2 ^ 64)
/-- DraysMoveStreamsAndComplete: one flit for a RECV of one row, a SEND of one row, a map of zeros, the status of a write, and a
finished prefetch of one piece. -/
theorem witness_drayMoves : (runState (rowDesc 3) [9] []).cellsOk = true ∧ (runState (rowDesc 3) [9] []).unfrozen 0 = true ∧
    ((runState (rowDesc 3) [9] []).dray 0 0).queue = [] ∧ ((runState (rowDesc 3) [9] []).cell 0).drayWaits = false ∧
    (((runState (rowDesc 3) [9] []).dray 0 0).mover 3).isSome = true ∧ (runState (rowDesc 3) [9] []).recvFlits 0 5 = [9] ∧ dStream (rowDesc 3) = 5 ∧
    ((runState (rowDesc 3) [9] []).cell 0).ownsAll (ownerDray 0) (dByte (rowDesc 3) 0) 32 = true ∧
    (((runState (rowDesc 4) [] []).dray 0 0).mover 4) = ((runState (rowDesc 4) [] []).dray 0 0).running.find? (·.seq == 0) ∧
    (((runState (rowDesc 4) [] []).dray 0 0).mover 4).isSome = true ∧ dRows (rowDesc 4) * dRowBytes (rowDesc 4) = 32 ∧ dByte (rowDesc 4) 0 = 0 ∧
    (runState (rowDesc 4) [] []).spClean 0 0 32 = true ∧ twf [] (runState (rowDesc 4) [] []).stage.outQ = true ∧
    (((runState (rowDesc 6) [] []).dray 0 0).mover 6).isSome = true ∧ ((runState (rowDesc 6) [] []).cell 0).ownsAll (ownerDray 0) 0 256 = true ∧
    (runState (rowDesc 6) [] []).spClean 0 0 256 = true ∧
    (let o : DrayReq := { seq := 0, op := 2, stream := 5, lines := 1, sp := 0 }
     let s := runState (desc 2 0) [0x80] [o]
     ((s.dray 0 0).out.find? (·.stream == 5)) = some o ∧ ((s.dray 0 0).running.find? (·.seq == 0)).isSome = true ∧ ((s.cell 0).mapEntry 5).2.1 = 0 ∧
     tget [] s.stage.inQ (streamKey 0 (s.cell 0).slot.toNat 5) = [0x80] ∧ replyFlits 2 1 = 1 ∧ bfield (nth 0 [(0x80 : Unit32)] 0) 8 8 = 0 ∧
     s.pcieOpen = true ∧ s.sealedCell 0 = false) ∧
    (((runState (desc 5 0) [] []).dray 0 0).running.all fun r => r.waiting.isEmpty && (runState (desc 5 0) [] []).runDone 0 r) = true := by decide +kernel

/-- EndpointsAnswerRequests: requests for line 0 at its home slice, with reply stream 2, of a partition that may and one that may not;
an atomic at FAB_W of a module with an ID. -/
theorem witness_request :
    let rd : Unit32 := BitVec.ofNat 256 (1 + 2 * 2 ^ 8 + 2 ^ 16)
    let at_ : Unit32 := BitVec.ofNat 256 (4 + 2 * 2 ^ 8 + 0x4000000000000 * 2 ^ 64)
    let s (ep : Nat) (q : List Unit32) : State :=
      { upState with stage := { inQ := [(streamKey ep 3 1, q)] }, carve := [(0, 0)], coaches := [(3, { valid := true })], jbn := { moduleId := some 7 } }
    (s 1152 [rd]).dbg.module = false ∧ memoryEp 1152 = true ∧ memoryEp 1460 = true ∧ memoryEp epPci = true ∧
    tget [] (s 1152 [rd]).stage.inQ (streamKey 1152 3 1) = [rd] ∧
    rqOp rd = 1 ∧ rqBad rd = false ∧ rqData rd = 0 ∧ rqOp (rd + 1) = 2 ∧ rqData (rd + 1) = 2 ∧ rqBad (rd + 1) = false ∧ rqOp (rd + 2) = 3 ∧ rqBad (rd + 2) = false ∧
    rqBad (rd ||| 0x4000) = true ∧ (s 1152 [rd]).outboundAt 1152 3 = 0 ∧ (s 1152 [rd]).ncReserved 1152 3 = 0 ∧ (s 1152 [rd]).ncBusy 1152 3 1 = false ∧ (s 1152 [rd]).homeTurn ((s 1152 [rd]).partOf 3) = true ∧
    (s 1152 [rd]).goodLines 1152 0 0 1 = [0] ∧ (s 1152 [rd]).goodLines 1152 1 0 1 = [] ∧ (s 1152 [rd]).nonCaching = [] ∧
    ((s 1152 [rd]).firstBad 1152 1 0 1).1 = 1 ∧ rqOp at_ = 4 ∧ rqBad at_ = false ∧ rqData at_ = 1 ∧ ((s 1460 [at_, 0]).streamEntry 3 1).1 = false ∧
    (match exec (.requestRead 1152 3 1) (s 1152 [rd]) with
      | .next t => (tget [] t.stage.outQ (streamKey 1152 3 2)).length == 3 && t.nonCaching.isEmpty
      | _ => false) = true ∧
    ((s 1460 []).fabRequest false 3 2 4 0 0x4000000000000 [0] 0).isSome = true := by decide +kernel
/-- EndpointsAnswerRequests: a request of the stream that is under way. -/
theorem witness_busy :
    let q : NcReq := { id := 0, src := .stream 1152 3 1 0, who := 0, alloc := false, key := 0, charge := 3, addr := 0, lines := 1, left := [0] }
    ({ upState with nonCaching := [q] } : State).ncBusy 1152 3 1 = true := by decide

/-- MemoryAndCoherenceRegistersAreWritten: a share of 1 that is served 343 lines, shares that fill 64, a mask of a strict partition. -/
theorem witness_regulation :
    let s : State := { upState with tick := 100, mcs := [(0, { share := [(3, 1)] })], stable := { upState.stable with strict := [2] } }
    s.dbg.module = false ∧ (s.mc 0).window.toNat < s.tick / 100 ∧ max 343 (tget 0 (s.mc 0).served 3) < (tget 0 (s.mc 0).share 3).toNat * 344 ∧ s.pcieOpen = true ∧ (s.mc 0).shareSum 48 63 ≤ 64 ∧ 64 < (s.mc 0).shareSum 48 64 ∧
    bfield (63 : Word) 0 7 ≤ 64 ∧ s.waysApart 2 0 s.stable.strict = true ∧ s.waysApart 2 1 s.stable.strict = false := by decide +kernel
/-- MemoryAndCoherenceRegistersAreWritten: page 0 of partition 0's chunk, with no line of it known; 48 turns and 49. -/
theorem witness_sync :
    let s : State := { upState with coaches := [(3, { valid := true })], carve := [(0, 0)], stable := { upState.stable with strict := [2] } }
    let b : State := { upState with coh := { syncBusy := some (3, 1) } }
    s.pcieOpen = true ∧ s.coh.syncBusy = none ∧ (1 : Word).getLsbD 0 = true ∧ bfield (1 : Word) 1 15 = 0 ∧ (tget 0 s.coh.syncPage 3).getLsbD 0 = false ∧
    s.inChunk 0 = true ∧ s.ownerOf 0 = s.partOf 3 ∧ (s.coach 4).valid = false ∧ b.dbg.module = false ∧
    (b.knownLines fun l => (false && (0 : Nat) == l / 1024) || ((1 : Word).getLsbD 0 && bfield (1 : Word) 16 36 == l / 1024)) = [] ∧
    (s.stable.strict.contains 2) = true ∧ bfield (48 : Word) 0 7 ≤ 48 ∧ 48 < bfield (49 : Word) 0 7 := by decide

def lineState (st : AgentState) : State := { upState with agents := [(agentKey 5 3, { st, data := 7 })] }
/-- AgentsAnswerForwardsByTheirState: pcell 5 with line 3 in each state, neither held nor deferred. -/
theorem witness_agent : (∀ st ∈ [AgentState.I, .S, .E, .O, .M, .IS_D, .IM_D, .IM_A, .SM_D, .OM_A, .MI_A, .OI_A, .EI_A, .SI_A],
    ((lineState st).agent 5 3).st = st) ∧ (lineState .M).unfrozen 5 = true ∧ (lineState .M).defers 5 3 = false ∧
    ((lineState .M).agent 5 3).deferred = [] ∧ engineOfEp 5 = none ∧
    (lineState .M).inOrder (.fwdGetS 5 3 6 false) = true ∧ (lineState .M).inOrder (.inv 5 3) = true := by decide

/-- AgentsTakeTheirResponses: a request refused with RETRY, one kept for CREDIT, and a Hen whose far atomic is outstanding. -/
theorem witness_response : (lineState .IS_D).unfrozen 5 = true ∧ ((lineState .IS_D).agent 5 3).st ∈ [AgentState.IM_D, .SM_D, .IS_D] ∧
    ((lineState .OM_A).agent 5 3).st ∈ [AgentState.SM_D, .OM_A] ∧ ((lineState .II_A).agent 5 3).st = .II_A ∧
    (lineState .IS_D).muleWindow 3 = false ∧ (lineState .IS_D).inOrder (.dataS 5 3 7) = true ∧
    (let s : State := { retrying := [(5 * 2048 + homeEp 3, [.getS 5 3 false])], refused := [(5 * 2048 + homeEp 3, [.getM 5 3])]
                        cells := [(5, { far := [(2, 3, none)], hens := (Vector.replicate 4 {}).set 2 { stall := some (.amo 5 2 .add true false false 5 1 2) } })] }
     s.cellsOk = true ∧ s.unfrozen 5 = true ∧ tget [] s.retrying (5 * 2048 + homeEp 3) = [.getS 5 3 false] ∧ (s.cell 5).far = [(2, 3, none)] ∧
     tget [] s.refused (5 * 2048 + homeEp 3) ≠ [] ∧ (lineState .I).refused = [] ∧ ((lineState .I).home (homeEp 3)).reserved = [] ∧
     (s.hen 5 2).stall = some (.amo 5 2 .add true false false 5 1 2)) := by decide
/-- AgentsTakeTheirResponses: line 3 lies in a range that a command of ring 3 has read and whose window is open. -/
theorem witness_window :
    let s : State := { muleState 0 [] with engines := [(0, { map := [(0, 1)], rings := [(3, { window := [(192, 32)] })] })] }
    s.muleWindow 3 = true ∧ s.unfrozen 5 = true := by decide

/-- HomesActOnRequests: the state after reset has entries at every home; an unheld, a shared and an owned line. -/
theorem witness_home : upState.dbg.module = false ∧ upState.entryFor (homeEp 3) 5 3 = true ∧ twf {} upState.homeLines = true ∧ twf {} upState.homes = true ∧
    upState.homeTurn (upState.poolOf 5 3) = true ∧ (upState.homeLine 3).queue = [] ∧ upState.ownerOrdered 3 = false ∧ (upState.home (homeEp 3)).retryMap = [] ∧
    (let u : State := { upState with carve := [(0, 0)], cells := [(5, { st := .hitched, slot := 3 })], coaches := [(3, { valid := true })] }
     let at_ := u.setHomeLine 3 { queue := [.getS 5 false] }
     at_.homeCheck 3 (.getS 5 false) = none ∧ at_.wayWaiters 3 = [] ∧ (at_.dirPlace 3).1 = some 0) ∧
    (let u : State := { upState with stable := { upState.stable with strict := [0x3E] }, carve := [(0, 0x3E)]
                                     homes := [(homeEp 3, { reserved := List.replicate 16 (6, 0x3E) })] }
     u.entryFor (homeEp 3) 1500 3 = false) ∧ upState.inOrder (.getS 5 3 false) = true ∧
    (upState.homeRead 3 (upState.partOfAgent 5 3) true 0 (upState.agentMaster 5)).1 = some 0 ∧ ({} : HomeLine).owner = none ∧ ({ sharers := [5] } : HomeLine).coarse = false ∧
    5 ∉ ({ sharers := [6] } : HomeLine).sharers ∧ ({ owner := some 5 } : HomeLine).ownedO = false ∧ upState.isMule (lineAddr 3) = false := by decide +kernel

/-- HomesEndTheirTransientStates: one and two acknowledgements to come; a forward and a snoop outstanding; a line of engine 0. -/
theorem witness_transient : upState.dbg.module = false ∧
    (∀ p ∈ [HomePhase.ha 1 false, .ha 1 true, .ha 2 false, .hf false 0 false true false, .hn 0 true],
      twf {} ({ homeLines := [(3, { phase := p, req := some (.getM 5) })] } : State).homeLines = true ∧
      (({ homeLines := [(3, { phase := p, req := some (.getM 5) })] } : State).homeLine 3).phase = p) ∧
    (({ homeLines := [(3, { req := some (.upgrade 5) })] } : State).homeLine 3).req = some (.upgrade 5) ∧
    (({ homeLines := [(3, { req := some (.getS 5 false) })] } : State).homeLine 3).req = some (.getS 5 false) ∧
    upState.inOrder (.invAck 5 3) = true ∧ ((upState.take (.fwdAmo 0 3 5 0)).memDemand 3).1 = some 0 ∧
    upState.amoHasTime 0 (upState.amoFrom 5 3).1 = true ∧ ({ upState with stable := { upState.stable with strict := [2] } } : State).amoHasTime 0 2 = false := by decide +kernel

def pageEntry : TlbEntry := { pasid := 7, vgroup := 0, size := 0, pbase := 0, mask := 1, rd := true, wr := true, ex := true }
def l2miss : L2Miss := { pasid := 7, vpn := 1, w := false, x := false, slot := 3, waiters := [] }
/-- A slice of partition 0 with PASID 7, pcell 0 in slot 3 with a BUSY miss, an entry for page 0 and a miss for page 1 at agent 0. -/
def xltState : State :=
  let m : L1Miss := { tag := 2, pasid := 7, vpn := 1, w := false, x := false, busy := true }
  { upState with
    cells := [(0, { st := .hitched, slot := 3, misses := [m] })], coaches := [(3, { valid := true })]
    host := { slices := [(0, { valid := true, pasid := 7 })] }, tlbAgents := [(0, { tlb := [pageEntry], misses := [l2miss] })] }
/-- TranslationRequestsAreAnswered: page 0 hits, page 1 joins, page 2 is new, PASID 8 is unknown. -/
theorem witness_xlt : xltState.dbg.module = false ∧ xltState.pasidKnown 3 8 = false ∧ xltState.pasidKnown 3 7 = true ∧ xltState.inOrder (.xltReq 0 2 false false 7 1) = true ∧
    tlbEntryFor (xltState.tlbAgent 0).tlb 7 true false 0 = some pageEntry ∧ tlbEntryFor (xltState.tlbAgent 0).tlb 7 false false 8192 = none ∧
    tlbEntryFor (xltState.tlbAgent 0).tlb 7 false false 4096 = none ∧
    ((xltState.tlbAgent 0).misses.any fun m => m.pasid == 7 && m.vpn == 2) = false ∧ (xltState.tlbAgent 0).misses.length < 256 ∧
    256 ≤ (List.replicate 256 l2miss).length ∧ (xltState.tlbAgent 0).misses.find? (fun m => m.pasid == 7 && m.vpn == 1) = some l2miss ∧
    xltState.unfrozen 0 = true ∧ ((xltState.cell 0).misses.find? fun m => m.tag == 2 && m.busy).isSome = true := by decide +kernel

/-- TranslationAnswersAreTaken: an answer of each status for the cell's miss; a completion of page 1, which reads, with aperture 2^51. -/
theorem witness_xltAnswer : xltState.cellsOk = true ∧ xltState.inOrder (.xltResp 0 (answerPlain 1 0 2)) = true ∧ xltState.unfrozen 0 = true ∧
    ((xltState.cell 0).misses.find? fun m => m.tag == (answerPlain 1 0 2).tag && m.vpn == (answerPlain 1 0 2).vpn).isSome = true ∧
    (∀ st ∈ [(0 : BitVec 3), 1, 2, 3, 7], (answerPlain 1 st 2).status = st) ∧
    ((xltState.tlbAgent 0).misses.find? fun m => m.pasid == 7 && m.vpn == 1 && m.prg.isNone && !m.wantPage) = some l2miss ∧ l2miss.stale = false ∧
    ({ xltState with xlt := { aperture := 0x8000000000000 } } : State).apertureOf 0x8000000001000 = some 0x1000 ∧ xltState.apertureOf 0 = none ∧
    (let e := completionEntry { pasid := 7, vpn := 1, ok := true, u := false, taddr := 0x8000000001000, sizeLog2 := 12, r := true, w := false, x := false } 0x1000
     e.rd = true ∧ (e.look 7 true false false 4096).isSome = true) := by decide +kernel

/-- InvalidationsReachEveryCell: an invalidation of one page that waits for pcell 0, 10,000 ticks old. -/
theorem witness_inv :
    let x : Invalidation := { itag := some 4, seq := 9, pasid := 7, all := false, vpn := 0, log2 := 0, awaiting := [0], since := 0 }
    let s : State := { xltState with xlt := { invalidations := [x] }, tick := 10000 }
    s.dbg.module = false ∧ s.pcieOpen = true ∧ s.unfrozen 0 = true ∧ (s.xlt.invalidations.any (·.itag.isNone)) = false ∧ s.invCells = [0] ∧ upState.invCells = [] ∧
    s.xlt.invalidations.find? (fun x => x.seq == 9 && x.awaiting.contains 0) = some x ∧
    s.inOrder (.xltInv 0 { vpn := 0, pasid := 7, allPasid := false, log2 := 0, seq := 9 }) = true ∧ s.inOrder (.xltInvAck 0 9) = true := by decide +kernel

/-- NoTranslationSurvivesItsInvalidation: an invalidation of page 0 of PASID 7, whose entry the agent holds. -/
theorem witness_survives : invCovers { vpn := 0, pasid := 7, allPasid := false, log2 := 0, seq := 0 } 7 4095 = true ∧ xltState.cellsOk = true ∧
    xltState.inOrder (.xltInv 0 { vpn := 0, pasid := 7, allPasid := false, log2 := 0, seq := 0 }) = true ∧ xltState.unfrozen 0 = true ∧
    twf {} xltState.tlbAgents = true ∧ (tlbLook (xltState.tlbAgent 0).tlb 7 true false false 4095).isSome = true := by decide +kernel

/-- PagesComeAndAccessesAreCounted: context 9 runs on slot 3 with both spill levels free; a miss that waits for page request 5. -/
theorem witness_pages :
    let s : State := { xltState with
      sched := { slots := [(3, { running := some 9 })] }, host := { slices := [(0, { valid := true, pasid := 7 })], ctxs := [(9, { valid := true })] }
      tlbAgents := [(0, { misses := [{ l2miss with prg := some 5 }] })] }
    s.dbg.module = false ∧ s.runningCtx 3 = some 9 ∧ (s.slice (s.ctx 9).slice).pasid = 7 ∧ (s.slotSched 3).stopAt = none ∧ (s.slotSched 3).switch = .none ∧
    s.areaHolds 3 = true ∧ (s.slotSched 3).freeLevel ≠ none ∧ (s.tlbAgents.any fun e => e.2.misses.any fun m => m.prg == some 6) = false ∧
    ((s.tlbAgents.find? fun e => e.2.misses.any fun m => m.prg == some 5).map (·.1)) = some 0 ∧ l2miss.waiters = [] ∧ s.flight = [] ∧ s.inOrder (.xltPage 7 3 5) = true ∧ (s.take (.xltPage 7 3 5)).pageCtxs 3 7 5 = [] ∧
    (let h : State := { s with
       cells := [(0, { heldBy := some 9, slot := 3, misses := [{ tag := 2, pasid := 7, vpn := 1, w := false, x := false, waiters := [0] }] })]
       tlbAgents := [(0, { misses := [{ l2miss with prg := some 5, waiters := [{ pcell := 0, tag := 2, w := false, x := false }] }] })], sched := {} }
     h.runningCtx 3 = none ∧ (h.take (.xltPage 7 3 5)).pageCtxs 3 7 5 = [9]) ∧
    s.tick % 2 ^ s.xlt.decayLog2 = 0 ∧ s.pcieOpen = true ∧
    (let v : Word := put 32 40 ||| put 3 8; 10 ≤ bfield v 32 6 ∧ bfield v 32 6 ≤ 40 ∧ 8 ≤ bfield v 3 5 ∧ bfield v 3 5 ≤ 16) := by decide +kernel
/-- PagesComeAndAccessesAreCounted: the step of the running context waits for page request 5, and for no other. -/
theorem witness_waits :
    let s : State := { xltState with
      sched := { slots := [(3, { running := some 9 })] }
      host := { slices := [(0, { valid := true, pasid := 7 })], handles := [(0, 3)]
                ctxs := [(9, { valid := true, step := some { desc := 0, num := 0, pages := [5] } })] } }
    s.pageWaiters 3 7 5 = [9] ∧ s.pageWaiters 3 7 6 = [] := by
  decide +kernel

/-- Slot 3 open with no cells in partition 0; context 5 of slice 0 is bound to it by handle 7, with the step desc of number 9; its
program in host memory has one shape of no cells, and a placement list that names image 0 for epoch 0. -/
def stepDesc : BitVec 2048 := BitVec.ofNat 2048 (1 + 2 ^ 51 * 2 ^ 64 + 2 ^ 128 + 5 * 2 ^ 192)
def schedState (held : Option CtxState) (x : SlotSched) : State :=
  { upState with
    tick := 100
    stage := { frame := 64, tt := [(3, { image := some (0, 0) })] }
    coaches := [(3, { valid := true })]
    hostMem := [(0, 1), (4, 1), (89, 0x10), (94, 8), (4096, 1), (4100, 1)]
    host := { handles := [(7, 3)], slices := [(0, { valid := true })]
              ctxs := [(5, { valid := true, handle := 7, resident := true, held, step := some { desc := stepDesc, num := 9, ready := true } })] }
    sched := { slots := [(3, x)] } }
/-- AStepPastItsDeadlineStillRetires: a step of deadline 5 at tick 100. -/
theorem witness_deadline : let s := schedState (some .running) { running := some 5 }
    s.dbg.module = false ∧ (s.slotSched 3).running = some 5 ∧ (s.slotSched 3).switch = .none ∧ (s.slotSched 3).faulted = none ∧
    s.stepComplete 3 = true ∧ ((s.ctx 5).step.map fun st => stDeadline st.desc) = some 5 ∧ (5 : Nat) < s.tick ∧
    ((s.phaseLearn 3).charge 3).sched.misses < 0xFFFF := by decide +kernel

/-- StepsStartAreChargedAndTimeOut: the step ready on a free slot, its program sound and its image active; a malformed step; another
cell count; no image; running; not resident; a promoted step against it; its count at the limit. -/
theorem witness_steps :
    let s := schedState none {}
    let r := schedState (some .running) { running := some 5 }
    let long : State := { r with tick := 200000000, host := { r.host with
      ctxs := [(5, { r.ctx 5 with step := (r.ctx 5).step.map fun st => { st with since := some 0 } })] } }
    let pre : State := { r with
      sched := { r.sched with spillArea := [] }
      host := { r.host with ctxs := [(4, { r.ctx 5 with held := none, step := (r.ctx 5).step.map fun st => { st with promoted := true } }), (5, r.ctx 5)] } }
    s.dbg.module = false ∧ s.stage.frame % 64 = 0 ∧ s.slotFree 3 = true ∧ s.stage.loading = none ∧ s.ttMayWrite 3 = true ∧ s.chosen 3 = some 5 ∧
    s.ctxState 5 = some .ready ∧ s.stepBadFields 5 stepDesc = false ∧ s.stepBadFields 5 (stepDesc + 2) = true ∧
    ((s.stepShape (s.partOf 3) stepDesc).map (·.cells)) = some (s.coach 3).localCells ∧ (s.coach 3).unplaced = [] ∧
    ((s.stepShape 0 stepDesc).map fun sh => (((s.shapeTouch 0 stepDesc).activate 3 sh.list).1.isSome, (s.activate 3 0x100000).1.isSome)) = some (true, false) ∧
    ({ s with hostMem := [] } : State).stepShape 0 stepDesc = none ∧ (s.setCoach 3 { s.coach 3 with localCells := 1 }).slotFree 3 = true ∧
    (s.setCtx 5 { s.ctx 5 with resident := false }).ctxState 5 = some .ready ∧
    (r.ctx 5).step.isSome = true ∧ (r.slotSched 3).switch = .none ∧ (r.slotSched 3).faulted = none ∧ r.stepComplete 3 = true ∧
    stDeadline 0 = 0 ∧
    (let ready := (pre.ctxsOf 3).filter fun k => pre.ctxState k == some .ready
     let u := (ready ++ (pre.slotSched 3).running.toList).foldl (fun s k => s.promote 3 k) pre
     (u.slotSched 3).running = some 5 ∧ u.choose 3 = some 4 ∧ u.isPromoted 5 = false ∧ u.isPromoted 4 = true ∧ (u.coach 3).span = false ∧
     u.areaHolds 3 = true ∧ (u.slotSched 3).freeLevel = some 0 ∧ (u.coach 3).phase = 0) ∧
    ((long.ctx 5).step.map fun st => decide (stTimeoutMs st.desc * 100000 ≤ st.count long.tick)) = some true ∧
    (let paged := long.setSlotSched 3 { levels := #v[{ ctx := some 5 }, {}] }
     (paged.slotSched 3).running = none ∧ ((paged.setCtx 5 { paged.ctx 5 with held := some .paged }).ctx 5).held = some .paged ∧
     (paged.slotSched 3).levels = #v[{ ctx := some 5 }, {}]) ∧
    (∀ l ∈ (long.slotSched 3).levels.toList, l.ctx = none) := by decide +kernel

/-- PreemptionSpillsAndRefills: each phase of a slot whose context 5 is stopped, spilled to level 0, and refilled. -/
theorem witness_spill :
    let st := schedState (some .running) { running := some 5, stopAt := some false }
    let sw := schedState (some .spilled) { running := some 5, switch := .stopping 4 false 0 }
    let l : Vector SpillLevel 2 := (Vector.replicate 2 {}).set 0 { ctx := some 5 }
    let rf := schedState (some .spilled) { levels := l }
    let x : SlotSched := { levels := l, switch := .refilling 5 0 }
    let rc := schedState (some .spilled) x
    let u := rc.setSlotSched 3 { x.setLevel 0 {} with switch := .none }
    st.dbg.module = false ∧ (st.slotSched 3).freeLevel = some 0 ∧ st.areaHolds 3 = true ∧ (st.coach 3).batch = false ∧
    4 + 4 ≤ sw.stage.frame ∧ (sw.lcellsOf 3).all sw.drained = true ∧ sw.mayLoad 3 = true ∧ rf.mayLoad 3 = true ∧ rc.stage.loading = none ∧ rc.ttMayWrite 3 = true ∧
    rf.slotFree 3 = true ∧ rf.chosen 3 = some 5 ∧ rf.levelOf 3 5 = some 0 ∧
    (u.ctx 5).step.isSome = true ∧ (x.level 0).ecc = false ∧ (x.level 0).cells = [] ∧
    ((u.stepShape 0 stepDesc).map fun sh => (u.activate 3 sh.list).1.isSome) = some true := by decide +kernel

/-- Slot 3 runs context 5 on pcell 0 (lcell 0); semaphore 2 of the slot has the value v. -/
def semState (v : BitVec 8) : State :=
  let s := coachState true false 0
  { s with sched := { slots := [(3, { running := some 5 })], sems := [(semKey 3 2, { value := v })] } }
def semMsg (op arg : Nat) : GigMsg :=
  { type := 1, src := 0, dst := 0, coach := 3, srcHen := 0, dstHen := 0, payload := BitVec.ofNat 48 (2 * 2 ^ 41 + arg * 2 ^ 8 + op * 2 ^ 4) }
/-- SemaphoreOperationsAct: each operation at SEM_W, with value 1 and 0; one of SEM_E's; register writes of both kinds. -/
theorem witness_sem : (semState 1).dbg.module = false ∧ (semState 0).cellCtx 0 = some 5 ∧
    (∀ o ∈ [0, 1, 2, 3, 4], ((semState 1).take (.acquire false (semMsg o 0))).cellCtx (bfield (semMsg o 0).src 0 11) = some 5 ∧
      (semState 1).semRefuses false (semMsg o 0) o = false) ∧ (semState 1).inOrder (.acquire false (semMsg 0 0)) = true ∧ (semState 1).semRefuses true (semMsg 0 0) 0 = true ∧
    ((semState 1).sem (semKey 3 2)).value ≠ 0 ∧ ((semState 1).sem (semKey 3 2)).room 5 = true ∧ ((semState 0).sem (semKey 3 2)).value = 0 ∧
    (semState 0).semWaiters false < 1024 ∧ upState.pcieOpen = true ∧ (0x8000000000000000#64).getLsbD 63 = true ∧
    bfield 0x8000000000000000#64 0 11 < 1152 ∧ regionOf 0 = 0 ∧ regionOf 1151 ≠ 0 ∧ 1152 ≤ bfield 0x8000000000000480#64 0 11 := by decide +kernel

/-- Slice 1 of partition 0 with pasid 1; context 5 of it under handle 7, bound to slot 3 or not; a fence table of partition 0. -/
def hostState (bound : BitVec 6) (made : List Nat) (ctxs : SMap Context) : State :=
  { upState with
    carve := [(0, 0)]
    coaches := [(3, { valid := true })]
    host := { handles := [(7, bound)], slices := [(1, { valid := true, pasid := 1, waits := 1, vector := 16 })], ctxs
              tables := [(0, { base := some 4096, log2 := 10, made })], pages := [(2, { ctx := some 5 })] } }
def oneCtx : SMap Context := [(5, { valid := true, slice := 1, handle := 7, ringBase := 0x8000000000000, ringLog2 := 2 })]
/-- MailboxCommandsAct: a command of each row that passes its checks, and one that fails. -/
theorem witness_mailbox : (hostState 63 [] oneCtx).pcieOpen = true ∧ (hostState 63 [] oneCtx).host.mbxWaits = none ∧
    (∀ x ∈ ([(0x01, hostState 63 [] oneCtx, [0x0000000001000201, 0x8000000000000, 0x00100006]), (0x02, hostState 63 [] [], [0x102]),
        (0x03, hostState 63 [] oneCtx, [0x20003, 5]), (0x10, hostState 63 [] oneCtx, [0x610, 0x70001, 0x8000000000000, 0x102]),
        (0x11, hostState 63 [] oneCtx, [0x511]), (0x20, hostState 63 [1] oneCtx, [0x20, 9, 5]), (0x21, hostState 63 [1] oneCtx, [0x100000021]),
        (0x22, hostState 63 [] oneCtx, [0xA0022, 4096]), (0x30, hostState 63 [] oneCtx, [0x0000000300070030])] : List (Nat × State × List Word)),
      let cmd := (span 0 8).foldl (fun m i => tset 0 m i (if i = 0 then withOp x.1 (mbWord x.2.2 0) else mbWord x.2.2 i)) x.2.1.host.mbxCmd
      ({ x.2.1 with host := { x.2.1.host with mbxCmd := cmd } } : State).mbCheck ((span 0 8).map fun i => tget 0 cmd i) = mbOk) ∧
    (hostState 63 [] oneCtx).mbCheck [0x302] = mbNotFound ∧ (hostState 3 [] oneCtx).ctxSlot 5 = some 3 := by decide +kernel

/-- DoorbellPagesAct: page 2 serves context 5, page 1 none; fence 0 valid at 0; waits at 0 (reached), 1, 2^62, 2^62 + 1; TAILs 4, 5 of a
ring of 4; segment 0 mapped to the chunk of partition 0. -/
theorem witness_doorbell :
    let b := hostState 3 [0] oneCtx
    let s : State := { b with host := { b.host with
        pages := [(2, { ctx := some 5, waitLatch := some (0, 1), signalLatch := some 0 })]
        cached := [0], fences := [(0, { value := 0, valid := true })], segs := [(0, 1)] } }
    s.pcieOpen = true ∧ s.dbg.module = false ∧ s.pageCtx 1 = none ∧ s.pageCtx 2 = some 5 ∧ s.ctxPart 5 = 0 ∧ (s.ctx 5).ringLog2 = 2 ∧
    (s.page 2).waitLatch = some (0, 1) ∧ (s.page 2).signalLatch = some 0 ∧ ((s.fenceLoad 0 0).fence 0 0).valid = true ∧ (s.fence 0 0).valid = true ∧
    reached 0 0 = true ∧ reached 0 1 = false ∧ reached 0 0x4000000000000000 = false ∧ reached 0 0x4000000000000001 = false ∧
    s.waitsOf 1 = 0 ∧ (s.slice 1).waits = 1 ∧ s.bar4Addr 0 8 = some 0 ∧ s.bar4Addr (2 ^ 36) 8 = none ∧
    bfield 1#64 30 22 * 2 ^ 30 % s.segSize = 0 ∧ ({ s with host := { s.host with bar4Log2 := 42 } } : State).segSize = 2 ^ 36 ∧
    bfield 0x40000001#64 30 22 * 2 ^ 30 % 2 ^ 36 ≠ 0 ∧ s.lineFails 0 = false ∧ ({ s with errs := { s.errs with memBad := [(0, 100)] } } : State).lineFails 0 = true := by decide +kernel

/-- Module 7 with JP_0 up; slot 3 open in partition 0 with coach ID 9, a share of port 0, the coach's fabric key in stall 2, and module
5 a member for lcell group 0. -/
def jbnState : State :=
  { upState with
    coaches := [(3, { valid := true, coachId := 9, localCells := 1, linkShare := [(0, 64)] })]
    carve := [(0, 0)]
    mem := [(0x700000, 5), (0x700002, 2)]
    stable := { stalls := [(2, { attr := BitVec.ofNat 64 (9 + 2 ^ 44 + 2 ^ 57 + 5 * 2 ^ 60 + 2 ^ 63), key := 1 })] }
    jbn := { moduleId := some 7, ports := [(0, { lanes := 0xFF, credits := true })], handovers := [(3, 4, 5, 0)]
             reqs := [{ tag := 4, slot := 3, east := false, reply := 1, op := 1, lines := 1, addr := 0x4000000000000, issued := 0 }] } }
def jbnPkt (cls : BitVec 2) : Packet := { type := 0, dst := 7, src := 5, coachId := 9, cls, tag := 4, length := 2, auth := some 1 }
/-- PacketsOfACoachTakeEffect: a packet of each type, accepted for slot 3; one with another key; an aligned read of line 0 served. -/
theorem witness_packets : (jbnState.jport 0).up = true ∧ jbnState.dbg.module = false ∧
    (∀ x ∈ ([(1, 0), (2, 0), (3, 0), (4, 0), (0x10, 1), (0x11, 1), (0x12, 1), (0x20, 2), (0x21, 2), (0x22, 2)] : List (Nat × BitVec 2)),
      let p : Packet := Packet.ofType { jbnPkt x.2 with type := 1 } x.1
      let u := ((jbnState.emit (.linkCredits 0 p.cls.toNat (Packet.credits p))).countGlobal 513 p.payload.length).countGlobal 515 1
      (match u.jbnAccept 0 p, u.jbnAccept 0 { p with auth := none } with | .inr n, .inl _ => n == 3 | _, _ => false) = true) ∧
    jbnState.rehomedTo 3 0 = none ∧ Packet.badRequest { jbnPkt 0 with type := 1 } = false ∧ Packet.badRequest { jbnPkt 0 with type := 2, payload := natBytes 64 1 } = false ∧
    Packet.badRequest { jbnPkt 0 with type := 3, length := 1, payload := natBytes 32 0 } = false ∧ amoBad 0 = true ∧ amoBad 0x300 = false ∧
    Packet.badRequest { jbnPkt 0 with type := 1, length := 0 } = true ∧
    (let r : Rehomed := { slot := 3, base := 0, log2 := 30, module := 5, newBase := 0, until_ := 9 }
     ({ jbnState with jbn := { jbnState.jbn with rehomed := [r] } } : State).rehomedTo 3 0 = some r ∧ jbnState.tick < r.until_) ∧
    (let q : NcReq := { id := 1, src := .fabric 0 3 (jbnPkt 0), who := 0, alloc := false, key := 0, charge := mJbn, addr := 0, lines := 1 }
     ({ jbnState with nonCaching := [q] } : State).nonCaching = [q] ∧ q.left = []) ∧
    (jbnState.coach 3).localCells = 1 := by decide +kernel

/-- A management command with the body b (32 bytes) for coach 9, signed with key 3; body words are of eight bytes. -/
def fmPkt (b : List Nat) : Packet :=
  { type := 0x30, isLocal := true, dst := 0, src := 1, cls := 3, auth := some 3
    payload := natBytes 8 1 ++ natBytes 8 0 ++ natBytes 4 0 ++ natBytes 4 9 ++ natBytes 8 0 ++ (b.flatMap (natBytes 8)) ++ natBytes 64 0 }
def fmState : State := { jbnState with jbn := { jbnState.jbn with fmKey := 3, moduleId := none, noteAt := [(3, 1)], fmResp := [(0, jbnPkt 3)] }, tick := 100000
                                       harness := { jbnState.harness with refFab := true }, stable := { stalls := (0, { attr := 2 ^ 63, key := 1 }) :: jbnState.stable.stalls } }
/-- PortsTimersAndFabricManagement: the port up, down and with credits; each timer at its tick; a stream entry to JP_0; each command. -/
theorem witness_ports :
    let st : State := { jbnState with
      mem := [(0x60020f, 0x80), (0x700000, 5), (0x700002, 2)]
      stage := { inQ := [(streamKey (fabEp false) 3 1, [5])] } }
    (fmState.jport 0).disabled = false ∧ fmState.harness.refFab = true ∧ fmState.harness.ready = true ∧ fmState.stable.aliasKey.isSome = true ∧
    (fmState.coaches.all fun e => e.2.linkPending.isEmpty) = true ∧ (fmState.jport 0).up = true ∧ fmState.dbg.module = false ∧
    tget 0 fmState.jbn.noteAt 3 = 0 + 1 ∧ 0 + 100 ≤ fmState.tick ∧
    (fmState.jbn.handovers.find? fun h => h.1 == 3 && h.2.1 == 4) = some (3, 4, 5, 0) ∧ 0 + (fmState.coach 3).jbnUs * 100 ≤ fmState.tick ∧
    tget [] st.stage.inQ (streamKey (fabEp false) 3 1) = [5] ∧ (st.streamEntry 3 1).1 = true ∧ (st.streamEntry 3 1).2.1 = 0 ∧ portEast 0 = false ∧
    st.memberOf 3 (st.streamEntry 3 1).2.2.2 = some (0, 5) ∧ st.jbn.moduleId = some 7 ∧
    ((fmState.jbn.reqs.find? fun r => r.tag == 4 && r.answer.isNone).map fun r => (r.op, r.attempt, decide (r.issued + bfield fmState.jbn.ctrl 0 14 * 100 ≤ fmState.tick))) =
      some (1, 0, true) ∧ 0 < bfield fmState.jbn.ctrl 16 3 ∧ (fmState.jbn.fmResp.find? fun e => e.1 == 0).isSome = true ∧
    fmState.fmAccepts (fmPkt [6, 0, 0, 0]) = true ∧ fmState.slotOf (fmCoach (fmPkt [6])) = some 3 ∧
    fmBody (fmPkt [6, 0, 0, 0]) 0 8 = 6 ∧ fmBodyLen (fmPkt [6, 0, 0, 0, 0]) = 40 ∧ fmBody (fmPkt [6, 0, 0, 0, 0]) 8 32 = 0 ∧
    fmBody (fmPkt [2 ^ 30, 30, 5, 2 ^ 31]) 8 8 = 30 ∧ fmBody (fmPkt [2 ^ 32, 0, 0, 0]) 4 4 = 1 := by decide +kernel

/-- ErrorsFaultsAndResetsAct: a fault of a running, a torn-down and no step; a collector with the queue full and not; a notice due; each
kind of line at the scrubber; each retirement; a pcell that does not stop; a ceiling step; a changed summary. -/
theorem witness_errors :
    let m : GigMsg := { type := 6, src := 0, dst := 0, coach := 3, srcHen := 0, dstHen := 0, payload := 0x101 }
    let run := schedState (some .running) { running := some 5 }
    let c : Collector := { report := stepReport 3 stepBad, epoch := 0, ctx := none, step := 0, partition := 0, coachId := 0, opened := 0, last := 0, count := 1 }
    let r : ResetRec := { stuck := [0], timedOut := none, since := 0 }
    let s : State := { coachState true false 0 with
      tick := 1000000
      errs := { collectors := [(0, some c)], noticeDue := [63], noticeAt := [(63, 1)], resets := [(3, some r)] }
      stable := { partErr := [(0, 1)], errChanged := [0] } }
    run.dbg.module = false ∧ run.inOrder (.fault m) = true ∧ (run.cell 0).heldBy = none ∧ ({ heldBy := some 5 } : Cell).heldBy = some 5 ∧ ((run.take (.fault m)).reportOf m).slot = 3 ∧ ((run.take (.fault m)).slotSched 3).running = some 5 ∧
    ((run.take (.fault m)).ctx 5).step.isSome = true ∧ run.isInheritCell 0 = false ∧
    ({ run with sched := { run.sched with inherit := [(0, 0x8000000000000000)] } } : State).isInheritCell 0 = true ∧
    run.lateFault ((run.take (.fault m)).reportOf m) = false ∧ run.sealedCell 0 = false ∧
    ({ coachState true false 0 with stable := { sealed := [0] } } : State).sealedCell 0 = true ∧ (s.slotSched 3).running = none ∧ (s.slotSched 3).torn = none ∧
    tget none s.errs.collectors 0 = some c ∧ c.opened + 100000 ≤ s.tick ∧ s.errs.fqTail - s.errs.fqHead ≠ 512 ∧ (512 : BitVec 32) - 0 = 512 ∧
    63 ∈ s.errs.noticeDue ∧ tget 0 s.errs.noticeAt 63 - 1 + 100000 ≤ s.tick ∧ tget 0 s.errs.scrubPos 0 + 1 < s.ctlLines 0 ∧ s.errs.retiredPages = [] ∧
    s.pcieOpen = true ∧ s.holdsMemory 0 = true ∧ s.holdsMemory (2 ^ 50) = false ∧ bfield (0x0#64) 62 2 = 0 ∧ bfield (1#64 <<< 62) 62 2 = 1 ∧
    bfield (2#64 <<< 62) 62 2 = 2 ∧ bfield (1#64 <<< 62) 12 11 < 1152 ∧ 1152 ≤ bfield (0x7FF000#64) 12 11 ∧
    (s.cell 0).slot.toNat = 3 ∧ tget none s.errs.resets 3 = some r ∧ 0 ∈ r.stuck ∧ r.since + 1000000 ≤ s.tick ∧
    (s.ceilNow 0 - 25 < s.ceilNow 0 ∧ (s.ceilNow 0 - (s.ceilNow 0 - 25)) % 25 = 0) ∧ (s.cell 0).ceilAt = 0 ∧ s.harness.ready = true ∧
    s.tick % 100000 = 0 ∧ (tget 0 s.stable.partErr 0).getLsbD 0 = true ∧ 0 ∈ s.stable.errChanged := by decide +kernel

/-- StableMailboxCommandsAct: words of each row that hold no unused bit, and one that does; a level to raise to; tokens of both kinds. -/
theorem witness_stable : upState.pcieOpen = true ∧ sbBad [2, 1] = true ∧
    (∀ ws ∈ [[1, 0x8000000000000], [0x5802], [0x10003], [0x590104, 0x8000000000000, 0], [0x590105, 0, 64, 0x8000000000000], [0x306], [7, 0x8000000000000]],
      sbBad (ws.map (BitVec.ofNat 64)) = false) ∧
    upState.readable 0x8000000000000 264 = true ∧ upState.lcCheck 4 none = sbBadCmd ∧
    (let t : State := { upState with stable := { lcFuses := 0b111111 } }
     t.lcCheck 3 none = sbOk) ∧ upState.stable.debugLevel.toNat < 1 ∧
    upState.harness.down = false ∧ upState.stable.held = false ∧ upState.stable.lcState = 3 ∧
    tokenLevel (natBytes 4 1 ++ natBytes 132 1) = 1 ∧ tokenLevel (natBytes 4 1 ++ natBytes 132 0x13) = 0x13 := by decide +kernel

/-- SpdmRequestsAreAnswered: a ready deployed module at each point of the negotiation, with a certificate and without. -/
theorem witness_spdm :
    let s (n : BitVec 2) (c : Bool) : State :=
      { upState with harness := { upState.harness with certified := c }, stable := { spdm := n, chunks := [1], spdmSize := 42 } }
    (s 0 false).harness.ready = true ∧ (s 0 false).stable.held = false ∧ (s 0 false).stable.lcState = 3 ∧ (s 0 false).stable.debugLevel = 0 ∧
    ({ s 0 false with stable := { debugLevel := 2 } } : State).stable.debugLevel = 2 ∧
    sliceNat [] 0 1 ≠ 0x13 ∧
    (let req := natBytes 1 0x13 ++ natBytes 11 0 ++ natBytes 4 42
     sliceNat req 0 1 = 0x13 ∧ sliceNat req 12 4 = 42 ∧ sliceNat req 3 1 = (s 3 true).stable.chunkHandle.toNat ∧ sliceNat req 4 2 = (s 3 true).stable.chunkSeq ∧
     sliceNat req 2 1 = 0) ∧ (s 3 true).stable.chunks ≠ [] ∧ (s 3 true).stable.spdm = 3 ∧ (s 3 true).harness.certified = true := by decide +kernel

/-- A body of SET_CONTRACT for minute 1, of w W, and of SET_COOLING. -/
def contractBody (w : Nat) : List Byte := natBytes 8 1 ++ natBytes 32 0 ++ natBytes 8 1 ++ natBytes 1 1 ++ natBytes 7 0 ++ natBytes 2 w
def coolingBody : List Byte := natBytes 8 1 ++ natBytes 32 0 ++ natBytes 2 2200 ++ natBytes 1 60 ++ natBytes 5 0
/-- PowerIsMeteredAndContracted: bodies within and outside their ranges; a request for one record; the end of minute 0; a clocked cell;
a frequency in range, and one that would raise the floor of cells of a strict partition. -/
theorem witness_power :
    let s : State := { upState with stable := { stalls := [(0, { attr := 2 ^ 63, key := 1 })] }, tick := 6000000000 }
    let strict : State := { coachState true false 0 with
      stable := { strict := [0] }, power := { defaultW := some 2000 } }
    s.power.meterFault = false ∧ s.pcieOpen = true ∧ upState.setContractCheck (contractBody 2100) = pcOk ∧
    upState.setContractCheck (contractBody 1) = pcBelowFloor ∧ upState.setCoolingCheck coolingBody = pcOk ∧ upState.setCoolingCheck [] = pcBad ∧
    s.stable.aliasKey.isSome = true ∧ (natBytes 8 0 ++ natBytes 1 1 ++ natBytes 39 0).length = 48 ∧ sliceNat (natBytes 8 0 ++ natBytes 1 1 ++ natBytes 39 0) 8 1 = 1 ∧
    sliceNat (natBytes 8 0 ++ natBytes 1 1 ++ natBytes 39 0) 9 7 = 0 ∧ s.power.minute < s.minuteNow ∧
    (let c : State := { cells := [(0, { freq := 1001 })] }
     c.unfrozen 0 = true ∧ 1000 < (c.cell 0).freq.toNat) ∧ s.harness.powered = true ∧ bfield (1000#64) 0 12 = 1000 ∧ 2800 % 25 = 0 ∧
    State.floorBroken strict { strict with power := { strict.power with strictMhz := tset 1000 strict.power.strictMhz 0 2800 } } = true ∧
    State.floorBroken s { s with power := { s.power with strictMhz := tset 1000 s.power.strictMhz 0 2800 } } = false := by decide +kernel

/-- BootPinsAndUpdatesAct: the state after reset, held in reset and not; each life-cycle state; a write of the flash at its end. -/
theorem witness_boot :
    let up : State := {}
    let held : State := { up with harness := { up.harness with modRst := true } }
    up.harness.down = false ∧ held.harness.down = true ∧ held.harness.powered = true ∧ up.stable.lcState = 3 ∧
    ({ up with stable := { lcFuses := 0b001010100 } } : State).stable.lcState = 0 ∧ ({ up with stable := { lcFuses := 0b111111101110111 } } : State).stable.lcState = 5 ∧
    ({ up with stable := { lcFuses := 0, seedLock := false } } : State).stable.seedLock = false ∧ 0x1FFFFFFF + [(0 : Byte)].length ≤ 0x20000000 ∧
    upState.harness.ready = true ∧ upState.stable.held = false ∧ upState.harness.updated = false ∧ (upState.sensor 1).isSome = true ∧ (upState.sensor 8).isSome = true := by decide +kernel

/-- DebugCountersAndRegistersAct: INVASIVE on a module and a slot; scans that are checked; an export of slot 3 into chunk 0, due; an entry
to drain; a BAR4 of 2^37. -/
theorem witness_debug :
    let s : State := { coachState true false 0 with carve := [(0, 0)], stable := { debugLevel := 2 }, dbg := { ctrExport := [(3, 1)] } }
    let h : State := { s with dbg := { module := true } }
    s.stable.debugLevel = 2 ∧ (0x4000#16).getLsbD 14 = true ∧ (3#16).getLsbD 14 = false ∧ bfield (3#16) 0 6 < 48 ∧ s.stopTargets 3 = [0] ∧
    upState.stable.debugLevel ≠ 2 ∧ (0#64).getLsbD 63 = false ∧ s.harness.down = false ∧ s.pcieOpen = true ∧ s.scanCheck true 0 0 = 1 ∧
    h.scanCheck true 0 0 = 0 ∧ h.dbg.module = true ∧ bfield (0#64) 0 11 < 1152 ∧ s.partOf 3 < 32 ∧ s.holdsMemory 0 = true ∧ s.ownerOf 0 = s.partOf 3 ∧
    (regBlock 0x3FFFFF8).1 = .none ∧ s.dbg.module = false ∧ (tget 0 s.dbg.ctrExport 3).getLsbD 0 = true ∧ tget 0 s.dbg.exportAt 3 = 0 ∧
    s.harness.logTail.toNat - s.harness.logHead.toNat < 2 ^ 20 ∧ ({} : State).harness.ready = false ∧ ({} : State).harness.recovery = false ∧
    ({} : State).harness.down = false ∧ s.host.bar4Log2 = 36 ∧ s.harness.ready = true ∧ s.host.reads = [] := by decide +kernel

/-- StepRunsTheFrontCommand: a queue that is empty, and one that is not. -/
theorem witness_step : upState.pending = [] ∧ ({ upState with pending := [.epochGet 0 0 1] } : State).pending = [.epochGet 0 0 1] := by decide

/-- MemoryStaysCanonical: a memory with a byte, and an idle step. -/
theorem witness_canonical : let s : State := { upState with mem := [(5, 1)], hostMem := [(0, 2), (9, 3)] }
    Memory.wf s.mem ∧ Memory.wf s.hostMem ∧ step s = .next { s with tick := (s.tick + 1) % 2 ^ 64 } :=
  ⟨by decide, by decide, rfl⟩

/-- XcarkanWordsRoundTrip: words written out from the encodings of R91, one of each opcode and of each group of funct3. -/
theorem witness_xcarkan : decodeXcarkan 7 3 0b000000111101_01011_011_01010_0001011 = some (.splD 7 3 10 11 0x3D) ∧
    decodeXcarkan 0 1 0b1111111_00101_01011_000_00001_1011011 = some (.spsB 0 1 5 11 0xFE1) ∧
    decodeXcarkan 0 0 0b0000000_00000_01011_000_00011_0101011 = some (.vsplV 0 0 3 11) ∧
    decodeXcarkan 0 0 0b0000001_00000_01011_000_00011_0101011 = some (.vspsV 0 0 3 11) ∧
    decodeXcarkan 0 0 0b0000000_00110_00000_001_00000_0101011 = some (.oxIssue 0 0 6) ∧
    decodeXcarkan 0 0 0b0000001_00110_00000_010_00000_0101011 = some (.drayIssue 0 0 6 1) ∧
    decodeXcarkan 0 0 0b0000010_00000_00110_010_00000_0101011 = some (.drayWait 0 0 6 0) ∧
    decodeXcarkan 0 0 0b0000001_00000_00000_011_00110_0101011 = some (.gigRecv 0 0 6) ∧
    decodeXcarkan 0 0 0b0000000_00111_00110_100_00101_0101011 = some (.bankGive 0 0 5 6 7) ∧
    decodeXcarkan 0 0 0b0000000_00000_00000_101_00101_0101011 = some (.epochGet 0 0 5) ∧
    decodeXcarkan 0 0 0b100000000001_00000_110_00000_0101011 = some (.yield 0 0 0x801) ∧
    decodeXcarkan 0 0 0b0000001_00001_00110_001_00000_0101011 = none ∧ decodeXcarkan 0 0 0b000000000000_00000_111_00000_0001011 = none ∧
    (Instr.yield 7 3 0x801).xcarkanHen = some (7, 3) := by decide

end Sys2Proof.Tests
end

section
namespace Sys2Proof.Machine

/-! Commands of the Ox that run without a fault: they change one cell. -/

/-- A state differs from s in one cell only, which is c but for its counters; the table of cells is canonical. -/
def State.cellIs (s t : State) (p : Nat) (c : Cell) : Prop :=
  t.cellsOk = true ∧ s.onlyCell t p ∧ t.cell p = { c with ctrs := (t.cell p).ctrs }

section
variable {s t : State} {p : Nat} {c : Cell}

theorem State.cellIs_refl (hw : s.cellsOk = true) : s.cellIs s p (s.cell p) := ⟨hw, s.onlyCell_refl p, rfl⟩

/-- A write of the cell replaces it. -/
theorem State.cellIs_setCell (ht : s.cellIs t p c) (d : Cell) : s.cellIs (t.setCell p d) p d := by
  obtain ⟨hw, ho, -⟩ := ht
  exact ⟨State.cellsOk_setCell hw d, State.onlyCell_setCell ho d, by rw [t.cell_setCell p d hw]⟩

/-- Counters do not matter. -/
theorem State.cellIs_countCell (ht : s.cellIs t p c) (i n : Nat) : s.cellIs (t.countCell p i n) p c := by
  obtain ⟨h1, h2, h3⟩ := State.cellIs_setCell ht ((t.cell p).count i n)
  refine ⟨h1, h2, ?_⟩
  rw [State.countCell, t.cell_setCell p _ ht.1, Cell.count, ht.2.2]

theorem State.cellIs_setOx (ht : s.cellIs t p c) (o : Ox) : s.cellIs (t.setOx p o) p { c with ox := o } := by
  obtain ⟨h1, h2, -⟩ := State.cellIs_setCell ht { t.cell p with ox := o }
  refine ⟨h1, h2, ?_⟩
  rw [State.setOx, t.cell_setCell p _ ht.1, ht.2.2]

theorem State.cellIs_errs (ht : s.cellIs t p c) : t.errs = s.errs := by rw [ht.2.1.1]

theorem State.cellIs_spClean (ht : s.cellIs t p c) (a n : Nat) : t.spClean p a n = s.spClean p a n := by
  rw [State.spClean, State.cellIs_errs ht]; rfl

theorem State.cellIs_ox (ht : s.cellIs t p c) : t.ox p = c.ox := by rw [State.ox, ht.2.2]

theorem State.cellIs_sp (ht : s.cellIs t p c) : (t.cell p).sp = c.sp := by rw [ht.2.2]

/-- A write of clean words changes the scratchpad's bytes; one of no bytes changes nothing. -/
theorem State.cellIs_spWrite (ht : s.cellIs t p c) (hb : twf 0 s.errs.spBad = true) (a : Nat) (bs : List Byte)
    (hc : s.spClean p a bs.length = true) :
    s.cellIs (t.spWrite p a bs) p { c with sp := writeBytes c.sp a bs } := by
  by_cases hn : bs = []
  · subst hn
    exact ht
  · rw [State.spWrite_clean (by rwa [State.cellIs_errs ht]) hn (by rwa [State.cellIs_spClean ht])]
    refine State.cellIs_countCell ?_ _ _
    obtain ⟨h1, h2, -⟩ := State.cellIs_setCell ht { t.cell p with sp := writeBytes (t.cell p).sp a bs }
    refine ⟨h1, h2, ?_⟩
    rw [t.cell_setCell p _ ht.1, ht.2.2]

/-- Clean ranges are read to their end. -/
theorem State.oxReadTo_clean {l : List (Nat × Nat)} (hl : l.all (fun x => s.spClean p x.1 x.2) = true) :
    s.oxReadTo p l = (l, none) := by
  induction l with
  | nil => rfl
  | cons x l ih =>
    simp only [List.all_cons, Bool.and_eq_true] at hl
    rw [State.oxReadTo, State.spUncorr_clean hl.1, ih hl.2]

/-- Touching clean ranges changes nothing. -/
theorem State.spTouches_clean {l : List (Nat × Nat)} (hl : l.all (fun x => s.spClean p x.1 x.2) = true) :
    l.foldl (fun s x => s.spTouch p x.1 x.2) s = s := by
  induction l with
  | nil => rfl
  | cons x l ih =>
    simp only [List.all_cons, Bool.and_eq_true] at hl
    rw [List.foldl_cons, State.spTouch_clean hl.1, ih hl.2]

/-- A command whose operands are clean reads them all, which only counts its lines. -/
theorem State.oxRead_clean {e : OxEntry} (hl : (oxPieces (oxReads e.kc e.raw)).all (fun x => s.spClean p x.1 x.2) = true) :
    s.oxRead p e = (oxPieces (oxReads e.kc e.raw), none, s.countCell p 3 (128 * oxLines e (oxPieces (oxReads e.kc e.raw)))) := by
  simp only [State.oxRead, State.oxReadTo_clean hl, State.spTouches_clean hl]

/-- An EPI that writes clean words writes all its rows (R25, R450). -/
theorem State.epiWrite_clean {l : List (Nat × List Byte)} (hb : twf 0 s.errs.spBad = true) (ht : s.cellIs t p c)
    (hl : l.all (fun x => s.spClean p x.1 x.2.length) = true) :
    ∃ u, t.epiWrite p l = (none, u) ∧ s.cellIs u p { c with sp := l.foldl (fun m x => writeBytes m x.1 x.2) c.sp } := by
  induction l generalizing t c with
  | nil => exact ⟨t, rfl, ht⟩
  | cons x l ih =>
    obtain ⟨a, bs⟩ := x
    simp only [List.all_cons, Bool.and_eq_true] at hl
    obtain ⟨hx, hl⟩ := hl
    have hm : t.spMergeBad p a bs.length = none := State.spMergeBad_clean (by rwa [State.cellIs_spClean ht])
    simp only [State.epiWrite, hm]
    exact ih (State.cellIs_spWrite ht hb a bs hx) hl

section
variable {before after : List OxEntry} {e : OxEntry} (hh : (s.ox p).head .epilogue = some (before, e, after))
  (hr : oxReady before e = true)
include hh hr

/-- An EPI that overlaps its sources has no meaning (R33). -/
theorem State.epiUndefined_overlap (hov : oxOverlap e.raw = true) : s.epiUndefined p = some .oxOverlap := by
  simp [State.epiUndefined, hh, hr, hov]

/-- Nor has one that writes a bank that the Ox does not own (R253). -/
theorem State.epiUndefined_notOwned (ho : oxOpcode e.raw = 3) (hov : oxOverlap e.raw = false)
    (hown : (oxWriteBanks e.raw).all (fun b => (s.cell p).bankOwner b == ownerOx) = false) :
    s.epiUndefined p = some .bankNotOwned := by
  simp only [State.epiUndefined, hh, hr, ho, hov, hown]
  rfl

theorem State.epiUndefined_none (hov : oxOverlap e.raw = false)
    (hown : (oxWriteBanks e.raw).all (fun b => (s.cell p).bankOwner b == ownerOx) = true) : s.epiUndefined p = none := by
  simp only [State.epiUndefined, hh, hr, hov, hown]
  simp

end

/-- An EPI at the head of its pipeline that reads and writes clean words runs to completion (R25, R29). -/
theorem State.epiRun_clean {before after : List OxEntry} {e : OxEntry} (hw : s.cellsOk = true) (hb : twf 0 s.errs.spBad = true)
    (hh : (s.ox p).head .epilogue = some (before, e, after)) (hr : oxReady before e = true) (ho : oxOpcode e.raw = 3)
    (hi : (oxPieces (oxReads e.kc e.raw)).all (fun x => s.spClean p x.1 x.2) = true) :
    let out := epiRows (fun a => tget 0 (s.cell p).sp a) (s.ox p) e.raw (ox16 e.raw 6) 0 (s.ox p).seed
    out.1.all (fun x => s.spClean p x.1 x.2.length) = true →
    s.cellIs (s.epiRun p) p { s.cell p with
      ox := Ox.settle { s.ox p with inflight := before ++ { e with done := true } :: after, seed := out.2 }
      sp := out.1.foldl (fun m x => writeBytes m x.1 x.2) (s.cell p).sp } := by
  intro out hout
  have hu := State.cellIs_countCell (State.cellIs_refl (p := p) hw) 3 (128 * oxLines e (oxPieces (oxReads e.kc e.raw)))
  obtain ⟨v, hv, hvc⟩ := State.epiWrite_clean hb hu hout
  have hox : v.ox p = s.ox p := by rw [State.cellIs_ox hvc]; rfl
  have hrun : s.epiRun p = v.setOx p (Ox.settle { s.ox p with inflight := before ++ { e with done := true } :: after, seed := out.2 }) := by
    simp only [State.epiRun, hh, ho, hr, State.oxRead_clean hi, State.cellIs_ox hu, State.cellIs_sp hu, and_self, if_true]
    rw [← State.ox, hv]
    simp only [hox]
    rfl
  rw [hrun]
  exact State.cellIs_setOx hvc _

end

/-- Settles O18: an EPI at the head of its pipeline runs over clean words to its end, and stops where R33 or R253 leaves it undefined. -/
theorem epiWritesItsRows : Obligations.EpiWritesItsRows := by
  unfold Obligations.EpiWritesItsRows
  intro s p before e after hw hb hp o c out owned hh hr ho
  rw [exec_epi, execEpi, s.onClock_run p _ hp]
  refine ⟨fun hov hown hi hout => ?_, fun hov => ?_, fun hov hown => ?_⟩
  · obtain ⟨-, ⟨hrest, hcells⟩, hcell⟩ := State.epiRun_clean hw hb hh hr ho hi hout
    rw [State.epiUndefined_none hh hr hov hown]
    exact ⟨_, rfl, hrest, hcells, hcell⟩
  · rw [State.epiUndefined_overlap hh hr hov]
  · rw [State.epiUndefined_notOwned hh hr ho hov hown]

end Sys2Proof.Machine
end

section
/-! The Harness and memory: no read or write of memory, by the coherence protocol or by the device itself, reaches the Harness's
registers. One rule per operation, in the order of the definitions. -/
namespace Sys2Proof.Machine

variable (s : State)

/-- Steps that each leave the Harness alone leave it alone together. -/
theorem foldl_harness {α : Type} {f : State → α → State} (hf : ∀ t x, (f t x).harness = t.harness) (l : List α) :
    (l.foldl f s).harness = s.harness := by
  induction l generalizing s with
  | nil => rfl
  | cons x l ih => rw [List.foldl_cons, ih, hf]

/-! Memory, its errors, and the counts of accesses. -/

@[simp] theorem State.noteKey_harness (a n key : Nat) : (s.noteKey a n key).harness = s.harness := by
  unfold State.noteKey; simp only []; split <;> rfl

@[simp] theorem State.noteWrite_harness (a n : Nat) : (s.noteWrite a n).harness = s.harness := rfl

@[simp] theorem State.writeMem_harness (a : Nat) (bs : List Byte) : (s.writeMem a bs).harness = s.harness := by
  unfold State.writeMem; split
  · rfl
  · simp

@[simp] theorem State.writePhys_harness (a : Nat) (bs : List Byte) : (s.writePhys a bs).harness = s.harness := by
  unfold State.writePhys; split <;> simp

@[simp] theorem State.msix_harness (v : Nat) : (s.msix v).harness = s.harness := by
  unfold State.msix; split
  · split <;> rfl
  · rfl

@[simp] theorem State.acReport_harness (g : Nat) (e : AcEntry) : (s.acReport g e).harness = s.harness := by
  unfold State.acReport; simp only []; split
  · rfl
  · split <;> simp

@[simp] theorem State.acTouch_harness (g part a lines : Nat) : (s.acTouch g part a lines).harness = s.harness := by
  unfold State.acTouch; simp only []; split
  · rfl
  · rw [apply_ite State.harness, State.acReport_harness]; exact ite_self _

@[simp] theorem State.countMem_harness (l : Nat) (w : Bool) (m : Nat) : (s.countMem l w m).harness = s.harness := by
  unfold State.countMem; simp only []; split
  · simp
  · split <;> simp

@[simp] theorem State.countLlc_harness (l : Nat) (hit : Bool) (m : Nat) : (s.countLlc l hit m).harness = s.harness := by
  unfold State.countLlc; split <;> simp

@[simp] theorem State.flipLine_harness (l : Nat) : (s.flipLine l).harness = s.harness := by
  unfold State.flipLine; simp only []; split <;> rfl

@[simp] theorem State.ctlWritten_harness (l m : Nat) : (s.ctlWritten l m).harness = s.harness := by simp [State.ctlWritten]

@[simp] theorem State.countEcc_harness (c : Nat) (ce : Bool) : (s.countEcc c ce).harness = s.harness := rfl

@[simp] theorem State.scrubWrite_harness (l : Nat) : (s.scrubWrite l).harness = s.harness := by simp [State.scrubWrite]

@[simp] theorem State.summaryUp_harness (q place : Nat) : (s.summaryUp q place).harness = s.harness := by
  unfold State.summaryUp; split <;> rfl

@[simp] theorem State.summaryError_harness (kind struct_ part : Nat) : (s.summaryError kind struct_ part).harness = s.harness := by
  unfold State.summaryError; split
  · rfl
  · split
    · simp
    · split
      · simp
      · split <;> simp

@[simp] theorem State.putErr_harness (bs : List Byte) : (s.putErr bs).harness = s.harness := by
  unfold State.putErr; simp only []; split
  · rfl
  · split <;> simp

@[simp] theorem State.logErr_harness (kind struct_ unit addr part pos value : Nat) :
    (s.logErr kind struct_ unit addr part pos value).harness = s.harness := by
  unfold State.logErr; simp only []; split
  · split <;> simp
  · simp

@[simp] theorem State.memCheck_harness (l key : Nat) : (s.memCheck l key).2.harness = s.harness := by
  unfold State.memCheck; simp only []; split
  · simp
  · split
    · simp
    · split
      · split <;> rfl
      · simp

@[simp] theorem State.memDemand_harness (l key m : Nat) : (s.memDemand l key m).2.harness = s.harness := by simp [State.memDemand]

@[simp] theorem State.putLine_harness (l : Nat) (d : Line) (key : Nat) : (s.putLine l d key).harness = s.harness := by
  unfold State.putLine; split <;> simp

/-! The LLC and what a home reads and writes. -/

@[simp] theorem State.llcPlace_harness (l : Nat) (e : LlcLine) : (s.llcPlace l e).harness = s.harness := rfl

@[simp] theorem State.llcDrop_harness (l m : Nat) : (s.llcDrop l m).harness = s.harness := by
  unfold State.llcDrop; split
  · rfl
  · simp only []; split <;> simp

@[simp] theorem State.llcAlloc_harness (l who : Nat) (dirty : Bool) (under : Line) (m : Nat) :
    (s.llcAlloc l who dirty under m).harness = s.harness := by
  unfold State.llcAlloc; simp only []; split
  · rfl
  · split
    · split <;> simp
    · split
      · rfl
      · split <;> simp

@[simp] theorem State.homeRead_harness (l who : Nat) (alloc : Bool) (key m : Nat) :
    (s.homeRead l who alloc key m).2.harness = s.harness := by
  have hm (t : State) := t.memDemand_harness l key m
  unfold State.homeRead; simp only []; split
  · simp
  · split
    next t h => simpa [h] using hm (s.countLlc l (s.llcLine l).isSome m)
    next d t h =>
      have ht : t.harness = s.harness := by simpa [h] using hm (s.countLlc l (s.llcLine l).isSome m)
      split <;> simp [ht]

@[simp] theorem State.homeWrite_harness (l who : Nat) (alloc : Bool) (d : Line) (key m : Nat) :
    (s.homeWrite l who alloc d key m).harness = s.harness := by
  unfold State.homeWrite; simp only []; split <;> simp

/-! Agents. -/

@[simp] theorem State.setAgent_harness (a : Nat) (l : LineNo) (x : AgentLine) : (s.setAgent a l x).harness = s.harness := rfl

@[simp] theorem State.agentTo_harness (a : Nat) (l : LineNo) (st : AgentState) : (s.agentTo a l st).harness = s.harness := rfl

@[simp] theorem State.request_harness (a : Nat) (l : LineNo) (i : Instr) : (s.request a l i).harness = s.harness := by
  unfold State.request; simp only []; split
  · simp
  · rfl

@[simp] theorem State.loseReservation_harness (a : Nat) (l : LineNo) : (s.loseReservation a l).harness = s.harness := by
  unfold State.loseReservation; split <;> rfl

@[simp] theorem State.agentLose_harness (a : Nat) (l : LineNo) (st : AgentState) : (s.agentLose a l st).harness = s.harness := by
  simp [State.agentLose]

@[simp] theorem State.replaceLine_harness (a : Nat) (l : LineNo) : (s.replaceLine a l).harness = s.harness := by
  unfold State.replaceLine; simp only []; split <;> simp

theorem State.makeRoom_harness {a : Nat} {l : LineNo} {t : State} (h : s.makeRoom a l = some t) : t.harness = s.harness := by
  unfold State.makeRoom at h; simp only [] at h; split at h
  · cases h; rfl
  · split at h
    · cases h; simp
    · cases h

@[simp] theorem State.wantRead_harness (a : Nat) (l : LineNo) (so : Bool) : (s.wantRead a l so).harness = s.harness := by
  unfold State.wantRead; split
  · split
    next t h => simp [s.makeRoom_harness h]
    · rfl
  · rfl

@[simp] theorem State.rereadTail_harness (a : Nat) (l : LineNo) : (s.rereadTail a l).harness = s.harness := by
  unfold State.rereadTail; split
  · split <;> simp
  · rfl

/-! Homes. -/

@[simp] theorem State.setHome_harness (h : Nat) (x : Home) : (s.setHome h x).harness = s.harness := rfl

@[simp] theorem State.noteServed_harness (h : Nat) (l : LineNo) (a : Nat) : (s.noteServed h l a).harness = s.harness := rfl

@[simp] theorem State.setHomeLine_harness (l : LineNo) (x : HomeLine) : (s.setHomeLine l x).harness = s.harness := rfl

@[simp] theorem State.freePool_harness (h q : Nat) (l : LineNo) : (s.freePool h q l).harness = s.harness := by
  unfold State.freePool; simp only []; split <;> rfl

@[simp] theorem State.freeEntry_harness (l : LineNo) (r : HomeReq) : (s.freeEntry l r).harness = s.harness := by
  unfold State.freeEntry; split <;> simp

@[simp] theorem State.sendInv_harness (l : LineNo) (t : List Nat) : (s.sendInv l t).harness = s.harness :=
  foldl_harness s (fun t i => t.send_harness i) _

@[simp] theorem State.serve_harness (l : LineNo) (r : Nat) (mk : Line → Instr) : (s.serve l r mk).2.harness = s.harness := by
  have hr := s.homeRead_harness l.toNat (s.partOfAgent r l) (isCellEp r) 0 (s.agentMaster r)
  unfold State.serve; split
  next h => simpa [h] using hr
  next h => simpa [h] using hr

/-- The state after a line has been served. -/
theorem State.harness_of_serve {l : LineNo} {r : Nat} {mk : Line → Instr} {b : Bool} {t : State} (h : s.serve l r mk = (b, t)) :
    t.harness = s.harness := by simpa [h] using s.serve_harness l r mk

@[simp] theorem State.noteAmo_harness (l : Nat) (b : BitVec 192) : (s.noteAmo l b).harness = s.harness := rfl

@[simp] theorem State.doneShown_harness (ep : Nat) (l : LineNo) (b : BitVec 192) : (s.doneShown ep l b).harness = s.harness := by
  unfold State.doneShown; split
  · rfl
  · simp only []; split <;> rfl

@[simp] theorem State.homeAmo_harness (l : LineNo) (r : Nat) (b : BitVec 192) (c : Bool) : (s.homeAmo l r b c).harness = s.harness := by
  have hr := s.homeRead_harness l.toNat 0x3F false 0 (s.agentMaster r)
  unfold State.homeAmo; simp only []; split
  next h => simpa [h] using hr
  next h => simpa [h] using hr

@[simp] theorem State.setNc_harness (q : NcReq) : (s.setNc q).harness = s.harness := rfl

@[simp] theorem State.ncPerform_harness (l : LineNo) (r : HomeReq) : (s.ncPerform l r).harness = s.harness := by
  have hr (q : NcReq) (alloc : Bool) := s.homeRead_harness l.toNat q.who alloc q.key q.charge
  unfold State.ncPerform; simp only []
  cases r <;> simp only []
  case read id =>
    split
    · rfl
    next q _ => rcases h : s.homeRead l.toNat q.who q.alloc q.key q.charge with ⟨_ | d, t⟩ <;> simpa [h] using hr q q.alloc
  case write id d n =>
    split
    · rfl
    next q _ =>
      split
      · simp
      · rcases h : s.homeRead l.toNat q.who false q.key q.charge with ⟨_ | d, t⟩ <;> simpa [h] using hr q false
  case remote id b =>
    split
    · rfl
    next q _ => rcases h : s.homeRead l.toNat q.who false q.key q.charge with ⟨_ | d, t⟩ <;> simpa [h] using hr q false

@[simp] theorem State.muleAmo_harness (l : LineNo) (r : HomeReq) (x : HomeLine) : (s.muleAmo l r x).harness = s.harness := by
  unfold State.muleAmo; simp only []
  repeat' split
  all_goals simp

/-! Every branch of a home's tables sends messages, serves or writes the line, and replaces the line's entry. -/

@[simp] theorem State.homeAct_harness (l : LineNo) (x : HomeLine) (r : HomeReq) : (s.homeAct l x r).harness = s.harness := by
  unfold State.homeAct; simp only []
  cases r <;> simp only []
  all_goals repeat' split
  all_goals simp
  all_goals exact s.harness_of_serve (by assumption)

@[simp] theorem State.homeActOO_harness (l : LineNo) (x : HomeLine) (r : HomeReq) : (s.homeActOO l x r).harness = s.harness := by
  unfold State.homeActOO
  cases r <;> simp only []
  all_goals repeat' split
  all_goals simp
  all_goals exact s.harness_of_serve (by assumption)

@[simp] theorem State.homeServe_harness (l : LineNo) (x : HomeLine) (r : HomeReq) : (s.homeServe l x r).harness = s.harness := by
  unfold State.homeServe; simp only []; split <;> split <;> simp

@[simp] theorem State.homeRun_harness (l : LineNo) (k : Nat) : (s.homeRun l k).harness = s.harness := by
  induction k generalizing s l with
  | zero => rfl
  | succ k ih =>
    unfold State.homeRun; simp only []
    generalize hs : List.foldl _ s _ = t
    have ht : t.harness = s.harness := by rw [← hs]; exact foldl_harness s (fun u w => by rw [ih]; rfl) _
    rw [← ht]
    repeat' split
    all_goals simp [ih]

@[simp] theorem State.homeNext_harness (l : LineNo) : (s.homeNext l).harness = s.harness := s.homeRun_harness l _

@[simp] theorem State.writeBack_harness (l : LineNo) (m : Nat) : (s.writeBack l m).harness = s.harness := by
  unfold State.writeBack; split <;> simp

@[simp] theorem State.uncache_harness (l : LineNo) : (s.uncache l).harness = s.harness := by
  unfold State.uncache; split <;> rfl

@[simp] theorem State.flushLine_harness (l : LineNo) (discard : Bool) (m : Nat) : (s.flushLine l discard m).harness = s.harness := by
  have hlose (t : State) (e : Nat × AgentLine) : (t.agentLose (e.1 % 2048) l .I).harness = t.harness := t.agentLose_harness _ l .I
  have hread (t : State) (e : Nat × AgentLine) : (t.rereadTail (e.1 % 2048) l).harness = t.harness := t.rereadTail_harness _ l
  unfold State.flushLine; simp only [foldl_harness _ hread]
  cases discard <;> simp [foldl_harness _ hlose]

/-! The device's own writes. -/

@[simp] theorem State.devOwn_harness (l a : Nat) (bs : List Byte) (m : Nat) : (s.devOwn l a bs m).harness = s.harness := by
  unfold State.devOwn; simp only []; split
  · rfl
  · split
    · simp
    · rw [foldl_harness]; intros; rfl

@[simp] theorem State.devLine_harness (a : Nat) (bs : List Byte) (m l : Nat) : (s.devLine a bs m l).harness = s.harness := by
  have hm (t : State) := t.memDemand_harness l 0 m
  unfold State.devLine; simp only []
  generalize hu : (s.devOwn l a bs m).countLlc l ((s.devOwn l a bs m).llcLine l).isSome m = u
  have huh : u.harness = s.harness := by rw [← hu]; simp
  split
  · simp [huh]
  · split
    · simp [huh]
    · have := hm u
      split <;> simp_all

/-- What the device writes to memory leaves the Harness alone. -/
@[simp] theorem State.devWrite_harness (a : Nat) (bs : List Byte) (m : Nat) : (s.devWrite a bs m).harness = s.harness := by
  unfold State.devWrite; split
  · simp
  · split
    · rfl
    · rw [foldl_harness _ fun t l => t.devLine_harness a bs m l]; simp

end Sys2Proof.Machine
end

section
/-! What stop words, scans, counters, the log and register accesses do (O56). -/
namespace Sys2Proof.Machine

section
variable (s : State)

/-! Stop words (R580 to R584). -/

theorem bfield_eq_extractLsb' {n : Nat} (v : BitVec n) (lo k : Nat) : bfield v lo k = (v.extractLsb' lo k).toNat := by
  simp [bfield, field, Nat.shiftRight_eq_div_pow]

/-- The command sets VALID and the ACTION, and keeps the scope and the slot. -/
theorem withAction_valid (a : Nat) (w : BitVec 16) : (withAction a w).getLsbD 15 = true := by simp [withAction]

theorem withAction_scope {a : Nat} (ha : a = 1 ∨ a = 2) (w : BitVec 16) : (withAction a w).getLsbD 14 = w.getLsbD 14 := by
  obtain rfl | rfl := ha <;> simp [withAction]

theorem withAction_slot {a : Nat} (ha : a = 1 ∨ a = 2) (w : BitVec 16) : bfield (withAction a w) 0 6 = bfield w 0 6 := by
  rw [bfield_eq_extractLsb', bfield_eq_extractLsb']
  congr 1
  ext i hi
  have hi' : i = 0 ∨ i = 1 ∨ i = 2 ∨ i = 3 ∨ i = 4 ∨ i = 5 := by omega
  obtain rfl | rfl := ha <;> obtain rfl | rfl | rfl | rfl | rfl | rfl := hi' <;> simp [withAction]

theorem withAction_action {a : Nat} (ha : a = 1 ∨ a = 2) (w : BitVec 16) : bfield (withAction a w) 12 2 = a := by
  have h : (withAction a w).extractLsb' 12 2 = BitVec.ofNat 2 a := by
    ext i hi
    have hi' : i = 0 ∨ i = 1 := by omega
    obtain rfl | rfl := ha <;> obtain rfl | rfl := hi' <;> simp [withAction]
  rw [bfield_eq_extractLsb', h]
  obtain rfl | rfl := ha <;> rfl

/-- A write of GSTOP_CMD does nothing below INVASIVE (R581). -/
theorem State.gstopWrite_below (origin : Nat) (v : Word) (h : s.stable.debugLevel ≠ 2) : s.gstopWrite origin v = s := by
  have hi : s.invasive = false := by simpa [State.invasive] using h
  simp [State.gstopWrite, hi]

/-- At INVASIVE it is logged and its word acts (R581). -/
theorem State.gstopWrite_invasive (origin : Nat) (x : BitVec 16) (h : s.stable.debugLevel = 2) :
    s.gstopWrite origin (x.zeroExtend 64) = (s.log 0x16 origin 0x3F 63 0x700000 (x.zeroExtend 64)).stopWord x := by
  have hi : s.invasive = true := by simpa [State.invasive] using h
  have hx : BitVec.ofNat 16 (x.zeroExtend 64).toNat = x := by
    apply BitVec.eq_of_toNat_eq
    rw [BitVec.toNat_ofNat, BitVec.zeroExtend, BitVec.toNat_setWidth]
    omega
  simp only [State.gstopWrite, hi, hx]
  rfl

variable {w : BitVec 16}

/-- A stop word of module scope stops or resumes the module (R583, R584). -/
theorem State.stopWord_module (hw : w.getLsbD 14 = true) :
    s.stopWord (withAction 1 w) = { s with dbg := { s.dbg with module := true } } ∧
    s.stopWord (withAction 2 w) = { s with dbg := { s.dbg with module := false } } := by
  constructor
  · simp only [State.stopWord, withAction_valid, withAction_scope (.inl rfl), withAction_action (.inl rfl), hw]
    rfl
  · simp only [State.stopWord, withAction_valid, withAction_scope (.inr rfl), withAction_action (.inr rfl), hw]
    rfl

/-- One of a slot freezes the slot's cells, or lets its frozen ones go on, and leaves the slot's number (R582, R584, R585). -/
theorem State.stopWord_slot (hw : w.getLsbD 14 = false) (hn : bfield w 0 6 < 48) :
    let u := { s with dbg := { s.dbg with lastCoach := BitVec.ofNat 6 (bfield w 0 6) } }
    s.stopWord (withAction 1 w) = (u.stopTargets (bfield w 0 6)).foldl (fun s p => s.setCell p { s.cell p with frozen := true }) u ∧
    s.stopWord (withAction 2 w) =
      ((u.stopTargets (bfield w 0 6)).filter fun p => (u.cell p).frozen).foldl (fun s p => s.thawCell p) u := by
  constructor
  · simp only [State.stopWord, withAction_valid, withAction_scope (.inl rfl), withAction_action (.inl rfl),
      withAction_slot (.inl rfl), hw, hn]
    rfl
  · simp only [State.stopWord, withAction_valid, withAction_scope (.inr rfl), withAction_action (.inr rfl),
      withAction_slot (.inr rfl), hw, hn]
    rfl

/-! Scans (R586). -/

/-- WRITE is clear: the command's word stands as it is. -/
theorem and_not_write {v : Word} (hv : v.getLsbD 63 = false) : v &&& ~~~(1#64 <<< 63) = v := by
  ext i hi
  by_cases h : i = 63
  · subst h
    simpa using hv
  · have hlt : i < 63 := by omega
    simp only [BitVec.getElem_and, BitVec.getElem_not, BitVec.getElem_shiftLeft, hlt]
    simp

variable {v : Word}

theorem exec_scan_jtag (hv : v.getLsbD 63 = false) (hd : s.harness.down = false) :
    exec (.scan true v) s = .next (s.scanWrite true v) := by
  simp only [exec_scan, execScan, and_not_write hv, hd]
  rfl

theorem exec_scan_pcie (hv : v.getLsbD 63 = false) (ho : s.pcieOpen = true) :
    exec (.scan false v) s = .next (s.scanWrite false v) := by
  simp only [exec_scan, execScan, and_not_write hv, s.gate_open _ ho]
  rfl

/-- A scan that fails its check records the error; one that passes takes a free value and gives the bytes (R586, R588). -/
theorem State.scanWrite_eq (jtag : Bool) :
    let bytes := s.scanBytes (bfield v 0 11) (bfield v 16 6) (bfield v 32 8)
    let e := s.scanCheck jtag v bytes.length
    let u := { s with dbg := { s.dbg with
      scanError := BitVec.ofNat 8 e, scanBytes := if e = 0 then BitVec.ofNat 32 bytes.length else 0 } }
    s.scanWrite jtag v = if e = 0 then
        (if jtag then { u with free := s.free + 1, dbg := { u.dbg with scanData := bytes } }
        else ({ u with free := s.free + 1 } : State).devWrite s.dbg.scanAddr.toNat bytes)
      else u := by
  intro bytes e u
  by_cases he : e = 0
  · rw [if_pos he]
    exact if_neg fun hne => hne he
  · rw [if_neg he]
    exact if_pos he

/-! Registers (R11, R12). -/

/-- A write from 2^32 on is one of a doorbell page. -/
theorem exec_registerWrite_page (ho : s.pcieOpen = true) (hm : s.dbg.module = false) (pg : Nat) {o : Nat} (hlt : o < 4096) :
    exec (.registerWrite (2 ^ 32 + 4096 * pg + o) v) s = s.pageWrite pg o v := by
  have hp : (2 ^ 32 + 4096 * pg + o - 2 ^ 32) / 4096 = pg := by omega
  have hq : (2 ^ 32 + 4096 * pg + o) % 4096 = o := by omega
  rw [exec_registerWrite, execRegisterWrite, if_pos (by omega), s.gateData_open _ ho hm, hp, hq]

/-- Each command of a doorbell page is the write of its offset, behind the gate of the data BARs (R361). -/
theorem exec_pageCommand {pg : Nat} {x : Nat × Instr} (hx : x ∈ [(0x00, Instr.doorbellTail pg v), (0x40, .waitLatch pg v),
      (0x48, .waitRegister pg v), (0x80, .signalLatch pg v), (0x88, .signal pg v), (0xA0, .fenceQuery pg v)]) :
    x.1 < 4096 ∧ exec x.2 s = s.gateData fun s => s.pageWrite pg x.1 v := by
  simp only [List.mem_cons, List.not_mem_nil, or_false] at hx
  obtain rfl | rfl | rfl | rfl | rfl | rfl := hx <;> exact ⟨by simp, rfl⟩

/-- At an offset that the page does not list it is ignored and counted (R361). -/
theorem State.pageWrite_unlisted (pg : Nat) {o : Nat} (ho : o ∉ [0x00, 0x40, 0x48, 0x80, 0x88, 0xA0, 0xC0]) :
    s.pageWrite pg o v = .next s.dbIgnore := by
  unfold State.pageWrite
  split <;> simp_all

/-- An offset that holds no register: the write does nothing. -/
theorem State.bar0Write_none {off : Nat} (h : (regBlock off).1 = .none) : s.bar0Write off v = s := by
  simp only [State.bar0Write, h]

/-- A read of BAR0 completes with the register's value and clears what is RC (R12). -/
theorem exec_rcRegisterRead_bar0 (ho : s.pcieOpen = true) (hm : s.dbg.module = false) {off : Nat} (hlt : off < 2 ^ 32) :
    exec (.rcRegisterRead off) s = .next ((s.bar0Clear off).emit (.completion (bytesOf 8 (s.bar0Read off)))) := by
  have hr : s.regRead off = (s.bar0Clear off).emit (.completion (bytesOf 8 (s.bar0Read off))) := by
    simp only [State.regRead, hm, if_neg (Nat.not_le.mpr hlt)]
    rfl
  rw [exec_rcRegisterRead, execRcRegisterRead, s.gate_open _ ho, hr, ite_self]

/-! The log (R573, R576). -/

/-- The oldest entry drains to the ring while the ring has room; nothing else enters the log, so it need not be signed. -/
theorem exec_changeLogDrain_room {e : List Byte} {rest : List (List Byte)} (hb : s.harness.logBuf = e :: rest)
    (hr : s.harness.logTail.toNat - s.harness.logHead.toNat < 2 ^ 20) :
    exec .changeLogDrain s = .next (({ s with harness := { s.harness with logBuf := rest, logTail := s.harness.logTail + 1 } } : State).devWrite
      (s.harness.logBase.toNat + s.harness.logTail.toNat % 2 ^ 20 * 64) e) := by
  have hd : s.logDrain = ({ s with harness := { s.harness with logBuf := rest, logTail := s.harness.logTail + 1 } } : State).devWrite
      (s.harness.logBase.toNat + s.harness.logTail.toNat % 2 ^ 20 * 64) e := by
    simp only [State.logDrain, hb, if_pos hr]
  rw [exec_changeLogDrain, execChangeLogDrain, hd, State.logSpan, State.devWrite_harness, if_neg (Nat.lt_irrefl _)]

/-! Counters (R593). -/

/-- COUNTER_EXPORT, once due, writes the slot's counters and notes the tick. -/
theorem exec_counterExport_due (n : Slot) (hm : s.dbg.module = false) (he : (tget 0 s.dbg.ctrExport n.val).getLsbD 0 = true)
    (hd : tget 0 s.dbg.exportAt n.val = 0 ∨ tget 0 s.dbg.exportAt n.val + 100000 ≤ s.tick + 1) :
    let u := s.devWrite (bfield (tget 0 s.dbg.ctrExport n.val) 7 45 * 128) (s.exportBytes n)
    exec (.counterExport n) s = .next { u with dbg := { u.dbg with exportAt := tset 0 u.dbg.exportAt n.val (u.tick + 1) } } := by
  have hnot : (tget 0 s.dbg.exportAt n.val != 0 && decide (s.tick + 1 < tget 0 s.dbg.exportAt n.val + 100000)) = false := by
    obtain h | h := hd
    · simp [h]
    · simp [Nat.not_lt.mpr h]
  simp only [exec_counterExport, execCounterExport, s.onModule_run _ hm, he, hnot]
  rfl

/-! Configuration requests and completions (R349, R553). -/

theorem exec_configurationRequest_answered (q : CfgReq) (hd : s.harness.down = false)
    (hr : s.harness.ready = true ∨ s.harness.recovery = true) :
    exec (.configurationRequest q) s =
      .next ((s.cfgRequest q).1.emit (.completion (if q.write.isSome then [] else bytesOf 4 (s.cfgRequest q).2))) := by
  have hr' : (s.harness.ready || s.harness.recovery) = true := by simpa using hr
  simp only [exec_configurationRequest, execConfigurationRequest, hd, hr']
  rfl

/-- Data of host memory that no read waits for is written to what the device sees. -/
theorem exec_pcieCompletion_no_reads (a : Nat) (data : List Byte) (h : s.host.reads = []) :
    exec (.pcieCompletion a data) s = .next (({ s with hostMem := writeBytes s.hostMem a data } : State).countGlobal 577 data.length) := by
  have hh : { s.host with reads := [] } = s.host := by rw [← h]
  simp only [exec_pcieCompletion, execPcieCompletion, State.countGlobal_host, h, List.map_nil, List.filter_nil, List.foldl_nil, hh]
  rfl

end

/-- Settles O56: each command's answer, case by case, from what its shared operation does. -/
theorem debugCountersAndRegistersAct : Obligations.DebugCountersAndRegistersAct := by
  unfold Obligations.DebugCountersAndRegistersAct
  refine ⟨fun s w hl => ⟨fun hw => ?_, fun hw hn => ?_⟩, fun s w hl => ?_,
    fun s v hv => ⟨fun hd => ?_, fun ho => ?_, fun data hl hm hp => ?_⟩,
    fun s n v ho => ?_, fun s n hm he hd => exec_counterExport_due s n hm he hd,
    fun s e rest hb hr => exec_changeLogDrain_room s hb hr, fun s q hd => ?_,
    fun s a data h => exec_pcieCompletion_no_reads s a data h⟩
  -- STOP and RESUME
  · simp only [exec_stop, exec_resume, execStop, execResume, State.gstopWrite_invasive _ _ _ hl, State.stopWord_module _ hw, and_self]
  · simp only [exec_stop, exec_resume, execStop, execResume, State.gstopWrite_invasive _ _ _ hl]
    exact ⟨congrArg _ (State.stopWord_slot _ hw hn).1, congrArg _ (State.stopWord_slot _ hw hn).2⟩
  · simp only [exec_stop, exec_resume, execStop, execResume, s.gstopWrite_below _ _ hl, and_self]
  -- SCAN and SCAN_IN
  · rw [exec_scan_jtag s hv hd, State.scanWrite_eq]
    rfl
  · rw [exec_scan_pcie s hv ho, State.scanWrite_eq]
    rfl
  · have hi : s.invasive = true := by simpa [State.invasive] using hl
    simp only [exec_scanIn, execScanIn, hi, hm, hp]
    rfl
  -- over PCIe
  · refine ⟨fun hv => ?_, fun hq hh hown => ?_, fun hv => ?_, fun off hlt => ?_, fun pg hm => ⟨?_, fun o hlt hn => ?_⟩, rfl, rfl, rfl,
      fun off h => s.bar0Write_none h, fun hm => ⟨fun off hlt => exec_rcRegisterRead_bar0 s ho hm hlt, rfl, rfl, rfl, rfl⟩⟩
    · rw [exec_ctrSnap, execCtrSnap, s.gate_open _ ho, State.ctrSnapWrite, if_pos hv]
    · simp only [exec_ctrExportWrite, execCtrExportWrite, s.gate_open _ ho, State.ctrExportWrite, hq, hh, hown]
      simp
    · simp only [exec_logSign, execLogSign, s.gate_open _ ho, State.logSignWrite, hv]
      rfl
    · rw [exec_registerWrite, execRegisterWrite, if_neg (Nat.not_le.mpr hlt), s.gate_open _ ho]
    · intro x hx
      obtain ⟨hlt, hx⟩ := exec_pageCommand s hx
      rw [exec_registerWrite_page s ho hm pg hlt, hx, s.gateData_open _ ho hm]
    · rw [exec_registerWrite_page s ho hm pg hlt, s.pageWrite_unlisted pg hn]
  -- configuration requests
  · refine ⟨fun hr hc => ?_, fun hr => ⟨exec_configurationRequest_answered s q hd hr, fun n hq => ?_, fun v hq hne hlo hhi => ?_⟩⟩
    · simp only [exec_configurationRequest, execConfigurationRequest, hd, hr, hc]
      rfl
    · rw [exec_configurationRequest_answered s q hd hr, hq]
      rfl
    · have hb : s.host.setBar4 v.toNat = { s.host.closeSegs with bar4Log2 := v.toNat } := if_neg (by omega)
      rw [exec_configurationRequest_answered s q hd hr, hq]
      simp only [State.cfgRequest, hb]
      rfl

end Sys2Proof.Machine
end

section
/-! A Hen's instruction as its cell sees it: what it changes is one cell (R80 to R106). -/
namespace Sys2Proof.Machine

variable {s t : State} {p : Nat} {h : HenIx} {c : Cell}

/-! One Hen of a cell replaced. -/

theorem Cell.hens_setHen (c : Cell) (x : Hen) : (c.setHen h x).hens[h] = x := by simp [Cell.setHen]

theorem Cell.setHen_setHen (c : Cell) (x y : Hen) : (c.setHen h x).setHen h y = c.setHen h y := by simp [Cell.setHen]

theorem State.cellIs_setHen (ht : s.cellIs t p c) (x : Hen) : s.cellIs (t.setHen p h x) p (c.setHen h x) := by
  obtain ⟨h1, h2, -⟩ := State.cellIs_setCell ht ((t.cell p).setHen h x)
  refine ⟨h1, h2, ?_⟩
  rw [State.setHen, t.cell_setCell p _ ht.1, ht.2.2]
  rfl

theorem State.cellIs_hen (ht : s.cellIs t p c) : t.hen p h = c.hens[h] := by rw [State.hen, ht.2.2]

/-- An instruction that retires changes its Hen. -/
theorem State.cellIs_done (ht : s.cellIs t p c) (len : Nat) (f : Hen → Hen) :
    s.cellIs (t.done p h len f) p (c.setHen h ((f c.hens[h]).retire len)) := by
  rw [State.done, State.cellIs_hen ht]
  exact State.cellIs_countCell (State.cellIs_setHen ht _) 7 1

theorem State.cellIs_done_setHen {x : Hen} (ht : s.cellIs t p (c.setHen h x)) (len : Nat) (f : Hen → Hen) :
    s.cellIs (t.done p h len f) p (c.setHen h ((f x).retire len)) := by
  have hd := State.cellIs_done (h := h) ht len f
  rwa [Cell.setHen_setHen, Cell.hens_setHen] at hd

/-! The state that an instruction's body sees. -/

/-- The state in which a Hen executes its instruction: its stall is cleared. -/
def State.executing (s : State) (p : Nat) (h : HenIx) : State := s.setHen p h (s.hen p h).unstall

theorem State.henStep_executing {i : Instr} {len : Nat} {body : State → Out} (hr : s.henReady p h i len = true) :
    s.henStep p h i len body = body (s.executing p h) := State.henStep_ready hr

section
variable (hw : s.cellsOk = true)
include hw

theorem State.executing_cellIs : s.cellIs (s.executing p h) p ((s.cell p).setHen h (s.hen p h).unstall) :=
  State.cellIs_setHen (State.cellIs_refl hw) _

theorem State.executing_cell : (s.executing p h).cell p = (s.cell p).setHen h (s.hen p h).unstall := State.cell_setHen hw _

theorem State.executing_hen : (s.executing p h).hen p h = (s.hen p h).unstall := s.hen_setHen p h _ hw

theorem State.executing_ox : (s.executing p h).ox p = (s.cell p).ox := by rw [State.ox, State.executing_cell hw]; rfl

/-- An instruction that retires from the state that its body sees changes its Hen. -/
theorem State.executing_done (len : Nat) (f : Hen → Hen) :
    s.cellIs ((s.executing p h).done p h len f) p ((s.cell p).setHen h ((f (s.hen p h).unstall).retire len)) :=
  State.cellIs_done_setHen (State.executing_cellIs hw) len f

/-- An instruction whose body retires with an effect on its Hen changes nothing but that Hen. -/
theorem State.exec_retires {i : Instr} {len : Nat} {body : State → Out} {y : Hen} (hr : s.henReady p h i len = true) (f : Hen → Hen)
    (hi : exec i s = s.henStep p h i len body) (hf : (f (s.hen p h).unstall).retire len = y.retire len)
    (hb : body (s.executing p h) = .next ((s.executing p h).done p h len f)) :
    ∃ t, exec i s = .next t ∧ s.onlyHen t p h (y.retire len) := by
  obtain ⟨-, honly, hcell⟩ := State.executing_done (h := h) hw (p := p) len f
  refine ⟨_, hi.trans ((State.henStep_executing hr).trans hb), honly, ?_⟩
  rw [hcell, hf]
  rfl

end

/-! Counts and owners. -/

/-- A count has reached a value modulo 2^32 where their difference is below 2^31 (R96). -/
theorem countReached_iff (count : BitVec 32) (v : Word) :
    countReached count v = true ↔ (count.toNat + 2 ^ 32 - v.toNat % 2 ^ 32) % 2 ^ 32 < 2 ^ 31 := by
  have hv : v.toNat % 2 ^ 32 < 2 ^ 32 := Nat.mod_lt _ (by decide)
  rw [countReached, decide_eq_true_iff, BitVec.toNat_sub, BitVec.toNat_ofNat,
    show 2 ^ 32 - v.toNat % 2 ^ 32 + count.toNat = count.toNat + 2 ^ 32 - v.toNat % 2 ^ 32 by omega]

/-- With no handover accepted the next owner of a bank is its owner (R101). -/
theorem Cell.nextOwner_of_no_handover {b : Nat} (hb : tget [] c.handover b = []) : c.nextOwner b = c.bankOwner b := by
  simp [Cell.nextOwner, hb]

theorem Cell.nextOwner_setHen (c : Cell) (x : Hen) (b : Nat) : (c.setHen h x).nextOwner b = c.nextOwner b := rfl

theorem ownerHen_ne_reserved (h : HenIx) : ¬ ownerHen h = 7#3 := by revert h; decide

/-- BANK.GIVE of a bank to the owner it has retires at once (R100). -/
theorem exec_bankGive_to_owner {p : Pcell} {rd rs1 rs2 : Reg} {b : Nat} (hw : s.cellsOk = true)
    (hr : s.henReady p h (.bankGive p h rd rs1 rs2) 4 = true) (hb : ((s.hen p h).getX rs1).toNat % 16 = b)
    (hn : tget [] (s.cell p).handover b = []) (ho : (s.cell p).bankOwner b ∈ [ownerHen h, ownerOx, 5, 6])
    (he : BitVec.ofNat 3 ((s.hen p h).getX rs2).toNat = (s.cell p).bankOwner b) :
    ∃ t, exec (.bankGive p h rd rs1 rs2) s = .next t ∧
      s.onlyHen t p h (((s.hen p h).setX rd (BitVec.ofNat 64 ((s.cell p).bankOwner b).toNat)).retire 4) := by
  refine State.exec_retires hw hr (·.setX rd _) (exec_bankGive s p h rd rs1 rs2) (Hen.setX_unstall _ _ _ _) ?_
  simp only [State.executing_hen hw, State.executing_cell hw, Hen.getX_unstall, Cell.setHen_handover, Cell.nextOwner_setHen,
    hb, hn, Cell.nextOwner_of_no_handover hn, he, List.any_nil]
  simp only [List.mem_cons, List.not_mem_nil, or_false] at ho
  obtain ho | ho | ho | ho := ho <;> simp [ho, ownerOx, ownerHen_ne_reserved]

end Sys2Proof.Machine
end

section
namespace Sys2Proof.Machine

/-- Settles O3: each of these instructions retires with an effect on its Hen alone. -/
theorem waitsAndReadsRetire : Obligations.WaitsAndReadsRetire := by
  unfold Obligations.WaitsAndReadsRetire
  intro s p h hw x c retires reached
  have hx : (s.executing p h).hen p h = x.unstall := State.executing_hen hw
  have hc : (s.executing p h).cell p = c.setHen h x.unstall := State.executing_cell hw
  have ho : (s.executing p h).ox p = c.ox := State.executing_ox hw
  refine ⟨fun rs1 hh hc' hr => ?_, fun rs1 d hd hr => ?_, fun vs2 hh hr => ?_, fun vs2 d hd hr => ?_, fun vd m q hq hr => ?_,
    fun hi hr => ?_, fun id hy hr => ?_, fun rd rs1 hr => ?_, fun rd hr => ?_,
    fun rd rs1 rs2 hn hown he hr => exec_bankGive_to_owner hw hr rfl hn hown he,
    fun pred succ hr => ?_,
    fun hr => ?_⟩
  -- OX.WAIT and DRAY.WAIT
  · refine State.exec_retires hw hr id (exec_oxWait s p h rs1) rfl ?_
    simp [ho, hh, hx, (countReached_iff _ _).mpr hc']
  · refine State.exec_retires hw hr id (exec_drayWait s p h rs1 d) rfl ?_
    simp [hc, hx, (countReached_iff _ _).mpr hd]
  -- OX.ISSUE and DRAY.ISSUE to a halted unit
  · refine State.exec_retires hw hr id (exec_oxIssue s p h vs2) rfl ?_
    simp [ho, hh]
  · refine State.exec_retires hw hr id (exec_drayIssue s p h vs2 d) rfl ?_
    simp [hc, hd]
  -- GIG.RECV
  · refine State.exec_retires hw hr (fun x => { x.setV vd (BitVec.ofNat 512 (gigBits m)) with recvQ := q }) (exec_gigRecv s p h vd) rfl ?_
    have hq' : ((s.executing p h).hen p h).recvQ = m :: q := by rw [hx]; exact hq
    simp only [hq']
  -- WFI
  · refine State.exec_retires hw hr id (exec_wfi s p h) rfl ?_
    have hi' : (s.executing p h).mip p h &&& ((s.executing p h).hen p h).mie ≠ 0 := by rwa [State.mip, ho, hx]
    exact if_pos hi'
  -- YIELD
  · refine State.exec_retires hw hr (fun x => { x with lastYield := id }) (exec_yield s p h id) rfl ?_
    have hy' : ((s.executing p h).hen p h).yieldPend = false := by rw [hx]; exact hy
    simp [hy']
  -- BANK.OWNER and EPOCH.GET
  · refine State.exec_retires hw hr (·.setX rd _) (exec_bankOwner s p h rd rs1) (Hen.setX_unstall _ _ _ _) ?_
    simp [State.done, hx, hc]
  · refine State.exec_retires hw hr (·.setX rd _) (exec_epochGet s p h rd) (Hen.setX_unstall _ _ _ _) ?_
    have he (n : Nat) : (s.executing p h).epochOf n = s.epochOf n := rfl
    simp only [hc, he, Cell.setHen_slot, c]
  -- FENCE and FENCE.I
  · exact State.exec_retires hw hr id (exec_fence s p h pred succ) rfl rfl
  · exact State.exec_retires hw hr (fun x => { x with fenceSeq := s.writeSeq - 1 }) (exec_fenceI s p h) rfl rfl

end Sys2Proof.Machine
end

section
/-! What the registers read after reset (O58). -/
namespace Sys2Proof.Machine

/-- Nothing is placed: every cell is as its fields' defaults give it. -/
theorem State.reset_cell (p : Nat) : State.reset.cell p = {} := rfl

theorem State.reset_hen (p : Nat) (h : HenIx) : State.reset.hen p h = {} := by
  rw [State.hen, State.reset_cell]
  simp

/-- The classes' weights after reset (R414). -/
theorem State.reset_class (c : ClassIx) : State.reset.bar0Read (0x200100 + 8 * c.val) = 1#64 <<< 40 := by
  revert c
  decide

/-- The BAR4 segments after reset (R346). -/
theorem State.reset_seg (k : SegIx) : State.reset.bar0Read (0x130000 + 8 * k.val) = 0x3F00 := by
  revert k
  decide

/-- The partitions' lowest frequencies after reset (R551). -/
theorem State.reset_strictMhz (q : PartIx) : State.reset.bar0Read (0x500100 + 8 * q.val) = 1000 := by
  revert q
  decide

/-- Settles O58: the tables of the reset state list nothing, and its registers are read at their offsets. -/
theorem resetLeavesTheSpecsValues : Obligations.ResetLeavesTheSpecsValues := by
  unfold Obligations.ResetLeavesTheSpecsValues
  refine ⟨rfl, rfl, rfl, rfl, rfl, rfl, rfl, rfl, rfl, rfl, fun p h => ?_, fun p b => ?_, fun p => ?_, ?_⟩
  · rw [State.reset_hen]
    exact ⟨rfl, rfl⟩
  · exact ⟨rfl, rfl⟩
  · exact ⟨rfl, rfl⟩
  · refine ⟨by decide, by decide, by decide, by decide, State.reset_class, State.reset_seg, by decide, by decide, State.reset_strictMhz,
      by decide, by decide, by decide, by decide⟩

end Sys2Proof.Machine
end

section
/-! How the Ox settles, and what its dispatcher and its retirement do (R28 to R31). -/
namespace Sys2Proof.Machine

/-! The start of the heads (R29). -/

/-- Starting commands changes nothing of them but that they have started. -/
theorem map_oxStartAll {α : Type} {f : OxEntry → α} (hf : ∀ e : OxEntry, f { e with started := true } = f e) (frozen : Bool)
    (before l : List OxEntry) : (oxStartAll frozen before l).map f = (before ++ l).map f := by
  induction l generalizing before with
  | nil => rw [oxStartAll, List.append_nil]
  | cons e l ih =>
    have he : f (if oxMayStart frozen before e then { e with started := true } else e) = f e := by
      split
      · exact hf e
      · rfl
    rw [oxStartAll, ih]
    simp [he]

theorem Ox.map_startHeads {α : Type} {f : OxEntry → α} (hf : ∀ e : OxEntry, f { e with started := true } = f e) (o : Ox) :
    o.startHeads.inflight.map f = o.inflight.map f := map_oxStartAll hf o.frozen [] o.inflight

section
variable {o : Ox}

/-- With no seed write and no flush that waits for an EPI, the end of one brings nothing (R47). -/
theorem Ox.afterEpi_of_nothing (hs : o.seedPending = none) (hf : o.flushAfterEpi = false) : o.afterEpi = o := by
  unfold Ox.afterEpi
  split
  · rfl
  · simp [hs, hf]

/-- Once every command in flight has completed, the buffers of a faulted WLOAD are empty (R619). -/
def Ox.emptied (o : Ox) : Ox :=
  if o.inflight.all (·.done) then { o with
    wb0 := if o.emptyAfter.contains 0 then none else o.wb0
    wb1 := if o.emptyAfter.contains 1 then none else o.wb1
    emptyAfter := [] }
  else o

/-- After that a FLUSH ends that waits for no command any more (R36). -/
theorem Ox.endFlush_eq (o : Ox) : o.endFlush =
    if o.emptied.flushPending && o.emptied.inflight.all (fun e => e.done || e.late) then
      { o.emptied with halt := false, fault := 0, flushPending := false }
    else o.emptied := rfl

/-- Where no buffer is to be emptied nothing changes. -/
theorem Ox.emptied_of_nothing (he : o.emptyAfter = []) : o.emptied = o := by
  cases o
  cases he
  exact ite_self _

theorem Ox.emptied_flushPending (o : Ox) : o.emptied.flushPending = o.flushPending := by
  unfold Ox.emptied
  split <;> rfl

/-- No FLUSH ends where none is pending. -/
theorem Ox.endFlush_of_no_flush (hf : o.flushPending = false) : o.endFlush = o.emptied := by
  rw [Ox.endFlush_eq, Ox.emptied_flushPending, hf]
  rfl

/-- Then settling only starts commands (R29). -/
theorem Ox.settle_of_nothing (hs : o.seedPending = none) (hf : o.flushAfterEpi = false) (hp : o.flushPending = false)
    (he : o.emptyAfter = []) : o.settle = o.startHeads := by
  rw [Ox.settle, Ox.afterEpi_of_nothing hs hf, Ox.endFlush_of_no_flush hp, Ox.emptied_of_nothing he]

end

/-! The first command of a kind. -/

theorem splitFirst_append {f : OxEntry → Bool} {before after : List OxEntry} {e : OxEntry} (hb : ∀ b ∈ before, f b = false)
    (he : f e = true) : splitFirst f (before ++ e :: after) = some (before, e, after) := by
  induction before with
  | nil => simp [splitFirst, he]
  | cons b l ih =>
    have hl := ih fun x hx => hb x (List.mem_cons_of_mem b hx)
    simp [splitFirst, hb b List.mem_cons_self, hl]

/-- A NOP with no BARRIER before it completes (R31, R39). -/
theorem Ox.finishFirst_nop {o : Ox} {before after : List OxEntry} {e : OxEntry} (hi : o.inflight = before ++ e :: after)
    (he : e.done = false) (hop : oxOpcode e.raw = 0) (hb : ∀ b ∈ before, (oxOpcode b.raw = 0 → b.done = true) ∧ oxOpcode b.raw ≠ 7) :
    o.finishFirst 0 = Ox.settle { o with inflight := before ++ { e with done := true } :: after } := by
  have hnop (b : OxEntry) (hm : b ∈ before) : (!b.done && oxOpcode b.raw == 0) = false := by
    by_cases h0 : oxOpcode b.raw = 0
    · simp [(hb b hm).1 h0]
    · simp [h0]
  have hbar : (before.any fun b => oxOpcode b.raw == 7) = false := by
    simpa [List.any_eq_false] using fun b hm => (hb b hm).2
  have hsplit := splitFirst_append (after := after) hnop (show (!e.done && oxOpcode e.raw == 0) = true by simp [he, hop])
  simp only [Ox.finishFirst, hi, hsplit, hbar]
  rfl

/-- A BARRIER completes once it is the oldest command (R31). -/
theorem Ox.finishFirst_barrier {o : Ox} {after : List OxEntry} {e : OxEntry} (hi : o.inflight = e :: after) (he : e.done = false)
    (hop : oxOpcode e.raw = 7) : o.finishFirst 7 = Ox.settle { o with inflight := { e with done := true } :: after } := by
  simp [Ox.finishFirst, hi, splitFirst, he, hop]

/-- Bits 31:16 of a command are its TAG (R38). -/
theorem ofNat_oxTag (c : Unit32) : BitVec.ofNat 16 (oxTag c) = c.extractLsb' 16 16 := by
  apply BitVec.eq_of_toNat_eq
  simp [oxTag, oxf, bfield_eq_extractLsb']

/-! The commands of the dispatcher. -/

section
variable {s : State} {p : Pcell} {c : Unit32} {q : List Unit32} (hp : s.unfrozen p = true) (hq : (s.ox p).queue = c :: q)
  (hh : (s.ox p).halt = false) (hf : (s.ox p).frozen = false) (hw : oxPipe c ≠ .none → (s.ox p).waiting (oxPipe c) < 4)
include hp hq hh hf hw

/-- The oldest queued command, once its pipeline has room, is dispatched if it passes the checks (R29, R35). -/
theorem exec_oxDispatch_passes (hc : oxCheck (fun b => (s.cell p).bankOwner b == ownerOx) (s.ox p) c = none) :
    exec (.oxDispatch p) s = .next (s.setOx p (Ox.settle { s.ox p with
      queue := q
      inflight := (s.ox p).inflight ++ [{
        raw := c, kc := if oxOpcode c = 2 then (((s.ox p).wbInfo (oxWb c)).map WbMeta.kc).getD 0 else 0
        late := (s.ox p).flushPending }] })) := by
  have hroom : ¬(oxPipe c ≠ .none ∧ (s.ox p).waiting (oxPipe c) ≥ 4) := fun hn => Nat.not_le.mpr (hw hn.1) hn.2
  rw [exec_oxDispatch, execOxDispatch, s.onClock_run p _ hp]
  simp only [hq, hh, hf, hc, Bool.or_self, Bool.false_eq_true, if_false, if_neg hroom]

/-- If it fails one it faults (R35, R36). -/
theorem exec_oxDispatch_fails {kind addr : Nat}
    (hc : oxCheck (fun b => (s.cell p).bankOwner b == ownerOx) (s.ox p) c = some (kind, addr)) :
    exec (.oxDispatch p) s = .next (s.oxFault p (s.ox p).inflight c kind addr) := by
  have hroom : ¬(oxPipe c ≠ .none ∧ (s.ox p).waiting (oxPipe c) ≥ 4) := fun hn => Nat.not_le.mpr (hw hn.1) hn.2
  rw [exec_oxDispatch, execOxDispatch, s.onClock_run p _ hp]
  simp only [hq, hh, hf, hc, Bool.or_self, Bool.false_eq_true, if_false, if_neg hroom]

end

/-- Settles O16: the dispatcher's commands case by case, and what settling changes where nothing waits. -/
theorem oxDispatchesCompletesAndRetires : Obligations.OxDispatchesCompletesAndRetires := by
  unfold Obligations.OxDispatchesCompletesAndRetires
  refine ⟨fun s p hp => ?_, fun o hs hf hp he => ?_⟩
  · refine ⟨fun c q hq hh hf hw hc => ?_, fun before e after hi hd hop hb => ?_, fun e after hi hd hop => ?_, fun e rest hi hd => ?_⟩
    · exact exec_oxDispatch_passes hp hq hh hf hw hc
    · rw [exec_oxNop, execOxNop, s.onClock_run p _ hp, Ox.finishFirst_nop hi hd hop hb]
    · rw [exec_barrier, execBarrier, s.onClock_run p _ hp, Ox.finishFirst_barrier hi hd hop]
    · rw [exec_oxRetire, execOxRetire, s.onClock_run p _ hp]
      simp only [hi, hd, if_true, ofNat_oxTag]
      rfl
  · rw [Ox.settle_of_nothing hs hf hp he]
    exact ⟨rfl, Ox.map_startHeads (fun _ => rfl) o⟩

end Sys2Proof.Machine
end

section
/-! Faults, flushes, the seed and the state image of the Ox (R36, R44, R47). -/
namespace Sys2Proof.Machine

section
variable {o : Ox}

/-! What settling keeps where no FLUSH is under way. -/

/-- Without a FLUSH that waits for an EPI, the end of one writes the seed at most (R47). -/
theorem Ox.afterEpi_cases (hf : o.flushAfterEpi = false) :
    o.afterEpi = o ∨ ∃ v, o.afterEpi = { o with seed := v, seedPending := none } := by
  unfold Ox.afterEpi
  split
  · exact .inl rfl
  · cases hs : o.seedPending with
    | none => exact .inl (by simp [hf])
    | some v => exact .inr ⟨v, by simp [hf]⟩

/-- Emptying a faulted WLOAD's buffers changes the buffers (R619). -/
theorem Ox.emptied_cases (o : Ox) : o.emptied = o ∨ ∃ w0 w1, o.emptied = { o with wb0 := w0, wb1 := w1, emptyAfter := [] } := by
  unfold Ox.emptied
  split
  · exact .inr ⟨_, _, rfl⟩
  · exact .inl rfl

/-- With no FLUSH under way settling keeps the queue, the halt, the fault and the commands in flight. -/
theorem Ox.settle_of_no_flush (hf : o.flushAfterEpi = false) (hp : o.flushPending = false) :
    o.settle.queue = o.queue ∧ o.settle.halt = o.halt ∧ o.settle.fault = o.fault ∧
    o.settle.inflight.map (·.raw) = o.inflight.map (·.raw) := by
  have hraw (u : Ox) : u.startHeads.inflight.map (·.raw) = u.inflight.map (·.raw) := Ox.map_startHeads (fun _ => rfl) u
  have hend : o.afterEpi.endFlush = o.afterEpi.emptied := by
    apply Ox.endFlush_of_no_flush
    obtain h | ⟨v, h⟩ := Ox.afterEpi_cases hf <;> rw [h] <;> exact hp
  rw [Ox.settle, hraw, hend]
  obtain h | ⟨v, h⟩ := Ox.afterEpi_cases hf <;> obtain h' | ⟨w0, w1, h'⟩ := o.afterEpi.emptied_cases <;> rw [h', h] <;>
    exact ⟨rfl, rfl, rfl, rfl⟩

/-- A FLUSH of an Ox with nothing in flight ends at once (R36, OX_CTRL). -/
theorem Ox.settle_flush_of_empty (hi : o.inflight = []) (hs : o.seedPending = none) (hf : o.flushAfterEpi = false) :
    Ox.settle { o with queue := [], inflight := [], flushPending := true } = { o with
      queue := [], halt := false, fault := 0, flushPending := false, emptyAfter := []
      wb0 := if o.emptyAfter.contains 0 then none else o.wb0, wb1 := if o.emptyAfter.contains 1 then none else o.wb1 } := by
  rw [Ox.settle, Ox.afterEpi_of_nothing (o := { o with queue := [], inflight := [], flushPending := true }) hs hf]
  cases o
  cases hi
  rfl

end

section
variable {s t : State} {p : Pcell}

/-! Messages that a cell's port sends. -/

theorem State.sendFrom_cell (s : State) (p : Pcell) (i : Instr) : s.sendFrom p i = (s.countCell p 5 (Instr.gigCount i)).post p i := by
  have hp : isCellEp p = true := decide_eq_true p.isLt
  rw [State.sendFrom, if_pos hp]

/-- A message that a cell's port sends counts in the cell and is put in flight. -/
theorem State.cellIs_sendFrom {c : Cell} (ht : s.cellIs t p c) (i : Instr) :
    t.sendFrom p i = { s with cells := (t.sendFrom p i).cells, flight := s.flight ++ [(p.val, i)] } ∧
    (t.sendFrom p i).cellsOk = true ∧ (∀ q, q ≠ p.val → (t.sendFrom p i).cell q = s.cell q) ∧
    (t.sendFrom p i).cell p = { c with ctrs := ((t.sendFrom p i).cell p).ctrs } := by
  rw [State.sendFrom_cell]
  obtain ⟨hok, ⟨hrest, hcells⟩, hcell⟩ := State.cellIs_countCell ht 5 (Instr.gigCount i)
  refine ⟨?_, hok, hcells, hcell⟩
  rw [State.post, hrest]

/-- A command that fails its check halts the Ox, keeps what is in flight and is reported (R35, R36, R463). -/
theorem State.oxFault_of_no_flush (hw : s.cellsOk = true) (hf : (s.ox p).flushAfterEpi = false) (hp : (s.ox p).flushPending = false)
    (earlier : List OxEntry) (c : Unit32) (kind addr : Nat) :
    let t := s.oxFault p earlier c kind addr
    (t.ox p).queue = [] ∧ (t.ox p).halt = true ∧ (t.ox p).inflight.map (·.raw) = earlier.map (·.raw) ∧
    (t.ox p).fault = oxFaultWord c kind addr ∧
    t.flight = s.flight ++ [(p.val, .fault (faultMsg p (s.cell p).slot.toNat 0 (faultCode 1 kind) (oxTag c)))] ∧
    t = { s with cells := t.cells, flight := t.flight } := by
  intro t
  have hox := State.cellIs_setOx (State.cellIs_refl (p := p) hw) ((s.ox p).faulted earlier c kind addr)
  have ht : t = (s.setOx p ((s.ox p).faulted earlier c kind addr)).sendFrom p
      (.fault (faultMsg p (s.cell p).slot.toNat 0 (faultCode 1 kind) (oxTag c))) := by
    simp only [t, State.oxFault, State.cellFault]
    rw [hox.2.2]
  obtain ⟨hrest, -, -, hcell⟩ := State.cellIs_sendFrom hox
    (.fault (faultMsg p (s.cell p).slot.toNat 0 (faultCode 1 kind) (oxTag c)))
  rw [← ht] at hrest hcell
  have ho : t.ox p = (s.ox p).faulted earlier c kind addr := by rw [State.ox, hcell]
  obtain ⟨hqueue, hhalt, hfault, hraw⟩ := Ox.settle_of_no_flush (o := { s.ox p with
    queue := [], inflight := earlier, halt := true, fault := oxFaultWord c kind addr
    emptyAfter := if oxOpcode c = 1 then (s.ox p).emptyAfter ++ [BitVec.ofNat 1 (oxWb c)] else (s.ox p).emptyAfter }) hf hp
  rw [ho]
  exact ⟨hqueue, hhalt, hraw, hfault, by rw [hrest], by rw [hrest]⟩

end

/-- Settles O19: the fault at dispatch, the FLUSH and its end, the seed, and the state image. -/
theorem oxFaultsHaltAndFlushClears : Obligations.OxFaultsHaltAndFlushClears := by
  unfold Obligations.OxFaultsHaltAndFlushClears
  intro s p hw o c
  refine ⟨fun x q kind addr hp hq hh hf hfp hfe hwait hc => 
      ⟨_, exec_oxDispatch_fails hp hq hh hf hwait hc, State.oxFault_of_no_flush hw hfe hfp o.inflight x kind addr⟩,
    fun ho hs => ?_, fun hi hs hf => Ox.settle_flush_of_empty hi hs hf, fun v ho hs => ?_, fun level hm hsw hf hd => ?_⟩
  · rw [exec_oxFlush, execOxFlush, s.gateCell_open _ _ ho hs]
    rfl
  · rw [exec_oxSrSeedWrite, execOxSrSeedWrite, s.gateCell_open _ _ ho hs, Ox.writeSeed, BitVec.ofNat_toNat]
  · have hdone : (!(s.cell p).ox.frozen || !(s.cell p).ox.drained) = false := by
      rw [Bool.or_eq_false_iff, Bool.not_eq_false', Bool.not_eq_false']
      exact ⟨hf, hd⟩
    have hsw' : (s.slotSched (s.cell p).slot.toNat).switch = .spilling level := hsw
    rw [exec_oxStateImageSave, execOxStateImageSave, s.onModule_run _ hm]
    simp only [hsw', hdone]
    rfl

end Sys2Proof.Machine
end

section
/-! Where an lcell is placed does not depend on the Hens and counters of a cell (R218). -/
namespace Sys2Proof.Machine

section
variable {α : Type} [DecidableEq α] {d v : α} {m : SMap α} {i : Nat}

/-- An entry of a canonical table is what its key reads as. -/
theorem tget_of_mem (hm : twf d m = true) {e : Nat × α} (he : e ∈ m) : tget d m e.1 = e.2 := by
  induction m with
  | nil => cases he
  | cons x m ih =>
    obtain ⟨k, w⟩ := x
    rcases List.mem_cons.mp he with rfl | he
    · rw [tget, if_pos rfl]
    · have hk : k + 1 ≤ e.1 := twf_keysFrom hm e he
      rw [tget, if_neg (by omega), ih (twf_tail hm) he]

/-- The first key with a property stays the first after a write, if a key that reads as the default does not have it. -/
theorem find?_keys_tset {P : Nat → Bool} (hm : twf d m = true) (hnew : v = d → P i = false) (hold : tget d m i = d → P i = false) :
    ((tset d m i v).map (·.1)).find? P = (m.map (·.1)).find? P := by
  induction m with
  | nil =>
    have hi := hold rfl
    by_cases hv : v = d <;> simp [tset, hv, hi]
  | cons e m ih =>
    obtain ⟨k, w⟩ := e
    by_cases hlt : i < k
    · have hi := hold (tget_of_lt hm hlt)
      by_cases hv : v = d <;> simp [tset, hlt, hv, hi]
    · by_cases heq : i = k
      · subst heq
        by_cases hv : v = d
        · simp [tset, hv, hnew hv]
        · simp [tset, hv]
      · have hrest := ih (twf_tail hm) (by rwa [tget, if_neg (Ne.symm heq)] at hold)
        simp only [tset, hlt, heq, if_false, List.map_cons, List.find?_cons, hrest]

end

variable {s : State} {p : Nat}

/-- A pcell serves an lcell of a slot: it is in the slot, holds the lcell, is not being cleaned, and is hitched or the target of a
move (R218). -/
def State.serves (s : State) (n : Nat) (l : BitVec 27) (q : Nat) : Bool :=
  ((s.cell q).slot.toNat == n && s.cellState q != .free) &&
    ((s.cell q).lcell == l && (s.cell q).cleaning.isNone && (match s.cellState q with | .hitched | .moveIn => true | _ => false))

/-- The lcell is placed on the first listed pcell that serves it. -/
theorem State.placed_eq (hw : s.cellsOk = true) (n : Nat) (l : BitVec 27) :
    s.placed n l = (s.cells.map (·.1)).find? (s.serves n l) := by
  have hf : (s.cells.filter fun e => e.2.slot.toNat == n && s.cellState e.1 != .free) =
      s.cells.filter fun e => (s.cell e.1).slot.toNat == n && s.cellState e.1 != .free :=
    List.filter_congr fun e he => by rw [State.cell, tget_of_mem hw he]
  rw [State.placed, State.cellsOf, hf, List.find?_map, List.find?_map, List.find?_filter]
  congr 2
  funext e
  rw [Bool.decide_and, Bool.decide_eq_true, Bool.decide_eq_true]
  rfl

/-- A cell that the state does not list serves nothing. -/
theorem State.serves_default (hc : s.cell p = {}) (n : Nat) (l : BitVec 27) : s.serves n l p = false := by
  have hs : s.cellState p = .free ∨ s.cellState p = .spare := by
    simp only [State.cellState, hc]
    split <;> simp
  obtain hs | hs := hs <;> simp [State.serves, hs]

/-- Where lcells are placed depends on a cell's state, slot, lcell and cleaning alone. -/
theorem State.placed_setCell (hw : s.cellsOk = true) {c : Cell} (hst : c.st = (s.cell p).st) (hsl : c.slot = (s.cell p).slot)
    (hlc : c.lcell = (s.cell p).lcell) (hcl : c.cleaning = (s.cell p).cleaning) (n : Nat) (l : BitVec 27) :
    (s.setCell p c).placed n l = s.placed n l := by
  have hw' : (s.setCell p c).cellsOk = true := State.cellsOk_setCell hw c
  have hp := s.cell_setCell p c hw
  have hserves : (s.setCell p c).serves n l = s.serves n l := by
    funext q
    by_cases hq : q = p
    · subst hq
      simp only [State.serves, State.cellState, hp, hst, hsl, hlc, hcl]
      rfl
    · simp only [State.serves, State.cellState, s.cell_setCell_ne c hq]
      rfl
  rw [State.placed_eq hw', State.placed_eq hw, hserves]
  refine find?_keys_tset hw (fun hc => ?_) fun hc => State.serves_default hc n l
  rw [← hserves]
  exact State.serves_default (hp.trans hc) n l

section
variable (hw : s.cellsOk = true)
include hw

theorem State.placed_setHen (h : HenIx) (x : Hen) (n : Nat) (l : BitVec 27) : (s.setHen p h x).placed n l = s.placed n l :=
  State.placed_setCell hw (c := (s.cell p).setHen h x) rfl rfl rfl rfl n l

theorem State.placed_countCell (i k : Nat) (n : Nat) (l : BitVec 27) : (s.countCell p i k).placed n l = s.placed n l :=
  State.placed_setCell hw (c := (s.cell p).count i k) rfl rfl rfl rfl n l

theorem State.placed_done (h : HenIx) (len : Nat) (f : Hen → Hen) (n : Nat) (l : BitVec 27) :
    (s.done p h len f).placed n l = s.placed n l := by
  have hw' : (s.setHen p h ((f (s.hen p h)).retire len)).cellsOk = true := State.cellsOk_setCell hw _
  rw [State.done, State.placed_countCell hw', State.placed_setHen hw]

end

end Sys2Proof.Machine
end

section
/-! The head of a Hen's send queue leaves through its port (R98, R151). -/
namespace Sys2Proof.Machine

variable {s t : State} {p : Pcell} {h : HenIx} {c : Cell}

/-! Neither a Hen replaced, nor a message sent or rejected, moves the pc of a Hen; the table of cells stays canonical. -/

section
variable (hw : s.cellsOk = true)
include hw

theorem State.setHen_pc (x : Hen) : (s.setHen p h x).cellsOk = true ∧ ((s.setHen p h x).hen p h).pc = x.pc :=
  ⟨State.cellsOk_setCell hw _, congrArg Hen.pc (s.hen_setHen p h x hw)⟩

theorem State.sendFrom_pc (i : Instr) : (s.sendFrom p i).cellsOk = true ∧ ((s.sendFrom p i).hen p h).pc = (s.hen p h).pc := by
  obtain ⟨-, hok, -, hcell⟩ := State.cellIs_sendFrom (State.cellIs_refl (p := p) hw) i
  exact ⟨hok, by rw [State.hen, hcell]; rfl⟩

theorem State.reject_pc (n : BitVec 16) (type : Nat) :
    ((s.setCell p { s.cell p with rejects := n }).countDiscard type).cellsOk = true ∧
    (((s.setCell p { s.cell p with rejects := n }).countDiscard type).hen p h).pc = (s.hen p h).pc := by
  have hcells (t : State) : (t.countDiscard type).cells = t.cells := by
    unfold State.countDiscard
    split <;> rfl
  refine ⟨?_, ?_⟩
  · rw [State.cellsOk, hcells]
    exact State.cellsOk_setCell hw _
  · rw [State.hen, State.cell, hcells, ← State.cell, s.cell_setCell p _ hw]
    rfl

end

/-- While the port holds the Hen's last message nothing leaves (R156). -/
theorem State.gigPump_out (ho : (s.hen p h).gigOut = true) (k : Nat) : s.gigPump p h k = s := by
  cases k with
  | zero => rfl
  | succ k =>
    simp only [State.gigPump]
    split
    · rfl
    · simp [ho]

/-- A USER message to an lcell that is placed leaves for its pcell, with the sender filled in (R148, R151). -/
theorem State.gigPump_user {m : GigMsg} {rest : List GigMsg} {q : Pcell} (hq : (s.hen p h).sendQ = m :: rest)
    (ho : (s.hen p h).gigOut = false) (hn : (s.hen p h).gigNack = false) (hto : (s.hen p h).gigTo = none)
    (hs : (s.cell p).stopped = false) (hty : m.type = 1) (hd : m.dst.getLsbD 27 = false) (hf : s.cellState p ≠ .free)
    (hpl : s.placed (s.cell p).slot.toNat (BitVec.ofNat 27 m.dst.toNat) = some q.val) (k : Nat) :
    s.gigPump p h (k + 1) = (s.setHen p h { s.hen p h with gigOut := true, gigTo := some q.val }).sendFrom p
      (.user q { m with coach := (s.cell p).slot, srcHen := BitVec.ofNat 2 h.val, src := BitVec.ofNat 28 (s.cell p).lcell.toNat }) := by
  have hf' : (s.cellState p == .free) = false := by simpa using hf
  have hto' : ((s.hen p h).gigTo <|> s.placed (s.cell p).slot.toNat (BitVec.ofNat 27 m.dst.toNat)) = some q.val := by
    rw [hto, hpl]
    rfl
  simp only [State.gigPump, hq, ho, hn, hs, hty, hd, hf', hto', Bool.or_self, Bool.false_eq_true, if_false, if_true, q.isLt, dite_true]

/-- Nothing that leaves moves the Hen's pc. -/
theorem State.gigPump_pc (hw : s.cellsOk = true) (k : Nat) : ((s.gigPump p h k).hen p h).pc = (s.hen p h).pc := by
  induction k generalizing s with
  | zero => rfl
  | succ k ih =>
    simp only [State.gigPump]
    split
    · rfl
    · next m rest hq =>
      obtain ⟨hok, hdrop⟩ := State.setHen_pc (p := p) (h := h) hw { s.hen p h with sendQ := rest }
      generalize s.setHen p h { s.hen p h with sendQ := rest } = drop at hok hdrop ⊢
      have hsend (i : Instr) : (((drop.sendFrom p i).gigPump p h k).hen p h).pc = (s.hen p h).pc := by
        obtain ⟨hi, hpc⟩ := State.sendFrom_pc (p := p) (h := h) hok i
        rw [ih hi, hpc, hdrop]
      have hreject (n : BitVec 16) (type : Nat) :
          ((((drop.setCell p { drop.cell p with rejects := n }).countDiscard type).gigPump p h k).hen p h).pc = (s.hen p h).pc := by
        obtain ⟨hi, hpc⟩ := State.reject_pc (p := p) (h := h) hok n type
        rw [ih hi, hpc, hdrop]
      have huser (q : Option Nat) (i : Instr) :
          (((s.setHen p h { s.hen p h with gigOut := true, gigTo := q }).sendFrom p i).hen p h).pc = (s.hen p h).pc := by
        obtain ⟨hi, hpc⟩ := State.setHen_pc (p := p) (h := h) hw { s.hen p h with gigOut := true, gigTo := q }
        rw [(State.sendFrom_pc hi i).2, hpc]
      split
      · rfl
      · split
        · split
          · exact hreject _ _
          · split
            · exact hreject _ _
            · split
              · exact huser _ _
              · exact hreject _ _
        · split
          · exact hsend _
          · split
            · exact hsend _
            · split
              · exact hsend _
              · exact hreject _ _

end Sys2Proof.Machine
end

section
/-! Commands and messages that a Hen queues (R95 to R98). -/
namespace Sys2Proof.Machine

variable {s t : State} {p : Pcell} {h : HenIx}

/-- The state of a pcell is that of its cell (R203). -/
theorem State.cellIs_cellState {c : Cell} (ht : s.cellIs t p c) (hst : c.st = (s.cell p).st) : t.cellState p = s.cellState p := by
  have he : t.cellEnable = s.cellEnable := by rw [ht.2.1.1]
  rw [State.cellState, ht.2.2, hst, State.enabledIn, he]
  rfl

/-- What GIG.SEND does to its Hen. -/
def Hen.sends (vs2 : Reg) (x : Hen) : Hen := { x with sendQ := x.sendQ ++ [gigOfBits (x.getV vs2).toNat] }

section
variable (hw : s.cellsOk = true)
include hw

/-- The PASID of a pcell's accesses does not depend on its Hens (R82). -/
theorem State.pasidOf_setHen (x : Hen) : (s.setHen p h x).pasidOf p = s.pasidOf p := by
  have hc : (s.setHen p h x).cellCtx p = s.cellCtx p := by
    rw [State.cellCtx, State.cellIs_cellState (State.cellIs_setHen (State.cellIs_refl hw) x) rfl, State.cell_setHen hw]
    rfl
  rw [State.pasidOf, hc]
  rfl

theorem State.executing_setOx (o : Ox) :
    s.cellIs ((s.executing p h).setOx p o) p (Cell.setHen { s.cell p with ox := o } h (s.hen p h).unstall) :=
  State.cellIs_setOx (State.executing_cellIs hw) o

theorem State.executing_setDray (d : DrayIx) (y : Dray) :
    s.cellIs ((s.executing p h).setCell p (((s.cell p).setHen h (s.hen p h).unstall).setDray d y)) p
      (((s.cell p).setDray d y).setHen h (s.hen p h).unstall) :=
  State.cellIs_setCell (State.executing_cellIs (h := h) hw) _

/-- OX.ISSUE to an Ox with room appends its command and retires (R28, R95). -/
theorem exec_oxIssue_room {vs2 : Reg} (hr : s.henReady p h (.oxIssue p h vs2) 4 = true) (hh : (s.cell p).ox.halt = false)
    (hl : (s.cell p).ox.queue.length < 64) :
    ∃ t, exec (.oxIssue p h vs2) s = .next t ∧ s.cellIs t p (Cell.setHen { s.cell p with
      ox := { (s.cell p).ox with queue := (s.cell p).ox.queue ++ [BitVec.ofNat 256 ((s.hen p h).getV vs2).toNat] } } h
      ((s.hen p h).retire 4)) := by
  refine ⟨_, ?_, State.cellIs_done_setHen (State.executing_setOx hw _) 4 id⟩
  rw [exec_oxIssue, execOxIssue, State.henStep_executing hr]
  simp only [State.executing_ox hw, State.executing_hen hw, Hen.getV_unstall, hh, if_neg (Nat.not_le.mpr hl), Bool.false_eq_true,
    if_false]

/-- DRAY.ISSUE to a Dray with room appends its descriptor, with the Hen's mode and PASID, and retires (R97, R255). -/
theorem exec_drayIssue_room {vs2 : Reg} {d : DrayIx} (hr : s.henReady p h (.drayIssue p h vs2 d) 4 = true)
    (hh : ((s.cell p).dray d).halt = false) (hl : ((s.cell p).dray d).queue.length < 16) :
    ∃ t, exec (.drayIssue p h vs2 d) s = .next t ∧ s.cellIs t p (((s.cell p).setDray d { (s.cell p).dray d with
      queue := ((s.cell p).dray d).queue ++ [{ raw := (s.hen p h).getV vs2, umode := !(s.hen p h).mmode, pasid := s.pasidOf p }] }).setHen h
        ((s.hen p h).retire 4)) := by
  have hpasid : (s.executing p h).pasidOf p = s.pasidOf p := State.pasidOf_setHen hw _
  have hm : (s.hen p h).unstall.mmode = (s.hen p h).mmode := rfl
  refine ⟨_, ?_, State.cellIs_done_setHen (State.executing_setDray hw d _) 4 id⟩
  rw [exec_drayIssue, execDrayIssue, State.henStep_executing hr]
  simp only [State.executing_cell hw, State.executing_hen hw, Cell.setHen_dray, Hen.getV_unstall, hm, hpasid, hh,
    if_neg (Nat.not_le.mpr hl), Bool.false_eq_true, if_false]

/-- GIG.SEND of a FAULT from U mode is discarded and counted (R151). -/
theorem exec_gigSend_fault {vs2 : Reg} (hr : s.henReady p h (.gigSend p h vs2) 4 = true) (hl : (s.hen p h).sendQ.length < 8)
    (hm : (s.hen p h).mmode = false) (hty : (gigOfBits ((s.hen p h).getV vs2).toNat).type = 0x20) :
    ∃ t, exec (.gigSend p h vs2) s = .next t ∧ s.cellIs t p { s.cell p with
      hens := (s.cell p).hens.set h ((s.hen p h).retire 4)
      rejects := .ofNat 16 (satInc 16 (s.cell p).rejects.toNat) } := by
  have hd := State.executing_done hw (p := p) (h := h) 4 id
  have hset := State.cellIs_setCell hd { ((s.executing p h).done p h 4 id).cell p with
    rejects := .ofNat 16 (satInc 16 (((s.executing p h).done p h 4 id).cell p).rejects.toNat) }
  have hq : (s.hen p h).unstall.sendQ = (s.hen p h).sendQ := rfl
  have hm' : (s.hen p h).unstall.mmode = false := hm
  refine ⟨_, ?_, hset.1, hset.2.1, ?_⟩
  · rw [exec_gigSend, execGigSend, State.henStep_executing hr]
    simp only [State.executing_hen hw, hq, if_neg (Nat.not_le.mpr hl), Hen.getV_unstall, hm', hty]
    rfl
  · rw [hset.2.2, hd.2.2]
    rfl

/-- Any other message enters the send queue, from which the port takes what may leave (R98, R151). -/
theorem exec_gigSend_queued {vs2 : Reg} (hr : s.henReady p h (.gigSend p h vs2) 4 = true) (hl : (s.hen p h).sendQ.length < 8)
    (hm : (s.hen p h).mmode = true ∨ (gigOfBits ((s.hen p h).getV vs2).toNat).type ≠ 0x20) :
    exec (.gigSend p h vs2) s = .next (((s.executing p h).done p h 4 (Hen.sends vs2)).gigPump p h 8) := by
  have hq : (s.hen p h).unstall.sendQ = (s.hen p h).sendQ := rfl
  have hm' : (!(s.hen p h).unstall.mmode && (gigOfBits ((s.hen p h).getV vs2).toNat).type == 0x20) = false := by
    have he : (s.hen p h).unstall.mmode = (s.hen p h).mmode := rfl
    obtain hm | hm := hm
    · simp [he, hm]
    · simpa [he] using fun _ => hm
  rw [exec_gigSend, execGigSend, State.henStep_executing hr]
  simp only [State.executing_hen hw, hq, if_neg (Nat.not_le.mpr hl), Hen.getV_unstall, hm', Bool.false_eq_true, if_false]
  rfl

end

/-- Settles O15: each command enters the queue of its unit, and what the port of an idle Hen sends leaves at once. -/
theorem henQueuesTakeCommands : Obligations.HenQueuesTakeCommands := by
  unfold Obligations.HenQueuesTakeCommands
  intro s p h vs2 hw x c m
  refine ⟨fun hr hh hl => ?_, fun d hr hh hl => ?_, fun hr hl => ⟨fun hm hty => ?_, fun hm => ?_⟩⟩
  · obtain ⟨t, hrun, -, honly, hcell⟩ := exec_oxIssue_room hw hr hh hl
    exact ⟨t, hrun, honly, hcell⟩
  · obtain ⟨t, hrun, -, honly, hcell⟩ := exec_drayIssue_room hw hr hh hl
    exact ⟨t, hrun, honly, hcell⟩
  · obtain ⟨t, hrun, -, honly, hcell⟩ := exec_gigSend_fault hw hr hl hm hty
    exact ⟨t, hrun, honly, hcell⟩
  · have hu := State.executing_done hw (p := p) (h := h) 4 (Hen.sends vs2)
    have hpl (n : Nat) (l : BitVec 27) : ((s.executing p h).done p h 4 (Hen.sends vs2)).placed n l = s.placed n l :=
      (State.placed_done (State.executing_cellIs hw (h := h) (p := p)).1 h 4 (Hen.sends vs2) n l).trans
        (State.placed_setHen hw h _ n l)
    refine ⟨_, exec_gigSend_queued hw hr hl hm, ?_⟩
    generalize (s.executing p h).done p h 4 (Hen.sends vs2) = u at hu hpl ⊢
    have hx : u.hen p h = { x with sendQ := x.sendQ ++ [m] }.retire 4 := by
      rw [State.cellIs_hen hu, Cell.hens_setHen]
      rfl
    have hc := hu.2.2
    refine ⟨?_, fun ho => ?_, fun q hq ho hn hto hs hty hd hf hplaced => ?_⟩
    · rw [State.gigPump_pc hu.1, hx]
      rfl
    · have ho' : (u.hen p h).gigOut = true := by rw [hx]; exact ho
      rw [State.gigPump_out ho']
      exact ⟨hu.2.1, hc⟩
    · have hslot : (u.cell p).slot = c.slot := by rw [hc]; rfl
      have hlcell : (u.cell p).lcell = c.lcell := by rw [hc]; rfl
      have hpump := State.gigPump_user (s := u) (p := p) (h := h) (m := m) (rest := []) (q := q)
        (by rw [hx]; exact congrArg (· ++ [m]) hq) (by rw [hx]; exact ho) (by rw [hx]; exact hn) (by rw [hx]; exact hto)
        (by rw [hc]; exact hs) hty hd (by rwa [State.cellIs_cellState hu rfl]) (by rw [hpl, hslot]; exact hplaced) 7
      rw [hslot, hlcell] at hpump
      obtain ⟨hrest, -, -, hcell⟩ := State.cellIs_sendFrom (State.cellIs_setHen hu { u.hen p h with gigOut := true, gigTo := some q.val })
        (.user q { m with coach := c.slot, srcHen := BitVec.ofNat 2 h.val, src := BitVec.ofNat 28 c.lcell.toNat })
      rw [hpump]
      refine ⟨?_, by rw [hrest]⟩
      rw [State.hen, hcell]
      refine (Cell.hens_setHen _ _).trans ?_
      simp only [hx, hq, List.nil_append]
      rfl

end Sys2Proof.Machine
end

section
/-! An MMA charges the cycles of its rows to the step that runs on its cell (R386), which O17 leaves out. -/
namespace Sys2Proof.Machine

/-- An MMA of one row of 64 E4M3 values at byte 0, started at the head of its pipeline. -/
def oneRowMma : OxEntry := { raw := BitVec.ofNat 256 (2 + 2 ^ 48), kc := 64, started := true }

def oneColumnTile : Tile := { fmt := 0, sparse := false, kc := 64, ncols := 1, cols := [[]] }

/-- Pcell 0 is hitched to slot 0, on which context 0 runs a step; its Ox has the MMA in flight. -/
def chargedState : State :=
  { cells := [(0, { st := .hitched, slot := 0, ox := { inflight := [oneRowMma], wb0 := some oneColumnTile } })]
    sched := { slots := [(0, { running := some 0 })] }
    host := { ctxs := [(0, { step := some { desc := 0, num := 0 } })] } }

/-- The MMA takes one array cycle, which its step is charged with. -/
theorem chargedState_mma : ∃ t, exec (.mma 0 0) chargedState = .next t ∧ (t.ctx 0).step.map (·.busy) = some 1 := by
  refine ⟨_, rfl, ?_⟩
  decide

/-- Refutes O17: a started MMA of one row, whose cell runs a step, adds a cycle to that step's count of array cycles (R386), so more than
the cell and the coach counters changes. -/
theorem not_oxPipelinesRunTheirHeads : ¬ Obligations.OxPipelinesRunTheirHeads := by
  unfold Obligations.OxPipelinesRunTheirHeads
  intro h
  obtain ⟨-, -, -, hmma, -⟩ := h chargedState 0 (by decide) (by decide)
  obtain ⟨t, ht, hrest, -, -⟩ := hmma 0 [] oneRowMma [] oneColumnTile rfl rfl rfl rfl (by decide)
  obtain ⟨u, hu, hbusy⟩ := chargedState_mma
  obtain rfl : t = u := Host.Outcome.next.inj (ht.symm.trans hu)
  have hhost : t.host = chargedState.host := by rw [hrest]
  rw [State.ctx, hhost] at hbusy
  exact absurd hbusy (by decide)

end Sys2Proof.Machine
end

section
/-! A YIELD_REQ that ends an LR's deferral lets the forwards go that waited for it (R105, R296), which O23 leaves out. -/
namespace Sys2Proof.Machine

/-- A pcell at a yield point whose Hen 0 holds line 0 reserved by an LR, and a SNP_DATA for that line, held in M, waits for the
deferral to end. -/
def deferringState : State :=
  { cells := [(0, { hens := (Vector.replicate 4 {}).set 0 { reserved := some 0, lrDefer := some 0 } })]
    agents := [(0, { st := .M, deferred := [.snpData 0 0] })] }

/-- A YIELD_REQ of dispatch core 0 to pcell 0. -/
def yieldRequest : GigMsg := { type := 0x11, src := 0x80005C8, dst := 0x8000000, coach := 0, srcHen := 0, dstHen := 0, payload := 0 }

/-- The reservation is cleared, and the cell answers the snoop with WB_DATA. -/
theorem deferringState_yieldReq : ∃ t, exec (.yieldReq 0 yieldRequest) deferringState = .next t ∧ t.flight = [(0, .wbData 0 0 0)] := by
  refine ⟨_, rfl, ?_⟩
  decide +kernel

/-- Refutes O23: a YIELD_REQ to a pcell at a yield point clears a reservation for which a snoop waits, and the cell's answer to the snoop
enters the flight. -/
theorem not_gigMessagesTakeEffectAtTheCell : ¬ Obligations.GigMessagesTakeEffectAtTheCell := by
  unfold Obligations.GigMessagesTakeEffectAtTheCell
  intro h
  obtain ⟨-, hyield, -, -⟩ := h.2 deferringState 0 yieldRequest (by decide) (by decide)
  obtain ⟨t, ht, -, hrest, -⟩ := hyield (by decide) (by decide)
  obtain ⟨u, hu, hflight⟩ := deferringState_yieldReq
  obtain rfl : t = u := Host.Outcome.next.inj (ht.symm.trans hu)
  have hdropped : t.flight = [] := by rw [hrest]; rfl
  rw [hdropped] at hflight
  cases hflight

end Sys2Proof.Machine
end

section
/-! Words and instructions of Xcarkan (R91): the fields of a word, and the word of its fields. -/
namespace Sys2Proof

section
variable {op f3 rd rs1 imm : Nat} (hop : op < 128) (hf : f3 < 8) (hd : rd < 32) (hs : rs1 < 32) (hi : imm < 4096)
include hop hf hd hs hi

theorem toNat_wordImm : (wordImm op f3 rd rs1 imm).toNat = op + 128 * rd + 4096 * f3 + 32768 * rs1 + 1048576 * imm := by
  rw [wordImm, BitVec.toNat_ofNat]
  exact Nat.mod_eq_of_lt (by omega)

theorem wordField_wordImm :
    wordField (wordImm op f3 rd rs1 imm) 0 7 = op ∧ wordField (wordImm op f3 rd rs1 imm) 7 5 = rd ∧
    wordField (wordImm op f3 rd rs1 imm) 12 3 = f3 ∧ wordField (wordImm op f3 rd rs1 imm) 20 12 = imm ∧
    wordField (wordImm op f3 rd rs1 imm) 25 7 = imm / 32 := by
  simp only [wordField, toNat_wordImm hop hf hd hs hi]
  omega

theorem regField_wordImm :
    (regField (wordImm op f3 rd rs1 imm) 7).val = rd ∧ (regField (wordImm op f3 rd rs1 imm) 15).val = rs1 ∧
    (regField (wordImm op f3 rd rs1 imm) 20).val = imm % 32 := by
  simp only [regField, Fin.ofNat, toNat_wordImm hop hf hd hs hi]
  omega

end

/-- Every word is the word of its fields. -/
theorem eq_wordImm_fields (w : BitVec 32) :
    w = wordImm (wordField w 0 7) (wordField w 12 3) (regField w 7).val (regField w 15).val (wordField w 20 12) := by
  apply BitVec.eq_of_toNat_eq
  have hw : w.toNat < 2 ^ 32 := w.isLt
  simp only [wordImm, wordField, regField, Fin.ofNat, BitVec.toNat_ofNat]
  omega

theorem wordField_upper_eq (w : BitVec 32) : wordField w 20 12 = 32 * wordField w 25 7 + (regField w 20).val := by
  simp only [wordField, regField, Fin.ofNat]
  omega

/-- The split immediate of SPS. -/
theorem wordImm_eq_wordSps (w : BitVec 32) (f3 rs1 : Nat) :
    wordImm 0b1011011 f3 (regField w 7).val rs1 (wordField w 20 12) =
      wordSps f3 (regField w 20).val rs1 (BitVec.ofNat 12 (wordField w 25 7 * 32 + wordField w 7 5)).toNat := by
  have h7 : (regField w 7).val = wordField w 7 5 := rfl
  have hlow : wordField w 7 5 < 32 := Nat.mod_lt _ (by decide)
  have hup : wordField w 25 7 < 128 := Nat.mod_lt _ (by decide)
  rw [wordSps, wordField_upper_eq, h7, BitVec.toNat_ofNat]
  congr 1 <;> omega

section
variable (p : Pcell) (h : HenIx)

/-! What the words of each format decode to. -/

theorem decodeXcarkan_spl {f3 : Nat} (hf : f3 < 8) (rd rs1 : Reg) (imm : BitVec 12) :
    decodeXcarkan p h (wordImm 0b0001011 f3 rd rs1 imm.toNat) = decodeSpl p h f3 rd rs1 imm := by
  obtain ⟨h0, -, h12, h20, -⟩ := wordField_wordImm (op := 0b0001011) (by decide) hf rd.isLt rs1.isLt imm.isLt
  obtain ⟨h7, h15, -⟩ := regField_wordImm (op := 0b0001011) (by decide) hf rd.isLt rs1.isLt imm.isLt
  simp only [decodeXcarkan, h0, h12, h20, Fin.ext h7, Fin.ext h15, BitVec.ofNat_toNat, BitVec.setWidth_eq]

theorem decodeXcarkan_sps {f3 : Nat} (hf : f3 < 8) (rs2 rs1 : Reg) (imm : BitVec 12) :
    decodeXcarkan p h (wordSps f3 rs2 rs1 imm.toNat) = decodeSps p h f3 rs2 rs1 imm := by
  have hl : imm.toNat % 32 < 32 := Nat.mod_lt _ (by decide)
  have hu : imm.toNat / 32 * 32 + rs2.val < 4096 := by have := imm.isLt; have := rs2.isLt; omega
  obtain ⟨h0, h7, h12, -, h25⟩ := wordField_wordImm (op := 0b1011011) (by decide) hf hl rs1.isLt hu
  obtain ⟨-, h15, h20⟩ := regField_wordImm (op := 0b1011011) (by decide) hf hl rs1.isLt hu
  have h2 : (regField (wordImm 0b1011011 f3 (imm.toNat % 32) rs1 (imm.toNat / 32 * 32 + rs2.val)) 20) = rs2 :=
    Fin.ext (h20.trans (by have := rs2.isLt; omega))
  have hi : (imm.toNat / 32 * 32 + rs2.val) / 32 * 32 + imm.toNat % 32 = imm.toNat := by have := rs2.isLt; omega
  simp only [decodeXcarkan, wordSps, h0, h7, h12, h25, Fin.ext h15, h2, hi, BitVec.ofNat_toNat, BitVec.setWidth_eq]

theorem decodeXcarkan_unit {f7 f3 : Nat} (h7 : f7 < 128) (hf : f3 < 6) (rd rs1 rs2 : Reg) :
    decodeXcarkan p h (wordR f7 f3 rd rs1 rs2) = decodeUnit p h f7 f3 rd rs1 rs2 := by
  have hu : 32 * f7 + rs2.val < 4096 := by have := rs2.isLt; omega
  obtain ⟨h0, -, h12, -, h25⟩ := wordField_wordImm (op := 0b0101011) (f3 := f3) (by decide) (by omega) rd.isLt rs1.isLt hu
  obtain ⟨hd, h15, h20⟩ := regField_wordImm (op := 0b0101011) (f3 := f3) (by decide) (by omega) rd.isLt rs1.isLt hu
  have h2 : (regField (wordImm 0b0101011 f3 rd rs1 (32 * f7 + rs2.val)) 20) = rs2 :=
    Fin.ext (h20.trans (by have := rs2.isLt; omega))
  have hf7 : (32 * f7 + rs2.val) / 32 = f7 := by have := rs2.isLt; omega
  have hne : f3 ≠ 6 := by omega
  simp only [decodeXcarkan, wordR, h0, h12, h25, Fin.ext hd, Fin.ext h15, h2, hf7, if_neg hne]

theorem decodeXcarkan_yield (rd rs1 : Reg) (id : BitVec 12) :
    decodeXcarkan p h (wordImm 0b0101011 6 rd rs1 id.toNat) = if rs1 = 0 ∧ rd = 0 then some (.yield p h id) else none := by
  obtain ⟨h0, -, h12, h20, -⟩ := wordField_wordImm (op := 0b0101011) (f3 := 6) (by decide) (by decide) rd.isLt rs1.isLt id.isLt
  obtain ⟨h7, h15, -⟩ := regField_wordImm (op := 0b0101011) (f3 := 6) (by decide) (by decide) rd.isLt rs1.isLt id.isLt
  simp only [decodeXcarkan, h0, h12, h20, Fin.ext h7, Fin.ext h15, BitVec.ofNat_toNat, BitVec.setWidth_eq, if_true]

/-- Every Xcarkan instruction is what its word decodes to. -/
theorem decode_encode_xcarkan {i : Instr} (hi : i.xcarkanHen = some (p, h)) :
    ∃ w, encodeXcarkan i = some w ∧ decodeXcarkan p h w = some i := by
  unfold Instr.xcarkanHen at hi
  split at hi <;> cases hi
  case h_1 | h_2 | h_3 | h_4 | h_5 | h_6 | h_7 => exact ⟨_, rfl, decodeXcarkan_spl _ _ (by decide) _ _ _⟩
  case h_8 | h_9 | h_10 | h_11 => exact ⟨_, rfl, decodeXcarkan_sps _ _ (by decide) _ _ _⟩
  -- VSPL.V, VSPS.V and BANK.OWNER: the field of rs2 is zero
  case h_12 | h_13 | h_21 => exact ⟨_, rfl, decodeXcarkan_unit _ _ (by decide) (by decide) _ _ 0⟩
  -- OX.ISSUE and GIG.SEND: those of rd and rs1; OX.WAIT: those of rd and rs2
  case h_14 | h_18 => exact ⟨_, rfl, decodeXcarkan_unit _ _ (by decide) (by decide) 0 0 _⟩
  case h_15 => exact ⟨_, rfl, decodeXcarkan_unit _ _ (by decide) (by decide) 0 _ 0⟩
  -- GIG.RECV and EPOCH.GET: those of rs1 and rs2
  case h_19 | h_22 => exact ⟨_, rfl, decodeXcarkan_unit _ _ (by decide) (by decide) _ 0 0⟩
  -- DRAY.ISSUE and DRAY.WAIT: funct7 names the Dray
  case h_16 vs2 d =>
    refine ⟨_, rfl, (decodeXcarkan_unit _ _ (by omega) (by decide) 0 0 vs2).trans ?_⟩
    match d with
    | 0 => rfl
    | 1 => rfl
  case h_17 rs1 d =>
    refine ⟨_, rfl, (decodeXcarkan_unit _ _ (by omega) (by decide) 0 rs1 0).trans ?_⟩
    match d with
    | 0 => rfl
    | 1 => rfl
  case h_20 => exact ⟨_, rfl, decodeXcarkan_unit _ _ (by decide) (by decide) _ _ _⟩
  case h_23 => exact ⟨_, rfl, decodeXcarkan_yield _ _ 0 0 _⟩

/-! The words of what each opcode decodes. -/

variable {p h} {i : Instr}

theorem encode_decodeSpl {f3 : Nat} {rd rs1 : Reg} {imm : BitVec 12} (hi : decodeSpl p h f3 rd rs1 imm = some i) :
    i.xcarkanHen = some (p, h) ∧ encodeXcarkan i = some (wordImm 0b0001011 f3 rd rs1 imm.toNat) := by
  unfold decodeSpl at hi
  split at hi <;> cases hi <;> exact ⟨rfl, rfl⟩

theorem encode_decodeSps {f3 : Nat} {rs2 rs1 : Reg} {imm : BitVec 12} (hi : decodeSps p h f3 rs2 rs1 imm = some i) :
    i.xcarkanHen = some (p, h) ∧ encodeXcarkan i = some (wordSps f3 rs2 rs1 imm.toNat) := by
  unfold decodeSps at hi
  split at hi <;> cases hi <;> exact ⟨rfl, rfl⟩

theorem encode_decodeUnit {f7 f3 : Nat} {rd rs1 rs2 : Reg} (hi : decodeUnit p h f7 f3 rd rs1 rs2 = some i) :
    i.xcarkanHen = some (p, h) ∧ encodeXcarkan i = some (wordR f7 f3 rd rs1 rs2) := by
  unfold decodeUnit at hi
  split at hi
  case h_11 => cases hi; exact ⟨rfl, rfl⟩
  case h_14 => cases hi
  -- a form with one field that must be zero, or with two
  case h_1 | h_2 | h_12 => obtain ⟨rfl, he⟩ := Option.ite_none_right_eq_some.mp hi; cases he; exact ⟨rfl, rfl⟩
  all_goals obtain ⟨⟨rfl, rfl⟩, he⟩ := Option.ite_none_right_eq_some.mp hi; cases he; exact ⟨rfl, rfl⟩

/-- A word that decodes to an instruction is that instruction's word. -/
theorem encode_decode_xcarkan {w : BitVec 32} (hi : decodeXcarkan p h w = some i) :
    i.xcarkanHen = some (p, h) ∧ encodeXcarkan i = some w := by
  have hw := eq_wordImm_fields w
  have himm : (BitVec.ofNat 12 (wordField w 20 12)).toNat = wordField w 20 12 :=
    Nat.mod_eq_of_lt (Nat.mod_lt _ (by decide))
  unfold decodeXcarkan at hi
  simp only [] at hi
  split at hi
  next hop => -- SPL
    rw [hop, ← himm] at hw
    exact hw ▸ encode_decodeSpl hi
  next hop => -- SPS
    rw [hop, wordImm_eq_wordSps] at hw
    exact hw ▸ encode_decodeSps hi
  next hop =>
    rw [hop] at hw
    split at hi
    next hf => -- YIELD
      obtain ⟨⟨hs, hd⟩, he⟩ := Option.ite_none_right_eq_some.mp hi
      cases he
      rw [hf, hs, hd, ← himm] at hw
      exact ⟨rfl, congrArg some hw.symm⟩
    next =>
      rw [wordField_upper_eq] at hw
      exact hw ▸ encode_decodeUnit hi
  next => cases hi

end

end Sys2Proof
end

section
namespace Sys2Proof.Machine

/-- Settles O60: each format's words decode to its instructions, and what each opcode decodes has the word of its fields. -/
theorem xcarkanWordsRoundTrip : Obligations.XcarkanWordsRoundTrip :=
  ⟨fun _ p h => decode_encode_xcarkan p h, fun _ _ _ _ => encode_decode_xcarkan,
    fun p h => decodeXcarkan_spl p h (f3 := 3) (by decide) 10 11 0x3D⟩

end Sys2Proof.Machine
end

section
/-! Scratchpad accesses of a Hen (R92 to R94): what they read and write where nothing is in error, and where they trap. -/
namespace Sys2Proof.Machine

variable {s : State} {p : Pcell} {h : HenIx} {i : Instr}

/-! What the body of an instruction reads of its cell's scratchpad. -/

section
variable (hw : s.cellsOk = true)
include hw

theorem State.executing_sp : ((s.executing p h).cell p).sp = (s.cell p).sp := by rw [State.executing_cell hw]; rfl

theorem State.executing_ownsAll (who : BitVec 3) (a n : Nat) : ((s.executing p h).cell p).ownsAll who a n = (s.cell p).ownsAll who a n := by
  rw [State.executing_cell hw]; rfl

theorem State.executing_spClean (a n : Nat) : (s.executing p h).spClean p a n = s.spClean p a n :=
  State.cellIs_spClean (State.executing_cellIs hw) a n

/-- An instruction whose body raises an exception traps. -/
theorem State.exec_traps {len cause : Nat} {v : Word} {body : State → Out} (hr : s.henReady p h i len = true)
    (hi : exec i s = s.henStep p h i len body) (hb : body (s.executing p h) = .next ((s.executing p h).raise p h cause v)) :
    ∃ t, exec i s = .next t ∧ s.trapsTo t p h cause v :=
  ⟨_, hi.trans ((State.henStep_executing hr).trans hb), State.trapsTo_raise hw cause v⟩

/-- A read of the scratchpad that retires is counted, and changes its Hen. -/
theorem State.onlyHen_countSpRead_done (a n len : Nat) (f : Hen → Hen) :
    s.onlyHen (((s.executing p h).countSpRead p a n).done p h len f) p h ((f (s.hen p h).unstall).retire len) := by
  obtain ⟨-, honly, hcell⟩ :=
    State.cellIs_done_setHen (State.cellIs_countCell (State.executing_cellIs (h := h) hw) 3 (128 * linesTouched a n)) len f
  exact ⟨honly, hcell⟩

end

/-- An instruction that retires after a write of the scratchpad changes its Hen. -/
theorem State.cellIs_done_sp {t : State} {c : Cell} {x : Hen} {b : SMap Byte} (ht : s.cellIs t p { c.setHen h x with sp := b })
    (len : Nat) (f : Hen → Hen) :
    s.cellIs (t.done p h len f) p { c with hens := c.hens.set h ((f x).retire len), sp := b } := by
  have hd := State.cellIs_done (h := h) ht len f
  simpa [Cell.setHen] using hd

/-! SPL (R92). -/

section
variable {rd rs1 : Reg} {imm : BitVec 12} {n : Nat} {f : Nat → Word} (hw : s.cellsOk = true)
  (hi : exec i s = spLoad p h i rd rs1 imm n f s) (hr : s.henReady p h i 4 = true)
include hw hi hr

theorem spLoad_retires (ha : (addImm ((s.hen p h).getX rs1) imm).toNat + n ≤ 0x200000)
    (ho : (s.cell p).ownsAll (ownerHen h) (addImm ((s.hen p h).getX rs1) imm).toNat n = true)
    (hc : s.spClean p (addImm ((s.hen p h).getX rs1) imm).toNat n = true) :
    ∃ t, exec i s = .next t ∧ s.onlyHen t p h
      (((s.hen p h).setX rd (f (leNat (readBytes (s.cell p).sp (addImm ((s.hen p h).getX rs1) imm).toNat n)))).retire 4) := by
  have hc' := (State.executing_spClean (h := h) hw _ _).trans hc
  rw [hi, spLoad, State.henStep_executing hr]
  simp only [State.executing_hen hw, Hen.getX_unstall, spBytes, if_neg (Nat.not_lt.mpr ha), State.executing_ownsAll hw, ho,
    Bool.not_true, Bool.false_eq_true, if_false, State.spUncorr_clean hc', State.spTouch_clean hc', State.spRead,
    State.executing_sp hw]
  refine ⟨_, rfl, ?_⟩
  rw [← Hen.setX_unstall]
  exact State.onlyHen_countSpRead_done hw _ _ 4 (·.setX rd _)

theorem spLoad_out_of_range (ha : 0x200000 < (addImm ((s.hen p h).getX rs1) imm).toNat + n) :
    ∃ t, exec i s = .next t ∧ s.trapsTo t p h 24 (addImm ((s.hen p h).getX rs1) imm) := by
  refine State.exec_traps hw hr hi ?_
  simp only [State.executing_hen hw, Hen.getX_unstall]
  exact if_pos ha

theorem spLoad_not_owned (ha : (addImm ((s.hen p h).getX rs1) imm).toNat + n ≤ 0x200000)
    (ho : (s.cell p).ownsAll (ownerHen h) (addImm ((s.hen p h).getX rs1) imm).toNat n = false) :
    ∃ t, exec i s = .next t ∧ s.trapsTo t p h 25 (addImm ((s.hen p h).getX rs1) imm) := by
  refine State.exec_traps hw hr hi ?_
  simp only [State.executing_hen hw, Hen.getX_unstall, spBytes, if_neg (Nat.not_lt.mpr ha), State.executing_ownsAll hw, ho,
    Bool.not_false, if_true]
  rfl

end

/-! SPS (R92). -/

theorem natBytes_length (n v : Nat) : (natBytes n v).length = n := by
  induction n generalizing v with
  | zero => rfl
  | succ n ih => simp [natBytes, ih]

section
variable {rs2 rs1 : Reg} {imm : BitVec 12} {n : Nat} (hw : s.cellsOk = true) (hi : exec i s = spStore p h i rs2 rs1 imm n s)
  (hr : s.henReady p h i 4 = true)
include hw hi hr

theorem spStore_out_of_range (ha : 0x200000 < (addImm ((s.hen p h).getX rs1) imm).toNat + n) :
    ∃ t, exec i s = .next t ∧ s.trapsTo t p h 24 (addImm ((s.hen p h).getX rs1) imm) := by
  refine State.exec_traps hw hr hi ?_
  simp only [State.executing_hen hw, Hen.getX_unstall]
  exact if_pos ha

variable (ha : (addImm ((s.hen p h).getX rs1) imm).toNat + n ≤ 0x200000)
include ha

theorem spStore_not_owned (ho : (s.cell p).ownsAll (ownerHen h) (addImm ((s.hen p h).getX rs1) imm).toNat n = false) :
    exec i s = .fault .bankNotOwned := by
  rw [hi, spStore, State.henStep_executing hr]
  simp only [State.executing_hen hw, Hen.getX_unstall, spBytes, if_neg (Nat.not_lt.mpr ha), State.executing_ownsAll hw, ho,
    Bool.not_false, if_true]

theorem spStore_retires (hb : twf 0 s.errs.spBad = true)
    (hc : s.spClean p (addImm ((s.hen p h).getX rs1) imm).toNat n = true)
    (ho : (s.cell p).ownsAll (ownerHen h) (addImm ((s.hen p h).getX rs1) imm).toNat n = true) :
    ∃ t, exec i s = .next t ∧ s.cellIs t p { s.cell p with
      hens := (s.cell p).hens.set h ((s.hen p h).retire 4)
      sp := writeBytes (s.cell p).sp (addImm ((s.hen p h).getX rs1) imm).toNat (natBytes n ((s.hen p h).getX rs2).toNat) } := by
  have hc' := (State.executing_spClean (h := h) hw _ _).trans hc
  have hlen := natBytes_length n ((s.hen p h).getX rs2).toNat
  rw [hi, spStore, State.henStep_executing hr]
  simp only [State.executing_hen hw, Hen.getX_unstall, spBytes, if_neg (Nat.not_lt.mpr ha), State.executing_ownsAll hw, ho,
    Bool.not_true, Bool.false_eq_true, if_false, State.spMergeBad_clean hc']
  have hwrite := State.cellIs_spWrite (State.executing_cellIs (h := h) hw) hb (addImm ((s.hen p h).getX rs1) imm).toNat
    (natBytes n ((s.hen p h).getX rs2).toNat) (by rwa [hlen])
  exact ⟨_, rfl, State.cellIs_done_sp hwrite 4 id⟩

end

end Sys2Proof.Machine
end

section
namespace Sys2Proof.Machine

/-- Settles O1: the accesses of every form are those of spLoad and spStore, with the form's bytes and extension. -/
theorem scratchpadAccessesMoveTheirBytes : Obligations.ScratchpadAccessesMoveTheirBytes := by
  unfold Obligations.ScratchpadAccessesMoveTheirBytes
  refine ⟨?_, ?_, ?_⟩
  · intro s p h rd rs1 imm hw x a v loads
    have hl (i : Instr) (n : Nat) (f : Nat → Word) (hi : exec i s = spLoad p h i rd rs1 imm n f s) : loads i n (f (v n)) :=
      fun hr ha ho hc => spLoad_retires hw hi hr ha ho hc
    exact ⟨hl _ 1 (sext 8) rfl, hl _ 2 (sext 16) rfl, hl _ 4 (sext 32) rfl, hl _ 8 (BitVec.ofNat 64) rfl,
      hl _ 1 (BitVec.ofNat 64) rfl, hl _ 2 (BitVec.ofNat 64) rfl, hl _ 4 (BitVec.ofNat 64) rfl⟩
  · intro s p h rs2 rs1 imm hw hb x a stores
    have hs (i : Instr) (n : Nat) (hi : exec i s = spStore p h i rs2 rs1 imm n s) : stores i n := by
      refine fun hr ha hc => ⟨fun ho => ?_, spStore_not_owned hw hi hr ha⟩
      obtain ⟨t, ht, -, honly, hcell⟩ := spStore_retires hw hi hr ha hb hc ho
      refine ⟨t, ht, honly, hcell, fun j hj => ?_⟩
      rw [hcell]
      exact tget_writeBytes_outside (by rwa [natBytes_length])
    exact ⟨hs _ 1 rfl, hs _ 2 rfl, hs _ 4 rfl, hs _ 8 rfl⟩
  · intro s p h r rs1 imm hw a ranged owned
    have hl (i : Instr) (n : Nat) (f : Nat → Word) (hi : exec i s = spLoad p h i r rs1 imm n f s) : ranged i n ∧ owned i n :=
      ⟨fun hr ha => spLoad_out_of_range hw hi hr ha, fun hr ha ho => spLoad_not_owned hw hi hr ha ho⟩
    have hs (i : Instr) (n : Nat) (hi : exec i s = spStore p h i r rs1 imm n s) : ranged i n :=
      fun hr ha => spStore_out_of_range hw hi hr ha
    have hB := hl (.splB p h r rs1 imm) 1 (sext 8) rfl
    have hH := hl (.splH p h r rs1 imm) 2 (sext 16) rfl
    have hW := hl (.splW p h r rs1 imm) 4 (sext 32) rfl
    have hD := hl (.splD p h r rs1 imm) 8 (BitVec.ofNat 64) rfl
    have hBu := hl (.splBu p h r rs1 imm) 1 (BitVec.ofNat 64) rfl
    have hHu := hl (.splHu p h r rs1 imm) 2 (BitVec.ofNat 64) rfl
    have hWu := hl (.splWu p h r rs1 imm) 4 (BitVec.ofNat 64) rfl
    exact ⟨⟨hB.1, hH.1, hW.1, hD.1, hBu.1, hHu.1, hWu.1⟩, ⟨hs _ 1 rfl, hs _ 2 rfl, hs _ 4 rfl, hs _ 8 rfl⟩,
      hB.2, hH.2, hW.2, hD.2, hBu.2, hHu.2, hWu.2⟩

end Sys2Proof.Machine
end

section
/-! VSPL.V and VSPS.V (R93): the elements of a register group and the scratchpad. -/
namespace Sys2Proof.Machine

variable {s : State} {p : Pcell} {h : HenIx}

theorem Hen.setElem_unstall (x : Hen) (r lg i v : Nat) : x.unstall.setElem r lg i v = (x.setElem r lg i v).unstall := rfl

theorem Hen.setElems_unstall (x : Hen) (r lg i : Nat) (bs : List Byte) (n : Nat) :
    x.unstall.setElems r lg i bs n = (x.setElems r lg i bs n).unstall := by
  induction n generalizing x i bs with
  | zero => rfl
  | succ n ih => simp only [Hen.setElems, Hen.setElem_unstall, ih]

@[simp] theorem Hen.vill_unstall (x : Hen) : x.unstall.vill = x.vill := rfl
@[simp] theorem Hen.lmulRegs_unstall (x : Hen) : x.unstall.lmulRegs = x.lmulRegs := rfl
@[simp] theorem Hen.sewLog_unstall (x : Hen) : x.unstall.sewLog = x.sewLog := rfl
@[simp] theorem Hen.vl_unstall (x : Hen) : x.unstall.vl = x.vl := rfl
@[simp] theorem Hen.vstart_unstall (x : Hen) : x.unstall.vstart = x.vstart := rfl

theorem span_length (lo n : Nat) : (span lo n).length = n := by
  induction n generalizing lo with
  | zero => rfl
  | succ n ih => simp [span, ih]

theorem elemBytes_length (l : List Nat) (k : Nat) (f : Nat → Nat) : (l.flatMap fun i => natBytes k (f i)).length = l.length * k := by
  induction l with
  | nil => exact (Nat.zero_mul k).symm
  | cons i l ih => rw [List.flatMap_cons, List.length_append, natBytes_length, ih, List.length_cons, Nat.succ_mul, Nat.add_comm]

end Sys2Proof.Machine
end

section
namespace Sys2Proof.Machine

/-- Settles O2: the checks of R93 pass where the elements fit, and what follows is a read or a write of clean words. -/
theorem vectorScratchpadMovesElements : Obligations.VectorScratchpadMovesElements := by
  unfold Obligations.VectorScratchpadMovesElements
  intro s p h v rs1 hw hb x lg st n a elems fits
  have hx : (s.executing p h).hen p h = x.unstall := State.executing_hen hw
  have hlegal (hf : fits) : (x.vill || v.val % x.lmulRegs != 0) = false := by
    obtain ⟨hv, hg, -⟩ := hf
    simp [hv, hg]
  have hrange (ha : a + n ≤ 0x200000) : ¬ (n ≠ 0 ∧ a + n > spBytes) := fun hn => absurd ha (Nat.not_le.mpr hn.2)
  refine ⟨fun hr hf => ?_, fun hr hf => ?_, fun i hi hr hv => ?_⟩
  · -- VSPL.V
    obtain ⟨-, -, ha, ho, hc⟩ := id hf
    have hc' := (State.executing_spClean (h := h) hw a n).trans hc
    have ho' := (State.executing_ownsAll (h := h) (p := p) hw (ownerHen h) a n).trans ho
    have hd := State.onlyHen_countSpRead_done (h := h) (p := p) hw a n 4 fun x =>
      { x.setElems v lg st (readBytes (s.cell p).sp a n) (x.vl.toNat - st) with vstart := 0 }
    simp only [Hen.setElems_unstall] at hd
    refine ⟨_, ?_, hd⟩
    rw [exec_vsplV, execVsplV, State.henStep_executing hr]
    simp only [hx, Hen.getX_unstall, Hen.vill_unstall, Hen.lmulRegs_unstall, Hen.sewLog_unstall, Hen.vl_unstall, Hen.vstart_unstall]
    rw [if_neg (Bool.eq_false_iff.mp (hlegal hf)), if_neg (hrange ha), ho', State.spUncorr_clean hc', State.spTouch_clean hc',
      State.spRead, State.executing_sp hw]
    rfl
  · -- VSPS.V
    obtain ⟨-, -, ha, ho, hc⟩ := id hf
    have hc' := (State.executing_spClean (h := h) hw a n).trans hc
    have ho' := (State.executing_ownsAll (h := h) (p := p) hw (ownerHen h) a n).trans ho
    have hlen : elems.length = n := by rw [elemBytes_length, span_length]
    have hwrite := State.cellIs_spWrite (State.executing_cellIs (h := h) hw) hb a elems (by rwa [hlen])
    obtain ⟨-, honly, hcell⟩ := State.cellIs_done_sp hwrite 4 fun x => { x with vstart := 0 }
    refine ⟨_, ?_, honly, hcell⟩
    rw [exec_vspsV, execVspsV, State.henStep_executing hr]
    simp only [hx, Hen.getX_unstall, Hen.vill_unstall, Hen.lmulRegs_unstall, Hen.sewLog_unstall, Hen.vl_unstall, Hen.vstart_unstall]
    rw [if_neg (Bool.eq_false_iff.mp (hlegal hf)), if_neg (hrange ha), ho', State.spMergeBad_clean hc']
    rfl
  · -- vill set
    simp only [List.mem_cons, List.not_mem_nil, or_false] at hi
    obtain rfl | rfl := hi
    · refine State.exec_traps hw hr (exec_vsplV s p h v rs1) ?_
      simp only [hx]
      exact if_pos (by simp [x, hv])
    · refine State.exec_traps hw hr (exec_vspsV s p h v rs1) ?_
      simp only [hx]
      exact if_pos (by simp [x, hv])

end Sys2Proof.Machine
end

section
/-! Where a Hen waits in its instruction (R95 to R98, R106, R116). -/
namespace Sys2Proof.Machine

/-- An instruction whose body stalls changes nothing but its Hen, which waits in it. -/
theorem State.exec_stalls {s : State} {p : Nat} {h : HenIx} {i : Instr} {len : Nat} {body : State → Out} (hw : s.cellsOk = true)
    (hr : s.henReady p h i len = true) (hi : exec i s = s.henStep p h i len body)
    (hb : body (s.executing p h) = (s.executing p h).stallIn p h i) :
    ∃ t, exec i s = .next t ∧ s.onlyHen t p h { s.hen p h with stall := some i, fetchWait := false } := by
  refine ⟨_, hi.trans ((State.henStep_executing hr).trans hb), ?_⟩
  rw [State.executing_hen hw]
  exact State.onlyHen_setHen' (State.executing_cellIs hw).1 (State.onlyHen_setHen hw _) _

end Sys2Proof.Machine
end

section
namespace Sys2Proof.Machine

/-- Settles O4: each instruction that cannot complete answers the stall. -/
theorem fullQueuesAndUnmetWaitsStall : Obligations.FullQueuesAndUnmetWaitsStall := by
  unfold Obligations.FullQueuesAndUnmetWaitsStall
  intro s p h hw x c stalls reached
  have hx : (s.executing p h).hen p h = x.unstall := State.executing_hen hw
  have hc : (s.executing p h).cell p = c.setHen h x.unstall := State.executing_cell hw
  have ho : (s.executing p h).ox p = c.ox := State.executing_ox hw
  have hnot (count : BitVec 32) (r : Reg) (hn : ¬ reached count r) : countReached count (x.getX r) = false :=
    Bool.eq_false_iff.mpr fun hq => hn ((countReached_iff _ _).mp hq)
  refine ⟨fun vs2 hh hq hr => ?_, fun vs2 d hh hq hr => ?_, fun vs2 hq hr => ?_, fun vd hq hr => ?_, fun rs1 hh hn hr => ?_,
    fun rs1 d hn hr => ?_, fun hi hr => ?_⟩
  -- OX.ISSUE and DRAY.ISSUE to a full queue
  · refine State.exec_stalls hw hr (exec_oxIssue s p h vs2) ?_
    simp [ho, hh, hq]
  · refine State.exec_stalls hw hr (exec_drayIssue s p h vs2 d) ?_
    simp [hc, hh, hq]
  -- GIG.SEND and GIG.RECV
  · refine State.exec_stalls hw hr (exec_gigSend s p h vs2) ?_
    have hq' : ((s.executing p h).hen p h).sendQ.length ≥ 8 := by rw [hx]; exact hq
    exact if_pos hq'
  · refine State.exec_stalls hw hr (exec_gigRecv s p h vd) ?_
    have hq' : ((s.executing p h).hen p h).recvQ = [] := by rw [hx]; exact hq
    simp only [hq']
  -- OX.WAIT and DRAY.WAIT
  · refine State.exec_stalls hw hr (exec_oxWait s p h rs1) ?_
    simp [ho, hh, hx, hnot _ _ hn]
  · refine State.exec_stalls hw hr (exec_drayWait s p h rs1 d) ?_
    simp [hc, hx, hnot _ _ hn]
  -- WFI
  · refine State.exec_stalls hw hr (exec_wfi s p h) ?_
    have hi' : ¬ (s.executing p h).mip p h &&& ((s.executing p h).hen p h).mie ≠ 0 := by
      rw [State.mip, ho, hx]
      exact fun hne => hne hi
    exact if_neg hi'

end Sys2Proof.Machine
end

section
/-! What a trap writes (R112), and BANK.GIVE's refusal (R100). -/
namespace Sys2Proof.Machine

/-- A field of two bits by its bits. -/
theorem bfield_two {n : Nat} (v : BitVec n) (lo : Nat) :
    bfield v lo 2 = (v.getLsbD lo).toNat + 2 * (v.getLsbD (lo + 1)).toNat := by
  have hdiv : v.toNat / 2 ^ (lo + 1) = v.toNat / 2 ^ lo / 2 := by rw [Nat.pow_succ, Nat.div_div_eq_div_mul]
  rw [bfield, field, BitVec.getLsbD, BitVec.getLsbD, Nat.testBit_eq_decide_div_mod_eq, Nat.testBit_eq_decide_div_mod_eq, hdiv]
  generalize v.toNat / 2 ^ lo = q
  by_cases h0 : q % 2 = 1 <;> by_cases h1 : q / 2 % 2 = 1 <;> simp [h0, h1] <;> omega

/-- mstatus after a trap: MPIE holds MIE, MIE is clear, MPP holds the mode. -/
theorem Hen.trap_mstatus (x : Hen) (interrupt : Bool) (cause : Nat) (v : Word) :
    (x.trap interrupt cause v).mstatus.getLsbD 7 = x.mstatus.getLsbD 3 ∧
    (x.trap interrupt cause v).mstatus.getLsbD 3 = false ∧
    bfield (x.trap interrupt cause v).mstatus 11 2 = (if x.mmode then 3 else 0) := by
  rw [bfield_two]
  cases hm : x.mmode <;> cases hi : x.mstatus[3] <;> simp [Hen.trap, hm, hi]

/-- ECALL traps in either mode without the cell monitor (R113). -/
theorem exec_ecall_traps {s : State} {p : Pcell} {h : HenIx} (hw : s.cellsOk = true) (hr : s.henReady p h (.ecall p h) 4 = true) :
    ∃ t, exec (.ecall p h) s = .next t ∧ s.trapsTo t p h (if (s.hen p h).mmode then 11 else 8) 0 := by
  have hx : (s.executing p h).hen p h = (s.hen p h).unstall := State.executing_hen hw
  refine State.exec_traps hw hr (exec_ecall s p h) ?_
  have hm : (s.hen p h).unstall.mmode = (s.hen p h).mmode := rfl
  cases hmode : (s.hen p h).mmode <;> simp [State.raise, hx, hm, hmode]

end Sys2Proof.Machine
end

section
namespace Sys2Proof.Machine

/-- Settles O5: what a trap writes, and the exception that each instruction raises. -/
theorem trapsEnterMachineMode : Obligations.TrapsEnterMachineMode := by
  unfold Obligations.TrapsEnterMachineMode
  intro s p h hw x c traps
  have hx : (s.executing p h).hen p h = x.unstall := State.executing_hen hw
  have hc : (s.executing p h).cell p = c.setHen h x.unstall := State.executing_cell hw
  have ho : (s.executing p h).ox p = c.ox := State.executing_ox hw
  refine ⟨fun cause v hcause => ?_, ⟨fun hr => ?_, fun hr => ?_, fun hr => ?_⟩, fun rs1 hh hr => ?_, fun rd rs1 rs2 => ?_, fun hm hr => ?_⟩
  · intro y
    obtain ⟨hpie, hie, hpp⟩ := x.trap_mstatus false cause v
    refine ⟨rfl, ?_, rfl, rfl, ?_, hpie, hie, hpp, rfl, rfl, rfl⟩
    · simp [y, Hen.trap, putB]
    · simp [y, Hen.trap]
  · exact exec_ecall_traps hw hr
  · exact State.exec_traps hw hr (exec_ebreak s p h false) rfl
  · exact State.exec_traps hw hr (exec_ebreak s p h true) rfl
  · refine State.exec_traps hw hr (exec_oxWait s p h rs1) ?_
    simp [ho, hh, causeOxHalted]
  · intro b hall hbad hr
    refine State.exec_traps hw hr (exec_bankGive s p h rd rs1 rs2) ?_
    have hmine : (tget [] c.handover b).any (fun e => e.2 == h.val) = false := by
      simpa only [List.any_eq_false, List.all_eq_true, bne_iff_ne, beq_iff_eq, ne_eq] using hall
    simp only [hx, hc, Hen.getX_unstall, Cell.setHen_handover, Cell.nextOwner_setHen]
    rw [if_neg (Bool.eq_false_iff.mp hmine)]
    refine if_pos (hbad.imp_right fun hother => ?_)
    simpa [ownerOx, and_assoc] using hother
  · refine State.exec_traps hw hr (exec_mret s p h) ?_
    have hm' : ((s.executing p h).hen p h).mmode = false := by rw [hx]; exact hm
    simp only [hm']
    rfl

end Sys2Proof.Machine
end

section
/-! Returns, interrupts and yield points (R105, R106, R113, R114, R613). -/
namespace Sys2Proof.Machine

variable {s : State} {p : Pcell} {h : HenIx}

/-! Updates of a cell that leave its Hens. -/

theorem State.hen_setCell_of_hens {p : Nat} {c : Cell} (hw : s.cellsOk = true) (hc : c.hens = (s.cell p).hens) :
    (s.setCell p c).hen p h = s.hen p h := by
  rw [State.hen, s.cell_setCell p c hw, hc]
  rfl

theorem State.unwait_hen {p : Nat} (hw : s.cellsOk = true) (who : Nat) : (s.unwait p who).hen p h = s.hen p h :=
  State.hen_setCell_of_hens hw rfl

theorem State.unwait_cellsOk {p : Nat} (hw : s.cellsOk = true) (who : Nat) : (s.unwait p who).cellsOk = true :=
  State.cellsOk_setCell hw _

theorem State.unquiesce_cells (s : State) (p : Nat) :
    (s.unquiesce p).cells = (s.setCell p { s.cell p with yieldTold := false }).cells := by
  unfold State.unquiesce
  simp only []
  split <;> rfl

theorem State.unquiesce_hen {p : Nat} (hw : s.cellsOk = true) : (s.unquiesce p).hen p h = s.hen p h := by
  have hh : (s.setCell p { s.cell p with yieldTold := false }).hen p h = s.hen p h := State.hen_setCell_of_hens hw rfl
  rw [← hh, State.hen, State.cell, State.unquiesce_cells]
  rfl

theorem State.unquiesce_cellsOk {p : Nat} (hw : s.cellsOk = true) : (s.unquiesce p).cellsOk = true := by
  rw [State.cellsOk, State.unquiesce_cells]
  exact State.cellsOk_setCell hw _

theorem State.done_hen {p : Nat} (hw : s.cellsOk = true) (len : Nat) (f : Hen → Hen) : (s.done p h len f).hen p h = (f (s.hen p h)).retire len := by
  rw [State.cellIs_hen (State.cellIs_done (State.cellIs_refl hw) len f), Cell.hens_setHen]
  rfl

theorem State.done_cellsOk {p : Nat} (hw : s.cellsOk = true) (len : Nat) (f : Hen → Hen) : (s.done p h len f).cellsOk = true :=
  (State.cellIs_done (State.cellIs_refl hw) len f).1

/-! The interrupt that a Hen takes. -/

theorem find?_intPriority {n : Nat} {w : Word} (hn : n ∈ intPriority) (hset : w.getLsbD n = true)
    (hfirst : ∀ k ∈ intPriority.takeWhile (· ≠ n), w.getLsbD k = false) : intPriority.find? (fun k => w.getLsbD k) = some n := by
  rw [List.find?_eq_some_iff_append]
  refine ⟨hset, intPriority.takeWhile (· ≠ n), (intPriority.dropWhile (· ≠ n)).tail, ?_, fun k hk => by rw [hfirst k hk]; rfl⟩
  clear hset hfirst
  revert n
  decide

theorem State.interruptOf_eq {n : Nat} (hmie : (s.hen p h).mmode = true → (s.hen p h).mstatus.getLsbD 3 = true)
    (hn : n ∈ intPriority) (hset : (s.mip p h &&& (s.hen p h).mie).getLsbD n = true)
    (hfirst : ∀ k ∈ intPriority.takeWhile (· ≠ n), (s.mip p h &&& (s.hen p h).mie).getLsbD k = false) :
    s.interruptOf p h = some n := by
  have hgo : ¬ ((s.hen p h).mmode && !(s.hen p h).mstatus.getLsbD 3) = true := by
    cases hm : (s.hen p h).mmode
    · simp
    · simp [hmie hm]
  rw [State.interruptOf]
  exact (if_neg hgo).trans (find?_intPriority hn hset hfirst)

/-- The state in which a Hen takes its interrupt: a WFI has retired. -/
def State.wfiEnded (s : State) (p : Nat) (h : HenIx) : State := if (s.hen p h).inWfi then s.done p h 4 id else s

theorem State.wfiEnded_hen (hw : s.cellsOk = true) :
    (s.wfiEnded p h).hen p h = if (s.hen p h).inWfi then (s.hen p h).retire 4 else s.hen p h := by
  unfold State.wfiEnded
  split
  · exact State.done_hen hw 4 id
  · rfl

theorem State.wfiEnded_cellsOk (hw : s.cellsOk = true) : (s.wfiEnded p h).cellsOk = true := by
  unfold State.wfiEnded
  split
  · exact State.done_cellsOk hw 4 id
  · exact hw

/-- The interrupt's effect from a state in which the Hen waits for no access any more. -/
def State.interrupted (s : State) (p : Nat) (h : HenIx) (n : Nat) : State :=
  if (s.hen p h).run then (s.wfiEnded p h).setHen p h (((s.wfiEnded p h).hen p h).trap true n 0) else s.wfiEnded p h

theorem State.interrupted_hen (hw : s.cellsOk = true) (n : Nat) :
    (s.interrupted p h n).hen p h =
      (let y := if (s.hen p h).inWfi then (s.hen p h).retire 4 else s.hen p h
       if (s.hen p h).run then y.trap true n 0 else y) := by
  unfold State.interrupted
  simp only []
  split
  · rw [State.hen_setHen _ _ _ _ (State.wfiEnded_cellsOk hw), State.wfiEnded_hen hw]
  · exact State.wfiEnded_hen hw

theorem State.unwait_unquiesce_hen (hw : s.cellsOk = true) :
    ((if (s.hen p h).yieldId.isSome then s.unquiesce p else s).unwait p h).hen p h = s.hen p h := by
  split
  · rw [State.unwait_hen (State.unquiesce_cellsOk hw), State.unquiesce_hen hw]
  · rw [State.unwait_hen hw]

theorem State.unwait_unquiesce_cellsOk (hw : s.cellsOk = true) :
    ((if (s.hen p h).yieldId.isSome then s.unquiesce p else s).unwait p h).cellsOk = true := by
  split
  · exact State.unwait_cellsOk (State.unquiesce_cellsOk hw) _
  · exact State.unwait_cellsOk hw _

/-- INTERRUPT takes the first interrupt, once the Hen waits for nothing. -/
theorem exec_interrupt_taken {n : Nat} (hw : s.cellsOk = true) (hp : s.unfrozen p = true) (hr : s.henRuns p h = true)
    (hi : (s.hen p h).interruptible = true) (hn : s.interruptOf p h = some n) :
    exec (.interrupt p h) s =
      .next (((if (s.hen p h).yieldId.isSome then s.unquiesce p else s).unwait p h).interrupted p h n) := by
  rw [exec_interrupt, execInterrupt, s.onClock_run _ _ hp]
  simp only [hn, hr, hi, Bool.not_true, Bool.or_self, Bool.false_eq_true, if_false]
  rw [State.interrupted, State.wfiEnded, State.unwait_unquiesce_hen hw]

/-- A cell that is at no yield point notes none. -/
theorem State.noteYield_of_not_atYield {p : Nat} (hc : (s.cell p).atYield = false) : s.noteYield p = s := by
  rw [State.noteYield]
  simp only [hc, Bool.not_false, if_true]

theorem getLsbD_putB (lo i : Nat) (b : Bool) : (putB lo b).getLsbD i = (b && decide (i < 64) && decide (lo = i)) := by
  cases b
  · simp [putB]
  · rw [putB, if_pos rfl, BitVec.getLsbD_ofNat, Nat.testBit_two_pow, Bool.true_and]

/-- mstatus after MRET: MIE from MPIE, MPIE set, MPP U, and MPRV clear outside M mode. -/
def mretStatus (m : Word) : Word :=
  ((m &&& ~~~0x1888#64) ||| 0x80 ||| (if m.getLsbD 7 then 0x8 else 0)) &&& (if bfield m 11 2 == 3 then ~~~0#64 else ~~~0x20000#64)

theorem mretStatus_fields (m : Word) :
    (mretStatus m).getLsbD 3 = m.getLsbD 7 ∧ (mretStatus m).getLsbD 7 = true ∧ bfield (mretStatus m) 11 2 = 0 := by
  rw [bfield_two, mretStatus]
  cases hp : m[7] <;> cases hm : bfield m 11 2 == 3 <;> simp [hp]

/-- The Hen after MRET. -/
def Hen.returned (x : Hen) : Hen :=
  { x.retire 4 with pc := x.mepc, mmode := bfield x.mstatus 11 2 == 3, mstatus := mretStatus x.mstatus }

theorem exec_mret_returns (hw : s.cellsOk = true) (hr : s.henReady p h (.mret p h) 4 = true) (hm : (s.hen p h).mmode = true) :
    ∃ t, exec (.mret p h) s = .next t ∧ s.onlyHen t p h (s.hen p h).returned := by
  have hx : (s.executing p h).hen p h = (s.hen p h).unstall := State.executing_hen hw
  have hm' : (s.hen p h).unstall.mmode = true := hm
  have hok : (s.executing p h).cellsOk = true := (State.executing_cellIs hw).1
  have ho := State.onlyHen_setHen' hok (State.onlyHen_setHen hw _) (s.hen p h).returned
  refine ⟨_, ?_, State.onlyHen_countCell (State.cellsOk_setCell hok _) ho 7 1⟩
  rw [exec_mret, execMret, State.henStep_executing hr]
  simp only [hx, hm', Bool.not_true, Bool.false_eq_true, if_false]
  rfl

end Sys2Proof.Machine
end

section
namespace Sys2Proof.Machine

/-- Settles O6: MRET, the first interrupt, the timer bit of mip, the timer that ends a WFI, and the end of a program. -/
theorem returnsAndInterrupts : Obligations.ReturnsAndInterrupts := by
  unfold Obligations.ReturnsAndInterrupts
  intro s p h hw x
  refine ⟨fun hr hm => ?_, fun n hp hr hi hmie hset hn hfirst => ?_, ?_, fun hp hr hi hset => ?_,
    fun hp hrun hst => ⟨?_, fun hy => State.noteYield_of_not_atYield hy⟩⟩
  · obtain ⟨t, ht, honly⟩ := exec_mret_returns hw hr hm
    exact ⟨t, ht, mretStatus x.mstatus, honly, mretStatus_fields x.mstatus⟩
  · have hu : ((if x.yieldId.isSome then s.unquiesce p else s).unwait p h).hen p h = x := State.unwait_unquiesce_hen hw
    refine ⟨_, exec_interrupt_taken hw hp hr hi (State.interruptOf_eq hmie hn hset hfirst), ?_, fun hy => ?_⟩
    · rw [State.interrupted_hen (State.unwait_unquiesce_cellsOk hw), hu]
    · have hy' : ¬ (s.hen p h).yieldId.isSome = true := by rw [hy]; simp
      rw [State.interrupted, State.wfiEnded, hu, if_neg hy']
  · simp only [State.mip, Hen.mip, BitVec.getLsbD_or, getLsbD_putB]
    simp [x]
  · have hd := State.cellIs_done (h := h) (State.cellIs_refl (p := p) hw) 4 id
    refine ⟨_, ?_, hd.2⟩
    rw [exec_mtip, execMtip, s.onClock_run _ _ hp]
    have hgo : (s.henRuns p h && x.inWfi && (s.mip p h &&& x.mie).getLsbD 7) = true := by simp only [hr, hi, hset, Bool.and_self]
    exact if_pos hgo
  · rw [exec_finishProgram, execFinishProgram, s.onClock_run _ _ hp]
    have hgo : ¬ (!x.run || x.stall.isSome) = true := by simp [hrun, hst]
    exact if_neg hgo

end Sys2Proof.Machine
end

section
/-! Writes of HEN_CTRL (R115 to R117). -/
namespace Sys2Proof.Machine

variable {s : State} {p : Pcell} {h : HenIx}

/-- A Hen in the reset state of R115 that is not started stands as it is. -/
theorem Hen.halted_henFresh (s : State) (x : Hen) : (s.henFresh x).halted = s.henFresh x := rfl

/-- A write of HEN_CTRL with RESET set. -/
theorem State.henCtrl_reset {v : Word} (hv : v.getLsbD 1 = true) (x : Hen)
    (hx : (if v.getLsbD 0 then s.henStart (s.henFresh { s.hen p h with softInt := v.getLsbD 2 })
      else s.henFresh { s.hen p h with softInt := v.getLsbD 2 }) = x) :
    s.henCtrl p h v =
      ((((s.setCell p ((s.cell p).forgetGives h)).unwait p h).setHen p h x).noteYield p).checkInvs p := by
  rw [State.henCtrl, ← hx]
  simp only [hv, if_true, Hen.halted_henFresh]

/-- A write of HEN_CTRL with RESET clear. -/
theorem State.henCtrl_keep {v : Word} (hv : v.getLsbD 1 = false) :
    s.henCtrl p h v = (s.setHen p h (if v.getLsbD 0 then s.henStart { s.hen p h with softInt := v.getLsbD 2 }
      else Hen.halted { s.hen p h with softInt := v.getLsbD 2 })).noteYield p := by
  rw [State.henCtrl]
  simp only [hv, Bool.false_eq_true, if_false]

end Sys2Proof.Machine
end

section
namespace Sys2Proof.Machine

/-- Settles O7: each command writes HEN_CTRL with the bits that its name gives. -/
theorem henControlWrites : Obligations.HenControlWrites := by
  unfold Obligations.HenControlWrites
  intro s p h v hw hpcie hseal x z
  refine ⟨?_, ?_, ?_, ?_, fun b => ?_, fun hy => State.noteYield_of_not_atYield hy⟩
  · -- RESET
    have h0 : (v ||| 2).getLsbD 0 = v.getLsbD 0 := by simp
    have h1 : (v ||| 2).getLsbD 1 = true := by simp
    have h2 : (v ||| 2).getLsbD 2 = v.getLsbD 2 := by simp
    rw [exec_henReset, execHenReset, s.gateCell_open _ _ hpcie hseal, State.henCtrl_reset h1 _ rfl, h0, h2]
    rfl
  · -- the reset state
    refine ⟨rfl, rfl, fun r => ?_, fun r => rfl, fun r => rfl, rfl, ?_, rfl, ?_, ?_, ?_, rfl, rfl, rfl, rfl, rfl, rfl, rfl, rfl⟩
    · exact ite_self _
    · show (0x8000000000000000#64).getLsbD 63 = true
      decide
    · show (0x2200#64).getLsbD 3 = false
      decide
    · show bfield (0x2200#64) 13 2 = 1
      decide
    · show bfield (0x2200#64) 9 2 = 1
      decide
  · -- RUN
    have h0 : ((v ||| 1) &&& ~~~2#64).getLsbD 0 = true := by simp
    have h1 : ((v ||| 1) &&& ~~~2#64).getLsbD 1 = false := by simp
    have h2 : ((v ||| 1) &&& ~~~2#64).getLsbD 2 = v.getLsbD 2 := by simp
    rw [exec_henRun, execHenRun, s.gateCell_open _ _ hpcie hseal, State.henCtrl_keep h1, h0, h2]
    rfl
  · -- neither
    have h0 : (v &&& ~~~3#64).getLsbD 0 = false := by simp
    have h1 : (v &&& ~~~3#64).getLsbD 1 = false := by simp
    have h2 : (v &&& ~~~3#64).getLsbD 2 = v.getLsbD 2 := by simp
    rw [exec_henStop, execHenStop, s.gateCell_open _ _ hpcie hseal, State.henCtrl_keep h1, h0, h2]
    rfl
  · rw [exec_softInt, execSoftInt, s.gateCell_open _ _ hpcie hseal]

end Sys2Proof.Machine
end

section
/-! Ownership of banks (R99 to R101, R250 to R252). -/
namespace Sys2Proof.Machine

variable {s : State} {p : Pcell} {h : HenIx}

/-- Two Hens put in one place: the second stands. -/
theorem State.setHen_executing (hw : s.cellsOk = true) (x : Hen) : (s.executing p h).setHen p h x = s.setHen p h x := by
  rw [State.setHen, State.executing_cell hw, Cell.setHen_setHen]
  exact State.setCell_setCell s p _ _ hw

/-- The stall of a Hen whose handover has been accepted. -/
theorem State.stallIn_handover (hw : s.cellsOk = true) (i : Instr) (m : SMap (List (BitVec 3 × Nat))) :
    ((s.executing p h).setCell p { (s.cell p).setHen h (s.hen p h).unstall with handover := m }).stallIn p h i =
      .next (s.setCell p { s.cell p with
        hens := (s.cell p).hens.set h { s.hen p h with stall := some i, fetchWait := false }
        handover := m }) := by
  have hok : (s.executing p h).cellsOk = true := (State.executing_cellIs hw).1
  have hu := State.cell_setCell (s.executing p h) p { (s.cell p).setHen h (s.hen p h).unstall with handover := m } hok
  have hx : ((s.executing p h).setCell p { (s.cell p).setHen h (s.hen p h).unstall with handover := m }).hen p h =
      (s.hen p h).unstall := by
    rw [State.hen, hu]
    exact Cell.hens_setHen _ _
  rw [State.stallIn, hx, State.setHen, hu, State.setCell_setCell _ _ _ _ hok, State.executing, State.setHen,
    State.setCell_setCell _ _ _ _ hw]
  simp only [Cell.setHen, Vector.set_set]
  rfl

section
variable {rd rs1 rs2 : Reg} (hw : s.cellsOk = true) (hr : s.henReady p h (.bankGive p h rd rs1 rs2) 4 = true)
include hw hr

/-- A Hen whose own handover is pending waits in its BANK.GIVE (R100). -/
theorem exec_bankGive_waits (hmine : (tget [] (s.cell p).handover (((s.hen p h).getX rs1).toNat % 16)).any (fun e => e.2 == h.val) = true) :
    exec (.bankGive p h rd rs1 rs2) s =
      .next (s.setHen p h { s.hen p h with stall := some (.bankGive p h rd rs1 rs2), fetchWait := false }) := by
  rw [exec_bankGive, execBankGive, State.henStep_executing hr]
  simp only [State.executing_hen hw, State.executing_cell hw, Hen.getX_unstall, Cell.setHen_handover]
  rw [if_pos hmine, State.stallIn, State.executing_hen hw, State.setHen_executing hw]
  rfl

/-- A permitted BANK.GIVE to a new owner leaves its handover behind those pending (R100, R101). -/
theorem exec_bankGive_to_other {b : Nat} {new : BitVec 3} (hb : ((s.hen p h).getX rs1).toNat % 16 = b)
    (hnew : BitVec.ofNat 3 ((s.hen p h).getX rs2).toNat = new)
    (hmine : (tget [] (s.cell p).handover b).any (fun e => e.2 == h.val) = false) (h7 : new ≠ 7) (hne : new ≠ (s.cell p).nextOwner b)
    (hown : (s.cell p).nextOwner b ∈ [ownerHen h, ownerOx, 5, 6]) :
    exec (.bankGive p h rd rs1 rs2) s = .next (s.setCell p { s.cell p with
      hens := (s.cell p).hens.set h { s.hen p h with stall := some (.bankGive p h rd rs1 rs2), fetchWait := false }
      handover := tset [] (s.cell p).handover b (tget [] (s.cell p).handover b ++ [(new, h.val)]) }) := by
  have hmay : ((s.cell p).nextOwner b == ownerHen h || (s.cell p).nextOwner b == 0 || (s.cell p).nextOwner b == 5 ||
      (s.cell p).nextOwner b == 6) = true := by
    simpa [ownerOx, or_assoc] using hown
  have hgive : ¬ (new = 7 ∨ (!((s.cell p).nextOwner b == ownerHen h || (s.cell p).nextOwner b == 0 ||
      (s.cell p).nextOwner b == 5 || (s.cell p).nextOwner b == 6)) = true) :=
    not_or.mpr ⟨h7, by rw [hmay]; decide⟩
  rw [exec_bankGive, execBankGive, State.henStep_executing hr]
  simp only [State.executing_hen hw, State.executing_cell hw, Hen.getX_unstall, Cell.setHen_handover, Cell.nextOwner_setHen, hb, hnew]
  rw [if_neg (Bool.eq_false_iff.mp hmine), if_neg hgive, if_neg hne]
  exact State.stallIn_handover hw _ _

end

/-- A handover for which a Hen waits retires its BANK.GIVE (R100, R252). -/
theorem exec_bankHandover_ends {b : BankIx} {new : BitVec 3} {rd rs1 rs2 : Reg} {rest : List (BitVec 3 × Nat)} (hw : s.cellsOk = true)
    (hp : s.unfrozen p = true) (hgive : tget [] (s.cell p).handover b = (new, h.val) :: rest)
    (hst : (s.hen p h).stall = some (.bankGive p h rd rs1 rs2)) :
    ∃ t, exec (.bankHandover p b) s = .next t ∧
      s.cellIs t p (Cell.setHen { s.cell p with owner := tset 1 (s.cell p).owner b new, handover := tset [] (s.cell p).handover b rest } h
        (((s.hen p h).setX rd (BitVec.ofNat 64 ((s.cell p).bankOwner b).toNat)).retire 4)) := by
  have hu := State.cellIs_setCell (State.cellIs_refl hw) (p := p)
    { s.cell p with owner := tset 1 (s.cell p).owner b new, handover := tset [] (s.cell p).handover b rest }
  have hd := State.cellIs_done (h := h) hu 4 (·.setX rd (BitVec.ofNat 64 ((s.cell p).bankOwner b).toNat))
  have hst' : ((s.cell p).hens[h]).stall = some (.bankGive p h rd rs1 rs2) := hst
  refine ⟨_, ?_, hd⟩
  rw [exec_bankHandover, execBankHandover, s.onClock_run _ _ hp]
  simp only [hgive, h.isLt, dif_pos, State.endGive, State.cellIs_hen hu, hst']

/-- The reserved code of three bits. -/
theorem ofNat_three_eq_seven (n : Nat) : BitVec.ofNat 3 n = 7 ↔ n % 8 = 7 := by
  rw [← BitVec.toNat_inj, BitVec.toNat_ofNat]
  rfl

end Sys2Proof.Machine
end

section
namespace Sys2Proof.Machine

/-- Settles O8: BANK.GIVE and BANK_OWN only add a handover behind those pending, and BANK_HANDOVER ends the oldest. -/
theorem bankOwnershipMoves : Obligations.BankOwnershipMoves := by
  unfold Obligations.BankOwnershipMoves
  intro s p hw c
  refine ⟨fun h rd rs1 rs2 => ?_, fun b v hpcie hseal => ?_, fun b new h rd rs1 rs2 rest hp hgive hst hown => ?_,
    fun b new rest hp hgive => ?_⟩
  · intro x b new i hr mine
    exact ⟨Cell.nextOwner_of_no_handover, fun hmine h7 hne hold => exec_bankGive_to_other hw hr rfl rfl hmine h7 hne hold,
      fun hmine => exec_bankGive_waits hw hr hmine⟩
  · rw [exec_bankOwnWrite, execBankOwnWrite, s.gateCell_open _ _ hpcie hseal, State.bankOwnWrite]
    simp only [ofNat_three_eq_seven]
    rfl
  · obtain ⟨t, ht, hcell⟩ := exec_bankHandover_ends hw hp hgive hst
    obtain ⟨hok, honly, hcell⟩ := hcell
    refine ⟨t, ht, honly, ?_, fun k hk => ?_, ?_⟩
    · rw [Cell.bankOwner, hcell]
      exact tget_tset_same hown
    · rw [Cell.bankOwner, hcell]
      exact tget_tset_ne hk
    · rw [State.hen, hcell]
      exact Cell.hens_setHen _ _
  · rw [exec_bankHandover, execBankHandover, s.onClock_run _ _ hp]
    have hgive' : tget [] (s.cell p).handover b = (new, 4) :: rest := hgive
    simp only [hgive']
    rfl

end Sys2Proof.Machine
end

section
/-! What integer operations compute (RV64IM, Zba, Zbb, Zicond; R80). -/
namespace Sys2Proof.Machine

/-- Division by zero (RV64M): quotients are all ones and remainders the dividend. -/
theorem aluEval_by_zero (a : Word) :
    aluEval .div a 0 = -1 ∧ aluEval .divu a 0 = -1 ∧ aluEval .rem a 0 = a ∧ aluEval .remu a 0 = a := by
  have hzero : toI 0 = 0 := rfl
  refine ⟨?_, rfl, ?_, rfl⟩
  · rw [aluEval, hzero, divS, if_pos rfl]
    rfl
  · rw [aluEval, hzero, remS, if_pos rfl]
    exact BitVec.ofInt_toInt

/-- The signed overflow of RV64M: the quotient is the dividend and the remainder zero. -/
theorem aluEval_overflow :
    aluEval .div (BitVec.ofNat 64 (2 ^ 63)) (-1) = BitVec.ofNat 64 (2 ^ 63) ∧ aluEval .rem (BitVec.ofNat 64 (2 ^ 63)) (-1) = 0 := by
  decide

theorem aluEval_sh3add (a b : Word) : aluEval .sh3add a b = a * 8 + b := by
  rw [aluEval, BitVec.add_comm, BitVec.shiftLeft_eq_mul_twoPow]
  rfl

end Sys2Proof.Machine
end

section
namespace Sys2Proof.Machine

/-- Settles O9: the body retires with what arithRun gives or raises exception 2, and arithRun and aluEval are those of RV64. -/
theorem arithmeticInstructionsComplete : Obligations.ArithmeticInstructionsComplete := by
  unfold Obligations.ArithmeticInstructionsComplete
  intro s p h c i hw x len hown hr
  have hx : (s.executing p h).hen p h = x.unstall := State.executing_hen hw
  have hi := (exec_arithmeticInstruction s p h c i).trans (if_neg (Bool.eq_false_iff.mp hown))
  refine ⟨fun y pc hrun => ?_, fun hrun => ?_, ?_, ?_, ?_, fun a b => ?_⟩
  · have hok := (State.executing_cellIs (h := h) hw (p := p)).1
    have ho := State.onlyHen_setHen' hok (State.onlyHen_setHen hw _) { y.retire len with pc := pc }
    refine ⟨_, ?_, State.onlyHen_countCell (State.cellsOk_setCell hok _) ho 7 1⟩
    rw [hi, State.henStep_executing hr]
    have hrun' : arithRun x.unstall (if c then 2 else 4) i = some (y, pc) := hrun
    simp only [hx, hrun']
    rfl
  · refine State.exec_traps hw hr hi ?_
    have hrun' : arithRun x.unstall (if c then 2 else 4) i = none := hrun
    simp only [hx, hrun']
    rfl
  · rintro o rd rs1 rs2 rfl
    rfl
  · rintro o rs1 rs2 off rfl
    rfl
  · rintro rd off rfl
    rfl
  · obtain ⟨hdiv, hdivu, hrem, hremu⟩ := aluEval_by_zero a
    exact ⟨rfl, rfl, rfl, rfl, rfl, rfl, rfl, rfl, rfl, hdiv, hdivu, hrem, hremu, aluEval_overflow.1, aluEval_overflow.2,
      aluEval_sh3add a b, rfl, rfl⟩

end Sys2Proof.Machine
end

section
/-! CSR accesses (R103, R108 to R114): what one that is allowed reads and writes, and one that is not. -/
namespace Sys2Proof.Machine

/-- What CSRRW, CSRRS and CSRRC write over an old value. -/
def csrNew (op : CsrOp) (arg old : Word) : Word :=
  match op with
  | .rw => arg
  | .rs => old ||| arg
  | .rc => old &&& ~~~arg

/-- The argument of a CSR instruction: rs1, or its number in the immediate forms. -/
def Hen.csrArg (x : Hen) (imm : Bool) (rs1 : Reg) : Word := if imm then BitVec.ofNat 64 rs1.val else x.getX rs1

section
variable {s : State} {p : Pcell} {h : HenIx} {op : CsrOp} {imm : Bool} {csr : BitVec 12} {rd rs1 : Reg} {v : Word}
  (hw : s.cellsOk = true) (hr : s.henReady p h (.csrAccess p h op imm csr rd rs1) 4 = true)
include hw hr

theorem exec_csrAccess_allowed {u : State} (ha : csrAllowed (s.hen p h).mmode (op == .rw || rs1 != 0) csr.toNat = true)
    (hread : (s.executing p h).csrRead p h csr.toNat = some (v, u)) :
    exec (.csrAccess p h op imm csr rd rs1) s = .next
      (if op == .rw || rs1 != 0 then
        (u.done p h 4 fun y => y.setX rd v).csrWrite p h csr.toNat (csrNew op ((s.hen p h).csrArg imm rs1) v)
       else u.done p h 4 fun y => y.setX rd v) := by
  have ha' : csrAllowed (s.hen p h).unstall.mmode (op == .rw || rs1 != 0) csr.toNat = true := ha
  rw [exec_csrAccess, execCsrAccess, State.henStep_executing hr]
  simp only [State.executing_hen hw, Hen.getX_unstall, ha', hread, Bool.not_true, Bool.false_eq_true, if_false]
  rfl

theorem exec_csrAccess_forbidden
    (ha : csrAllowed (s.hen p h).mmode (op == .rw || rs1 != 0) csr.toNat = false ∨
      csrAllowed (s.hen p h).mmode (op == .rw || rs1 != 0) csr.toNat = true ∧ (s.executing p h).csrRead p h csr.toNat = none) :
    ∃ t, exec (.csrAccess p h op imm csr rd rs1) s = .next t ∧ s.trapsTo t p h 2 0 := by
  refine State.exec_traps hw hr (exec_csrAccess s p h op imm csr rd rs1) ?_
  have hm : (s.hen p h).unstall.mmode = (s.hen p h).mmode := rfl
  obtain ha | ⟨ha, hread⟩ := ha
  · simp only [State.executing_hen hw, hm, ha, Bool.not_false, if_true]
    rfl
  · simp only [State.executing_hen hw, hm, ha, hread, Bool.not_true, Bool.false_eq_true, if_false]
    rfl

section
variable (ha : csrAllowed (s.hen p h).mmode (op == .rw || rs1 != 0) csr.toNat = true)
  (hread : (s.executing p h).csrRead p h csr.toNat = some (v, s.executing p h))
include ha hread

/-- A CSR whose read changes nothing, read alone. -/
theorem csrAccess_reads (hno : (op == .rw || rs1 != 0) = false) :
    ∃ t, exec (.csrAccess p h op imm csr rd rs1) s = .next t ∧ s.onlyHen t p h (((s.hen p h).setX rd v).retire 4) := by
  obtain ⟨-, honly, hcell⟩ := State.executing_done (h := h) hw (p := p) 4 (·.setX rd v)
  rw [exec_csrAccess_allowed hw hr ha hread, hno, ← Hen.setX_unstall]
  exact ⟨_, rfl, honly, hcell⟩

/-- A CSR of the Hen whose read changes nothing, read and written. -/
theorem csrAccess_writes {g : Hen → Word → Hen} (hyes : (op == .rw || rs1 != 0) = true)
    (hwrite : ∀ (u : State) w, u.csrWrite p h csr.toNat w = u.setHen p h (g (u.hen p h) w)) :
    ∃ t, exec (.csrAccess p h op imm csr rd rs1) s = .next t ∧
      s.onlyHen t p h (g (((s.hen p h).setX rd v).retire 4) (csrNew op ((s.hen p h).csrArg imm rs1) v)) := by
  obtain ⟨hok, honly, hcell⟩ := State.executing_done (h := h) hw (p := p) 4 (·.setX rd v)
  rw [Hen.setX_unstall] at hcell
  have hx := State.onlyHen_hen (h := h) ⟨honly, hcell⟩
  rw [exec_csrAccess_allowed hw hr ha hread, hyes, if_pos rfl, hwrite, hx]
  exact ⟨_, rfl, State.onlyHen_setHen' hok ⟨honly, hcell⟩ _⟩

end
end

/-! The registers that are spelled out (R103, R111, R114). -/

section
variable {s : State} {p : Pcell} {h : HenIx} (hw : s.cellsOk = true)
include hw

theorem State.csrRead_trap_registers :
    (s.executing p h).csrRead p h 0x340 = some ((s.hen p h).mscratch, s.executing p h) ∧
    (s.executing p h).csrRead p h 0x341 = some ((s.hen p h).mepc, s.executing p h) ∧
    (s.executing p h).csrRead p h 0x304 = some ((s.hen p h).mie, s.executing p h) := by
  rw [show s.hen p h = { (s.executing p h).hen p h with stall := (s.hen p h).stall, fetchWait := (s.hen p h).fetchWait } by
    rw [State.executing_hen hw]; rfl]
  exact ⟨rfl, rfl, rfl⟩

theorem State.csrRead_cell_registers :
    (s.executing p h).csrRead p h 0xCC0 = some (BitVec.ofNat 64 (s.cell p).lcell.toNat, s.executing p h) ∧
    (s.executing p h).csrRead p h 0xCC2 = some (BitVec.ofNat 64 (s.epochOf (s.cell p).slot.toNat).toNat, s.executing p h) ∧
    (s.executing p h).csrRead p h 0xCC3 = some (BitVec.ofNat 64 (s.cell p).ox.doneCount.toNat, s.executing p h) := by
  have hc : (s.executing p h).cell p = (s.cell p).setHen h (s.hen p h).unstall := State.executing_cell hw
  have hl : ((s.executing p h).cell p).lcell = (s.cell p).lcell := by rw [hc]; rfl
  have hs : ((s.executing p h).cell p).slot = (s.cell p).slot := by rw [hc]; rfl
  have ho : ((s.executing p h).cell p).ox = (s.cell p).ox := by rw [hc]; rfl
  rw [← hl, ← hs, ← ho]
  exact ⟨rfl, rfl, rfl⟩

end

theorem csrWrites_iff (op : CsrOp) (rs1 : Reg) : (op == .rw || rs1 != 0) = true ↔ op = .rw ∨ rs1 ≠ 0 := by simp

theorem csrWrites_eq_false_iff (op : CsrOp) (rs1 : Reg) : (op == .rw || rs1 != 0) = false ↔ ¬ (op = .rw ∨ rs1 ≠ 0) := by
  rw [← csrWrites_iff, Bool.not_eq_true]

/-- M mode may access every CSR that is not read-only. -/
theorem csrAllowed_mmode (writes : Bool) {csr : Nat} (hc : csr / 1024 ≠ 3) : csrAllowed true writes csr = true := by
  simp [csrAllowed, hc]

/-- Every mode may read a CSR of the lowest privilege. -/
theorem csrAllowed_user_read {mmode : Bool} {csr : Nat} (hc : csr / 256 % 4 = 0) : csrAllowed mmode false csr = true := by
  simp [csrAllowed, hc]

end Sys2Proof.Machine
end

section
namespace Sys2Proof.Machine

/-- Settles O10: what is allowed reads and then writes, the rest is illegal, and the registers that are spelled out hold their values. -/
theorem csrAccessesReadThenWrite : Obligations.CsrAccessesReadThenWrite := by
  unfold Obligations.CsrAccessesReadThenWrite
  intro s p h op imm csr rd rs1 hw i x arg writes new hr
  obtain ⟨hscratch, hmepc, hmie⟩ := State.csrRead_trap_registers (h := h) (p := p) hw
  obtain ⟨hlcell, hepoch, hdone⟩ := State.csrRead_cell_registers (h := h) (p := p) hw
  have ha (hm : x.mmode = true) (hn : csr.toNat / 1024 ≠ 3) : csrAllowed x.mmode (op == .rw || rs1 != 0) csr.toNat = true :=
    hm ▸ csrAllowed_mmode _ hn
  refine ⟨fun v u ha hread => exec_csrAccess_allowed hw hr ha hread, fun ha => exec_csrAccess_forbidden hw hr ha,
    fun hm hcsr => ?_, fun hm hcsr hyes => ?_, fun hm hcsr hyes => ?_, fun v hv hno => ?_⟩
  · -- mscratch
    subst hcsr
    by_cases hyes : writes
    · obtain ⟨t, ht, honly⟩ := csrAccess_writes (g := fun y w => { y with mscratch := w }) hw hr (ha hm (by decide)) hscratch
        ((csrWrites_iff _ _).mpr hyes) fun _ _ => rfl
      exact ⟨t, ht, fun _ => honly, fun hno => absurd hyes hno⟩
    · obtain ⟨t, ht, honly⟩ := csrAccess_reads hw hr (ha hm (by decide)) hscratch ((csrWrites_eq_false_iff _ _).mpr hyes)
      exact ⟨t, ht, fun hyes' => absurd hyes' hyes, fun _ => honly⟩
  · -- mepc
    subst hcsr
    exact csrAccess_writes (g := fun y w => { y with mepc := w &&& ~~~1#64 }) hw hr (ha hm (by decide)) hmepc ((csrWrites_iff _ _).mpr hyes)
      fun _ _ => rfl
  · -- mie
    subst hcsr
    exact csrAccess_writes (g := fun y w => { y with mie := w &&& mieMask }) hw hr (ha hm (by decide)) hmie ((csrWrites_iff _ _).mpr hyes)
      fun _ _ => rfl
  · -- hlcell, hepoch and hoxdone
    have hno' := (csrWrites_eq_false_iff op rs1).mpr hno
    simp only [List.mem_cons, Prod.mk.injEq, List.not_mem_nil, or_false] at hv
    obtain ⟨rfl, rfl⟩ | ⟨rfl, rfl⟩ | ⟨rfl, rfl⟩ := hv
    · exact csrAccess_reads hw hr (hno' ▸ csrAllowed_user_read rfl) hlcell hno'
    · exact csrAccess_reads hw hr (hno' ▸ csrAllowed_user_read rfl) hepoch hno'
    · exact csrAccess_reads hw hr (hno' ▸ csrAllowed_user_read rfl) hdone hno'

end Sys2Proof.Machine
end

section
/-! A U-mode access that waits for its lines keeps its page (R332), which O11 leaves out. -/
namespace Sys2Proof.Machine

/-- Hen 0 of pcell 0 runs in U mode; its L1 TLB maps page 0 to physical page 0, and the cell holds no line. -/
def missingState : State :=
  { cells := [(0, { hens := (Vector.replicate 4 {}).set 0 { run := true, fresh := false, mmode := false }
                    tlb := [{ pasid := 0, vgroup := 0, size := 0, mask := 1, pbase := 0, rd := true, wr := true, ex := true }] })] }

/-- A byte load from address 0. -/
def missingLoad : Instr := .load 0 0 false .b 1 0 0

theorem missingState_xlat : missingState.xlat 0 0 .load 0 = .ok 0 := by
  have hphys : (missingState.hen 0 0).physical .load = false := by decide
  have hkept : (missingState.hen 0 0).keptPage (missingState.pasidOf 0) 0 = none := by decide
  have htlb : tlbLook (missingState.cell 0).tlb (missingState.pasidOf 0) true false false 0 = some 0 := by decide
  have hva : canonicalVa 0#64 = true := by decide
  simp [State.xlat, hphys, hva, hkept, htlb, Acc.needsR, Acc.needsW, Acc.needsX]

/-- The load waits for its line and keeps page 0. -/
theorem missingState_load : ∃ t, exec missingLoad missingState = .next t ∧ (t.hen 0 0).kept ≠ [] := by
  refine ⟨_, rfl, ?_⟩
  decide +kernel

/-- Refutes O11: a byte load in U mode whose line the cell does not hold keeps the page under which it has asked for the line, so more
of its Hen changes than that it waits. -/
theorem not_loadsReadAndStoresWriteHeldLines : ¬ Obligations.LoadsReadAndStoresWriteHeldLines := by
  unfold Obligations.LoadsReadAndStoresWriteHeldLines
  intro h
  obtain ⟨hload, -⟩ := h missingState 0 0 false .b .b 1 0 0 (by decide)
  obtain ⟨-, hmiss⟩ := hload (by decide +kernel) 1 _ false 0 0 rfl (fun hfp => by cases hfp) ⟨missingState_xlat, missingState_xlat⟩
  obtain ⟨t, ht, hhen⟩ := hmiss ⟨0, by decide, by decide⟩
  obtain ⟨u, hu, hkept⟩ := missingState_load
  obtain rfl : t = u := Host.Outcome.next.inj (ht.symm.trans hu)
  rw [Fin.val_zero] at hhen
  exact hkept (congrArg Hen.kept hhen)

end Sys2Proof.Machine
end

section
/-! A far AMO that waits forgets the pages of an access before it (R332), which O13 leaves out. -/
namespace Sys2Proof.Machine

/-- Hen 0 of pcell 0 runs in M mode, after an access that waited for its lines under page 0; every AMO goes far (R304). -/
def farState : State :=
  { cells := [(0, { hens := (Vector.replicate 4 {}).set 0 { run := true, fresh := false, kept := [⟨0, 0, 0, 12⟩] } })]
    coh := { predMode := 2 } }

/-- AMOADD.W to x1 at address 0. -/
def farAmo : Instr := .amo 0 0 .add false false false 1 0 0

theorem farState_amo : ∃ t, exec farAmo farState = .next t ∧ (t.hen 0 0).kept = [] := by
  refine ⟨_, rfl, ?_⟩
  decide +kernel

/-- Refutes O13: a far AMO waits with no page kept, also where its Hen still held the pages of an access that has retired, so more of the
Hen changes than that it waits with AMO_FAR sent. -/
theorem not_atomicsActOnHeldLines : ¬ Obligations.AtomicsActOnHeldLines := by
  unfold Obligations.AtomicsActOnHeldLines
  intro h
  obtain ⟨-, hfar, -⟩ := h farState 0 0 .add false false false 1 0 0 0 (by decide)
  obtain ⟨t, ht, hhen, -⟩ := hfar (by decide +kernel) (by decide) rfl rfl (by decide) (by decide)
  obtain ⟨u, hu, hkept⟩ := farState_amo
  obtain rfl : t = u := Host.Outcome.next.inj (ht.symm.trans hu)
  rw [Fin.val_zero] at hhen
  have hstale : (t.hen 0 0).kept = [⟨0, 0, 0, 12⟩] := congrArg Hen.kept hhen
  rw [hkept] at hstale
  cases hstale

end Sys2Proof.Machine
end

section
/-! A Hen that has waited for the fetch of its CBO.FLUSH translates it by its TLB alone, where O14 takes the page of an access before it. -/
namespace Sys2Proof.Machine

/-- Hen 0 of pcell 0 runs in U mode and has stalled in the fetch of a CBO.FLUSH of address 0; an access before it waited for its lines
under page 0, then at physical page 1. The TLB now maps page 0 to physical page 0. Pcell 1 holds line 64, of physical page 1. -/
def staleState : State :=
  { cells := [(0, { slot := 0
                    hens := (Vector.replicate 4 {}).set 0 { run := true, fresh := false, mmode := false, fetchWait := true
                                                            stall := some (.cboFlush 0 0 0), kept := [⟨0, 0, 1, 12⟩] }
                    tlb := [{ pasid := 0, vgroup := 0, size := 0, mask := 1, pbase := 0, rd := true, wr := true, ex := true }] })]
    coaches := [(0, { valid := true, partition := 0 })]
    carve := [(0, 0)]
    agents := [(64 * 2048 + 1, { st := .E })] }

/-- While the Hen is stalled, address 0 translates by the page of the access before it. -/
theorem staleState_xlat : staleState.xlat 0 0 .load 0 = .ok 4096 := by
  have hphys : (staleState.hen 0 0).physical .load = false := by decide
  have hkept : (staleState.hen 0 0).keptPage (staleState.pasidOf 0) 0 = some ⟨0, 0, 1, 12⟩ := by decide
  have hva : canonicalVa 0#64 = true := by decide
  simp [State.xlat, hphys, hva, hkept]

/-- The instruction flushes line 0, and pcell 1 keeps line 64. -/
theorem staleState_cboFlush : ∃ t, exec (.cboFlush 0 0 0) staleState = .next t ∧ (t.agent 1 64).st = .E := by
  refine ⟨_, rfl, ?_⟩
  decide +kernel

/-- A flush of line 64 would take it from pcell 1. -/
theorem staleState_flushLine :
    ((((staleState.setHen 0 0 (staleState.hen 0 0).unstall).flushLine 64 false 0).done 0 0 4 id).agent 1 64).st = .I := by
  decide +kernel

/-- Refutes O14: a CBO.FLUSH whose fetch has waited acts at the address that its TLB gives, also where its Hen still holds another page of
an access that has retired. -/
theorem not_cacheBlockOperationsComplete : ¬ Obligations.CacheBlockOperationsComplete := by
  unfold Obligations.CacheBlockOperationsComplete
  intro h
  obtain ⟨hflush, -, -⟩ := h.1 staleState 0 0 0 4096 (by decide) (.inl staleState_xlat) (by decide) (by decide) (by decide) (by decide)
  obtain ⟨t, ht, hkeeps⟩ := staleState_cboFlush
  have hline := hflush (by decide +kernel)
  obtain rfl := Host.Outcome.next.inj (ht.symm.trans hline)
  exact absurd (hkeeps.symm.trans staleState_flushLine) (by decide)

end Sys2Proof.Machine
end

section
/-! The block ownership commands (R126, R141, R616): what a SLOT_OWN_CMD that passes its checks writes, and what is read then. -/
namespace Sys2Proof.Machine

section
variable {α β : Type} [DecidableEq α] {d v : α} {m : SMap α} {i : Nat} {key : β → Nat} {val : β → α} {l : List β}

/-- A table with one value written for each element of a list, in the list's order. -/
def tsetAll (d : α) (key : β → Nat) (val : β → α) (l : List β) (m : SMap α) : SMap α :=
  l.foldl (fun m x => tset d m (key x) (val x)) m

theorem tget_tsetAll_ne (h : ∀ x ∈ l, i ≠ key x) : tget d (tsetAll d key val l m) i = tget d m i := by
  induction l generalizing m with
  | nil => rfl
  | cons x l ih =>
    have hrest := ih (m := tset d m (key x) (val x)) fun y hy => h y (List.mem_cons_of_mem x hy)
    exact hrest.trans (tget_tset_ne (h x List.mem_cons_self))

/-- A key that elements of the list write, all with one value, reads as that value. -/
theorem tget_tsetAll_same (hm : twf d m = true) (hv : ∀ x ∈ l, key x = i → val x = v) (hi : ∃ x ∈ l, key x = i) :
    tget d (tsetAll d key val l m) i = v := by
  induction l generalizing m with
  | nil => obtain ⟨x, hx, -⟩ := hi; cases hx
  | cons x l ih =>
    by_cases hlater : ∃ y ∈ l, key y = i
    · exact ih (twf_tset hm) (fun y hy => hv y (List.mem_cons_of_mem x hy)) hlater
    · obtain ⟨y, hy, hkey⟩ := hi
      obtain rfl | hy := List.mem_cons.mp hy
      · have hne : ∀ z ∈ l, i ≠ key z := fun z hz hiz => hlater ⟨z, hz, hiz.symm⟩
        have hval := hv y List.mem_cons_self hkey
        subst hkey hval
        exact (tget_tsetAll_ne hne).trans (tget_tset_same hm)
      · exact absurd ⟨y, hy, hkey⟩ hlater

end

theorem mem_span {lo n i : Nat} : i ∈ span lo n ↔ lo ≤ i ∧ i < lo + n := by
  induction n generalizing lo with
  | zero => simp [span]
  | succ n ih => rw [span, List.mem_cons, ih]; omega

theorem lt_of_mem_bitsSet {mask n i : Nat} (h : i ∈ bitsSet mask n) : i < n := by
  have hi := (mem_span.mp (List.mem_filter.mp h).1).2
  omega

theorem swLanes_le (sw : Nat) : swLanes sw ≤ 2048 := by
  unfold swLanes
  repeat' split
  all_goals omega

/-- An endpoint has at most 16 lanes. -/
theorem epAttach_lanes_le {e sw first k lat : Nat} (h : epAttach e = some (sw, first, k, lat)) : k ≤ 16 := by
  unfold epAttach at h
  repeat' split at h
  all_goals simp only [Option.some.injEq, Prod.mk.injEq, reduceCtorEq] at h
  all_goals omega

theorem nodeLanes_le (n : Nat) : nodeLanes n ≤ 2048 := by
  unfold nodeLanes
  split
  · split
    · rename_i hattach
      exact Nat.le_trans (epAttach_lanes_le hattach) (by decide)
    · exact Nat.zero_le 2048
  · exact swLanes_le n

/-- A block's key names its node, lane and block. -/
theorem blockKey_inj {n n' lane lane' b b' : Nat} (hlane : lane < 2048) (hlane' : lane' < 2048) (hb : b < 64) (hb' : b' < 64)
    (h : blockKey n lane b = blockKey n' lane' b') : (n, lane, b) = (n', lane', b') := by
  unfold blockKey at h
  simp only [Prod.mk.injEq]
  omega

/-- A node by the UNIT field of a SLOT_OWN_CMD. -/
def ownNode (unit : Nat) : Nat := if unit < 2048 then epNode unit else unit - 2048

/-- The blocks that a SLOT_OWN_CMD names lie in lanes and blocks that a key tells apart. -/
theorem State.ownBlocks_bounds {s : State} {count first unit : Nat} (h : first + count ≤ nodeLanes (ownNode unit))
    {x : Nat × Nat × Nat} (hx : x ∈ s.ownBlocks count first unit) : x.2.1 < 2048 ∧ x.2.2 < 64 := by
  have hlanes := nodeLanes_le (ownNode unit)
  obtain ⟨l, hl, hx⟩ := List.mem_flatMap.mp hx
  obtain ⟨b, hb, rfl⟩ := List.mem_map.mp hx
  have hl := (mem_span.mp hl).2
  exact ⟨by dsimp only; omega, lt_of_mem_bitsSet hb⟩

/-! The owner and the lendee that each operation of SLOT_OWN_CMD gives a block. -/

/-- By operation, the new owner of a block from its owner: 0 sets the owner, 2 frees. -/
def ownOwner (op coach o : Nat) : Nat := if op = 0 then coach else if op = 2 then 63 else o
/-- By operation, the new lendee of a block: 1 sets it. -/
def ownLendee (op coach : Nat) : Nat := if op = 1 then coach else 63

/-- The key of a block in the tables of owners and lendees. -/
def ownKey (x : Nat × Nat × Nat) : Nat := blockKey x.1 x.2.1 x.2.2

/-- The Stage block after a SLOT_OWN_CMD that passes its checks. -/
def State.owned (s : State) (op coach : Nat) (bs : List (Nat × Nat × Nat)) : Stage :=
  { s.stage with
    owner := tsetAll 63 ownKey (fun x => BitVec.ofNat 6 (ownOwner op coach (s.blockOwner x.1 x.2.1 x.2.2))) bs s.stage.owner
    lendee := tsetAll 63 ownKey (fun _ => BitVec.ofNat 6 (ownLendee op coach)) bs s.stage.lendee }

/-- Writing block by block writes the two tables. -/
theorem foldl_setBlocks (g : Stage) (owner lendee : Nat × Nat × Nat → BitVec 6) (bs : List (Nat × Nat × Nat)) :
    bs.foldl (fun (g : Stage) x => { g with
      owner := tset 63 g.owner (ownKey x) (owner x), lendee := tset 63 g.lendee (ownKey x) (lendee x) }) g =
    { g with owner := tsetAll 63 ownKey owner bs g.owner, lendee := tsetAll 63 ownKey lendee bs g.lendee } := by
  induction bs generalizing g with
  | nil => rfl
  | cons x bs ih => exact ih _

section
variable {s : State} {op coach count first unit : Nat}

/-- A SLOT_OWN_CMD whose checks pass writes the blocks that it names. -/
theorem State.slotOwn_passes (hload : s.stage.loading = none) (hunit : unit < 2048 + 22) (hcount : 0 < count)
    (hlanes : first + count ≤ nodeLanes (ownNode unit)) (hcoach : op ≤ 1 → coach < 48)
    (hfree : ∀ x ∈ s.ownBlocks count first unit, s.blockOwner x.1 x.2.1 x.2.2 ≠ 62 ∧ ∀ n, s.blockUsed n x = false)
    (hlend : op = 1 → ∀ x ∈ s.ownBlocks count first unit, s.blockOwner x.1 x.2.1 x.2.2 ≠ 63 ∧
      s.blockOwner x.1 x.2.1 x.2.2 ≠ coach ∧ s.partOf (s.blockOwner x.1 x.2.1 x.2.2) = s.partOf coach) :
    s.slotOwn op coach count first unit =
      { s with stage := (s.owned op coach (s.ownBlocks count first unit)).result coach 0 0 } := by
  have hidle : ¬s.stage.loading.isSome = true := by simp [hload]
  have hrange : ¬(count = 0 ∨ first + count > (if unit ≥ 2048 + 22 then 0 else nodeLanes (ownNode unit)) ∨ (op ≤ 1 ∧ coach > 47)) := by
    rw [if_neg (Nat.not_le.mpr hunit)]
    omega
  refine (if_neg hidle).trans ((if_neg hrange).trans ((if_neg ?inUse).trans ((if_neg ?lendee).trans ((if_neg ?isolation).trans ?_))))
  case inUse =>
    rw [Bool.not_eq_true, List.any_eq_false]
    intro x hx
    obtain ⟨hsystem, hused⟩ := hfree x hx
    simp [hsystem, hused]
  case lendee =>
    rw [Bool.not_eq_true, Bool.and_eq_false_imp, decide_eq_true_iff]
    intro hop
    rw [List.any_eq_false]
    intro x hx
    obtain ⟨howned, hother, -⟩ := hlend hop x hx
    simp [howned, hother]
  case isolation =>
    rw [Bool.not_eq_true, Bool.and_eq_false_imp, decide_eq_true_iff]
    intro hop
    rw [List.any_eq_false]
    intro x hx
    obtain ⟨-, -, hpart⟩ := hlend hop x hx
    simp [hpart]
  exact congrArg (fun g : Stage => { s with stage := g.result coach 0 0 }) (foldl_setBlocks s.stage _ _ _)

theorem toNat_of_eq_ofNat {x : BitVec 6} {v : Nat} (hv : v < 64) (h : x = BitVec.ofNat 6 v) : x.toNat = v := by
  rw [h, BitVec.toNat_ofNat, Nat.mod_eq_of_lt hv]

/-- Owner and lendee of each block after the tables are written. -/
theorem State.owned_reads (hown : twf 63 s.stage.owner = true) (hlen : twf 63 s.stage.lendee = true)
    (hlanes : first + count ≤ nodeLanes (ownNode unit)) {t : State}
    (ht : t.stage = (s.owned op coach (s.ownBlocks count first unit)).result coach 0 0) (hc : coach < 64)
    {n lane b : Nat} (hlane : lane < 2048) (hb : b < 64) :
    t.blockOwner n lane b = (if (n, lane, b) ∈ s.ownBlocks count first unit then ownOwner op coach (s.blockOwner n lane b)
      else s.blockOwner n lane b) ∧
    t.blockLendee n lane b = (if (n, lane, b) ∈ s.ownBlocks count first unit then ownLendee op coach
      else s.blockLendee n lane b) := by
  have hkey (x) (hx : x ∈ s.ownBlocks count first unit) (h : ownKey x = blockKey n lane b) : x = (n, lane, b) := by
    obtain ⟨hl, hb'⟩ := State.ownBlocks_bounds hlanes hx
    exact blockKey_inj hl hlane hb' hb h
  have howner : ownOwner op coach (s.blockOwner n lane b) < 64 := by
    have := (tget 63 s.stage.owner (blockKey n lane b)).isLt
    unfold ownOwner State.blockOwner
    repeat' split
    all_goals omega
  have hlendee : ownLendee op coach < 64 := by
    unfold ownLendee
    split <;> omega
  unfold State.blockOwner State.blockLendee
  rw [ht]
  by_cases hmem : (n, lane, b) ∈ s.ownBlocks count first unit
  · simp only [if_pos hmem]
    refine ⟨toNat_of_eq_ofNat howner (tget_tsetAll_same hown (fun x hx h => ?_) ⟨_, hmem, rfl⟩),
      toNat_of_eq_ofNat hlendee (tget_tsetAll_same hlen (fun _ _ _ => rfl) ⟨_, hmem, rfl⟩)⟩
    rw [hkey x hx h]
    rfl
  · have hne (x) (hx : x ∈ s.ownBlocks count first unit) : blockKey n lane b ≠ ownKey x := fun h => hmem (hkey x hx h.symm ▸ hx)
    simp only [if_neg hmem]
    exact ⟨congrArg BitVec.toNat (tget_tsetAll_ne hne), congrArg BitVec.toNat (tget_tsetAll_ne hne)⟩

end

/-- Settles O22: each command is one operation of SLOT_OWN_CMD, whose checks pass and which writes the owner and lendee of its blocks. -/
theorem blockOwnershipCommandsSetTheirBlocks : Obligations.BlockOwnershipCommandsSetTheirBlocks := by
  unfold Obligations.BlockOwnershipCommandsSetTheirBlocks
  intro s coach count first unit hown hlen node bs hopen hload hunit hcount hlanes hfree sets
  have hsets (op : Nat) (i : Instr) (hi : exec i s = s.gate fun s => .next (s.slotOwn op coach.toNat count.toNat first.toNat unit.toNat))
      (hcoach : op ≤ 1 → coach.toNat < 48)
      (hlend : op = 1 → ∀ x ∈ bs, s.blockOwner x.1 x.2.1 x.2.2 ≠ 63 ∧ s.blockOwner x.1 x.2.1 x.2.2 ≠ coach.toNat ∧
        s.partOf (s.blockOwner x.1 x.2.1 x.2.2) = s.partOf coach.toNat) :
      sets i (ownOwner op coach.toNat) (fun _ => ownLendee op coach.toNat) := by
    refine ⟨{ s with stage := (s.owned op coach.toNat bs).result coach.toNat 0 0 }, ?_, rfl, rfl, fun n lane b hlane hb =>
      State.owned_reads hown hlen hlanes rfl coach.isLt hlane hb⟩
    rw [hi, s.gate_open _ hopen, State.slotOwn_passes hload hunit hcount hlanes hcoach hfree hlend]
  exact ⟨fun hc => hsets 0 _ rfl (fun _ => hc) (by simp), hsets 2 _ rfl (by simp) (by simp), hsets 3 _ rfl (by simp) (by simp),
    fun hc hlend => hsets 1 _ rfl (fun _ => hc) fun _ => hlend⟩

end Sys2Proof.Machine
end

section
/-! The switches, injectors and ejectors of the Stage (R118, R121 to R123, R131, R136, R140, R208, R209, R582). -/
namespace Sys2Proof.Machine

variable {s : State} {node lane cyc : Nat}

/-! A corrected flit (R121). -/

theorem State.corrected_whole {unit : Nat} {f : Flit} (h : f.code = 0) : s.corrected unit f = (s, f) := by
  simp [State.corrected, h]

theorem State.corrected_ce {unit : Nat} {f : Flit} (h : f.code = 1) :
    s.corrected unit f = (s.logErr errCe 7 unit 0 0x3F 0xFF 0, { f with code := 0 }) := by
  simp [State.corrected, h]

/-! Injection. -/

/-- The flit that a coach's stream sends from an endpoint. -/
def State.stamped (s : State) (ep coach stream : Nat) (tt : Bool) (f : Unit32) : Flit :=
  { payload := f, stream := BitVec.ofNat 6 stream, coach := BitVec.ofNat 6 coach, tt, src := ep
    epoch := if coach = 62 then 0 else BitVec.ofNat 16 (s.epochOf coach).toNat }

/-- The queue of a stream loses its oldest flit. -/
def State.dequeued (s : State) (key : Nat) (q : List Unit32) : State :=
  { s with
    stage := { s.stage with outQ := tset [] s.stage.outQ key q }
    jbn := { s.jbn with arriving := leaveIngress key s.jbn.arriving } }

/-- Away from the image and stub flits of a move, a stream with flits waiting sends the oldest. -/
theorem State.nextFlit_queued {coach stream : Nat} (tt : Bool) {f : Unit32} {q : List Unit32}
    (himage : isCellEp node = true → stream = 62 → s.cellState node ≠ .moveOut)
    (hstub : isCellEp node = true → stream = 63 → (s.cell node).stub = false)
    (hq : tget [] s.stage.outQ (streamKey node coach stream) = f :: q) :
    s.nextFlit node coach stream tt =
      (some (s.stamped node coach stream tt f), s.dequeued (streamKey node coach stream) q) := by
  have hi : ¬(isCellEp node && s.cellState node == .moveOut && stream == 62) = true := by
    simp only [Bool.and_eq_true, beq_iff_eq]
    exact fun ⟨⟨hc, hm⟩, hs⟩ => himage hc hs hm
  have hs : ¬(isCellEp node && s.stubOf node coach && stream == 63) = true := by
    simp only [Bool.and_eq_true, beq_iff_eq]
    rintro ⟨⟨hc, hm⟩, hs⟩
    simp [State.stubOf, hstub hc hs] at hm
  refine (if_neg hi).trans ((if_neg hs).trans ?_)
  dsimp only
  rw [hq]
  rfl

/-- A state differs from s in counters of cells and of coaches alone. -/
def State.onlyCounts (s t : State) : Prop :=
  t = { s with cells := t.cells, dbg := { s.dbg with coachCtr := t.dbg.coachCtr } } ∧
  ∀ p, t.cell p = { s.cell p with ctrs := (t.cell p).ctrs }

theorem State.onlyCounts_refl (s : State) : s.onlyCounts s := ⟨rfl, fun _ => rfl⟩

theorem State.onlyCounts_countCell (hw : s.cellsOk = true) (p i n : Nat) : s.onlyCounts (s.countCell p i n) := by
  refine ⟨rfl, fun q => ?_⟩
  by_cases hq : q = p
  · subst hq
    rw [State.countCell, s.cell_setCell q _ hw]
    rfl
  · rw [State.countCell, s.cell_setCell_ne _ hq]

theorem State.onlyCounts_countCoach {t : State} (ht : s.onlyCounts t) (n i k : Nat) : s.onlyCounts (t.countCoach n i k) := by
  obtain ⟨hrest, hcell⟩ := ht
  refine ⟨?_, fun p => ?_⟩
  · unfold State.countCoach
    split
    · exact hrest
    · rw [hrest]
  · rw [State.cell, State.countCoach_cells]
    exact hcell p

/-- No entry of a block fires for a coach: nothing is sent. -/
theorem execInject_none (hm : s.dbg.module = false) (hi : s.injector (epNode node) lane (cyc % 1024 / 16) = none) :
    execInject node lane cyc s = .next s := by
  rw [execInject, s.onModule_run _ hm]
  dsimp only
  rw [hi]
  cases lanePartner (epNode node) lane <;> rfl

section
variable {n sw l lat : Nat} {lent : Bool}

/-- The flit of a record in force goes on its lane, which is free, and is counted in its cell and its coach. -/
theorem execInject_sends {t : State} {f : Flit} {now : Nat} (hm : s.dbg.module = false) (hnow : s.cycleNow (cyc % 1024) = now)
    (hp : lanePartner (epNode node) lane = some (sw, l, lat))
    (hi : s.injector (epNode node) lane (cyc % 1024 / 16) = some (n, lent)) (hl : s.laneFree sw l (now + lat) = true)
    (hf : isCellEp node = true → (s.cell node).frozen = false) (hflit : s.laneFlit node lane (cyc % 1024) n lent = (some f, t))
    (hw : t.cellsOk = true) (ht : t.stage.frame = s.stage.frame) :
    ∃ u, t.onlyCounts u ∧ execInject node lane cyc s = .next { u with stage := { t.stage with
      flits := t.stage.flits ++ [{ node := sw, lane := l, at_ := now + lat, flit := f }] } } := by
  have hfree : ¬((isCellEp node && (s.cell node).frozen) || !s.laneFree sw l (s.cycleNow (cyc % 1024) + lat)) = true := by
    rw [hnow, hl]
    simpa using hf
  have hcell : t.onlyCounts (if isCellEp node then t.countCell node 1 1 else t) := by
    split
    · exact State.onlyCounts_countCell hw node 1 1
    · exact t.onlyCounts_refl
  have hcounts := State.onlyCounts_countCoach hcell n 0 1
  refine ⟨_, hcounts, ?_⟩
  have hstage : ((if isCellEp node then t.countCell node 1 1 else t).countCoach n 0 1).stage = t.stage := by rw [hcounts.1]
  have hat : ((if isCellEp node then t.countCell node 1 1 else t).countCoach n 0 1).cycleNow (cyc % 1024) = now := by
    rw [State.cycleNow, hstage, ht]
    exact hnow
  rw [execInject, s.onModule_run _ hm]
  simp only [hp, hi]
  rw [if_neg hfree, hflit]
  simp only [hat, hstage]

end

/-! Switches. -/

section
variable {nd l lat : Nat} {r : TtRecord} {x : FlitInFlight}

/-- A flit in a switch for an output's coach goes on, corrected; one of another coach, or with an uncorrectable error, is discarded. -/
def State.hopFlit (s : State) (sw : Nat) (n o : Nat) (dst : Nat × Nat × Nat) (f : Flit) : State :=
  if f.coach.toNat = n ∧ f.code ≠ 2 then
    let u := s.corrected (2048 + sw) f
    { u.1 with stage := { u.1.stage with flits := u.1.stage.flits ++ [{ node := dst.1, lane := dst.2.1, at_ := dst.2.2, flit := u.2 }] } }
  else s.countCoach o 2 1

/-- HOP with one flit, of the active buffer, at its record's input. -/
theorem execHop_one {now n : Nat} (hm : s.dbg.module = false) (hnow : s.cycleNow (cyc % 1024) = now)
    (hp : swPartner node lane = some (nd, l, lat)) (hl : s.laneFree nd l (now + lat) = true)
    (hn : s.coachInForce node lane (cyc % 1024 / 16) = n)
    (hr : ttFind ((s.tt n).buf (s.tt n).activeB) 2 node lane (cyc % 1024) = some r)
    (hold : ttFind ((s.tt n).buf (!(s.tt n).activeB)) 2 node lane (cyc % 1024) = none)
    (hx : (s.stage.flits.filter fun y => y.node == node && y.lane == r.inn && y.at_ + 2 == now && y.flit.tt == (s.tt n).activeB) = [x]) :
    execHop node lane cyc s =
      .next (s.hopFlit node n (s.blockOwner node lane (cyc % 1024 / 16)) (nd, l, now + lat) x.flit) := by
  have hfree : ¬(!s.laneFree nd l (now + lat)) = true := by simp [hl]
  rw [execHop, s.onModule_run _ hm]
  simp only [hp, hn, hnow]
  rw [if_neg hfree]
  simp only [hr, hold, hx, List.nil_append, List.map_cons, List.map_nil]
  by_cases hmine : x.flit.coach.toNat = n ∧ x.flit.code ≠ 2
  · have hkeep : [x.flit].filter (fun f => f.coach.toNat == n && f.code != 2) = [x.flit] :=
      List.filter_cons_of_pos (by simpa using hmine)
    rw [hkeep, State.hopFlit, if_pos hmine]
    rfl
  · have hdrop : [x.flit].filter (fun f => f.coach.toNat == n && f.code != 2) = [] :=
      List.filter_cons_of_neg (by simpa using hmine)
    rw [hdrop, State.hopFlit, if_neg hmine]
    rfl

end

/-! Ejection. -/

/-- The flit that arrives at an endpoint's lane in a cycle has been taken. -/
def State.takenFlit (s : State) (ep lane now : Nat) : State :=
  { s with stage := { s.stage with
      flits := s.stage.flits.map fun (y : FlitInFlight) =>
        if y.node = epNode ep ∧ y.lane = lane ∧ y.at_ = now then { y with taken := true } else y } }

section
variable {now : Nat} {x : FlitInFlight}

/-- An ejected flit whose code shows an uncorrectable error is taken and counted as discarded (the model's reading, log 100). -/
theorem execEject_discards (hm : s.dbg.module = false) (hnow : s.cycleNow (cyc % 1024) = now)
    (hx : (s.stage.flits.find? fun x => x.node == epNode node && x.lane == lane && x.at_ == now && !x.taken) = some x)
    (hcode : x.flit.code = 2) :
    execEject node lane cyc s = .next ((s.takenFlit node lane now).countCoach x.flit.coach.toNat 2 1) := by
  rw [execEject, s.onModule_run _ hm]
  simp only [hnow, hx, if_pos hcode]
  rfl

/-- An ejected flit whose code is whole is taken, and its record gives it to a stopped pcell's FIFO or to its unit. -/
theorem execEject_whole {r : TtRecord} (hm : s.dbg.module = false) (hnow : s.cycleNow (cyc % 1024) = now)
    (hx : (s.stage.flits.find? fun x => x.node == epNode node && x.lane == lane && x.at_ == now && !x.taken) = some x)
    (hcode : x.flit.code = 0) (hr : ttFind ((s.tt x.flit.coach.toNat).buf x.flit.tt) 3 node lane (cyc % 1024) = some r) :
    execEject node lane cyc s = .next (if (isCellEp node && (s.cell node).frozen) = true
      then (s.takenFlit node lane now).stopFifo node x.flit.coach.toNat r.inn x.flit
      else (s.takenFlit node lane now).accept node x.flit.coach.toNat r.inn x.flit) := by
  have hne : ¬x.flit.code = 2 := by simp [hcode]
  rw [execEject, s.onModule_run _ hm]
  simp only [hnow, hx, if_neg hne, State.corrected_whole hcode]
  simp only [State.tt] at hr ⊢
  simp only [hr]
  split <;> rename_i hfrozen
  · exact (congrArg Host.Outcome.next (if_pos hfrozen)).symm
  · exact (congrArg Host.Outcome.next (if_neg hfrozen)).symm

/-- A flit of a stale epoch is counted and dropped (R209). -/
theorem State.accept_stale {n st : Nat} {f : Flit} (hn : n ≠ 62) (he : s.epochOk n f.epoch = false) :
    s.accept node n st f = ((if isCellEp node then s.countCell node 2 1 else s).countCoach n 1 1).staleDrop n := by
  have hcounts : ((if isCellEp node then s.countCell node 2 1 else s).countCoach n 1 1).epochOk n f.epoch = s.epochOk n f.epoch := by
    simp only [State.epochOk, State.epochOf, State.windowOpen, State.coach, State.countCoach_coaches, State.countCoach_stage]
    split <;> rfl
  have hstale : (decide (n ≠ 62) && !((if isCellEp node then s.countCell node 2 1 else s).countCoach n 1 1).epochOk n f.epoch) = true := by
    rw [hcounts, he]
    simpa using hn
  exact if_pos hstale

end

/-- Settles O20: what each of INJECT, HOP and EJECT does with the flit of its record, and what its code leaves. -/
theorem stageMovesFlits : Obligations.StageMovesFlits := by
  unfold Obligations.StageMovesFlits
  intro s node lane cyc hw hm c now
  have hnow : s.cycleNow (cyc % 1024) = now := by rw [State.cycleNow, Nat.mod_mod]
  refine ⟨fun sw l lat n lent r f q hp hi hl hf hmove hr hq => ?inject, execInject_none hm, fun nd l lat r x hp hl => ?hop,
    fun x r hx => ?eject, fun f hf => State.corrected_whole hf, fun f hf => State.corrected_ce hf⟩
  case inject =>
    have hflit : s.laneFlit node lane c n lent =
        (some (s.stamped node n r.inn (s.tt n).activeB f), s.dequeued (streamKey node n r.inn) q) := by
      rw [State.laneFlit]
      simp only [hr]
      exact State.nextFlit_queued _ (fun hc => (hmove hc).1) (fun hc => (hmove hc).2) hq
    obtain ⟨u, ⟨hrest, hcells⟩, hexec⟩ := execInject_sends hm hnow hp hi hl hf hflit hw rfl
    refine ⟨_, hexec, rfl, ?_, ?_, hcells⟩
    · rw [hrest]
      rfl
    · rw [hrest]
      rfl
  case hop =>
    intro n o b hr hold hx
    have hhop := execHop_one hm hnow hp hl rfl hr hold hx
    refine ⟨fun hn hcode => ?_, fun hdrop => ?_⟩
    · rw [exec_hop, hhop, State.hopFlit, if_pos ⟨hn, hcode⟩]
    · rw [exec_hop, hhop, State.hopFlit, if_neg fun ⟨hn, hcode⟩ => hdrop.elim (fun h => h hn) hcode]
  case eject =>
    intro n t
    refine ⟨execEject_discards hm hnow hx, fun hcode hr => ?_, fun hn he => State.accept_stale (s := t) hn he⟩
    have heject := execEject_whole hm hnow hx hcode hr
    refine ⟨fun hf => ?_, fun hf => ?_⟩
    · rw [exec_eject, heject, if_neg (by simp [hf])]
      rfl
    · rw [exec_eject, heject, if_pos hf]
      rfl

end Sys2Proof.Machine
end

section
/-! A load of a timetable image that passes its checks also notes the image and the coach's epoch (R384), where O21 keeps what was noted. -/
namespace Sys2Proof.Machine

section
variable {s : State} {n : Slot} {a : Nat}

/-- The state in which the loader checks the image: the load is no longer in progress. -/
def State.loadTaken (s : State) : State := { s with stage := { s.stage with loading := none } }

/-- TT_LOAD_BEGIN with an image that passes its checks reads it and makes it the inactive buffer, with its address. -/
theorem execTtLoadBegin_passes {l : List TtRecord} (hm : s.dbg.module = false) (hload : s.stage.loading = some (n, false, a))
    (hw : s.ttMayWrite n = true) (hl : s.loadTaken.ttImage n a = .ok l) :
    execTtLoadBegin n s = .next ((s.loadTaken.ttTouch a).ttReplace n l true (some a)) := by
  have htakes : ¬((n ≠ n) || !s.ttMayWrite n) = true := by simp [hw]
  rw [execTtLoadBegin, s.onModule_run _ hm]
  simp only [hload]
  rw [if_neg htakes]
  simp only [Bool.false_eq_true, if_false]
  rw [State.loadTaken] at hl
  rw [hl]
  rfl

/-- Where no cell is listed none is vacated. -/
theorem State.freeVacated_of_no_cells (h : s.cells = []) : s.freeVacated = s := by
  simp [State.freeVacated, h]

/-- Where no cell is listed, a buffer replaced by an image has its address and the coach's epoch. -/
theorem State.ttReplace_nextImage (hc : s.cells = []) (hw : twf {} s.stage.tt = true) (l : List TtRecord) (loaded : Bool) (n : Nat) :
    ((s.ttReplace n l loaded (some a)).tt n).nextImage = some (BitVec.ofNat 64 a, s.epochOf n) := by
  rw [State.ttReplace, State.freeVacated_of_no_cells (s := s.setTt n _) hc, s.tt_setTt _ _ hw]
  rfl

end

/-- Coach 3 loads the image at 0, one HOP record of switch 0 from lane 0 to lane 1, and no image has been noted for a buffer of it. -/
def loadState : State :=
  { stage := { owner := [(blockKey 0 1 0, 3), (blockKey 2048 0 0, 3)], loading := some (3, false, 0) }
    mem := [(0, 1), (4, 1), (8, 99), (9, 152), (10, 20), (11, 7), (32, 2), (36, 1), (40, 4), (42, 1), (44, 1)] }

/-- The image passes every check. -/
theorem loadState_image : ∃ l, loadState.loadTaken.ttImage 3 0 = .ok l := by
  have hok : (loadState.loadTaken.ttImage 3 0).isOk = true := by decide +kernel
  cases h : loadState.loadTaken.ttImage 3 0 with
  | ok l => exact ⟨l, rfl⟩
  | error e => rw [h] at hok; cases hok

/-- The loader's read of the image leaves no cell listed and no timetable. -/
theorem loadState_touch : (loadState.loadTaken.ttTouch 0).cells = [] ∧ (loadState.loadTaken.ttTouch 0).stage.tt = [] := by
  decide +kernel

/-- Refutes O21: a load whose image passes its checks gives the inactive buffer the image's address and the coach's epoch, which the
statement keeps as they were before. -/
theorem not_timetablesLoadSwapAndFramesAdvance : ¬ Obligations.TimetablesLoadSwapAndFramesAdvance := by
  unfold Obligations.TimetablesLoadSwapAndFramesAdvance
  intro h
  obtain ⟨-, -, hload, -⟩ := h.1 loadState 3 0
  obtain ⟨l, hl⟩ := loadState_image
  obtain ⟨hcells, htt⟩ := loadState_touch
  have hstated := (hload 0 (by decide) rfl (by decide)).1 l hl
  have hdone := execTtLoadBegin_passes (s := loadState) (n := 3) (a := 0) rfl rfl rfl hl
  have hsame := Host.Outcome.next.inj (hdone.symm.trans hstated)
  have hnoted := State.ttReplace_nextImage (a := 0) hcells (by rw [htt]; rfl) l true (3 : Slot)
  rw [hsame, State.freeVacated_of_no_cells (by rfl)] at hnoted
  have hkept := State.tt_setTt (s := loadState.loadTaken) (3 : Slot) { (loadState.tt 3).setBuf true l with loaded := true } rfl
  have hnone := congrArg TtBuffers.nextImage hkept
  cases hnone.symm.trans hnoted

end Sys2Proof.Machine
end

section
/-! What a ring's current command does in one run (R167, R173, R188, R193, R196). -/
namespace Sys2Proof.Machine

variable {s : State} {e : EngineIx} {n : Slot} {c : Line} {op : Nat}

/-! The commands that a run executes: a RUN's program from its beginning or from its next step, or else the entry itself. -/

theorem State.muResult_single (hop : muOp c ≠ 8) :
    s.muResult e n c = ⟨(muExec (s.muCtx e n c) (s.muLimit e (muA c 1)) c { mem := s.mem }).finish c, c, none⟩ := if_neg hop

theorem State.muResult_begins (hop : muOp c = 8) (hprog : ((s.engine e).ring n).prog = none) :
    s.muResult e n c = muRunProgram (s.muCtx e n) (decide (20 ≤ e.val)) (fun c => s.muLimit e (muA c 1)) c { mem := s.mem } := by
  simp only [State.muResult, hop, hprog, if_true]

theorem State.muResult_goesOn {hdr : List Byte} {j : Nat} {b : Line} (hop : muOp c = 8)
    (hprog : ((s.engine e).ring n).prog = some (hdr, j, b)) :
    s.muResult e n c = muRunFrom (s.muCtx e n) (decide (20 ≤ e.val)) (fun c => s.muLimit e (muA c 1)) c hdr j { mem := s.mem } := by
  simp only [State.muResult, hop, hprog, if_true]

/-- The ring's current command is c, with the opcode; it has not run and may run now: a program under way has no flit left (log 113). -/
structure State.muReady (s : State) (e : EngineIx) (n : Slot) (c : Line) (op : Nat) : Prop where
  current : ((s.engine e).ring n).cur = some c
  opcode : muOp c = op
  fresh : ((s.engine e).ring n).curDone = false
  enabled : ((s.engine e).ring n).enabled = true
  running : ((s.engine e).ring n).halt = false
  unfaulted : ((s.engine e).ring n).doom = none
  time : s.ringHasTime e n = true
  flitsLeft : ((s.engine e).ring n).prog = none ∨ ((s.engine e).ring n).sent = true

/-- A run's effect: memory, the flits that join the ring's output, and then the entry's end or the fault that waits for the flits. -/
def State.muEffect (s : State) (e : EngineIx) (n : Slot) (op : Nat) (res : RunResult) : State :=
  let u := (s.muCommit e n res.run).muSend e n res.run
  let x := (u.engine e).ring n
  match res.run.fault with
  | some k => (u.setRing e n { x with doom := some (k, res.cmd) }).ringDoom e n
  | none => u.setRing e n { x with
      curDone := res.next.isNone
      prog := if op = 8 then some ((res.next.getD ([], 0)).1, (res.next.getD ([], 0)).2, res.cmd) else none }

/-- A ready command runs, unless a cell has cached a line of it, which leaves it without a meaning (R167). -/
theorem State.muleRun_ready (hr : s.muReady e n c op) :
    s.muleRun e n op =
      if s.muCached e n (s.muResult e n c).run then .fault .muleCached else .next (s.muEffect e n op (s.muResult e n c)) := by
  obtain ⟨hcur, hop, hfresh, hen, hgo, hdoom, htime, hleft⟩ := hr
  simp only [State.muleRun, hcur]
  refine (if_neg ?_).trans rfl
  rcases hleft with hleft | hleft <;>
    simp only [hop, hfresh, hen, hgo, hdoom, htime, hleft, ne_eq, not_true_eq_false, Option.isSome_none, Bool.not_true,
      Bool.false_eq_true, false_and, and_false, or_self, not_false_eq_true]

/-- Settles O24: each Mule command is a run of its ring's entry; a RUN begins its program or goes on with it. -/
theorem muleCommandsRunTheirEntry : Obligations.MuleCommandsRunTheirEntry := by
  unfold Obligations.MuleCommandsRunTheirEntry
  intro s e n c hm r ctx limit runs one
  have hrun {i : Instr} {op : Nat} {res : RunResult} (hi : exec i s = s.onModule fun s => s.muleRun e n op)
      (hleft : r.prog = none ∨ r.sent = true) (hres : muOp c = op → s.muResult e n c = res) : runs i op res := by
    intro hcur hop hfresh hen hgo hdoom htime u x
    rw [hi, s.onModule_run _ hm, State.muleRun_ready ⟨hcur, hop, hfresh, hen, hgo, hdoom, htime, hleft⟩, hres hop]
    refine ⟨fun hc => ⟨fun hf => ?_, fun k hf => ?_⟩, fun hc => if_pos hc⟩
    · rw [hc, State.muEffect, hf]
      rfl
    · rw [hc, State.muEffect, hf]
      rfl
  refine ⟨fun hprog => ?_, fun hdr j b hprog hsent => hrun rfl (.inr hsent) fun hop => State.muResult_goesOn hop hprog⟩
  have hone {i : Instr} {op : Nat} (hop : op ≠ 8) (hi : exec i s = s.onModule fun s => s.muleRun e n op) : runs i op one :=
    hrun hi (.inl hprog) fun h => State.muResult_single (h ▸ hop)
  exact ⟨hone (by decide) rfl, hone (by decide) rfl, hone (by decide) rfl, hone (by decide) rfl, hone (by decide) rfl,
    hone (by decide) rfl, hone (by decide) rfl, hone (by decide) rfl,
    hrun rfl (.inl hprog) fun hop => State.muResult_begins hop hprog⟩

end Sys2Proof.Machine
end

section
/-! Rings fetched, retired and controlled, and the MULE map (R163, R164, R172 to R174, R196 to R199). -/
namespace Sys2Proof.Machine

variable {s : State} {e : EngineIx} {n : Slot} {c : Line} {v : Word}

/-! RING_FETCH (R172, R173). -/

section
variable (hm : s.dbg.module = false) (hen : ((s.engine e).ring n).enabled = true) (hgo : ((s.engine e).ring n).halt = false)
  (hidle : ((s.engine e).ring n).cur = none) (htime : s.ringHasTime e n = true)
include hm hen hgo hidle htime

theorem exec_ringFetch_atTail (htail : ((s.engine e).ring n).head = ((s.engine e).ring n).tail) :
    exec (.ringFetch e n) s = .next (s.rereadTail (epEngine e) (lineNo ((s.engine e).ring n).tailAddr.toNat)) := by
  rw [exec_ringFetch, execRingFetch, s.onModule_run _ hm]
  simp only [hen, hgo, hidle, htime, htail, Option.isSome_none, Bool.not_true, Bool.or_self, Bool.false_eq_true, beq_self_eq_true,
    if_false, if_true]

/-- An entry that the engine may read and that passes the checks becomes current; the checks of a RUN come as it runs. -/
theorem exec_ringFetch_reads (htail : ((s.engine e).ring n).head ≠ ((s.engine e).ring n).tail)
    (hbad : s.muBad e (s.partOf n) (((s.engine e).ring n).entryAddr ((s.engine e).ring n).head.toNat / 64) = none)
    (hlost : s.muLost (((s.engine e).ring n).entryAddr ((s.engine e).ring n).head.toNat / 64) = none)
    (hc : s.readLine (((s.engine e).ring n).entryAddr ((s.engine e).ring n).head.toNat / 64) = c)
    (hcheck : muOp c ≠ 8 → muCheck (decide (20 ≤ e.val)) c = none) :
    exec (.ringFetch e n) s = .next
      (((s.memDemand (((s.engine e).ring n).entryAddr ((s.engine e).ring n).head.toNat / 64) 0 mMule).2.countCoach n 12 64).setRing e n
        { (s.engine e).ring n with head := ((s.engine e).ring n).head + 1, cur := some c, curDone := false }) := by
  have hpass : (if muOp c = 8 then none else muCheck (decide (20 ≤ e.val)) c) = none := by
    split
    · rfl
    · next hop => exact hcheck hop
  have hbehind : (((s.engine e).ring n).head == ((s.engine e).ring n).tail) = false := beq_eq_false_iff_ne.mpr htail
  have hguard : (!((s.engine e).ring n).enabled || ((s.engine e).ring n).halt || ((s.engine e).ring n).cur.isSome ||
      !s.ringHasTime e n) = false := by
    rw [hen, hgo, hidle, htime]
    rfl
  rw [exec_ringFetch, execRingFetch, s.onModule_run _ hm]
  simp only [hguard, hbehind, hbad, hlost, hc, Bool.false_eq_true, if_false]
  rw [hpass]
  rfl

end

/-! MULE_RETIRE (R173, R174). -/

theorem ofNat_muTag (c : Line) : BitVec.ofNat 16 (muTag c) = c.extractLsb' 16 16 := by
  rw [muTag, bfield_eq_extractLsb', BitVec.ofNat_toNat, BitVec.setWidth_eq]

theorem exec_muleRetire_finished (hm : s.dbg.module = false) (hcur : ((s.engine e).ring n).cur = some c)
    (hdone : ((s.engine e).ring n).curDone = true) (hsent : ((s.engine e).ring n).sent = true) :
    let u := s.setRing e n { (s.engine e).ring n with
      cur := none, curDone := false, prog := none, retired := ((s.engine e).ring n).retired + 1, tag := c.extractLsb' 16 16 }
    exec (.muleRetire e n) s = .next (if c.getLsbD 15 then u.storeDone e n (muTag c) else u) := by
  rw [exec_muleRetire, execMuleRetire, s.onModule_run _ hm]
  simp only [hcur, hdone, hsent, ofNat_muTag, muNotify, Bool.and_self, if_true]

/-! RING_CFG and RING_CTRL (R196 to R199). -/

/-- The ring's configuration after a write that sets ENABLE. -/
def Ring.configured (r : Ring) (v : Word) : Ring := { r with cfg := (v ||| 1) &&& 0x7FFF003E }

/-- The ring as an enable that passes its checks leaves it. -/
def Ring.started (r : Ring) : Ring :=
  { r with enabled := true, error := 0, head := 0, tail := 0, retired := 0, cur := none, curDone := false, doom := none, prog := none }

theorem lowBit_or_one (v : Word) : (v ||| 1).getLsbD 0 = true := by simp

/-- An enable starts the ring and reads its tail word, or only records the check that fails. -/
theorem State.ringCfgWrite_enable (hoff : ((s.engine e).ring n).enabled = false) :
    let r := ((s.engine e).ring n).configured v
    let u := (s.setRing e n r.started).readTail e r.started
    let l := lineNo ((s.engine e).ring n).tailAddr.toNat
    s.ringCfgWrite e n (v ||| 1) =
      if s.ringCheck e n r = 0 then if (u.agent (epEngine e) l).st = .S then u.takeTails e l else u
      else s.setRing e n { r with error := BitVec.ofNat 8 (s.ringCheck e n r) } := by
  intro r u l
  simp only [State.ringCfgWrite]
  split
  · next hon => rw [hoff] at hon; cases hon
  · split
    · next hlow => rw [lowBit_or_one] at hlow; cases hlow
    · split
      · next hcheck => exact (if_pos hcheck).symm
      · next hcheck => exact (if_neg hcheck).symm

theorem State.ringFlush_halted (hhalt : ((s.engine e).ring n).halt = true) :
    s.ringFlush e n = s.setRing e n { (s.engine e).ring n with head := ((s.engine e).ring n).tail, halt := false, fault := 0 } :=
  if_pos hhalt

theorem State.ringAbort_entry (hcur : ((s.engine e).ring n).cur = some c) (hprog : ((s.engine e).ring n).prog = none) :
    s.ringAbort e n = s.ringFault e n mAborted c := by
  simp only [State.ringAbort, hcur, hprog]

theorem State.ringAbort_idle (hcur : ((s.engine e).ring n).cur = none) : s.ringAbort e n = s := by
  simp only [State.ringAbort, hcur]

theorem State.ringDisable_idle (hcur : ((s.engine e).ring n).cur = none) :
    s.ringDisable e n = s.setRing e n { (s.engine e).ring n with enabled := false } := by
  rw [State.ringDisable, State.ringAbort_idle hcur]

/-! The MULE map (R163, R164). -/

section
variable {k : Nat} (hk : k < s.mapCount e)
include hk

theorem State.mapWrite_idle (hp : (s.engine e).mapPending = []) :
    s.mapWrite e k v = s.setEngine e { s.engine e with
      map := tset 0 (s.engine e).map k (tget 0 (s.engine e).map k &&& v)
      mapPending := tset 0 [] k (v &&& ~~~(tget 0 (s.engine e).map k)) } := by
  have hin : ¬ k ≥ s.mapCount e := Nat.not_le.mpr hk
  simp only [State.mapWrite, if_neg hin, hp, List.isEmpty_nil, Bool.not_true, Bool.false_eq_true, if_false]

theorem State.mapWrite_busy (hp : (s.engine e).mapPending ≠ []) :
    s.mapWrite e k v = s.setEngine e { s.engine e with mapOverrun := true } := by
  have hin : ¬ k ≥ s.mapCount e := Nat.not_le.mpr hk
  have hwait : (s.engine e).mapPending.isEmpty = false := List.isEmpty_eq_false_iff.mpr hp
  simp only [State.mapWrite, if_neg hin, hwait, Bool.not_false, if_true]

end

theorem exec_muleMapTakeEffect_quiet (hm : s.dbg.module = false) (hp : (s.engine e).mapPending ≠ [])
    (hq : ∀ l ∈ s.knownLines (s.mapWaits e), s.quiet (BitVec.ofNat 46 l) = true) :
    exec (.muleMapTakeEffect e) s = .next
      (((s.knownLines (s.mapWaits e)).foldl (fun s l => s.flushLine (BitVec.ofNat 46 l) false) s).setEngine e { s.engine e with
        map := (s.engine e).mapPending.foldl (fun m b => tset 0 m b.1 (tget 0 m b.1 ||| b.2)) (s.engine e).map, mapPending := [] }) := by
  have hstill : ((s.knownLines (s.mapWaits e)).any fun l => !s.quiet (BitVec.ofNat 46 l)) = false := by
    rw [List.any_eq_false]
    exact fun l hl => by simp [hq l hl]
  have hwait : (s.engine e).mapPending.isEmpty = false := List.isEmpty_eq_false_iff.mpr hp
  rw [exec_muleMapTakeEffect, execMuleMapTakeEffect, s.onModule_run _ hm]
  simp only [hstill, hwait, Bool.or_self, Bool.false_eq_true, if_false]

/-- Settles O25: each ring command and each step of the MULE map. -/
theorem ringsAndTheMuleMapObeyTheirRegisters : Obligations.RingsAndTheMuleMapObeyTheirRegisters := by
  unfold Obligations.RingsAndTheMuleMapObeyTheirRegisters
  refine ⟨?_, ?_⟩
  · intro s e n c v r
    refine ⟨fun hm => ⟨exec_ringFetch_atTail hm, fun hen hgo hidle htime htail => exec_ringFetch_reads hm hen hgo hidle htime htail,
      exec_muleRetire_finished hm⟩, fun ho => ⟨fun hoff => ?_, fun hhalt => ?_, fun hcur hprog => ?_, fun hcur => ?_⟩⟩
    · rw [exec_ringEnable, execRingEnable, s.gate_open _ ho, State.ringCfgWrite_enable hoff]
      exact ⟨fun hcheck => congrArg _ (if_pos hcheck), fun hcheck => congrArg _ (if_neg hcheck)⟩
    · rw [exec_ringFlush, execRingFlush, s.gate_open _ ho, State.ringFlush_halted hhalt]
    · rw [exec_ringAbort, execRingAbort, s.gate_open _ ho, State.ringAbort_entry hcur hprog]
      rfl
    · rw [exec_ringAbort, execRingAbort, s.gate_open _ ho, State.ringAbort_idle hcur, exec_ringDisable, execRingDisable,
        s.gate_open _ ho, State.ringDisable_idle hcur]
      exact ⟨rfl, rfl⟩
  · intro s e k v x
    refine ⟨fun ho hk => ?_, exec_muleMapTakeEffect_quiet⟩
    rw [exec_muleMapWrite, execMuleMapWrite, s.gate_open _ ho]
    exact ⟨fun hp => congrArg _ (State.mapWrite_idle hk hp), fun hp => congrArg _ (State.mapWrite_busy hk hp)⟩

end Sys2Proof.Machine
end

section
/-! The responses that a cell's agent takes (R284, R286, R293, R295, R303, R304). -/
namespace Sys2Proof.Machine

section
variable {s : State} {i : Instr}

/-- A message whose turn it is is delivered (R152). -/
theorem State.delivered_inTurn (ho : s.inOrder i = true) (f : State → Out) : s.delivered i f = f s := if_pos ho

end

variable {s : State} {a : Pcell} {l : LineNo} {d : Line} {cont : Bool}

/-! A cell's endpoint, and what is left of it once a message has been taken. -/

theorem isCellEp_pcell (a : Pcell) : isCellEp a = true := decide_eq_true a.isLt

theorem engineOfEp_pcell (a : Pcell) : engineOfEp a = none := by
  rw [engineOfEp, if_neg (by omega)]

theorem State.agent_takeAt (s : State) (a : Nat) (i : Instr) (b : Nat) (l : LineNo) : (s.takeAt a i).agent b l = s.agent b l := by
  rw [State.agent, State.takeAt_agents, State.agent]

theorem State.home_takeAt (s : State) (a : Nat) (i : Instr) (h : Nat) : (s.takeAt a i).home h = s.home h := by
  rw [State.home, State.takeAt_homes, State.home]

theorem State.muleWindow_takeAt (s : State) (a : Nat) (i : Instr) (l : LineNo) : (s.takeAt a i).muleWindow l = s.muleWindow l := by
  rw [State.muleWindow, State.isMule, State.engine, State.takeAt_engines]
  rfl

/-- Data of a line inside a Mule command's window has no meaning at a cell; other data acts, noted where it is of a MULE region
(R166, R167). -/
theorem State.filled_takeAt (s : State) (a : Pcell) (i : Instr) (l : LineNo) (f : State → State) :
    (s.muleWindow l = false → (s.takeAt a i).filled a l f = .next (f ((s.takeAt a i).noteCached a l))) ∧
    (s.muleWindow l = true → (s.takeAt a i).filled a l f = .fault .muleCached) := by
  rw [State.filled, isCellEp_pcell, State.muleWindow_takeAt]
  exact ⟨fun hw => by rw [hw]; rfl, fun hw => by rw [hw]; rfl⟩

/-- A line that a cell has won is held (R295). -/
theorem State.win_pcell (s : State) (a : Pcell) (l : LineNo) (x : AgentLine) :
    s.win a l x true = (s.setAgent a l { x with held := true }).agentWon a l := by
  rw [State.win, isCellEp_pcell, Bool.and_self]

theorem State.agentTo_I (s : State) (a : Nat) (l : LineNo) : s.agentTo a l .I = s.setAgent a l { deferred := (s.agent a l).deferred } := rfl

/-! A cell's Hens do not change as a far atomic's answer is taken and learned from, nor as invalidations are acknowledged. -/

theorem State.sendAll_cells (s : State) (is : List Instr) : (s.sendAll is).cells = s.cells := by
  induction is generalizing s with
  | nil => rfl
  | cons i is ih => exact ih (s.send i)

theorem State.sendAll_hen (s : State) (is : List Instr) (p : Nat) (h : HenIx) : (s.sendAll is).hen p h = s.hen p h := by
  rw [State.hen, State.cell, State.sendAll_cells]
  rfl

section
variable (hw : s.cellsOk = true)
include hw

theorem State.takeAt_pcell (a : Pcell) (i : Instr) :
    (s.takeAt a i).cellsOk = true ∧ (s.takeAt a i).cell a = (s.cell a).count 6 (Instr.gigCount i) := by
  have ht : s.takeAt a i = (s.take i).countCell a 6 (Instr.gigCount i) := if_pos (isCellEp_pcell a)
  rw [ht, State.countCell]
  exact ⟨State.cellsOk_setCell hw _, (s.take i).cell_setCell a _ hw⟩

theorem State.learn_hen (p : Nat) (h : HenIx) (x : Nat) (up : Bool) :
    (s.learn p x up).cellsOk = true ∧ (s.learn p x up).hen p h = s.hen p h := by
  unfold State.learn
  split
  · exact ⟨State.cellsOk_setCell hw _, State.hen_setCell_of_hens hw rfl⟩
  · exact ⟨hw, rfl⟩

theorem State.countCell_hen (p i n : Nat) (h : HenIx) : (s.countCell p i n).hen p h = s.hen p h :=
  State.hen_setCell_of_hens hw rfl

theorem State.checkInvs_hen (p : Nat) (h : HenIx) : (s.checkInvs p).hen p h = s.hen p h := by
  have hkept (qs : List XltInvReq) : (s.setCell p { s.cell p with invs := qs }).hen p h = s.hen p h :=
    State.hen_setCell_of_hens hw rfl
  unfold State.checkInvs
  simp only []
  split
  · rfl
  · split
    · rw [State.countCell_hen, State.sendAll_hen, hkept]
      rw [State.cellsOk, State.sendAll_cells]
      exact State.cellsOk_setCell hw _
    · exact hkept _

end

/-! What each response does at a cell whose clock runs, once it is its turn. -/

section
variable (hu : s.unfrozen a = true)
include hu

theorem exec_holdEnd_pcell :
    exec (.holdEnd a l) s = .next (((s.setAgent a l { s.agent a l with held := false }).drainDeferred a l).retryCell a none) := by
  rw [exec_holdEnd, execHoldEnd, s.onClock_run _ _ hu]
  exact congrArg _ (if_pos (isCellEp_pcell a))

theorem exec_dataS_fills (ho : s.inOrder (.dataS a l d) = true) (hst : (s.agent a l).st = .IS_D) :
    exec (.dataS a l d) s = (s.takeAt a (.dataS a l d)).filled a l fun u =>
      (u.setAgent a l { s.agent a l with st := .S, data := d, cont := false }).agentWon a l := by
  rw [exec_dataS, execDataS, s.onClock_run _ _ hu, State.delivered_inTurn ho]
  simp only [State.agent_takeAt, hst, engineOfEp_pcell]

theorem exec_dataE_fills (ho : s.inOrder (.dataE a l d) = true) (hst : (s.agent a l).st = .IS_D) :
    exec (.dataE a l d) s = (s.takeAt a (.dataE a l d)).filled a l fun u =>
      (u.setAgent a l { s.agent a l with st := .E, data := d, cont := false, held := true }).agentWon a l := by
  rw [exec_dataE, execDataE, s.onClock_run _ _ hu, State.delivered_inTurn ho]
  simp only [State.agent_takeAt, hst, State.win_pcell]

/-- DATA_M wins the line, or waits for DONE where acknowledgements are still to come. -/
theorem exec_dataM_fills {wait : Bool} (ho : s.inOrder (.dataM a l d cont wait) = true)
    (hst : (s.agent a l).st ∈ [.IM_D, .SM_D, .IS_D]) :
    exec (.dataM a l d cont wait) s = (s.takeAt a (.dataM a l d cont wait)).filled a l fun u =>
      if wait then u.setAgent a l { s.agent a l with st := .IM_A, data := d, cont }
      else (u.setAgent a l { s.agent a l with st := .M, data := d, cont, held := true }).agentWon a l := by
  simp only [List.mem_cons, List.not_mem_nil, or_false] at hst
  rw [exec_dataM, execDataM, s.onClock_run _ _ hu, State.delivered_inTurn ho]
  rcases hst with hst | hst | hst <;>
    simp only [State.agent_takeAt, hst, State.win_pcell, isCellEp_pcell, Bool.not_true, Bool.false_eq_true, if_false]

theorem exec_done_wins (ho : s.inOrder (.done a l) = true) (hst : (s.agent a l).st = .IM_A) :
    exec (.done a l) s = .next (((s.takeAt a (.done a l)).setAgent a l { s.agent a l with st := .M, held := true }).agentWon a l) := by
  rw [exec_done, execDone, s.onClock_run _ _ hu, State.delivered_inTurn ho]
  simp only [State.agent_takeAt, hst, State.win_pcell]

theorem exec_grant_wins (ho : s.inOrder (.grant a l cont) = true) (hst : (s.agent a l).st ∈ [.SM_D, .OM_A]) :
    exec (.grant a l cont) s = .next
      (((s.takeAt a (.grant a l cont)).setAgent a l { s.agent a l with st := .M, cont, held := true }).agentWon a l) := by
  simp only [List.mem_cons, List.not_mem_nil, or_false] at hst
  rw [exec_grant, execGrant, s.onClock_run _ _ hu, State.delivered_inTurn ho]
  rcases hst with hst | hst <;> simp only [State.agent_takeAt, hst, State.win_pcell]

theorem exec_putAck_loses (ho : s.inOrder (.putAck a l) = true) (hst : (s.agent a l).st ∈ [.MI_A, .OI_A, .EI_A, .SI_A, .II_A]) :
    exec (.putAck a l) s = .next
      (((s.takeAt a (.putAck a l)).setAgent a l { deferred := (s.agent a l).deferred }).agentWon a l) := by
  simp only [List.mem_cons, List.not_mem_nil, or_false] at hst
  rw [exec_putAck, execPutAck, s.onClock_run _ _ hu, State.delivered_inTurn ho]
  rcases hst with hst | hst | hst | hst | hst <;> simp only [State.agentTo_I, State.agent_takeAt, hst]

theorem exec_refuse_loses {code : BitVec 2} (ho : s.inOrder (.refuse a l code) = true)
    (hst : (s.agent a l).st ∈ [.IS_D, .IS_DI, .IM_D, .IM_A, .SM_D, .OM_A]) :
    exec (.refuse a l code) s = .next
      ((((s.takeAt a (.refuse a l code)).agentLose a l .I).retryCell a (some (l, code))).drainDeferred a l) := by
  simp only [List.mem_cons, List.not_mem_nil, or_false] at hst
  rw [exec_refuse, execRefuse, s.onClock_run _ _ hu, State.delivered_inTurn ho]
  rcases hst with hst | hst | hst | hst | hst | hst <;>
    simp only [engineOfEp_pcell, isCellEp_pcell, State.agent_takeAt, hst, Bool.not_true, Bool.false_eq_true, if_false]

/-- RETRY moves the oldest request for the line to those kept for CREDIT (R293). -/
theorem exec_retry_keeps {so : Bool} {q : List Instr} (ho : s.inOrder (.retry a l) = true)
    (hq : tget [] s.retrying (a.val * 2048 + homeEp l) = .getS a l so :: q) :
    exec (.retry a l) s = .next { s.takeAt a (.retry a l) with
      retrying := tset [] s.retrying (a.val * 2048 + homeEp l) q
      refused := tset [] s.refused (a.val * 2048 + homeEp l)
        (tget [] s.refused (a.val * 2048 + homeEp l) ++ [.getS a l so]) } := by
  rw [exec_retry, execRetry, s.onClock_run _ _ hu, State.delivered_inTurn ho]
  simp only [State.takeAt_retrying, State.takeAt_refused, hq, List.find?_cons, beq_self_eq_true, dropFirst, if_true]

/-- CREDIT sends every request that is kept for the home (R293). -/
theorem exec_credit_sends (ho : s.inOrder (.credit a l) = true) (hk : tget [] s.refused (a.val * 2048 + homeEp l) ≠ []) :
    exec (.credit a l) s = .next ((tget [] s.refused (a.val * 2048 + homeEp l)).foldl (fun u i => u.sendFrom a i)
      { s.takeAt a (.credit a l) with refused := tset [] s.refused (a.val * 2048 + homeEp l) [] }) := by
  have hne : (tget [] s.refused (a.val * 2048 + homeEp l)).isEmpty = false := List.isEmpty_eq_false_iff.mpr hk
  rw [exec_credit, execCredit, s.onClock_run _ _ hu, State.delivered_inTurn ho]
  simp only [State.takeAt_refused, hne, Bool.not_false, if_true]

theorem exec_credit_unneeded (ho : s.inOrder (.credit a l) = true) (hk : tget [] s.refused (a.val * 2048 + homeEp l) = [])
    (hr : (s.home (homeEp l)).reserved.find? (·.1 == a.val) = none) :
    exec (.credit a l) s = .next
      { s.takeAt a (.credit a l) with refused := tset [] s.refused (a.val * 2048 + homeEp l) [] } := by
  have hh (t : State) (m : SMap (List Instr)) : ({ t with refused := m } : State).home (homeEp l) = t.home (homeEp l) := rfl
  rw [exec_credit, execCredit, s.onClock_run _ _ hu, State.delivered_inTurn ho]
  simp only [State.takeAt_refused, hk, List.foldl_nil, hh, State.home_takeAt, hr, List.isEmpty_nil, Bool.not_true, Bool.false_eq_true,
    if_false]

/-- The Hen's far atomic retires with the old value (R303, R304). -/
theorem exec_amoResp_retires {h : HenIx} {old : Word} {hot aq rl : Bool} {w : Option (BitVec 20 × Nat × Nat)} {op : AmoOp}
    {rd rs1 rs2 : Reg} (ho : s.inOrder (.amoResp a l old hot) = true) (hw : s.cellsOk = true) (hf : (s.cell a).far = [(h.val, l, w)])
    (hst : (s.hen a h).stall = some (.amo a h op true aq rl rd rs1 rs2)) :
    let u := s.takeAt a (.amoResp a l old hot)
    exec (.amoResp a l old hot) s = .next (((((u.setCell a { u.cell a with far := [] }).learn a (lineAddr l) hot).checkInvs a).done a h 4
      fun y => { y.setX rd old with amoChoice := 0 }).retryCell a none) := by
  obtain ⟨huw, huc⟩ := State.takeAt_pcell hw a (.amoResp a l old hot)
  have hfar : ((s.takeAt a (.amoResp a l old hot)).cell a).far = [(h.val, l, w)] := by rw [huc, ← hf]; rfl
  have hstall : ((s.takeAt a (.amoResp a l old hot)).hen a h).stall = some (.amo a h op true aq rl rd rs1 rs2) := by
    rw [State.hen, huc, ← hst]; rfl
  rw [exec_amoResp, execAmoResp, s.onClock_run _ _ hu, State.delivered_inTurn ho]
  generalize s.takeAt a (.amoResp a l old hot) = u at huw hfar hstall ⊢
  have hans : (((u.setCell a { u.cell a with far := [] }).learn a (lineAddr l) hot).checkInvs a).hen a h = u.hen a h := by
    obtain ⟨hlw, hl⟩ := State.learn_hen (State.cellsOk_setCell huw { u.cell a with far := [] }) a h (lineAddr l) hot
    rw [State.checkInvs_hen hlw, hl]
    exact State.hen_setCell_of_hens huw rfl
  simp only [isCellEp_pcell, hfar, List.find?_cons, beq_self_eq_true, dropWhere, Fin.is_lt, Fin.eta, Bool.not_true, Bool.false_eq_true,
    if_false, if_true, dite_true]
  rw [hans, hstall]
  rfl

end

/-- Settles O35: each response by the agent table, for a cell's agent. -/
theorem agentsTakeTheirResponses : Obligations.AgentsTakeTheirResponses := by
  unfold Obligations.AgentsTakeTheirResponses
  intro s a l d cont hu x gives fills wins
  have hfills {i : Instr} {f : State → State} (hi : s.inOrder i = true → exec i s = (s.takeAt a i).filled a l f) : fills i f := by
    intro ho
    rw [hi ho]
    exact s.filled_takeAt a i l f
  refine ⟨fun hst => ⟨?_, ?_⟩, fun hst => ⟨?_, ?_⟩, ?_, ?_, ?_, ?_, ?_, ⟨?_, ?_⟩, ?_, ?_⟩
  · exact hfills fun ho => exec_dataS_fills hu ho hst
  · exact hfills fun ho => exec_dataE_fills hu ho hst
  · exact hfills fun ho => exec_dataM_fills hu ho hst
  · exact hfills fun ho => exec_dataM_fills hu ho hst
  · exact fun hst ho => exec_done_wins hu ho hst
  · exact fun hst ho => exec_grant_wins hu ho hst
  · exact fun hst ho => exec_putAck_loses hu ho hst
  · exact fun code hst ho => exec_refuse_loses hu ho hst
  · exact fun so q hq ho => exec_retry_keeps hu ho hq
  · exact fun hk ho => exec_credit_sends hu ho hk
  · exact fun hk hr ho => exec_credit_unneeded hu ho hk hr
  · exact exec_holdEnd_pcell hu
  · exact fun h old hot w op aq rl rd rs1 rs2 hw hf hst ho => exec_amoResp_retires hu ho hw hf hst

end Sys2Proof.Machine
end

section
/-! The ends of a home's transient states, and far atomics at an engine (R194, R195, R289, R301, R302). -/
namespace Sys2Proof.Machine

variable {s : State} {l : LineNo} {a r : Nat}

theorem State.homeLine_setHomeLine (hw : twf {} s.homeLines = true) (l : LineNo) (x : HomeLine) :
    (s.setHomeLine l x).homeLine l = x := tget_tset_same hw

theorem State.homeLine_take (s : State) (i : Instr) (l : LineNo) : (s.take i).homeLine l = s.homeLine l := rfl

/-! INV_ACK (R289): one acknowledgement less, and the end with the last one. -/

section
variable {y : HomeLine} (hw : twf {} s.homeLines = true)
include hw

theorem State.homeFinish_awaiting {n : Nat} {up : Bool} (hp : y.phase = .ha (n + 1) up) :
    (s.setHomeLine l y).homeFinish l = s.setHomeLine l y := by
  simp only [State.homeFinish, State.homeLine_setHomeLine hw, hp]

theorem State.homeFinish_getM (hp : y.phase = .ha 0 false) (hr : y.req = some (.getM r)) :
    (s.setHomeLine l y).homeFinish l = ((s.setHomeLine l y).send (.done r l)).homeEnd l (y.ownedBy r) (.getM r) := by
  simp only [State.homeFinish, State.homeLine_setHomeLine hw, hp, hr, Bool.false_eq_true, if_false]

theorem State.homeFinish_upgrade (hp : y.phase = .ha 0 true) (hr : y.req = some (.upgrade r)) :
    (s.setHomeLine l y).homeFinish l =
      (((s.setHomeLine l y).noteServed (homeEp l) l r).send (.grant r l true)).homeEnd l (y.ownedBy r) (.getM r) := by
  simp only [State.homeFinish, State.homeLine_setHomeLine hw, hp, hr, if_true]

end

theorem State.homeInvAck_ha {n : Nat} {up : Bool} (hp : (s.homeLine l).phase = .ha (n + 1) up) :
    s.homeInvAck l = (s.setHomeLine l { s.homeLine l with phase := .ha n up }).homeFinish l := by
  simp only [State.homeInvAck, hp, Nat.add_sub_cancel]

/-! SNP_RESP after FWD_GET_S (R289). -/

theorem State.homeFwd_of_no_forwards {code : BitVec 2} (hf : (s.homeLine l).fwds = []) : s.homeFwd a l code = s := by
  simp only [State.homeFwd, hf, List.find?_nil]

section
variable {n : Nat} {k sn rf so : Bool} (hf : (s.homeLine l).fwds = []) (hp : (s.homeLine l).phase = .hf false n k sn rf)
  (hr : (s.homeLine l).req = some (.getS r so))
include hf hp hr

/-- After CLEAN the old owner is a sharer, beside the requester. -/
theorem State.homeSnp_clean : s.homeSnp a l 1 =
    s.homeEnd l (({ s.homeLine l with owner := none, ownedO := false }.addSharer a).addSharer r) (.getS r so) := by
  have h10 : (1 : BitVec 2) ≠ 0 := by decide
  simp only [State.homeSnp, if_neg h10, State.homeFwd_of_no_forwards hf, hp, hr, if_true]

/-- After KEPT the owner keeps the line in O. -/
theorem State.homeSnp_kept : s.homeSnp a l 2 = s.homeEnd l ({ s.homeLine l with ownedO := true }.addSharer r) (.getS r so) := by
  have h20 : (2 : BitVec 2) ≠ 0 := by decide
  have h21 : (2 : BitVec 2) ≠ 1 := by decide
  simp only [State.homeSnp, if_neg h20, if_neg h21, State.homeFwd_of_no_forwards hf, hp, hr, if_true]

end

/-! WB_DATA (R289). -/

theorem State.homeWb_hn {n : Nat} {sn : Bool} (hp : (s.homeLine l).phase = .hn n sn) (d : Line) :
    s.homeWb a l d = ((s.homeWrite l.toNat (s.partOfAgent a l) true d 0 (s.reqMaster (s.homeLine l).req)).setHomeLine l
      { s.homeLine l with phase := .hn n false }).homeFinish l := by
  simp only [State.homeWb, hp]

/-! The rows, while the module runs and it is the message's turn. -/

section
variable (hm : s.dbg.module = false)
include hm

theorem exec_invAck_counts {n : Nat} {up : Bool} (ho : s.inOrder (.invAck a l) = true) (hp : (s.homeLine l).phase = .ha (n + 1) up) :
    exec (.invAck a l) s = .next
      (((s.take (.invAck a l)).setHomeLine l { s.homeLine l with phase := .ha n up }).homeFinish l).ncAnswer := by
  rw [exec_invAck, execInvAck, s.onModule_run _ hm, State.delivered_inTurn ho, State.homeInvAck_ha (s := s.take (.invAck a l)) hp]
  rfl

theorem exec_snpResp_inTurn {code : BitVec 2} (ho : s.inOrder (.snpResp a l code) = true) :
    exec (.snpResp a l code) s = .next ((s.take (.snpResp a l code)).homeSnp a l code).ncAnswer := by
  rw [exec_snpResp, execSnpResp, s.onModule_run _ hm, State.delivered_inTurn ho]

theorem exec_wbData_writes {n : Nat} {sn : Bool} {d : Line} (ho : s.inOrder (.wbData a l d) = true)
    (hp : (s.homeLine l).phase = .hn n sn) :
    let u := s.take (.wbData a l d)
    exec (.wbData a l d) s = .next (((u.homeWrite l.toNat (u.partOfAgent a l) true d 0 (u.reqMaster (s.homeLine l).req)).setHomeLine l
      { s.homeLine l with phase := .hn n false }).homeFinish l).ncAnswer := by
  rw [exec_wbData, execWbData, s.onModule_run _ hm, State.delivered_inTurn ho, State.homeWb_hn (s := s.take (.wbData a l d)) hp]
  rfl

/-! FWD_AMO (R194, R195, R301). -/

section
variable {e : EngineIx} {body : BitVec 192} (ho : s.inOrder (.fwdAmo e l r body) = true)
include ho

theorem exec_fwdAmo_waits (ht : s.amoHasTime e (s.amoFrom r l).1 = false) : exec (.fwdAmo e l r body) s = .next s := by
  rw [exec_fwdAmo, execFwdAmo, s.onModule_run _ hm, State.delivered_inTurn ho]
  simp only [ht, Bool.not_false, if_true]

/-- The engine applies the operation to the line in memory; the requester gets the old value, the home GAVE. -/
theorem exec_fwdAmo_applies {d : Line} {t : State} (ht : s.amoHasTime e (s.amoFrom r l).1 = true)
    (hd : (s.take (.fwdAmo e l r body)).memDemand l.toNat 0 (s.amoFrom r l).2 = (some d, t)) :
    let u := s.take (.fwdAmo e l r body)
    exec (.fwdAmo e l r body) s = .next
      ((((((t.memPut l.toNat (amoLine body d).1 (s.amoFrom r l).2).noteAmo l.toNat body).noteServed (engineFilter e) l r).doneShown
        r l body).post (epEngine e) (.amoResp r l (amoResult body (amoLine body d).2)
          ((s.homeLine l).contended || u.recentOther (engineFilter e) l r))).post (epEngine e) (.snpResp (epEngine e) l 3)) := by
  rw [exec_fwdAmo, execFwdAmo, s.onModule_run _ hm, State.delivered_inTurn ho]
  simp only [ht, hd, Bool.not_true, Bool.false_eq_true, if_false, State.homeLine_take]

end

end

/-- Settles O37: each end of a home's transient state, and the far atomic at its engine. -/
theorem homesEndTheirTransientStates : Obligations.HomesEndTheirTransientStates := by
  unfold Obligations.HomesEndTheirTransientStates
  intro s a l r hm x gives ends hw
  refine ⟨fun n up hp ho => ?_, fun hp hr ho => ?_, fun hp hr ho => ?_, fun n k sn rf so hf hp hr => ⟨fun ho => ?_, fun ho => ?_⟩,
    fun n sn d hp ho => exec_wbData_writes hm ho hp,
    fun e body d t => ⟨fun ht ho => exec_fwdAmo_waits hm ho ht, fun ht hd ho => exec_fwdAmo_applies hm ho ht hd⟩⟩
  · rw [exec_invAck_counts hm ho hp, State.homeFinish_awaiting (s := s.take (.invAck a l)) hw rfl]
  · rw [exec_invAck_counts hm ho hp, State.homeFinish_getM (s := s.take (.invAck a l)) (y := { x with phase := .ha 0 false }) hw rfl hr]
    rfl
  · rw [exec_invAck_counts hm ho hp, State.homeFinish_upgrade (s := s.take (.invAck a l)) (y := { x with phase := .ha 0 true }) hw rfl hr]
    rfl
  · rw [exec_snpResp_inTurn hm ho, State.homeSnp_clean (s := s.take (.snpResp a l 1)) hf hp hr]
    rfl
  · rw [exec_snpResp_inTurn hm ho, State.homeSnp_kept (s := s.take (.snpResp a l 2)) hf hp hr]
    rfl

end Sys2Proof.Machine
end

section
/-! The coach commands (R200 to R202, R228, R229, R233 to R238): how a write of COACH_CMD is checked, refused and carried out. -/
namespace Sys2Proof.Machine

/-- A key that does not read as the default is listed with what it reads. -/
theorem mem_of_tget_ne {α : Type} {d : α} {m : SMap α} {i : Nat} (h : tget d m i ≠ d) : (i, tget d m i) ∈ m := by
  induction m with
  | nil => exact absurd rfl h
  | cons e m ih =>
    obtain ⟨k, w⟩ := e
    by_cases hk : k = i
    · subst hk
      rw [tget, if_pos rfl]
      exact List.mem_cons_self
    · rw [tget, if_neg hk] at h ⊢
      exact List.mem_cons_of_mem _ (ih h)

/-- The OP of a command is the one that its row writes (R237). -/
theorem bfield_withOp {op : Nat} (hop : op < 256) (v : Word) : bfield (withOp op v) 0 8 = op := by
  have hlow : (v &&& ~~~0xFF#64).extractLsb' 0 8 = 0#8 := by
    rw [BitVec.extractLsb'_and, show (~~~0xFF#64).extractLsb' 0 8 = 0#8 by decide, BitVec.and_zero]
  rw [bfield_eq_extractLsb', withOp, BitVec.extractLsb'_or, hlow, BitVec.zero_or, BitVec.extractLsb'_toNat, BitVec.toNat_ofNat]
  omega

section
variable {s : State} {n : Nat}

/-! What a slot in use holds (R201). -/

theorem State.slotInUse_iff : s.slotInUse n = true ↔
    s.cellsOf n ≠ [] ∨ s.inheritCells n ≠ [] ∨ (s.coach n).memShare ≠ [] ∨ (s.coach n).linkShare ≠ [] ∨
    (∃ e ∈ s.stage.owner, e.2.toNat = n) ∨ (∃ e ∈ s.stage.lendee, e.2.toNat = n) ∨ (s.tt n).a ≠ [] ∨ (s.tt n).b ≠ [] ∨
    (∃ e ∈ s.engines, (e.2.ring n).enabled = true) ∨ s.ctxsOf n ≠ [] := by
  simp [State.slotInUse, or_assoc]

/-- A pcell of a slot is one of its cells or, where it is FREE, runs an inheritance (R203, R414). -/
theorem State.cellsOf_or_inheritCells {p : Nat} (hn : n < 48) (hp : (s.cell p).slot.toNat = n) : p ∈ s.cellsOf n ∨ p ∈ s.inheritCells n := by
  have hlisted : (p, s.cell p) ∈ s.cells := mem_of_tget_ne fun h => by
    rw [State.cell, h] at hp
    exact absurd hn (hp ▸ by decide)
  by_cases hfree : s.cellState p = .free
  · exact .inr (List.mem_map.mpr ⟨_, List.mem_filter.mpr ⟨hlisted, by simp [hp, hfree]⟩, rfl⟩)
  · exact .inl (List.mem_map.mpr ⟨_, List.mem_filter.mpr ⟨hlisted, by simp [hp, hfree]⟩, rfl⟩)

/-- The table of block owners or lendees lists a block of an open slot. -/
theorem exists_mem_of_tget_63 {m : SMap (BitVec 6)} {k : Nat} (hn : n < 48) (h : (tget 63 m k).toNat = n) : ∃ e ∈ m, e.2.toNat = n :=
  ⟨_, mem_of_tget_ne fun hd => by rw [hd] at h; exact absurd hn (h ▸ by decide), h⟩

/-- An engine with an enabled ring is listed. -/
theorem State.exists_engine_of_ring {e : Nat} (h : ((s.engine e).ring n).enabled = true) : ∃ x ∈ s.engines, (x.2.ring n).enabled = true :=
  ⟨_, mem_of_tget_ne fun hd => by rw [State.engine, hd] at h; exact absurd h Bool.false_ne_true, h⟩

/-- A context of an open slot is listed. -/
theorem State.mem_ctxsOf {k : Nat} (h : s.ctxSlot k = some n) : k ∈ s.ctxsOf n := by
  have hlisted : (k, s.ctx k) ∈ s.host.ctxs := mem_of_tget_ne fun hd => by
    rw [State.ctxSlot, State.ctx, hd] at h
    exact absurd h (by simp)
  exact List.mem_filter.mpr ⟨List.mem_map.mpr ⟨_, hlisted, rfl⟩, by simp [h]⟩

/-- A table with a key that does not read as the default lists something. -/
theorem ne_nil_of_tget_ne {α : Type} {d : α} {m : SMap α} {k : Nat} (h : tget d m k ≠ d) : m ≠ [] := List.ne_nil_of_mem (mem_of_tget_ne h)

/-- The slot holds something that R201 names. -/
theorem State.slotInUse_of_holds (hn : n < 48)
    (h : (∃ p, (s.cell p).slot.toNat = n) ∨ (∃ k, tget 0 (s.coach n).memShare k ≠ 0) ∨ (∃ k, tget 0 (s.coach n).linkShare k ≠ 0) ∨
      (∃ node lane b, s.blockOwner node lane b = n ∨ s.blockLendee node lane b = n) ∨ (s.tt n).a ≠ [] ∨ (s.tt n).b ≠ [] ∨
      (∃ e, ((s.engine e).ring n).enabled = true) ∨ (∃ k, s.ctxSlot k = some n)) : s.slotInUse n = true := by
  rw [State.slotInUse_iff]
  rcases h with ⟨p, hp⟩ | ⟨k, hk⟩ | ⟨k, hk⟩ | ⟨node, lane, b, hb | hb⟩ | ha | hb | ⟨e, he⟩ | ⟨k, hk⟩
  · exact (State.cellsOf_or_inheritCells hn hp).elim (fun h => .inl (List.ne_nil_of_mem h)) fun h => .inr (.inl (List.ne_nil_of_mem h))
  · simp only [ne_nil_of_tget_ne hk, ne_eq, not_false_iff, true_or, or_true]
  · simp only [ne_nil_of_tget_ne hk, ne_eq, not_false_iff, true_or, or_true]
  · simp only [exists_mem_of_tget_63 hn hb, true_or, or_true]
  · simp only [exists_mem_of_tget_63 hn hb, true_or, or_true]
  · simp only [ha, ne_eq, not_false_iff, true_or, or_true]
  · simp only [hb, ne_eq, not_false_iff, true_or, or_true]
  · simp only [State.exists_engine_of_ring he, true_or, or_true]
  · simp only [List.ne_nil_of_mem (State.mem_ctxsOf hk), ne_eq, not_false_iff, or_true]

end

section
variable {s : State} {v arg : Word} {stuck : List Nat}

/-! A write of COACH_CMD, check by check (R237, R238). -/

/-- COACH_ARG is written whatever comes of the command. -/
def State.withCoachArg (s : State) (arg : Word) : State := { s with coachRegs := { s.coachRegs with arg := arg } }

/-- A command that is refused writes its error. -/
def State.coachRefused (s : State) (arg : Word) (e : BitVec 8) : State := { s with coachRegs := { s.coachRegs with arg := arg, error := e } }

/-- A command that is carried out finds COACH_ARG written, its entry in the log and no error (R572). -/
def State.coachLogged (s : State) (op n : Nat) (v arg : Word) : State :=
  let u := (s.withCoachArg arg).log 0x10 oPcie (if op = 1 then bfield arg 20 5 else (s.coach n).partition.toNat) n v arg
  { u with coachRegs := { u.coachRegs with error := 0 } }

theorem State.coachCommand_resetting (h : s.coachRegs.resetting ≠ none) :
    s.coachCommand v arg stuck = { s with coachRegs := { s.coachRegs with arg := arg, overrun := true } } :=
  if_pos (Option.isSome_iff_ne_none.mpr h)

variable (hr : s.coachRegs.resetting = none)
include hr

theorem State.not_resetting : ¬s.coachRegs.resetting.isSome = true := by simp [hr]

theorem State.coachCommand_badOp (hb : ccBad v arg = true) : s.coachCommand v arg stuck = s.coachRefused arg 1 :=
  (if_neg (State.not_resetting hr)).trans (if_pos hb)

variable (hb : ccBad v arg = false)
include hb

theorem State.coachCommand_range (hn : 48 ≤ ccCoach v) : s.coachCommand v arg stuck = s.coachRefused arg 0xB :=
  (if_neg (State.not_resetting hr)).trans ((if_neg (Bool.eq_false_iff.mp hb)).trans (dif_neg (Nat.not_lt.mpr hn)))

variable (hn : ccCoach v < 48)
include hn

theorem State.coachCommand_closed (hop : bfield v 0 8 ≠ 1) (hv : (s.coach (ccCoach v)).valid = false) :
    s.coachCommand v arg stuck = s.coachRefused arg 2 := by
  have hclosed : (decide (bfield v 0 8 ≠ 1) && !(s.coach (ccCoach v)).valid) = true := by simp [hop, hv]
  exact (if_neg (State.not_resetting hr)).trans ((if_neg (Bool.eq_false_iff.mp hb)).trans ((dif_pos hn).trans (if_pos hclosed)))

variable (hv : bfield v 0 8 ≠ 1 → (s.coach (ccCoach v)).valid = true)
include hv

/-- A well-formed command on a slot that is open, or that OPEN names, comes to the checks of its own. -/
theorem State.coachCommand_checked : s.coachCommand v arg stuck = match (s.withCoachArg arg).coachCheck v arg with
    | some e => s.coachRefused arg (BitVec.ofNat 8 e)
    | none => (s.coachLogged (bfield v 0 8) (ccCoach v) v arg).coachAct ⟨ccCoach v, hn⟩ v arg stuck := by
  have hopen : ¬(decide (bfield v 0 8 ≠ 1) && !(s.coach (ccCoach v)).valid) = true := by simpa using hv
  exact (if_neg (State.not_resetting hr)).trans ((if_neg (Bool.eq_false_iff.mp hb)).trans ((dif_pos hn).trans (if_neg hopen)))

end

/-- The coach commands over PCIe: each writes COACH_CMD with its OP. -/
def coachRows (cmd arg : Word) (stuck : List Nat) : List (Nat × Instr) :=
  [(0x01, Instr.coachOpen cmd arg), (0x02, .coachClose cmd arg), (0x03, .coachReset cmd arg stuck), (0x10, .hitchCell cmd arg),
    (0x11, .unhitchCell cmd arg), (0x12, .moveCell cmd arg), (0x13, .moveGo cmd arg), (0x14, .moveCancel cmd arg),
    (0x20, .setMem cmd arg), (0x21, .setLink cmd arg), (0x30, .setWindow cmd arg)]

/-- Over PCIe each of them is carried out as that write. -/
theorem exec_coachRow {s : State} {cmd arg : Word} {stuck : List Nat} (ho : s.pcieOpen = true) :
    ∀ x ∈ coachRows cmd arg stuck, x.1 < 256 ∧ ∃ l, exec x.2 s = .next (s.coachCommand (withOp x.1 cmd) arg l) := by
  have hrow {i : Instr} {op : Nat} {l : List Nat} (hop : op < 256)
      (hi : exec i s = s.gate fun s => .next (s.coachCommand (withOp op cmd) arg l)) :
      op < 256 ∧ ∃ l, exec i s = .next (s.coachCommand (withOp op cmd) arg l) := ⟨hop, l, hi.trans (s.gate_open _ ho)⟩
  simp only [coachRows, List.forall_mem_cons, List.not_mem_nil, false_imp_iff, implies_true, and_true]
  exact ⟨hrow (by decide) rfl, hrow (by decide) rfl, hrow (by decide) rfl, hrow (by decide) rfl, hrow (by decide) rfl,
    hrow (by decide) rfl, hrow (by decide) rfl, hrow (by decide) rfl, hrow (by decide) rfl, hrow (by decide) rfl, hrow (by decide) rfl⟩

/-- Settles O28: the slot's own check finds it in use, and the command is refused with error 3 (IN_USE, R238). -/
theorem closingASlotInUseIsRefused : Obligations.ClosingASlotInUseIsRefused := by
  unfold Obligations.ClosingASlotInUseIsRefused
  intro s cmd arg n ho hr hb hn hv hholds
  have hop : bfield (withOp 2 cmd) 0 8 = 2 := bfield_withOp (by decide) cmd
  have hcheck : (s.withCoachArg arg).coachCheck (withOp 2 cmd) arg = some 3 := by
    have huse : (s.withCoachArg arg).slotInUse (ccCoach (withOp 2 cmd)) = true := hn ▸ State.slotInUse_of_holds n.isLt hholds
    simp only [State.coachCheck, hop]
    exact if_pos huse
  rw [exec_coachClose, execCoachClose, s.gate_open _ ho, State.coachCommand_checked hr hb (hn ▸ n.isLt) (fun _ => hn ▸ hv), hcheck]
  rfl

/-- Settles O27: the checks of coachCommand in their order, each command being a write of COACH_CMD with its OP. -/
theorem coachCommandsAreChecked : Obligations.CoachCommandsAreChecked := by
  unfold Obligations.CoachCommandsAreChecked
  intro s cmd arg stuck ho s' x hx v gives
  obtain ⟨hlt, l, hexec⟩ := exec_coachRow (stuck := stuck) ho x hx
  have hop : bfield v 0 8 = x.1 := bfield_withOp hlt cmd
  have hgives {t : State} (ht : s.coachCommand v arg l = t) : exec x.2 s = .next t := hexec.trans (congrArg _ ht)
  refine ⟨fun hr => hgives (State.coachCommand_resetting hr), fun hr => ⟨fun hb => hgives (State.coachCommand_badOp hr hb),
    fun hb hn => hgives (State.coachCommand_range hr hb hn),
    fun hb hn hne hv => hgives (State.coachCommand_closed hr hb hn (hop.symm ▸ hne) hv), fun hb hn hv e he => hgives ?_⟩⟩
  rw [State.coachCommand_checked hr hb hn (hop ▸ hv), show (s.withCoachArg arg).coachCheck v arg = some e from he]
  rfl

/-- A command that passes its checks is carried out (R237). -/
theorem State.coachCommand_acts {s : State} {op : Nat} {cmd arg : Word} {l : List Nat} {n : Slot} (hlt : op < 256)
    (hr : s.coachRegs.resetting = none) (hb : ccBad (withOp op cmd) arg = false) (hn : ccCoach (withOp op cmd) = n)
    (hv : op ≠ 1 → (s.coach n).valid = true) (hcheck : (s.withCoachArg arg).coachCheck (withOp op cmd) arg = none) :
    s.coachCommand (withOp op cmd) arg l = (s.coachLogged op n (withOp op cmd) arg).coachAct n (withOp op cmd) arg l := by
  have hop : bfield (withOp op cmd) 0 8 = op := bfield_withOp hlt cmd
  have hlt' : ccCoach (withOp op cmd) < 48 := hn ▸ n.isLt
  obtain rfl : n = ⟨ccCoach (withOp op cmd), hlt'⟩ := Fin.ext hn.symm
  rw [State.coachCommand_checked hr hb hlt' (hop.symm ▸ hv), hcheck, hop]

/-- Settles O26: each command that passes its checks is carried out as the arm of its OP. -/
theorem coachCommandsAct : Obligations.CoachCommandsAct := by
  unfold Obligations.CoachCommandsAct
  intro s cmd arg n ho hr s' acts
  have hacts (op : Nat) {i : Instr} {f : Word → State → State} (l : List Nat) (hlt : op < 256)
      (hi : exec i s = s.gate fun s => .next (s.coachCommand (withOp op cmd) arg l))
      (hf : ∀ v u, bfield v 0 8 = op → State.coachAct u n v arg l = f v u) : acts op i f := by
    intro hb hn hv hcheck
    rw [hi, s.gate_open _ ho, State.coachCommand_acts hlt hr hb hn hv hcheck, hf _ _ (bfield_withOp hlt cmd)]
    rfl
  clear_value acts
  refine ⟨hacts 0x01 [] (by decide) rfl ?_, hacts 0x02 [] (by decide) rfl ?_, fun stuck => hacts 0x03 stuck (by decide) rfl ?_,
    hacts 0x10 [] (by decide) rfl ?_, hacts 0x11 [] (by decide) rfl ?_, hacts 0x12 [] (by decide) rfl ?moveCell,
    hacts 0x13 [] (by decide) rfl ?_, hacts 0x14 [] (by decide) rfl ?_, hacts 0x20 [] (by decide) rfl ?_,
    hacts 0x21 [] (by decide) rfl ?_, hacts 0x30 [] (by decide) rfl ?_⟩
  case moveCell =>
    intro v u hop
    cases hp : u.placed n (ccCell v) <;> simp only [State.coachAct, hop, hp]
  -- each of the other commands is its arm of coachAct
  all_goals
    intro v u hop
    simp only [State.coachAct, hop] <;> rfl

end Sys2Proof.Machine
end

section
/-! QUIESCE waits for the handovers of the cell's banks (R217, R252), which O29 leaves out. -/
namespace Sys2Proof.Machine

/-- Pcell 0 is the one source of a pending batch of slot 3. No step runs, its Ox and Drays are idle, and a BANK_OWN write that gives bank 0
to the Ox has not taken effect. -/
def givingSource : State :=
  { cells := [(0, { st := .hitched, slot := 3, handover := [(0, [(ownerOx, 4)])] })]
    coaches := [(3, { valid := true, moves := [{ lcell := 0, src := 0, dst := 1 }], phase := 1 })] }

/-- The source is not quiesced yet. -/
theorem givingSource_quiesce : ∃ t, exec (.quiesce 0) givingSource = .next t ∧ (t.coach 3).quiescedAt = none := by
  refine ⟨_, rfl, ?_⟩
  decide

/-- Refutes O29: QUIESCE of a source whose Ox and Drays are idle does nothing while a bank of the cell waits for its handover. -/
theorem not_moveBatchesRunTheirCourse : ¬ Obligations.MoveBatchesRunTheirCourse := by
  unfold Obligations.MoveBatchesRunTheirCourse
  intro h
  obtain ⟨hquiesce, -⟩ := h givingSource 0 3 (by decide) rfl
  obtain ⟨t, ht, hwaits⟩ := givingSource_quiesce
  have hcounted : t = _ := Host.Outcome.next.inj
    (ht.symm.trans (hquiesce (by decide) rfl (by decide) (by decide) (by decide) (by decide)))
  rw [hcounted] at hwaits
  exact absurd hwaits (by decide)

end Sys2Proof.Machine
end

section
/-! Drays: replacing one Dray of a cell, and the requests of a descriptor (R255 to R267). -/
namespace Sys2Proof.Machine

variable {s : State} {p : Nat} {d : DrayIx}

/-! One Dray of a cell replaced. -/

@[simp] theorem Cell.dray_setDray (c : Cell) (d : DrayIx) (y : Dray) : (c.setDray d y).dray d = y := by simp [Cell.dray, Cell.setDray]

@[simp] theorem Cell.setDray_setDray (c : Cell) (d : DrayIx) (y z : Dray) : (c.setDray d y).setDray d z = c.setDray d z := by
  simp [Cell.setDray]

theorem State.cell_setDray (hw : s.cellsOk = true) (y : Dray) : (s.setDray p d y).cell p = (s.cell p).setDray d y :=
  s.cell_setCell p _ hw

theorem State.dray_setDray (hw : s.cellsOk = true) (y : Dray) : (s.setDray p d y).dray p d = y := by
  rw [State.dray, State.cell_setDray hw, Cell.dray_setDray]

theorem State.setDray_setDray (hw : s.cellsOk = true) (y z : Dray) : (s.setDray p d y).setDray p d z = s.setDray p d z := by
  rw [State.setDray, State.cell_setDray hw, Cell.setDray_setDray, State.setDray, State.setCell_setCell _ _ _ _ hw, State.setDray]

/-! A descriptor starts. -/

/-- The Dray takes its oldest descriptor off the queue and numbers it (R255). -/
def Dray.started (y : Dray) (q : DrayDesc) (rest : List DrayDesc) : Dray :=
  { y with queue := rest, nextSeq := y.nextSeq + 1, running := [{ seq := y.nextSeq, desc := q }] }

section
variable {q : DrayDesc} {rest : List DrayDesc}
  (hq : (s.dray p d).queue = q :: rest) (hh : (s.dray p d).halt = false) (hf : (s.dray p d).flushPending = false)
  (hr : (s.dray p d).running = []) (hd : (s.cell p).drayWaits = false) (ho : (s.cell p).ox.frozen = false)
include hq hh hf hr hd ho

/-- A descriptor with a reserved field that is not zero starts, and faults (R256, R266). -/
theorem State.drayStart_reserved (hres : dReserved q.raw = true) :
    s.drayStart p d (dKind q.raw) = (s.setDray p d ((s.dray p d).started q rest)).drayFault p d (s.dray p d).nextSeq 1 (dTag q.raw) := by
  simp [State.drayStart, hq, hh, hf, hr, hd, ho, hres, Dray.started, dkRsvd]

/-- A memory descriptor that passes the checks starts (R255, R256). -/
theorem State.drayStart_passes (hk : dKind q.raw ∈ [1, 2, 5, 7]) (hres : dReserved q.raw = false) (hshape : dBadShape q.raw = false)
    (hrange : dBadRange q.raw = false) : s.drayStart p d (dKind q.raw) = s.setDray p d ((s.dray p d).started q rest) := by
  have h3 : dKind q.raw ≠ 3 := fun h => by simp [h] at hk
  have h4 : dKind q.raw ≠ 4 := fun h => by simp [h] at hk
  simp [State.drayStart, hq, hh, hf, hr, hd, ho, hres, hshape, hrange, Dray.started, h3, h4]

end

/-! A request leaves. -/

/-- The flits of a request: the request flit, then the data that a store or an atomic reads from scratchpad (R259). -/
def State.requestFlits (s : State) (p : Nat) (q : DrayDesc) (st op lines sp bytes va : Nat) : List Unit32 :=
  requestFlit op ((s.cell p).mapEntry st).2.2.1 lines (if dAlloc q.raw then 1 else 0) va
    :: flitsOf (bytes / 32 + 1) (readBytes (s.cell p).sp sp bytes)

/-- A physical request of the one descriptor that runs, with a route and its data in banks that the Dray owns, leaves at once
(R257, R263, R264). -/
theorem State.drayPump_single {r : DrayRun} {va lines sp st op bytes : Nat}
    (hrun : (s.dray p d).running = [r]) (hout : (s.dray p d).out = []) (hidle : r.waiting = [])
    (hop : dOp (dKind r.desc.raw) = op) (hbytes : bytes = if op = 2 then 64 * lines else if op = 4 then 32 else 0)
    (hlines : lines ≤ 64) (hd : (s.cell p).drayWaits = false) (hu : r.desc.umode = false) (hva : va < 2 ^ 52)
    (hremote : dKind r.desc.raw = 7 → 0x4000000000000 ≤ va ∧ va < 0x8000000000000)
    (hroute : (s.cell p).route d.val (serversOf va) = some st) (hown : (s.cell p).ownsAll (ownerDray d) sp bytes = true)
    (hclean : s.spClean p sp bytes = true) :
    s.drayPump p d r.seq [(va, lines, sp)] =
      ((s.pushOut p (s.cell p).slot.toNat st (s.requestFlits p r.desc st op lines sp bytes va)).setDray p d { s.dray p d with
        running := [{ r with next := r.next + 1 }]
        out := [{ seq := r.seq, op, stream := st, lines, sp, va, lg := (s.cell p).pageLg r.desc.pasid (va % 2 ^ 57), addr := va }] }, true) := by
  have hroom : (if op = 2 then decide ((s.dray p d).writes < 16) else decide ((s.dray p d).reserved + replyFlits op lines ≤ 512)) = true := by
    have hreply : replyFlits op lines ≤ 512 := by
      unfold replyFlits; split
      · omega
      · split <;> omega
    simp [Dray.writes, Dray.reserved, hout, hrun, hidle, hreply]
  have hfind : [r].find? (·.seq == r.seq) = some r := by simp
  have hxlat : ∀ w, s.drayXlat p d r.desc va w = .ok va := fun w => by
    rw [State.drayXlat, hu, if_pos (by rfl), if_pos hva]
  have hkind : (decide (dKind r.desc.raw = 7) && !(decide (0x4000000000000 ≤ va) && decide (va < 0x8000000000000))) = false := by
    by_cases h7 : dKind r.desc.raw = 7
    · simp [hremote h7]
    · simp [h7]
  have hpush : ∀ k l, (s.pushOut p k st l).dray p d = s.dray p d := fun _ _ => rfl
  have hdray : (s.cell p).dray d = s.dray p d := rfl
  have huncorr := State.spUncorr_clean hclean
  have htouch := State.spTouch_clean hclean
  simp only [State.drayPump, hdray, hfind, hop, ← hbytes, hroom, hd, hxlat, hkind, hroute, hown, huncorr, htouch, hpush, hrun, hout, hu,
    Bool.not_true, Bool.or_self, Bool.false_eq_true, if_false, Bool.and_false, List.nil_append, List.map_cons, List.map_nil, if_true]
  rfl

theorem State.pushOut_setDray (y : Dray) (ep coach st : Nat) (l : List Unit32) :
    (s.setDray p d y).pushOut ep coach st l = (s.pushOut ep coach st l).setDray p d y := rfl

/-- A memory descriptor's pieces are its rows cut at 4 KiB; an atomic's is its one address (R257, R435). -/
theorem DrayRun.pieces_memory {r : DrayRun} (hk : dKind r.desc.raw ∈ [1, 2, 5, 7]) :
    r.pieces = if dKind r.desc.raw = 7 then [(dMem r.desc.raw, 0, dSp r.desc.raw)] else dPieces r.desc.raw := by
  simp only [List.mem_cons, List.not_mem_nil, or_false] at hk
  rw [DrayRun.pieces]
  obtain h | h | h | h := hk <;> simp [h]

/-- The one descriptor that runs sends its one request. -/
theorem State.drayRequests_single {t : State} {r : DrayRun} {x : Nat × Nat × Nat} (hidle : r.waiting = []) (hnext : r.next = 0)
    (hpieces : r.pieces = [x]) (hpump : s.drayPump p d r.seq [x] = (t, true)) :
    s.drayRequests p d (dKind r.desc.raw) [r] = t := by
  simp only [State.drayRequests, State.drayDeliver, hidle, hnext, hpieces, List.drop_zero, hpump, if_true]

/-- Settles O30: a descriptor that passes the checks starts and its one request leaves (R255 to R264, R435); reserved bits fault it. -/
theorem drayDescriptorsSendTheirRequests : Obligations.DrayDescriptorsSendTheirRequests := by
  unfold Obligations.DrayDescriptorsSendTheirRequests
  intro s p d q rest hw hp y c raw hq hh hf hr hd ho y' sends
  have hsends : ∀ (i : Instr) (kind op : Nat), exec i s = (s.onClock p fun s => .next (s.drayMemory p d kind)) →
      kind ∈ [1, 2, 5, 7] → dOp kind = op → sends i kind op := by
    intro i kind op hi hk hop hkind
    subst hkind
    rw [hi, s.onClock_run p _ hp]
    refine ⟨fun hres => ?_, ?_⟩
    · rw [State.drayMemory, State.drayStart_reserved hq hh hf hr hd ho hres]
      rfl
    · intro hres hshape hrange va lines sp st hpieces hlines hout hu hva hremote hroute bytes hown hclean k
      have hcell : (s.setDray p d y').cell p = c.setDray d y' := State.cell_setDray hw y'
      have hdray : (s.setDray p d y').dray p d = y' := State.dray_setDray hw y'
      have hpump := State.drayPump_single (s := s.setDray p d y') (r := { seq := y.nextSeq, desc := q }) (bytes := bytes)
        (by rw [hdray]) (by rw [hdray]; exact hout) rfl hop rfl hlines (by rw [hcell]; exact hd) hu hva hremote (by rw [hcell]; exact hroute)
        (by rw [hcell]; exact hown) hclean
      rw [State.drayMemory, State.drayStart_passes hq hh hf hr hd ho hk hres hshape hrange]
      change Host.Outcome.next ((s.setDray p d y').drayRequests p d (dKind raw) ((s.setDray p d y').dray p d).running) = _
      rw [hdray, State.drayRequests_single rfl rfl ((DrayRun.pieces_memory hk).trans hpieces) hpump, State.pushOut_setDray,
        State.setDray_setDray (s := s.pushOut _ _ _ _) hw]
      rw [hdray, State.requestFlits, hcell]
      rfl
  exact ⟨hsends _ 1 1 rfl (by decide) rfl, hsends _ 2 2 rfl (by decide) rfl, hsends _ 5 3 rfl (by decide) rfl,
    hsends _ 7 4 rfl (by decide) rfl⟩

end Sys2Proof.Machine
end

section
/-! Streams and completion of a Dray's descriptors (R255 to R267). -/
namespace Sys2Proof.Machine

variable {s : State} {p : Nat} {d : DrayIx} {r : DrayRun}

/-! Starting, running descriptors and waiting data. -/

/-- A Dray with nothing queued starts nothing. -/
theorem State.drayStart_idle (hq : (s.dray p d).queue = []) (kind : Nat) : s.drayStart p d kind = s := by simp [State.drayStart, hq]

/-- A descriptor without waiting data delivers none. -/
theorem State.drayDeliver_nothing (hr : r.waiting = []) : s.drayDeliver p d r = s := by simp [State.drayDeliver, hr]

/-- Replacing every running descriptor that has the number of r. -/
def Dray.withRun (y : Dray) (r : DrayRun) : Dray := { y with running := y.running.map fun x => if x.seq = r.seq then r else x }

theorem Dray.withRun_withRun {y : Dray} {r r' : DrayRun} (h : r'.seq = r.seq) : (y.withRun r).withRun r' = y.withRun r' := by
  simp only [Dray.withRun, List.map_map, h]
  congr 2
  funext x
  simp only [Function.comp_apply]
  split <;> simp_all

theorem Dray.find_withRun {y : Dray} {x r : DrayRun} (h : y.running.find? (·.seq == r.seq) = some x) :
    (y.withRun r).running.find? (·.seq == r.seq) = some r := by
  have hseq : ((fun x : DrayRun => x.seq == r.seq) ∘ fun x => if x.seq = r.seq then r else x) = fun x => x.seq == r.seq := by
    funext x
    simp only [Function.comp_apply]
    split <;> simp_all
  have hx : x.seq = r.seq := by simpa using List.find?_some h
  rw [Dray.withRun, List.find?_map, hseq, h, Option.map_some, if_pos hx]

theorem State.setRun_eq (r : DrayRun) : s.setRun p d r = s.setDray p d ((s.dray p d).withRun r) := rfl

theorem State.dray_setRun (hw : s.cellsOk = true) : (s.setRun p d r).dray p d = (s.dray p d).withRun r := State.dray_setDray hw _

theorem State.setRun_setRun (hw : s.cellsOk = true) {r r' : DrayRun} (h : r'.seq = r.seq) :
    (s.setRun p d r).setRun p d r' = s.setRun p d r' := by
  rw [State.setRun_eq r', State.dray_setRun hw, Dray.withRun_withRun h, State.setRun_eq r, State.setDray_setDray hw, State.setRun_eq]

/-- A mover of a kind has the kind, and bytes left to move. -/
theorem Dray.mover_some {y : Dray} {k : Nat} (h : y.mover k = some r) :
    dKind r.desc.raw = k ∧ r.moved < dRows r.desc.raw * dRowBytes r.desc.raw := by
  simpa [Dray.mover] using List.find?_some h

/-! RECV. -/

/-- The one flit that waits goes to the next 32 bytes of the RECV's rows (R262). -/
theorem State.recvPlace_single {f : Unit32} (hleft : r.moved < dRows r.desc.raw * dRowBytes r.desc.raw)
    (hown : (s.cell p).ownsAll (ownerDray d) (dByte r.desc.raw r.moved) 32 = true) :
    s.recvPlace p d r [f] = ((s.takeFlits p (dStream r.desc.raw) 1).spWrite p (dByte r.desc.raw r.moved) (bytesOf 32 f)).setRun p d
      { r with moved := r.moved + 32 } := by
  simp [State.recvPlace, hown, Nat.not_le.mpr hleft]

/-! SEND. -/

@[simp] theorem Cell.setDray_slot (c : Cell) (y : Dray) : (c.setDray d y).slot = c.slot := rfl

theorem State.pushOut_setRun (r : DrayRun) (ep coach st : Nat) (l : List Unit32) :
    (s.setRun p d r).pushOut ep coach st l = (s.pushOut ep coach st l).setRun p d r := rfl

theorem State.pushOut_pushOut (hq : twf [] s.stage.outQ = true) (ep coach st : Nat) (a b : List Unit32) :
    (s.pushOut ep coach st a).pushOut ep coach st b = s.pushOut ep coach st (a ++ b) := by
  simp only [State.pushOut, tget_tset_same hq, tset_tset hq, List.append_assoc]

/-- Only the stream on which flits leave grows, by these flits. -/
theorem State.outQ_pushOut (hq : twf [] s.stage.outQ = true) (ep coach st : Nat) (l : List Unit32) (k : Nat) :
    tget [] (s.pushOut ep coach st l).stage.outQ k = tget [] s.stage.outQ k ++ if k = streamKey ep coach st then l else [] := by
  by_cases hk : k = streamKey ep coach st
  · subst hk
    simp only [State.pushOut, tget_tset_same hq, if_true]
  · simp only [State.pushOut, tget_tset_ne hk, if_neg hk, List.append_nil]

/-- The k-th flit of a SEND: 32 bytes of its rows (R262). -/
def State.sendUnit (s : State) (p : Nat) (raw : Line) (k : Nat) : Unit32 := ofBytes 256 (readBytes (s.cell p).sp (dByte raw (32 * k)) 32)

/-- Some flits of a SEND leave, and its first k flits are then sent. -/
def State.sendUnits (s : State) (p : Nat) (d : DrayIx) (r : DrayRun) (raw : Line) (l : List Nat) (k : Nat) : State :=
  (s.pushOut p (s.cell p).slot.toNat (dStream raw) (l.map (s.sendUnit p raw))).setRun p d { r with moved := 32 * k }

/-- One flit in a clean bank that the Dray owns leaves on the stream. -/
theorem State.sendFrom32_cons {raw : Line} {k : Nat} {l : List Nat} (hfind : (s.dray p d).running.find? (·.seq == r.seq) = some r)
    (hown : (s.cell p).ownsAll (ownerDray d) (dByte raw (32 * k)) 32 = true) (hclean : s.spClean p (dByte raw (32 * k)) 32 = true) :
    s.sendFrom32 p d r.seq raw (k :: l) = (s.sendUnits p d r raw [k] (k + 1)).sendFrom32 p d r.seq raw l := by
  have hpush : ∀ c st x, (s.pushOut p c st x).dray p d = s.dray p d := fun _ _ _ => rfl
  simp only [State.sendFrom32, hown, Bool.not_true, Bool.false_eq_true, if_false, State.spUncorr_clean hclean, State.spTouch_clean hclean,
    hpush, hfind]
  rfl

section
variable {raw : Line} {l : List Nat} {k : Nat} (hw : s.cellsOk = true)
include hw

theorem State.cell_sendUnits : (s.sendUnits p d r raw l k).cell p = (s.cell p).setDray d ((s.dray p d).withRun { r with moved := 32 * k }) :=
  State.cell_setDray (s := s.pushOut _ _ _ _) hw _

theorem State.dray_sendUnits : (s.sendUnits p d r raw l k).dray p d = (s.dray p d).withRun { r with moved := 32 * k } :=
  State.dray_setRun (s := s.pushOut _ _ _ _) hw

theorem State.sendUnit_sendUnits : (s.sendUnits p d r raw l k).sendUnit p raw = s.sendUnit p raw := by
  funext i
  rw [State.sendUnit, State.cell_sendUnits hw]
  rfl

theorem State.sendUnits_sendUnits (hq : twf [] s.stage.outQ = true) (m : List Nat) (j i : Nat) :
    (s.sendUnits p d r raw l k).sendUnits p d { r with moved := i } raw m j = s.sendUnits p d r raw (l ++ m) j := by
  rw [State.sendUnits, State.sendUnit_sendUnits hw, State.cell_sendUnits hw, Cell.setDray_slot, State.sendUnits, State.pushOut_setRun,
    State.pushOut_pushOut hq, ← List.map_append]
  exact State.setRun_setRun (s := s.pushOut _ _ _ _) hw rfl

/-- The flits of a SEND leave one after another (R262). -/
theorem State.sendFrom32_span (hq : twf [] s.stage.outQ = true) {lo n : Nat}
    (hfind : (s.dray p d).running.find? (·.seq == r.seq) = some r)
    (hl : ∀ i ∈ span lo (n + 1), (s.cell p).ownsAll (ownerDray d) (dByte raw (32 * i)) 32 = true ∧ s.spClean p (dByte raw (32 * i)) 32 = true) :
    s.sendFrom32 p d r.seq raw (span lo (n + 1)) = s.sendUnits p d r raw (span lo (n + 1)) (lo + (n + 1)) := by
  obtain ⟨hown, hclean⟩ := hl lo (by simp [span])
  induction n generalizing s r lo with
  | zero => exact State.sendFrom32_cons hfind hown hclean
  | succ n ih =>
    have hl' : ∀ i ∈ span (lo + 1) (n + 1),
        ((s.sendUnits p d r raw [lo] (lo + 1)).cell p).ownsAll (ownerDray d) (dByte raw (32 * i)) 32 = true ∧
        (s.sendUnits p d r raw [lo] (lo + 1)).spClean p (dByte raw (32 * i)) 32 = true := fun i hi => by
      rw [State.cell_sendUnits hw]
      exact hl i (List.mem_cons_of_mem _ hi)
    obtain ⟨hown', hclean'⟩ := hl' (lo + 1) (by simp [span])
    have hrest := ih (s := s.sendUnits p d r raw [lo] (lo + 1)) (r := { r with moved := 32 * (lo + 1) }) (State.cellsOk_setCell hw _)
      (twf_tset hq) (by rw [State.dray_sendUnits hw]; exact Dray.find_withRun hfind) hl' hown' hclean'
    rw [span, State.sendFrom32_cons hfind hown hclean]
    refine hrest.trans ?_
    rw [State.sendUnits_sendUnits hw hq, show lo + 1 + (n + 1) = lo + (n + 1 + 1) by omega]
    rfl

end

/-! The rows, each on a pcell whose clock runs. -/

section
variable {p : Pcell}

theorem exec_recv_single {f : Unit32} (hp : s.unfrozen p = true) (hidle : (s.dray p d).queue = []) (hd : (s.cell p).drayWaits = false)
    (hr : (s.dray p d).mover 3 = some r) (hf : s.recvFlits p (dStream r.desc.raw) = [f])
    (hown : (s.cell p).ownsAll (ownerDray d) (dByte r.desc.raw r.moved) 32 = true) :
    exec (.recv p d) s = .next (((s.takeFlits p (dStream r.desc.raw) 1).spWrite p (dByte r.desc.raw r.moved) (bytesOf 32 f)).setRun p d
      { r with moved := r.moved + 32 }) := by
  obtain ⟨-, hleft⟩ := Dray.mover_some hr
  rw [exec_recv, execRecv, s.onClock_run p _ hp]
  simp only [State.drayStart_idle hidle, hd, hr, hf, State.recvPlace_single hleft hown, Bool.false_eq_true, if_false]

theorem exec_send_units (hw : s.cellsOk = true) (hp : s.unfrozen p = true) (hidle : (s.dray p d).queue = [])
    (hd : (s.cell p).drayWaits = false) (hr : (s.dray p d).mover 4 = some r)
    (hfind : (s.dray p d).running.find? (·.seq == r.seq) = some r) (hq : twf [] s.stage.outQ = true) {raw : Line} (hraw : r.desc.raw = raw)
    {n : Nat} (hn : (dRows raw * dRowBytes raw - r.moved) / 32 = n + 1)
    (hl : ∀ i ∈ span (r.moved / 32) (n + 1),
      (s.cell p).ownsAll (ownerDray d) (dByte raw (32 * i)) 32 = true ∧ s.spClean p (dByte raw (32 * i)) 32 = true) :
    exec (.send p d) s = .next (s.sendUnits p d r raw (span (r.moved / 32) (n + 1)) (r.moved / 32 + (n + 1))) := by
  subst hraw
  rw [exec_send, execSend, s.onClock_run p _ hp]
  simp only [State.drayStart_idle hidle, hd, hr, hn, State.sendFrom32_span hw hq hfind hl, Bool.false_eq_true, if_false]

theorem exec_streamMap_reads (hp : s.unfrozen p = true) (hidle : (s.dray p d).queue = []) (hr : (s.dray p d).mover 6 = some r)
    (hown : (s.cell p).ownsAll (ownerDray d) (dSp r.desc.raw) 256 = true) (hclean : s.spClean p (dSp r.desc.raw) 256 = true) :
    exec (.streamMap p d) s = .next (s.setRun p d
      { r with moved := 256, map := (span 0 32).map fun j => ofBytes 64 (readBytes (s.cell p).sp (dSp r.desc.raw + 8 * j) 8) }) := by
  rw [exec_streamMap, execStreamMap, s.onClock_run p _ hp]
  simp only [State.drayStart_idle hidle, hr, hown, State.spUncorr_clean hclean, State.spTouch_clean hclean, Bool.not_true,
    Bool.false_eq_true, if_false]

/-- A running descriptor with one more reply, and the data that the reply brings (R260, R263). -/
def DrayRun.replied (r : DrayRun) (req : DrayReq) (data : List Byte) : DrayRun :=
  { r with
    acked := r.acked + 1
    waiting := r.waiting ++ (if req.op = 1 then [(req.sp, data)] else if req.op = 4 then [(req.sp + 24, data.take 8)] else []) }

/-- A cell's stream with the flits of a reply taken off it. -/
def State.withInQ (s : State) (k : Nat) (q : List Unit32) : State := { s with stage := { s.stage with inQ := tset [] s.stage.inQ k q } }

theorem exec_statusFlit_takes (hw : s.cellsOk = true) {stream : Nat} {req : DrayReq} {q : List Unit32} (hp : s.unfrozen p = true)
    (hdray : (if ((s.cell p).mapEntry stream).2.1 = 0 then (0 : DrayIx) else 1) = d)
    (hout : (s.dray p d).out.find? (·.stream == stream) = some req) (hdead : req.dead = false)
    (hrun : (s.dray p d).running.find? (·.seq == req.seq) = some r)
    (hin : tget [] s.stage.inQ (streamKey p (s.cell p).slot.toNat stream) = q) (hlen : replyFlits req.op req.lines ≤ q.length)
    (hst : bfield (nth 0 q (replyFlits req.op req.lines - 1)) 8 8 = 0) :
    let r' := r.replied req ((q.take (replyFlits req.op req.lines - 1)).flatMap (bytesOf 32))
    let u := s.withInQ (streamKey p (s.cell p).slot.toNat stream) (q.drop (replyFlits req.op req.lines))
    let v := ((u.setDray p d { s.dray p d with out := dropFirst req (s.dray p d).out }).setRun p d r').drayDeliver p d r'
    exec (.statusFlit p stream) s = .next ((v.setDray p d (v.dray p d).settle).checkInvs p) := by
  intro r' u v
  have hset : ∀ g y, (State.setDray { s with stage := g } p d y).dray p d = y := fun g y => State.dray_setDray (s := { s with stage := g }) hw y
  have hdefn : (s.cell p).dray d = s.dray p d := rfl
  rw [exec_statusFlit, execStatusFlit, s.onClock_run p _ hp]
  simp only [hdray, hdefn, hout, hin, Nat.not_lt.mpr hlen, hdead, hset, hrun, hst, ne_eq, not_true_eq_false, Bool.false_eq_true, if_false]
  rfl

theorem exec_descriptorComplete_done {rest : List DrayRun} (hp : s.unfrozen p = true) (hr : (s.dray p d).running = r :: rest)
    (hwait : r.waiting = []) (hdone : s.runDone p r = true) :
    exec (.descriptorComplete p d) s = .next ((s.setCell p { s.cell p with streamMap := r.mapped (s.cell p).streamMap }).setDray p d
      { s.dray p d with running := rest, doneCount := if r.desc.raw.getLsbD 15 then (s.dray p d).doneCount + 1 else (s.dray p d).doneCount }) := by
  rw [exec_descriptorComplete, execDescriptorComplete, s.onClock_run p _ hp]
  simp only [hr, State.drayDeliver_nothing hwait, hdone, if_true]
  rfl

end

/-! A flush. -/

theorem Dray.flush_queue (y : Dray) : y.flush.queue = [] := by unfold Dray.flush Dray.settle; split <;> rfl
theorem Dray.flush_running (y : Dray) : y.flush.running = [] := by unfold Dray.flush Dray.settle; split <;> rfl
theorem Dray.flush_doneCount (y : Dray) : y.flush.doneCount = y.doneCount := by unfold Dray.flush Dray.settle; split <;> rfl
theorem Dray.flush_out (y : Dray) : y.flush.out = y.out.map fun r => { r with dead := true } := by
  unfold Dray.flush Dray.settle; split <;> rfl

/-- A flush of a Dray without outstanding requests ends at once (R267). -/
theorem Dray.flush_of_no_out {y : Dray} (h : y.out = []) : y.flush.halt = false ∧ y.flush.fault = 0 := by
  simp [Dray.flush, Dray.settle, h]

/-- Settles O31: RECV, SEND and MAP move their flits and words, STATUS_FLIT takes a reply, DESCRIPTOR_COMPLETE and DRAY_FLUSH end
descriptors (R255 to R267). -/
theorem draysMoveStreamsAndComplete : Obligations.DraysMoveStreamsAndComplete := by
  unfold Obligations.DraysMoveStreamsAndComplete
  intro s p d r hw y c raw
  refine ⟨fun hp hidle hd => ⟨fun f hr hf hown => ?_, ?_, fun hr hown hclean => ?_⟩, ?_, fun rest hp hr hwait hdone => ?_,
    fun hpcie hseal => ?_⟩
  · exact exec_recv_single hp hidle hd hr hf hown
  · intro hr hfind hq units hne hl
    obtain ⟨n, hn⟩ : ∃ n, (dRows raw * dRowBytes raw - r.moved) / 32 = n + 1 := Nat.exists_eq_succ_of_ne_zero fun h0 => hne (by
      change span _ _ = []
      rw [h0]
      rfl)
    have hunits : units = span (r.moved / 32) (n + 1) := by rw [← hn]
    have hlen : units.length = n + 1 := by rw [hunits, span_length]
    have hdray : (s.sendUnits p d r raw units (r.moved / 32 + units.length)).dray p d = _ := State.dray_sendUnits hw
    refine ⟨s.sendUnits p d r raw units (r.moved / 32 + units.length), ?_, rfl, fun q hq => State.cell_setCell_ne _ _ hq, ?_, ?_, ?_⟩
    · rw [hlen, hunits]
      exact exec_send_units hw hp hidle hd hr hfind hq rfl hn (hunits ▸ hl)
    · rw [State.cell_sendUnits hw, hdray]
      rfl
    · rw [hdray]
      rfl
    · intro k
      exact State.outQ_pushOut hq _ _ _ _ k
  · exact exec_streamMap_reads hp hidle hr hown hclean
  · intro stream req q hp hdray hout hdead hrun hin n hlen hst data r' u v
    exact exec_statusFlit_takes hw hp hdray hout hdead hrun hin hlen hst
  · exact exec_descriptorComplete_done hp hr hwait hdone
  · have hdray : (s.setDray p d y.flush).dray p d = y.flush := State.dray_setDray hw _
    refine ⟨s.setDray p d y.flush, ?_, State.onlyCell_setCell (s.onlyCell_refl p) _, ?_⟩
    · rw [exec_drayFlush, execDrayFlush, s.gateCell_open _ _ hpcie hseal]
    · rw [hdray, State.cell_setDray hw]
      exact ⟨rfl, y.flush_queue, y.flush_running, Dray.flush_of_no_out, y.flush_out, y.flush_doneCount⟩

end Sys2Proof.Machine
end

section
/-! Requests at the memory endpoints (R260, R261, R349, R434). -/
namespace Sys2Proof.Machine

variable {s : State} {ep n stream op : Nat} {f : Unit32} {rest : List Unit32}

/-- The state once the oldest request of a stream and its data have left the stream's queue. -/
def State.requestTaken (s : State) (ep n stream : Nat) (f : Unit32) (rest : List Unit32) : State :=
  s.withInQ (streamKey ep n stream) (rest.drop (rqData f))

/-! The checks of a request read nothing of the Stage. -/

theorem State.lineCheck_withInQ (k : Nat) (q : List Unit32) : (s.withInQ k q).lineCheck = s.lineCheck := by
  funext ep who a
  rfl

theorem State.goodLines_requestTaken : (s.requestTaken ep n stream f rest).goodLines = s.goodLines := by
  funext ep who a lines
  rw [State.goodLines, State.requestTaken, State.lineCheck_withInQ, State.goodLines]

theorem State.firstBad_requestTaken : (s.requestTaken ep n stream f rest).firstBad = s.firstBad := by
  funext ep who a lines
  rw [State.firstBad, State.requestTaken, State.lineCheck_withInQ, State.firstBad]

/-- A request of whose lines none passes the check is answered at once (R245, R260). -/
theorem State.ncOpen_no_lines {q : NcReq} {o : NcOp} (hsrc : q.src = .stream ep n stream f) (hmute : q.mute = false) (hgot : q.got = [])
    (hgood : s.goodLines ep q.who q.addr q.lines = []) (hother : ∀ x ∈ s.nonCaching, x.left ≠ [] ∧ x.id ≠ s.ncNext) :
    s.ncOpen ep q o = ({ s with ncNext := s.ncNext + 1 } : State).pushReply ep n (rqReply f)
      (replyUnits (s.firstBad ep q.who q.addr q.lines).1 (s.firstBad ep q.who q.addr q.lines).2
        (if rqOp f = 1 then (span 0 q.lines).flatMap fun _ => natBytes 64 0 else [])) := by
  have hdone : s.nonCaching.filter (fun x => x.left.isEmpty) = [] :=
    List.filter_eq_nil_iff.mpr fun x hx => by simp [(hother x hx).1]
  have hkept : s.nonCaching.filter (fun x => x.id != s.ncNext) = s.nonCaching :=
    List.filter_eq_self.mpr fun x hx => by simp [(hother x hx).2]
  simp [State.ncOpen, hgood, State.ncAnswer, List.filter_append, hdone, hkept, State.ncReply, hsrc, hmute, hgot]

/-- The request of a stream as it is entered in the queues of its homes, checked for the stream's requester (R245, R502). -/
theorem State.openRequest_taken (data : List Byte) :
    (s.requestTaken ep n stream f rest).openRequest ep n stream f data =
      (s.requestTaken ep n stream f rest).ncOpen ep
        { id := 0, src := .stream ep n stream f, who := s.requester ep n stream (rqAddr f) (rqLines f), alloc := rqAlloc f || decide (rqOp f = 3)
          key := spillKeyOf (s.requester ep n stream (rqAddr f) (rqLines f)) n stream, charge := if stream = 62 then 52 else n
          addr := rqAddr f, lines := rqLines f } (if rqOp f = 2 then .write data else .read) := rfl

/-- A request of a stream of whose lines none passes the check is answered at once with the status of its first failing line. -/
theorem State.openRequest_no_lines {data : List Byte}
    (hgood : s.goodLines ep (s.requester ep n stream (rqAddr f) (rqLines f)) (rqAddr f) (rqLines f) = [])
    (hother : ∀ x ∈ s.nonCaching, x.left ≠ [] ∧ x.id ≠ s.ncNext) :
    (s.requestTaken ep n stream f rest).openRequest ep n stream f data =
      ({ s.requestTaken ep n stream f rest with ncNext := s.ncNext + 1 } : State).pushReply ep n (rqReply f)
        (replyUnits (s.firstBad ep (s.requester ep n stream (rqAddr f) (rqLines f)) (rqAddr f) (rqLines f)).1
          (s.firstBad ep (s.requester ep n stream (rqAddr f) (rqLines f)) (rqAddr f) (rqLines f)).2
          (if rqOp f = 1 then (span 0 (rqLines f)).flatMap fun _ => natBytes 64 0 else [])) := by
  rw [State.openRequest_taken, State.ncOpen_no_lines (s := s.requestTaken ep n stream f rest) rfl rfl rfl
    (by rw [State.goodLines_requestTaken]; exact hgood) hother, State.firstBad_requestTaken]
  rfl

section
variable (hq : tget [] s.stage.inQ (streamKey ep n stream) = f :: rest)
include hq

/-- Behind a request under way, or without a turn of its home, a request waits (R261). -/
theorem State.requestRow_waits (h : s.ncBusy ep n stream = true ∨ ep < 1460 ∧ s.homeTurn (s.partOf n) = false) :
    s.requestRow ep n stream op = s := by
  rw [State.requestRow, hq]
  obtain h | ⟨hep, h⟩ := h
  · simp [h]
  · simp [h, hep]

variable (hep : memoryEp ep = true) (hdata : rqData f ≤ rest.length) (hbusy : s.ncBusy ep n stream = false)
  (hturn : ep < 1460 → s.homeTurn (s.partOf n) = true)
include hep hdata hbusy hturn

theorem State.requestRow_memory (hlt : ep < 1460) (hop : rqOp f = op) (hbad : rqBad f = false) (h4 : op < 4)
    (hroom : s.outboundAt ep n + s.ncReserved ep n + replyFlits op (rqLines f) ≤ 256) :
    s.requestRow ep n stream op =
      (s.requestTaken ep n stream f rest).openRequest ep n stream f ((rest.take (rqData f)).flatMap (bytesOf 32)) := by
  have hw : ep ≠ epFabW := fun h => by simp [h, epFabW] at hlt
  have he : ep ≠ epFabE := fun h => by simp [h, epFabE] at hlt
  have hp : ep ≠ epPci := fun h => by simp [h, epPci] at hlt
  rw [State.requestRow, hq]
  simp [hop, hep, Nat.not_lt.mpr hdata, hbusy, hturn hlt, hw, he, hp, hbad, Nat.ne_of_lt h4, Nat.not_lt.mpr hroom]
  rfl

theorem State.requestRow_bad (hlt : ep < 1460) (hop : rqOp f = op ∨ op = 1 ∧ (rqOp f = 0 ∨ 4 < rqOp f)) (hbad : rqBad f = true ∨ op = 4)
    (hroom : s.outboundAt ep n + s.ncReserved ep n + (1 + if op = 1 then 2 * min (rqLines f) 64 else 0) ≤ 256) :
    s.requestRow ep n stream op = (s.requestTaken ep n stream f rest).pushReply ep n (rqReply f) (failReply f srBad (rqAddr f)) := by
  have hw : ep ≠ epFabW := fun h => by simp [h, epFabW] at hlt
  have he : ep ≠ epFabE := fun h => by simp [h, epFabE] at hlt
  have hmine : (decide (rqOp f = op) || (decide (op = 1) && (decide (rqOp f = 0) || decide (rqOp f > 4)))) = true := by simpa using hop
  rw [State.requestRow, hq]
  simp only [hmine, hep, Nat.not_lt.mpr hdata, hbusy, hturn hlt, hw, he]
  simp [hbad, Nat.not_lt.mpr hroom]
  rfl

theorem State.requestRow_pci (hpci : ep = epPci) (hop : rqOp f = op) (hbad : rqBad f = false) (h4 : op < 4) :
    s.requestRow ep n stream op = if op = 1 ∧ s.hostCheck n f = srOk then (s.requestTaken ep n stream f rest).hostRead n f
      else (s.requestTaken ep n stream f rest).serveHost n f ((rest.take (rqData f)).flatMap (bytesOf 32)) := by
  subst hpci
  have hge : ¬ epPci < 1460 := by decide
  have hfab : ¬ (epPci = epFabW ∨ epPci = epFabE) := by decide
  rw [State.requestRow, hq]
  simp [hop, hep, Nat.not_lt.mpr hdata, hbusy, hge, hfab, hbad, Nat.ne_of_lt h4]
  rfl

omit hturn in
theorem State.requestRow_fab (hfab : ep = epFabW ∨ ep = epFabE) (hop : rqOp f = op) (hbad : rqBad f = false) (h3 : op ≠ 3)
    (hentry : (s.streamEntry n stream).1 = false) :
    s.requestRow ep n stream op = ((s.requestTaken ep n stream f rest).fabRequest (decide (ep = epFabE)) n (rqReply f) op (rqLines f) (rqAddr f)
      (rest.take (rqData f)) (s.partOf n)).getD s := by
  have hget : ∀ o : Option State, (match o with | some t => t | none => s) = o.getD s := fun o => by cases o <;> rfl
  have hge : ¬ ep < 1460 := by obtain h | h := hfab <;> simp [h, epFabW, epFabE]
  rw [State.requestRow, hq]
  simp only [hop, hep, Nat.not_lt.mpr hdata, hbusy, hge, hfab, hbad, h3, hentry]
  simp
  exact hget _

end

/-- Settles O32: the oldest request of a stream waits, enters the queues of its homes, is answered, or leaves for the host or the fabric
(R260, R261, R349, R434). -/
theorem endpointsAnswerRequests : Obligations.EndpointsAnswerRequests := by
  unfold Obligations.EndpointsAnswerRequests
  intro s ep n stream f rest hm hep key hq hdata taken data who room row
  have hrow : ∀ (i : Instr) (op : Nat), (exec i s = s.onModule fun s => .next (s.requestRow ep n stream op)) → row i op := by
    intro i op hi
    rw [s.onModule_run _ hm] at hi
    refine ⟨fun hwait => ?_, fun hbusy hturn => ⟨fun hlt hop hbad h4 hroom => ?_, fun hlt hop hbad hroom => ?_,
      fun hpci hop hbad h4 => ?_, ?_⟩⟩
    · rw [hi, State.requestRow_waits hq hwait]
    · rw [hi, State.requestRow_memory hq hep hdata hbusy hturn hlt hop hbad h4 hroom]
      subst hop
      refine ⟨?_, fun hgood hother => ?_⟩
      · rw [State.openRequest_taken]
        rfl
      · rw [State.openRequest_no_lines hgood hother]
        rfl
    · rw [hi, State.requestRow_bad hq hep hdata hbusy hturn hlt hop hbad hroom]
      rfl
    · rw [hi, State.requestRow_pci hq hep hdata hbusy hturn hpci hop hbad h4]
      rfl
    · intro hfab hop hbad h3 hentry v
      rw [hi, State.requestRow_fab hq hep hdata hbusy hfab hop hbad h3 hentry]
      rfl
  exact ⟨hrow _ 1 rfl, hrow _ 2 rfl, hrow _ 3 rfl, hrow _ 4 rfl⟩

end Sys2Proof.Machine
end

section
/-! The tick (R10) and the homes: a read or write of memory leaves both alone, and neither the coherence protocol nor an entry of the
change log takes a tick. One rule per operation, in the order of the definitions. -/
namespace Sys2Proof.Machine

variable (s : State)

/-- Two states with one tick, and the same queues and directories at the homes. -/
@[simp] abbrev State.sameHomes (s t : State) : Prop := t.tick = s.tick ∧ t.homes = s.homes ∧ t.homeLines = s.homeLines

/-- Steps that each take no tick take none together. -/
theorem foldl_tick {α : Type} {f : State → α → State} (hf : ∀ t x, (f t x).tick = t.tick) (l : List α) :
    (l.foldl f s).tick = s.tick := by
  induction l generalizing s with
  | nil => rfl
  | cons x l ih => rw [List.foldl_cons, ih, hf]

/-! Memory, its errors, and the counts of accesses. -/

@[simp] theorem State.noteKey_sameHomes (a n key : Nat) : s.sameHomes (s.noteKey a n key) := by
  unfold State.noteKey; simp only []; split <;> simp

@[simp] theorem State.noteWrite_sameHomes (a n : Nat) : s.sameHomes (s.noteWrite a n) := ⟨rfl, rfl, rfl⟩

@[simp] theorem State.writeMem_sameHomes (a : Nat) (bs : List Byte) : s.sameHomes (s.writeMem a bs) := by
  unfold State.writeMem; split
  · simp
  · simp

@[simp] theorem State.writePhys_sameHomes (a : Nat) (bs : List Byte) : s.sameHomes (s.writePhys a bs) := by
  unfold State.writePhys; split <;> simp

@[simp] theorem State.msix_sameHomes (v : Nat) : s.sameHomes (s.msix v) := by
  unfold State.msix; split
  · split <;> simp
  · simp

@[simp] theorem State.acReport_sameHomes (g : Nat) (e : AcEntry) : s.sameHomes (s.acReport g e) := by
  unfold State.acReport; simp only []; split
  · simp
  · split <;> simp

@[simp] theorem State.acTouch_sameHomes (g part a lines : Nat) : s.sameHomes (s.acTouch g part a lines) := by
  unfold State.acTouch; simp only []; split
  · simp
  · split <;> split <;> simp

@[simp] theorem State.countMem_sameHomes (l : Nat) (w : Bool) (m : Nat) : s.sameHomes (s.countMem l w m) := by
  unfold State.countMem; simp only []; split
  · simp
  · split <;> simp

@[simp] theorem State.countLlc_sameHomes (l : Nat) (hit : Bool) (m : Nat) : s.sameHomes (s.countLlc l hit m) := by
  unfold State.countLlc; split <;> simp

@[simp] theorem State.flipLine_sameHomes (l : Nat) : s.sameHomes (s.flipLine l) := by
  unfold State.flipLine; simp only []; split <;> simp

@[simp] theorem State.ctlWritten_sameHomes (l m : Nat) : s.sameHomes (s.ctlWritten l m) := by simp [State.ctlWritten]

@[simp] theorem State.countEcc_sameHomes (c : Nat) (ce : Bool) : s.sameHomes (s.countEcc c ce) := ⟨rfl, rfl, rfl⟩

@[simp] theorem State.scrubWrite_sameHomes (l : Nat) : s.sameHomes (s.scrubWrite l) := by simp [State.scrubWrite]

@[simp] theorem State.summaryUp_sameHomes (q place : Nat) : s.sameHomes (s.summaryUp q place) := by
  unfold State.summaryUp; split <;> simp

@[simp] theorem State.summaryError_sameHomes (kind struct_ part : Nat) : s.sameHomes (s.summaryError kind struct_ part) := by
  unfold State.summaryError; split
  · simp
  · split
    · simp
    · split
      · simp
      · split <;> simp

@[simp] theorem State.putErr_sameHomes (bs : List Byte) : s.sameHomes (s.putErr bs) := by
  unfold State.putErr; simp only []; split
  · simp
  · split <;> simp

@[simp] theorem State.logErr_sameHomes (kind struct_ unit addr part pos value : Nat) :
    s.sameHomes (s.logErr kind struct_ unit addr part pos value) := by
  unfold State.logErr; simp only []; split
  · split <;> simp
  · simp

@[simp] theorem State.memCheck_sameHomes (l key : Nat) : s.sameHomes (s.memCheck l key).2 := by
  unfold State.memCheck; simp only []; split
  · simp
  · split
    · simp
    · split
      · split <;> simp
      · simp

@[simp] theorem State.memDemand_sameHomes (l key m : Nat) : s.sameHomes (s.memDemand l key m).2 := by simp [State.memDemand]

@[simp] theorem State.putLine_sameHomes (l : Nat) (d : Line) (key : Nat) : s.sameHomes (s.putLine l d key) := by
  unfold State.putLine; split <;> simp

/-! The LLC and what a home reads and writes. -/

@[simp] theorem State.llcPlace_sameHomes (l : Nat) (e : LlcLine) : s.sameHomes (s.llcPlace l e) := ⟨rfl, rfl, rfl⟩

@[simp] theorem State.llcDrop_sameHomes (l m : Nat) : s.sameHomes (s.llcDrop l m) := by
  unfold State.llcDrop; split
  · simp
  · simp only []; split <;> simp

@[simp] theorem State.llcAlloc_sameHomes (l who : Nat) (dirty : Bool) (under : Line) (m : Nat) : s.sameHomes (s.llcAlloc l who dirty under m) := by
  unfold State.llcAlloc; simp only []; split
  · simp
  · split
    · split <;> simp
    · split
      · simp
      · split <;> simp

@[simp] theorem State.homeRead_sameHomes (l who : Nat) (alloc : Bool) (key m : Nat) : s.sameHomes (s.homeRead l who alloc key m).2 := by
  have hm (t : State) := t.memDemand_sameHomes l key m
  unfold State.homeRead; simp only []; split
  · simp
  · split
    next t h => simpa [h] using hm (s.countLlc l (s.llcLine l).isSome m)
    next d t h =>
      have ht : s.sameHomes t := by simpa [h] using hm (s.countLlc l (s.llcLine l).isSome m)
      split <;> simp [ht]

@[simp] theorem State.homeWrite_sameHomes (l who : Nat) (alloc : Bool) (d : Line) (key m : Nat) : s.sameHomes (s.homeWrite l who alloc d key m) := by
  unfold State.homeWrite; simp only []; split <;> simp

/-! What an atomic and a non-caching request do to a line. -/

@[simp] theorem State.noteAmo_sameHomes (l : Nat) (b : BitVec 192) : s.sameHomes (s.noteAmo l b) := ⟨rfl, rfl, rfl⟩

@[simp] theorem State.doneShown_sameHomes (ep : Nat) (l : LineNo) (b : BitVec 192) : s.sameHomes (s.doneShown ep l b) := by
  unfold State.doneShown; split
  · simp
  · simp only []; split <;> simp

@[simp] theorem State.setNc_sameHomes (q : NcReq) : s.sameHomes (s.setNc q) := ⟨rfl, rfl, rfl⟩

@[simp] theorem State.ncPerform_sameHomes (l : LineNo) (r : HomeReq) : s.sameHomes (s.ncPerform l r) := by
  have hr (q : NcReq) (alloc : Bool) := s.homeRead_sameHomes l.toNat q.who alloc q.key q.charge
  unfold State.ncPerform; simp only []
  cases r <;> simp only []
  case read id =>
    split
    · simp
    next q _ => rcases h : s.homeRead l.toNat q.who q.alloc q.key q.charge with ⟨_ | d, t⟩ <;> simpa [h] using hr q q.alloc
  case write id d n =>
    split
    · simp
    next q _ =>
      split
      · simp
      · rcases h : s.homeRead l.toNat q.who false q.key q.charge with ⟨_ | d, t⟩ <;> simpa [h] using hr q false
  case remote id b =>
    split
    · simp
    next q _ => rcases h : s.homeRead l.toNat q.who false q.key q.charge with ⟨_ | d, t⟩ <;> simpa [h] using hr q false
  all_goals exact ⟨rfl, rfl, rfl⟩

/-! Agents. -/

@[simp] theorem State.setAgent_tick (a : Nat) (l : LineNo) (x : AgentLine) : (s.setAgent a l x).tick = s.tick := rfl

@[simp] theorem State.agentTo_tick (a : Nat) (l : LineNo) (st : AgentState) : (s.agentTo a l st).tick = s.tick := rfl

@[simp] theorem State.request_tick (a : Nat) (l : LineNo) (i : Instr) : (s.request a l i).tick = s.tick := by
  unfold State.request; simp only []; split
  · simp
  · rfl

@[simp] theorem State.loseReservation_tick (a : Nat) (l : LineNo) : (s.loseReservation a l).tick = s.tick := by
  unfold State.loseReservation; split <;> rfl

@[simp] theorem State.agentLose_tick (a : Nat) (l : LineNo) (st : AgentState) : (s.agentLose a l st).tick = s.tick := by
  simp [State.agentLose]

@[simp] theorem State.replaceLine_tick (a : Nat) (l : LineNo) : (s.replaceLine a l).tick = s.tick := by
  unfold State.replaceLine; simp only []; split <;> simp

theorem State.makeRoom_tick {a : Nat} {l : LineNo} {t : State} (h : s.makeRoom a l = some t) : t.tick = s.tick := by
  unfold State.makeRoom at h; simp only [] at h; split at h
  · cases h; rfl
  · split at h
    · cases h; simp
    · cases h

@[simp] theorem State.wantRead_tick (a : Nat) (l : LineNo) (so : Bool) : (s.wantRead a l so).tick = s.tick := by
  unfold State.wantRead; split
  · split
    next t h => simp [s.makeRoom_tick h]
    · rfl
  · rfl

@[simp] theorem State.rereadTail_tick (a : Nat) (l : LineNo) : (s.rereadTail a l).tick = s.tick := by
  unfold State.rereadTail; split
  · split <;> simp
  · rfl

/-! Homes. -/

@[simp] theorem State.setHome_tick (h : Nat) (x : Home) : (s.setHome h x).tick = s.tick := rfl

@[simp] theorem State.noteServed_tick (h : Nat) (l : LineNo) (a : Nat) : (s.noteServed h l a).tick = s.tick := rfl

@[simp] theorem State.setHomeLine_tick (l : LineNo) (x : HomeLine) : (s.setHomeLine l x).tick = s.tick := rfl

@[simp] theorem State.freePool_tick (h q : Nat) (l : LineNo) : (s.freePool h q l).tick = s.tick := by
  unfold State.freePool; simp only []; split <;> rfl

@[simp] theorem State.freeEntry_tick (l : LineNo) (r : HomeReq) : (s.freeEntry l r).tick = s.tick := by
  unfold State.freeEntry; split <;> simp

@[simp] theorem State.sendInv_tick (l : LineNo) (t : List Nat) : (s.sendInv l t).tick = s.tick :=
  foldl_tick s (fun t i => t.send_tick i) _

@[simp] theorem State.serve_tick (l : LineNo) (r : Nat) (mk : Line → Instr) : (s.serve l r mk).2.tick = s.tick := by
  have ⟨hr, _⟩ := s.homeRead_sameHomes l.toNat (s.partOfAgent r l) (isCellEp r) 0 (s.agentMaster r)
  unfold State.serve; split
  next h => simpa [h] using hr
  next h => simpa [h] using hr

/-- The state after a line has been served. -/
theorem State.tick_of_serve {l : LineNo} {r : Nat} {mk : Line → Instr} {b : Bool} {t : State} (h : s.serve l r mk = (b, t)) :
    t.tick = s.tick := by simpa [h] using s.serve_tick l r mk

@[simp] theorem State.homeAmo_tick (l : LineNo) (r : Nat) (b : BitVec 192) (c : Bool) : (s.homeAmo l r b c).tick = s.tick := by
  have ⟨hr, _⟩ := s.homeRead_sameHomes l.toNat 0x3F false 0 (s.agentMaster r)
  unfold State.homeAmo; simp only []; split
  next h => simpa [h] using hr
  next h => simpa [h] using hr

@[simp] theorem State.muleAmo_tick (l : LineNo) (r : HomeReq) (x : HomeLine) : (s.muleAmo l r x).tick = s.tick := by
  unfold State.muleAmo; simp only []
  repeat' split
  all_goals simp

/-! Every branch of a home's tables sends messages, serves or writes the line, and replaces the line's entry. -/

@[simp] theorem State.homeAct_tick (l : LineNo) (x : HomeLine) (r : HomeReq) : (s.homeAct l x r).tick = s.tick := by
  unfold State.homeAct; simp only []
  cases r <;> simp only []
  all_goals repeat' split
  all_goals simp
  all_goals exact s.tick_of_serve (by assumption)

@[simp] theorem State.homeActOO_tick (l : LineNo) (x : HomeLine) (r : HomeReq) : (s.homeActOO l x r).tick = s.tick := by
  unfold State.homeActOO
  cases r <;> simp only []
  all_goals repeat' split
  all_goals simp
  all_goals exact s.tick_of_serve (by assumption)

@[simp] theorem State.homeServe_tick (l : LineNo) (x : HomeLine) (r : HomeReq) : (s.homeServe l x r).tick = s.tick := by
  unfold State.homeServe; simp only []; split <;> split <;> simp

@[simp] theorem State.homeRun_tick (l : LineNo) (k : Nat) : (s.homeRun l k).tick = s.tick := by
  induction k generalizing s l with
  | zero => rfl
  | succ k ih =>
    unfold State.homeRun; simp only []
    generalize hs : List.foldl _ s _ = t
    have ht : t.tick = s.tick := by rw [← hs]; exact foldl_tick s (fun u w => by rw [ih]; rfl) _
    rw [← ht]
    repeat' split
    all_goals simp [ih]

@[simp] theorem State.homeNext_tick (l : LineNo) : (s.homeNext l).tick = s.tick := s.homeRun_tick l _

@[simp] theorem State.writeBack_tick (l : LineNo) (m : Nat) : (s.writeBack l m).tick = s.tick := by
  unfold State.writeBack; split <;> simp

@[simp] theorem State.uncache_tick (l : LineNo) : (s.uncache l).tick = s.tick := by
  unfold State.uncache; split <;> rfl

@[simp] theorem State.flushLine_tick (l : LineNo) (discard : Bool) (m : Nat) : (s.flushLine l discard m).tick = s.tick := by
  have hlose (t : State) (e : Nat × AgentLine) : (t.agentLose (e.1 % 2048) l .I).tick = t.tick := t.agentLose_tick _ l .I
  have hread (t : State) (e : Nat × AgentLine) : (t.rereadTail (e.1 % 2048) l).tick = t.tick := t.rereadTail_tick _ l
  unfold State.flushLine; simp only [foldl_tick _ hread]
  cases discard <;> simp [foldl_tick _ hlose]

/-! The device's own writes. -/

@[simp] theorem State.devOwn_tick (l a : Nat) (bs : List Byte) (m : Nat) : (s.devOwn l a bs m).tick = s.tick := by
  unfold State.devOwn; simp only []; split
  · rfl
  · split
    · simp
    · rw [foldl_tick]; intros; rfl

@[simp] theorem State.devLine_tick (a : Nat) (bs : List Byte) (m l : Nat) : (s.devLine a bs m l).tick = s.tick := by
  have hm (t : State) : (t.memDemand l 0 m).2.tick = t.tick := (t.memDemand_sameHomes l 0 m).1
  unfold State.devLine; simp only []
  generalize hu : (s.devOwn l a bs m).countLlc l ((s.devOwn l a bs m).llcLine l).isSome m = u
  have huh : u.tick = s.tick := by rw [← hu]; simp
  split
  · simp [huh]
  · split
    · simp [huh]
    · have := hm u
      split <;> simp_all

/-- What the device writes to memory takes no tick. -/
@[simp] theorem State.devWrite_tick (a : Nat) (bs : List Byte) (m : Nat) : (s.devWrite a bs m).tick = s.tick := by
  unfold State.devWrite; split
  · simp
  · split
    · rfl
    · rw [foldl_tick _ fun t l => t.devLine_tick a bs m l]; simp

/-! The change log. -/

@[simp] theorem State.logPush_tick (kind origin part coach piece : Nat) (arg0 arg1 : Word) :
    (s.logPush kind origin part coach piece arg0 arg1).tick = s.tick := rfl

@[simp] theorem State.logDrain_tick : s.logDrain.tick = s.tick := by
  unfold State.logDrain; split
  · rfl
  · simp only []; split
    · simp
    · split <;> simp

@[simp] theorem State.logRoom_tick : s.logRoom.tick = s.tick := by
  unfold State.logRoom; simp only []
  repeat' split
  all_goals simp

@[simp] theorem State.logSignNow_tick : s.logSignNow.tick = s.tick := by
  unfold State.logSignNow; simp only []; split
  · rfl
  · rw [(State.msix_sameHomes _ 4).1, foldl_tick]
    intro t k
    simp

@[simp] theorem State.logSpan_tick (n : Nat) : (s.logSpan n).tick = s.tick := by
  unfold State.logSpan; split <;> simp

@[simp] theorem State.log_tick (kind origin part coach : Nat) (arg0 arg1 : Word) : (s.log kind origin part coach arg0 arg1).tick = s.tick := by
  simp [State.log]

end Sys2Proof.Machine
end

section
/-! Registers of the controllers and of the coherence block (R249, R269 to R274, R294, R297, R309). -/
namespace Sys2Proof.Machine

variable {s : State} {c : CtlIx} {m : Nat} {v : Word}

@[simp] theorem State.guaranteeMiss_tick (s : State) (c m : Nat) : (s.guaranteeMiss c m).tick = s.tick := by
  unfold State.guaranteeMiss; simp only []
  repeat' split
  all_goals simp

/-- A controller at the end of a regulation window (R269, R274). -/
def State.windowEnds (s : State) (c now : Nat) : State :=
  s.setMc c { s.mc c with
    window := BitVec.ofNat 64 now, served := []
    share := (s.mc c).sharePending.foldl (fun t e => tset 0 t e.1 e.2) (s.mc c).share, sharePending := [] }

theorem foldl_guaranteeMiss_tick (l : List (Nat × Nat)) : (l.foldl (fun s e => s.guaranteeMiss c e.1) s).tick = s.tick :=
  foldl_tick s (fun t e => t.guaranteeMiss_tick c e.1) l

/-- A window that has ended ends once, after the misses of its waiting masters have been recorded (R269, R273). -/
theorem exec_regulationWindow_ends {waited : List (Nat × Nat)} (hm : s.dbg.module = false) (hw : (s.mc c).window.toNat < s.tick / 100) :
    exec (.regulationWindow c waited) s = .next
      (((waited.filter fun e => decide (max e.2 (tget 0 (s.mc c).served e.1) < (tget 0 (s.mc c).share e.1).toNat * guaranteeLines c)).foldl
        (fun s e => s.guaranteeMiss c e.1) s).windowEnds c (s.tick / 100)) := by
  rw [exec_regulationWindow, execRegulationWindow, s.onModule_run _ hm]
  simp only [State.windowNow, if_neg (Nat.not_le.mpr hw), foldl_guaranteeMiss_tick]
  rfl

theorem truncate_eq_bfield (v : Word) (n : Nat) : (v.truncate n : BitVec n) = BitVec.ofNat n (bfield v 0 n) := by
  rw [bfield_eq_extractLsb', BitVec.ofNat_toNat, BitVec.setWidth_eq]
  ext i
  simp

/-! MC_SHARE_m (R274). -/

theorem State.mcShareWrite_sets (hm : m ∈ [48, 49, 50, 52]) (hn : bfield v 0 7 ≤ 64) (hs : (s.mc c).shareSum m (bfield v 0 7) ≤ 64) :
    s.mcShareWrite c m v = s.setShare c m (bfield v 0 7) := by
  have hm' : m = 48 ∨ m = 49 ∨ m = 50 ∨ m = 52 := by simpa using hm
  simp [State.mcShareWrite, hm', Nat.not_lt.mpr hn, Nat.not_lt.mpr hs]

theorem State.mcShareWrite_over (hm : m ∈ [48, 49, 50, 52]) (hs : 64 < (s.mc c).shareSum m (bfield v 0 7)) :
    s.mcShareWrite c m v = s.setMc c { s.mc c with overcommit := true } := by
  have hm' : m = 48 ∨ m = 49 ∨ m = 50 ∨ m = 52 := by simpa using hm
  simp [State.mcShareWrite, hm', hs]

/-- A SYNC_PAGE_n write while no recall is in progress, by its three outcomes (R297). -/
theorem State.syncPageWrite_clear {n : Slot} (hb : s.coh.syncBusy = none) (hv : v.getLsbD 0 = false)
    (hold : (tget 0 s.coh.syncPage n).getLsbD 0 = false) :
    s.syncPageWrite n v = { s.logWindow (0x340100 + 8 * n) v with
      coh := { (s.logWindow (0x340100 + 8 * n) v).coh with syncPage := tset 0 s.coh.syncPage n (v &&& syncBits) } } := by
  rw [State.syncPageWrite, hb, hv, hold]
  rfl

theorem State.syncPageWrite_page {n : Slot} (hb : s.coh.syncBusy = none) (hv : v.getLsbD 0 = true) (hc : (s.coach n).valid = true)
    (hz : bfield v 1 15 = 0) (hin : s.inChunk (bfield v 16 36 * 65536) = true) (ho : s.ownerOf (bfield v 16 36 * 65536) = s.partOf n) :
    s.syncPageWrite n v = { s.logWindow (0x340100 + 8 * n) v with
      coh := { (s.logWindow (0x340100 + 8 * n) v).coh with syncBusy := some (n, v &&& syncBits) } } := by
  simp only [State.syncPageWrite, hb, hv, hc, hz, hin, ho, Option.isSome_none, Bool.not_true, bne_self_eq_false, Bool.or_self, Bool.and_false,
    Bool.false_and, Bool.false_eq_true, if_false]

theorem State.syncPageWrite_closed {n : Slot} (hb : s.coh.syncBusy = none) (hv : v.getLsbD 0 = true) (hc : (s.coach n).valid = false) :
    s.syncPageWrite n v = { s with coh := { s.coh with syncBad := true } } := by
  simp [State.syncPageWrite, hb, hv, hc]

/-- Settles O33: the controllers' windows, shares, refresh and ways, and the coherence block's sync pages and strict turns. -/
theorem memoryAndCoherenceRegistersAreWritten : Obligations.MemoryAndCoherenceRegistersAreWritten := by
  unfold Obligations.MemoryAndCoherenceRegistersAreWritten
  refine ⟨fun s c m v => ⟨fun hm => ⟨fun hw => ⟨?_, fun served hs => ?_⟩, fun mode hc hmode => ?_⟩, fun ho => ⟨fun hv => ?_, fun hmem hn hsum => ?_,
    fun hmem hsum => ?_, fun hlt hap => ?_, fun hlt hap => ?_⟩⟩, fun s n q v => ⟨fun ho hb => ⟨fun hv hold => ?_, fun hv hc hz hin hown => ?_,
    fun hv hc => ?_⟩, fun hm hb => ?_, fun ho => ⟨fun ht hq => ?_, fun ht => ?_⟩⟩⟩
  · exact exec_regulationWindow_ends hm hw
  · rw [exec_regulationWindow_ends hm hw, List.filter_cons_of_pos]
    · rfl
    · exact decide_eq_true hs
  · rw [exec_refreshChange, execRefreshChange, s.onModule_run _ hm, if_pos ⟨hc, hmode⟩]
  · rw [exec_mcMissLastClear, execMcMissLastClear, s.gate_open _ ho, State.missLastWrite, if_pos hv]
  · rw [exec_mcShareWrite, execMcShareWrite, s.gate_open _ ho, State.mcShareWrite_sets hmem hn hsum]
    rfl
  · rw [exec_mcShareWrite, execMcShareWrite, s.gate_open _ ho, State.mcShareWrite_over hmem hsum]
  · rw [exec_llcWaysWrite, execLlcWaysWrite, s.gate_open _ ho, State.llcWaysWrite, if_neg (Nat.not_lt.mpr (Nat.le_of_lt_succ hlt)), if_pos hap,
      truncate_eq_bfield]
  · rw [exec_llcWaysWrite, execLlcWaysWrite, s.gate_open _ ho, State.llcWaysWrite, if_neg (Nat.not_lt.mpr (Nat.le_of_lt_succ hlt)),
      if_neg (by simp [hap])]
  · rw [exec_syncPageWrite, execSyncPageWrite, s.gate_open _ ho, State.syncPageWrite_clear hb hv hold]
    rfl
  · rw [exec_syncPageWrite, execSyncPageWrite, s.gate_open _ ho, State.syncPageWrite_page hb hv hc hz hin hown]
    rfl
  · rw [exec_syncPageWrite, execSyncPageWrite, s.gate_open _ ho, State.syncPageWrite_closed hb hv hc]
  · intro old lines hquiet u
    have hany : (lines.any fun l => !s.quiet (BitVec.ofNat 46 l)) = false := by simpa using hquiet
    rw [exec_syncPageRecallDone, execSyncPageRecallDone, s.onModule_run _ hm, hb]
    exact if_neg (Bool.eq_false_iff.mp hany)
  · rw [exec_cohStrictWrite, execCohStrictWrite, s.gate_open _ ho, truncate_eq_bfield]
    have hok : ¬ (bfield v 0 7 ≠ 0 ∧ !s.stable.strict.contains q.val) := fun ⟨hne, hnot⟩ => by
      obtain h0 | hin := hq
      · exact hne h0
      · rw [hin] at hnot
        exact absurd hnot Bool.false_ne_true
    exact congrArg _ (if_neg (not_or.mpr ⟨Nat.not_lt.mpr ht, hok⟩))
  · rw [exec_cohStrictWrite, execCohStrictWrite, s.gate_open _ ho]
    exact congrArg _ (if_pos (Or.inl ht))

end Sys2Proof.Machine
end

section
/-! A home acts on the request at the head of a line's queue (R287, R288, R293). -/
namespace Sys2Proof.Machine

variable {s t : State} {l : LineNo} {x : HomeLine} {r : HomeReq} {a : Nat}

/-! The queues at the homes, which the acts of a home leave alone but for the line in service. -/

/-- Two states with the same requests waiting at every home, and the same agents marked for a CREDIT (R287, R293). -/
@[simp] abbrev State.sameQueues (s t : State) : Prop := t.homeLines = s.homeLines ∧ ∀ g, (t.home g).retryMap = (s.home g).retryMap

theorem State.sameQueues_of_sameHomes (h : s.sameHomes t) : s.sameQueues t := by
  obtain ⟨-, hhomes, hlines⟩ := h
  exact ⟨hlines, fun g => by rw [State.home, hhomes, ← State.home]⟩

@[simp] theorem State.send_sameQueues (s : State) (i : Instr) : s.sameQueues (s.send i) := ⟨rfl, fun _ => rfl⟩

@[simp] theorem State.sendInv_sameQueues (s : State) (l : LineNo) (t : List Nat) : s.sameQueues (s.sendInv l t) := by
  unfold State.sendInv State.sendAll
  generalize t.map _ = is
  induction is generalizing s with
  | nil => exact ⟨rfl, fun _ => rfl⟩
  | cons i is ih => exact ih (s.send i)

/-- The recent filter is no queue (R305). -/
@[simp] theorem State.noteServed_sameQueues (s : State) (h : Nat) (l : LineNo) (a : Nat) : s.sameQueues (s.noteServed h l a) := by
  refine ⟨rfl, fun g => ?_⟩
  by_cases hg : g = h
  · subst hg
    simp only [State.home, State.noteServed, State.setHome]
    rw [tget_tset_of_ne (by simp [Home.mk.injEq])]
  · simp only [State.home, State.noteServed, State.setHome, tget_tset_ne hg]

@[simp] theorem State.serve_sameQueues (s : State) (l : LineNo) (r : Nat) (mk : Line → Instr) : s.sameQueues (s.serve l r mk).2 := by
  have hr := State.sameQueues_of_sameHomes (s.homeRead_sameHomes l.toNat (s.partOfAgent r l) (isCellEp r) 0 (s.agentMaster r))
  unfold State.serve; split
  next h => simpa [h] using hr
  next h => simpa [h] using hr

theorem State.sameQueues_of_serve {r : Nat} {mk : Line → Instr} {b : Bool} (h : s.serve l r mk = (b, t)) : s.sameQueues t := by
  simpa [h] using s.serve_sameQueues l r mk

@[simp] theorem State.homeWrite_sameQueues (s : State) (l who : Nat) (alloc : Bool) (d : Line) (key m : Nat) :
    s.sameQueues (s.homeWrite l who alloc d key m) := State.sameQueues_of_sameHomes (s.homeWrite_sameHomes l who alloc d key m)

@[simp] theorem State.ncPerform_sameQueues (s : State) (l : LineNo) (r : HomeReq) : s.sameQueues (s.ncPerform l r) :=
  State.sameQueues_of_sameHomes (s.ncPerform_sameHomes l r)

@[simp] theorem State.noteAmo_sameQueues (s : State) (l : Nat) (b : BitVec 192) : s.sameQueues (s.noteAmo l b) :=
  State.sameQueues_of_sameHomes (s.noteAmo_sameHomes l b)

@[simp] theorem State.doneShown_sameQueues (s : State) (ep : Nat) (l : LineNo) (b : BitVec 192) : s.sameQueues (s.doneShown ep l b) :=
  State.sameQueues_of_sameHomes (s.doneShown_sameHomes ep l b)

@[simp] theorem State.homeAmo_sameQueues (s : State) (l : LineNo) (r : Nat) (b : BitVec 192) (c : Bool) : s.sameQueues (s.homeAmo l r b c) := by
  have hr := State.sameQueues_of_sameHomes (s.homeRead_sameHomes l.toNat 0x3F false 0 (s.agentMaster r))
  unfold State.homeAmo; simp only []; split
  next h => simpa [h] using hr
  next h => simpa [h] using hr

@[simp] theorem HomeLine.ownedBy_phase (x : HomeLine) (a : Nat) : (x.ownedBy a).phase = x.phase := rfl
@[simp] theorem HomeLine.addSharer_phase (x : HomeLine) (a : Nat) : (x.addSharer a).phase = x.phase := rfl

/-- What a home leaves of a line when it has acted on the request at its head: the other requests of its queue, in a state in which the
line waits for no directory way. -/
def State.actsOn (s t : State) (l : LineNo) (x : HomeLine) : Prop :=
  ∃ u y, t = u.setHomeLine l y ∧ s.sameQueues u ∧ y.queue = x.queue ∧ ∀ v, y.phase ≠ .wantWay v

theorem State.muleAmo_actsOn (hx : x.phase = .stable) (r : HomeReq) : s.actsOn (s.muleAmo l r x) l x := by
  have hgo : ∀ a b, s.actsOn (if he : ctlOf (lineAddr l) < 52 then
      (s.send (.fwdAmo ⟨ctlOf (lineAddr l), he⟩ l a b)).setHomeLine l { x with phase := .mule, req := some r } else s.setHomeLine l x) l x := by
    intro a b
    split
    · exact ⟨_, _, rfl, s.send_sameQueues _, rfl, by simp⟩
    · exact ⟨s, x, rfl, by simp, rfl, by simp [hx]⟩
  have hstay : s.actsOn (s.setHomeLine l x) l x := ⟨s, x, rfl, by simp, rfl, by simp [hx]⟩
  unfold State.muleAmo; simp only []
  split
  · exact hgo _ _
  · split
    · split <;> exact hgo _ _
    · exact hstay
  · exact hstay

/-- Every act of a home ends with the line set to its new entry (R288). -/
theorem State.homeAct_actsOn (hx : x.phase = .stable) (r : HomeReq) : s.actsOn (s.homeAct l x r) l x := by
  unfold State.homeAct; simp only []
  cases r <;> simp only []
  all_goals repeat' split
  any_goals exact State.muleAmo_actsOn hx _
  all_goals refine ⟨_, _, rfl, ?_, rfl, ?_⟩
  all_goals simp [hx]
  all_goals exact State.sameQueues_of_serve (by assumption)

/-! A queue of one request. -/

theorem mem_tset {α : Type} [DecidableEq α] {d v : α} {m : SMap α} {i : Nat} {e : Nat × α} (h : e ∈ tset d m i v) :
    e ∈ m ∨ e = (i, v) := by
  induction m with
  | nil => by_cases hv : v = d <;> simp_all [tset]
  | cons b m ih =>
    obtain ⟨k, w⟩ := b
    simp only [tset] at h
    split at h
    · split at h
      · exact .inl h
      · simpa [or_comm, or_assoc] using h
    · split at h
      · split at h
        · exact .inl (List.mem_cons_of_mem _ h)
        · obtain rfl | h := List.mem_cons.mp h
          · exact .inr rfl
          · exact .inl (List.mem_cons_of_mem _ h)
      · obtain rfl | h := List.mem_cons.mp h
        · exact .inl (List.mem_cons_self ..)
        · exact (ih h).imp_left (List.mem_cons_of_mem _)

/-- No line waits for the directory way of another, where none of the table does. -/
theorem State.wayWaiters_eq_nil_iff : s.wayWaiters l = [] ↔ ∀ e ∈ s.homeLines, e.2.phase ≠ .wantWay l.toNat := by
  simp [State.wayWaiters, List.filter_eq_nil_iff]

theorem State.wayWaiters_actsOn (h : s.actsOn t l x) (hw : s.wayWaiters l = []) : t.wayWaiters l = [] := by
  obtain ⟨u, y, rfl, ⟨hlines, -⟩, -, hy⟩ := h
  rw [State.wayWaiters_eq_nil_iff] at hw ⊢
  intro e he
  obtain he | rfl := mem_tset he
  · exact hw e (hlines ▸ he)
  · exact hy _

/-- A line without requests to serve, for whose directory way none waits, is at rest. -/
theorem State.homeRun_idle (hw : s.wayWaiters l = []) (hq : (s.homeLine l).queue = []) (k : Nat) : s.homeRun l k = s := by
  cases k with
  | zero => rfl
  | succ k => simp [State.homeRun, hw, hq]

theorem State.homeFuel_pos (s : State) : ∃ k, s.homeFuel = k + 1 := by
  have hle : ∀ (m : SMap HomeLine) (n : Nat), n ≤ m.foldl (fun n e => n + e.2.queue.length + 2) n := by
    intro m
    induction m with
    | nil => exact fun n => Nat.le_refl n
    | cons e m ih => exact fun n => Nat.le_trans (by change n ≤ n + _ + 2; omega) (ih _)
  exact Nat.exists_eq_succ_of_ne_zero (by have := hle s.homeLines 2; unfold State.homeFuel; omega)

section
variable (hx : x.phase = .stable) (hoo : s.ownerOrdered l = false) (hmarked : (s.home (homeEp l)).retryMap = [])
include hx hoo hmarked

/-- A request of an ordinary line is acted on as the table says; no agent waits for the entry that it leaves (R288, R293). -/
theorem State.homeServe_ordinary (r : HomeReq) : s.homeServe l x r = s.homeAct l x r := by
  obtain ⟨u, y, hu, ⟨-, hmap⟩, -, -⟩ := State.homeAct_actsOn (s := s) (l := l) hx r
  have hnone : ∀ q, (s.homeAct l x r).freePool (homeEp l) q l = s.homeAct l x r := fun q => by
    have hm : ((s.homeAct l x r).home (homeEp l)).retryMap = [] := by rw [hu]; exact (hmap _).trans hmarked
    simp [State.freePool, hm]
  have hfree : (s.homeAct l x r).freeEntry l r = s.homeAct l x r := by
    unfold State.freeEntry; split
    · exact hnone _
    · rfl
  simp only [State.homeServe, hoo, Bool.false_eq_true, if_false, hfree, ite_self]

variable (hlines : twf {} s.homeLines = true) (hway : s.wayWaiters l = [])
include hlines hway

/-- Once the only request of a line has been acted on, the home has nothing more to do for the line. -/
theorem State.homeRun_homeServe (hq : x.queue = []) (r : HomeReq) (k : Nat) : (s.homeServe l x r).homeRun l k = s.homeAct l x r := by
  have hact := State.homeAct_actsOn (s := s) (l := l) hx r
  rw [State.homeServe_ordinary hx hoo hmarked]
  refine State.homeRun_idle (State.wayWaiters_actsOn hact hway) ?_ k
  obtain ⟨u, y, hu, ⟨hu', -⟩, hy, -⟩ := hact
  rw [hu, State.homeLine_setHomeLine (by rw [hu']; exact hlines), hy, hq]

end

/-- The only request of an ordinary line at rest, once it has passed the checks and has a directory way where it needs one, is acted on
(R287, R288, R292). -/
theorem State.homeNext_single {w : Nat} (hlines : twf {} s.homeLines = true) (hx : (s.homeLine l).phase = .stable)
    (hq : (s.homeLine l).queue = [r]) (hoo : s.ownerOrdered l = false) (hcheck : s.homeCheck l r = none) (hway : s.wayWaiters l = [])
    (hmarked : (s.home (homeEp l)).retryMap = [])
    (hplace : (s.dirPlace l).1 = some w ∨ (s.homeLine l).noEntry = false ∨ r.allocates = false) :
    s.homeNext l = s.homeAct l (if (s.homeLine l).noEntry = true ∧ r.allocates = true then { s.homeLine l with queue := [], way := w }
      else { s.homeLine l with queue := [] }) r := by
  obtain ⟨k, hk⟩ := s.homeFuel_pos
  rw [State.homeNext, hk, State.homeRun]
  simp only [hway, ite_self, List.foldl_nil]
  split
  next r' q _ hr =>
    obtain ⟨rfl, rfl⟩ := List.cons.inj (hr.symm.trans hq)
    simp only [hcheck]
    split
    next hnew =>
      have hw : (s.dirPlace l).1 = some w := hplace.resolve_right fun h => by simp [hnew] at h
      rcases hd : s.dirPlace l with ⟨_ | w', v⟩ <;> rw [hd] at hw <;> cases hw
      exact State.homeRun_homeServe (x := { s.homeLine l with queue := [], way := w }) hx hoo hmarked hlines hway rfl _ k
    next => exact State.homeRun_homeServe (x := { s.homeLine l with queue := [] }) hx hoo hmarked hlines hway rfl _ k
  next hne => exact absurd hq (hne _ _ hx)

/-! A request message at its home (R287, R293). -/

/-- The request messages of an agent for a line, each with the request that the home takes from it. -/
def agentRequests (a : Nat) (l : LineNo) (d : Line) (b : BitVec 192) (so : Bool) : List (Instr × HomeReq) :=
  [(.getS a l so, .getS a so), (.getM a l, .getM a), (.upgrade a l, .upgrade a), (.putS a l, .putS a), (.putE a l, .putE a),
    (.putD a l d, .putD a d), (.amoFar a l b, .amo a b)]

/-- A request message is delivered in its turn, to a home that serves the partition of its sender (R152, R294). -/
theorem exec_agentRequest {d : Line} {b : BitVec 192} {so : Bool} {e : Instr × HomeReq} (he : e ∈ agentRequests a l d b so)
    (hm : s.dbg.module = false) :
    (e.2.agent = none ∨ e.2.agent = some a) ∧
    exec e.1 s = s.delivered e.1 fun s => if s.homeTurn (s.poolOf a l) then .next ((s.take e.1).atHome l e.2 e.1).ncAnswer else .next s := by
  simp only [agentRequests, List.mem_cons, List.not_mem_nil, or_false] at he
  obtain rfl | rfl | rfl | rfl | rfl | rfl | rfl := he
  · exact ⟨.inr rfl, by rw [exec_getS, execGetS, s.onModule_run _ hm]; rfl⟩
  · exact ⟨.inr rfl, by rw [exec_getM, execGetM, s.onModule_run _ hm]; rfl⟩
  · exact ⟨.inr rfl, by rw [exec_upgrade, execUpgrade, s.onModule_run _ hm]; rfl⟩
  · exact ⟨.inl rfl, by rw [exec_putS, execPutS, s.onModule_run _ hm]; rfl⟩
  · exact ⟨.inl rfl, by rw [exec_putE, execPutE, s.onModule_run _ hm]; rfl⟩
  · exact ⟨.inl rfl, by rw [exec_putD, execPutD, s.onModule_run _ hm]; rfl⟩
  · exact ⟨.inr rfl, by rw [exec_amoFar, execAmoFar, s.onModule_run _ hm]; rfl⟩

/-- The home once a request has found its entry: one that was reserved for its agent is reserved no longer (R293). -/
def State.entryTaken (s : State) (a : Nat) (l : LineNo) (r : HomeReq) : State :=
  if r.agent = none then s
  else s.setHome (homeEp l) { s.home (homeEp l) with reserved := dropFirst (a, s.poolOf a l) (s.home (homeEp l)).reserved }

theorem State.atHome_joins {i : Instr} (hr : r.agent = none ∨ r.agent = some a) (he : r.agent = none ∨ s.entryFor (homeEp l) a l = true) :
    s.atHome l r i = (s.entryTaken a l r).homeJoin l r := by
  obtain hr | hr := hr
  · simp [State.atHome, State.entryTaken, hr]
  · have he' : s.entryFor (homeEp l) a l = true := he.resolve_left (by simp [hr])
    simp [State.atHome, State.entryTaken, hr, he']

theorem State.entryTaken_homeLines : (s.entryTaken a l r).homeLines = s.homeLines := by
  unfold State.entryTaken; split <;> rfl

theorem State.entryTaken_ownerOrdered : (s.entryTaken a l r).ownerOrdered l = s.ownerOrdered l := by
  unfold State.entryTaken; split <;> rfl

theorem State.entryTaken_retryMap (hw : twf {} s.homes = true) :
    ((s.entryTaken a l r).home (homeEp l)).retryMap = (s.home (homeEp l)).retryMap := by
  unfold State.entryTaken; split
  · rfl
  · rw [State.home, State.setHome, tget_tset_same hw]

/-- A request that finds an entry and meets an ordinary line at rest is acted on at once. -/
theorem State.homeJoin_acts {w : Nat} (hlines : twf {} s.homeLines = true) (hhomes : twf {} s.homes = true)
    (hx : (s.homeLine l).phase = .stable) (hq : (s.homeLine l).queue = []) (hoo : s.ownerOrdered l = false)
    (hcheck : ((s.entryTaken a l r).setHomeLine l { s.homeLine l with queue := [r] }).homeCheck l r = none)
    (hway : ((s.entryTaken a l r).setHomeLine l { s.homeLine l with queue := [r] }).wayWaiters l = [])
    (hmarked : (s.home (homeEp l)).retryMap = [])
    (hplace : (((s.entryTaken a l r).setHomeLine l { s.homeLine l with queue := [r] }).dirPlace l).1 = some w ∨
      (s.homeLine l).noEntry = false ∨ r.allocates = false) :
    (s.entryTaken a l r).homeJoin l r = ((s.entryTaken a l r).setHomeLine l { s.homeLine l with queue := [r] }).homeAct l
      (if (s.homeLine l).noEntry = true ∧ r.allocates = true then { s.homeLine l with queue := [], way := w }
        else { s.homeLine l with queue := [] }) r := by
  have hline : (s.entryTaken a l r).homeLine l = s.homeLine l := by rw [State.homeLine, State.entryTaken_homeLines, ← State.homeLine]
  have hset : ((s.entryTaken a l r).setHomeLine l { s.homeLine l with queue := [r] }).homeLine l = { s.homeLine l with queue := [r] } :=
    State.homeLine_setHomeLine (by rw [State.entryTaken_homeLines]; exact hlines) _ _
  have hnext := State.homeNext_single (w := w) (s := (s.entryTaken a l r).setHomeLine l { s.homeLine l with queue := [r] }) (l := l) (r := r)
    (twf_tset (by rw [State.entryTaken_homeLines]; exact hlines)) (by rw [hset]; exact hx) (by rw [hset])
    (State.entryTaken_ownerOrdered.trans hoo) hcheck hway ((State.entryTaken_retryMap hhomes).trans hmarked) (by rw [hset]; exact hplace)
  rw [State.homeJoin, hline, hq, List.nil_append, hnext, hset]
  rfl

/-- A request that finds no entry is turned into a RETRY, and the home keeps it (R293). -/
theorem State.atHome_retries {i : Instr} (hr : r.agent = some a) (he : s.entryFor (homeEp l) a l = false) :
    (s.atHome l r i).flight = s.flight ++ [(homeEp l, .retry a l)] ∧
    (s.atHome l r i).retrying = tset [] s.retrying (a * 2048 + homeEp l) (tget [] s.retrying (a * 2048 + homeEp l) ++ [i]) ∧
    (s.atHome l r i).homeLines = s.homeLines := by
  simp only [State.atHome, hr, he, Bool.false_eq_true, if_false]
  exact ⟨rfl, rfl, rfl⟩

/-! The table of stable states (R288). -/

section
variable {d w : Line} {b : BitVec 192} {so : Bool} {o id : Nat}

/-- No INV goes out for an entry without sharers, nor to its only sharer for that sharer (R291). -/
theorem HomeLine.invTargets_of_no_sharers (hs : x.sharers = []) (but : Option Nat) : x.invTargets but = [] := by
  simp [HomeLine.invTargets, hs, distinct]

theorem HomeLine.invTargets_of_only_sharer (hs : x.sharers = [a]) (hc : x.coarse = false) : x.invTargets (some a) = [] := by
  simp [HomeLine.invTargets, hs, hc]

/-- A line whose data its home holds is served (R288). -/
theorem State.serve_of_homeRead (h : s.homeRead l.toNat (s.partOfAgent a l) (isCellEp a) 0 (s.agentMaster a) = (some w, t)) (mk : Line → Instr) :
    s.serve l a mk = (true, (t.noteServed (homeEp l) l a).send (mk w)) := by
  simp only [State.serve, h]

theorem State.homeAct_getS_unheld (ho : x.owner = none) (hs : x.sharers = [])
    (h : s.homeRead l.toNat (s.partOfAgent a l) (isCellEp a) 0 (s.agentMaster a) = (some w, t)) :
    s.homeAct l x (.getS a false) = ((t.noteServed (homeEp l) l a).send (.dataE a l w)).setHomeLine l (x.ownedBy a) := by
  obtain ⟨owner, ownedO, sharers, coarse, way, phase, req, queue, tail, watchers, fwds, contended⟩ := x
  cases ho
  cases hs
  simp [State.homeAct, State.serve_of_homeRead h, HomeLine.ownedBy]

theorem State.homeAct_getM_unheld (ho : x.owner = none) (hs : x.sharers = [])
    (h : s.homeRead l.toNat (s.partOfAgent a l) (isCellEp a) 0 (s.agentMaster a) = (some w, t)) :
    s.homeAct l x (.getM a) =
      ((t.noteServed (homeEp l) l a).send (.dataM a l w (s.recentOther (homeEp l) l a) false)).setHomeLine l (x.ownedBy a) := by
  obtain ⟨owner, ownedO, sharers, coarse, way, phase, req, queue, tail, watchers, fwds, contended⟩ := x
  cases ho
  cases hs
  simp [State.homeAct, State.serve_of_homeRead h, HomeLine.ownedBy, HomeLine.invTargets_of_no_sharers]

theorem State.homeAct_getS_shared (ho : x.owner = none) (ha : a ∉ x.sharers) (hs : x.sharers ≠ [])
    (h : s.homeRead l.toNat (s.partOfAgent a l) (isCellEp a) 0 (s.agentMaster a) = (some w, t)) :
    s.homeAct l x (.getS a so) = ((t.noteServed (homeEp l) l a).send (.dataS a l w)).setHomeLine l (x.addSharer a) := by
  obtain ⟨owner, ownedO, sharers, coarse, way, phase, req, queue, tail, watchers, fwds, contended⟩ := x
  cases ho
  have hother : sharers.filter (· != a) = sharers := List.filter_eq_self.mpr fun c hc => by simpa using fun h : c = a => ha (h ▸ hc)
  simp only at hs
  simp [State.homeAct, State.serve_of_homeRead h, hother, hs]

section
variable (ho : x.owner = some o) (hne : o ≠ a) (hs : x.sharers = [])
include ho hne hs

theorem State.homeAct_getS_owned : s.homeAct l x (.getS a so) = ((s.send (.fwdGetS o l a false)).noteServed (homeEp l) l a).setHomeLine l
    { x with phase := .hf false 0 false true false, req := some (.getS a so) } := by
  obtain ⟨owner, ownedO, sharers, coarse, way, phase, req, queue, tail, watchers, fwds, contended⟩ := x
  cases ho
  cases hs
  simp [State.homeAct, hne]

theorem State.homeAct_getM_owned : s.homeAct l x (.getM a) = ((s.send (.fwdGetM o l a false)).noteServed (homeEp l) l a).setHomeLine l
    { x with phase := .hf true 0 false true false, req := some (.getM a) } := by
  obtain ⟨owner, ownedO, sharers, coarse, way, phase, req, queue, tail, watchers, fwds, contended⟩ := x
  cases ho
  cases hs
  simp [State.homeAct, hne, HomeLine.invTargets_of_no_sharers, State.sendInv, State.sendAll]

end

/-- Outside a MULE region the home snoops the owner of a line that a non-caching request reads (R288). -/
theorem State.homeAct_read_owned (ho : x.owner = some o) (hmule : s.isMule (lineAddr l) = false) :
    s.homeAct l x (.read id) = (s.send (.snpData o l)).setHomeLine l { x with phase := .hn 0 true, req := some (.read id) } := by
  simp [State.homeAct, ho, hmule]

theorem State.homeAct_upgrade_only_sharer (ho : x.owner = none) (hs : x.sharers = [a]) (hc : x.coarse = false) :
    s.homeAct l x (.upgrade a) = ((s.noteServed (homeEp l) l a).send (.grant a l (s.recentOther (homeEp l) l a))).setHomeLine l (x.ownedBy a) := by
  simp [State.homeAct, ho, hs, HomeLine.invTargets_of_only_sharer hs hc, State.sendInv, State.sendAll]

theorem State.homeAct_putS_only_sharer (ho : x.owner = none) (hs : x.sharers = [a]) :
    s.homeAct l x (.putS a) = (s.send (.putAck a l)).setHomeLine l { x with sharers := [], coarse := false } := by
  simp [State.homeAct, ho, hs]

theorem State.homeAct_putE_owner (ho : x.owner = some a) (hO : x.ownedO = false) :
    s.homeAct l x (.putE a) = (s.send (.putAck a l)).setHomeLine l { x with owner := none } := by
  simp [State.homeAct, ho, hO]

theorem State.homeAct_putD_owner (ho : x.owner = some a) : s.homeAct l x (.putD a d) =
    ((s.homeWrite l.toNat (s.partOfAgent a l) true d 0 (s.agentMaster a)).send (.putAck a l)).setHomeLine l
      { x with owner := none, ownedO := false } := by
  simp [State.homeAct, ho]

/-- A write-back that another agent's ownership has overtaken is only acknowledged (R288). -/
theorem State.homeAct_putD_other (ho : x.owner ≠ some a) : s.homeAct l x (.putD a d) = (s.send (.putAck a l)).setHomeLine l x := by
  simp [State.homeAct, ho]

theorem State.homeAct_amo_unheld (ho : x.owner = none) (hs : x.sharers = []) (hmule : s.isMule (lineAddr l) = false) :
    s.homeAct l x (.amo a b) = (s.homeAmo l a b false).setHomeLine l x := by
  simp [State.homeAct, HomeLine.isDI, ho, hs, hmule]

end

/-- Settles O36: a delivered request in its turn joins the queue of its line (`exec_agentRequest`, `atHome_joins`), where it is alone and
is acted on at once (`homeJoin_acts`), or is retried (`atHome_retries`); the acts are the rows of the table of stable states. -/
theorem homesActOnRequests : Obligations.HomesActOnRequests := by
  intro s a l d b so
  refine ⟨?_, ?_⟩
  · intro hm hlines hhomes e he i r u h
    obtain ⟨hagent, hexec⟩ := exec_agentRequest (s := s) (e := e) he hm
    refine ⟨?_, fun ho hturn => ⟨?_, ?_⟩⟩
    · change _ → exec e.1 s = .next s
      rw [hexec, State.delivered]
      rintro (ho | hturn)
      · rw [show s.inOrder e.1 = false from ho, if_neg Bool.false_ne_true]
      · simp [hturn]
    all_goals rw [hexec, State.delivered_inTurn ho, if_pos hturn]
    · intro hentry w v x at_ hx hq hoo hcheck hway hmarked hplace
      rw [State.atHome_joins hagent hentry, State.homeJoin_acts (s := s.take e.1) hlines hhomes hx hq hoo hcheck hway hmarked hplace]
      rfl
    · intro hagent hentry
      exact ⟨_, rfl, State.atHome_retries hagent hentry⟩
  · intro x di
    refine ⟨fun hdi w t h => ?_, fun w t => State.homeAct_getS_shared, fun o ho hne hs => ?_, State.homeAct_upgrade_only_sharer,
      State.homeAct_putE_owner, State.homeAct_putD_owner, State.homeAct_putD_other, State.homeAct_putS_only_sharer, fun hdi => ?_⟩
    · exact ⟨State.homeAct_getS_unheld hdi.1 hdi.2 h, State.homeAct_getM_unheld hdi.1 hdi.2 h⟩
    · exact ⟨State.homeAct_getS_owned ho hne hs, fun _ => State.homeAct_getM_owned ho hne hs, fun id => State.homeAct_read_owned ho⟩
    · exact State.homeAct_amo_unheld hdi.1 hdi.2

end Sys2Proof.Machine
end

section
/-! Forwards and snoops that arrive at an agent (R284, R295, R296): acted on by the agent table where the table of cells is canonical,
which O34 leaves out. -/
namespace Sys2Proof.Machine

variable {s : State} {a : Nat} {l : LineNo} {i : Instr}

/-- A snoop whose turn it is reaches its line's agent (R152). -/
theorem exec_snpInv_inTurn (hu : s.unfrozen a = true) (ho : s.inOrder (.snpInv a l) = true) :
    exec (.snpInv a l) s = .next ((s.takeAt a (.snpInv a l)).forwarded a l (.snpInv a l)) := by
  rw [exec_snpInv, execSnpInv, s.onClock_run _ _ hu, State.delivered_inTurn ho]

/-- A forward for a line that an LR defers or its agent holds waits, unless the line is in I or leaving (R295, R296). -/
theorem State.forwarded_waits (hd : s.defers a l = true) (hI : (s.agent a l).st ≠ .I) (hl : (s.agent a l).st.leaving = false) :
    s.forwarded a l i = s.setAgent a l { s.agent a l with deferred := (s.agent a l).deferred ++ [i] } := by
  simp [State.forwarded, hd, hI, hl]

/-- In a canonical table of cells, no message that an agent takes begins or ends a deferral. -/
theorem State.defers_takeAt (hw : s.cellsOk = true) : (s.takeAt a i).defers a l = s.defers a l := by
  rw [State.defers, State.agent_takeAt, State.defers]
  by_cases ha : isCellEp a = true
  · have htake : s.takeAt a i = (s.take i).countCell a 6 (Instr.gigCount i) := if_pos ha
    rw [htake, State.countCell, (s.take i).cell_setCell a _ hw]
    rfl
  · rw [Bool.eq_false_iff.mpr ha]
    rfl

/-- There the agent table says what becomes of a forward or snoop: what O34 states in every state (R284). -/
theorem State.forwarded_takeAt_acts (hw : s.cellsOk = true) (hwin : (s.agent a l).st.winning = false) (hd : s.defers a l = false)
    (hq : (s.agent a l).deferred = []) : (s.takeAt a i).forwarded a l i = (s.takeAt a i).actDeferred i := by
  simp [State.forwarded, State.agent_takeAt, State.defers_takeAt hw, hwin, hd, hq]

/-- Pcell 5 holds line 3 in E. It is listed twice: the entry that is read has counted 2^64 - 1 messages taken and is clean otherwise, and
the one behind it has Hens whose LRs defer line 3. -/
def listedTwice : State :=
  { cells := [(5, { ctrs := [(6, BitVec.allOnes 64)] }), (5, { hens := .replicate 4 { lrDefer := some 3 } })]
    agents := [(agentKey 5 3, { st := .E })] }

/-- The count of the message taken wraps to zero (R590), so the entry goes from the table and uncovers the other. -/
theorem listedTwice_takeAt_cells :
    (listedTwice.takeAt 5 (.snpInv 5 3)).cells = [(5, { hens := .replicate 4 { lrDefer := some 3 } })] := by
  decide +kernel

/-- SNP_INV waits there, and nothing is sent. -/
theorem listedTwice_snpInv : ∃ t, exec (.snpInv 5 3) listedTwice = .next t ∧ t.flight = [] := by
  refine ⟨_, exec_snpInv_inTurn (by decide) (by decide), ?_⟩
  rw [State.forwarded_waits ?_ (by rw [State.agent_takeAt]; decide) (by rw [State.agent_takeAt]; decide)]
  · rfl
  · rw [State.defers, State.cell, listedTwice_takeAt_cells]
    decide

/-- Refutes O34: in a table that lists a pcell twice, a SNP_INV for a line that no LR defers waits, as taking it wraps the cell's count of
messages and uncovers an entry whose LRs defer the line. In a canonical table it is acted on (`State.forwarded_takeAt_acts`). -/
theorem not_agentsAnswerForwardsByTheirState : ¬ Obligations.AgentsAnswerForwardsByTheirState := by
  unfold Obligations.AgentsAnswerForwardsByTheirState
  intro h
  obtain ⟨-, -, -, -, -, hlose, -⟩ := h listedTwice 5 3 6 false (by decide)
  have hanswers := hlose (.E, .I) (by decide) (by decide) (by decide) (by decide)
  obtain ⟨t, ht, hflight⟩ := listedTwice_snpInv
  obtain rfl : t = _ := Host.Outcome.next.inj (ht.symm.trans hanswers)
  exact absurd hflight (by decide)

end Sys2Proof.Machine
end

section
/-! Bytes of the lines that a cell holds, read and written (R279, R284). -/
namespace Sys2Proof.Machine

/-! Little-endian bytes. -/

theorem natBytes_getElem? {n j : Nat} (v : Nat) (hj : j < n) : (natBytes n v)[j]? = some (BitVec.ofNat 8 (v / 2 ^ (8 * j))) := by
  induction n generalizing v j with
  | zero => cases hj
  | succ n ih =>
    cases j with
    | zero => simp [natBytes]
    | succ j =>
      rw [natBytes, List.getElem?_cons_succ, ih _ (Nat.lt_of_succ_lt_succ hj), Nat.div_div_eq_div_mul, Nat.mul_succ, Nat.pow_add,
        Nat.mul_comm]

theorem leNat_lt (bs : List Byte) : leNat bs < 2 ^ (8 * bs.length) := by
  induction bs with
  | nil => exact Nat.one_pos
  | cons b bs ih =>
    have hb := b.isLt
    rw [leNat, List.length_cons, Nat.mul_succ, Nat.pow_add]
    omega

theorem natBytes_leNat (bs : List Byte) : natBytes bs.length (leNat bs) = bs := by
  induction bs with
  | nil => rfl
  | cons b bs ih =>
    have hb := b.isLt
    have hlow : BitVec.ofNat 8 (b.toNat + 256 * leNat bs) = b := BitVec.eq_of_toNat_eq (by rw [BitVec.toNat_ofNat]; omega)
    have hhigh : (b.toNat + 256 * leNat bs) / 256 = leNat bs := by omega
    rw [List.length_cons, leNat, natBytes, hlow, hhigh, ih]

theorem bytesOf_ofBytes {w n : Nat} {bs : List Byte} (hn : bs.length = n) (hw : 8 * n ≤ w) : bytesOf n (ofBytes w bs) = bs := by
  subst hn
  have hfits : leNat bs < 2 ^ w := Nat.lt_of_lt_of_le (leNat_lt bs) (Nat.pow_le_pow_right (by decide) hw)
  rw [bytesOf, ofBytes, BitVec.toNat_ofNat, Nat.mod_eq_of_lt hfits, natBytes_leNat]

@[simp] theorem bytesOf_length {w : Nat} (n : Nat) (v : BitVec w) : (bytesOf n v).length = n := natBytes_length n v.toNat

theorem bytesOf_getElem? {w n j : Nat} (v : BitVec w) (hj : j < n) : (bytesOf n v)[j]? = some (byteAt v j) := by
  rw [bytesOf, natBytes_getElem? _ hj, byteAt, field]
  exact congrArg some (BitVec.eq_of_toNat_eq (by simp))

/-! A line with bytes replaced. -/

/-- Byte j of a line whose bytes are replaced from o on. -/
theorem byteAt_lineSet (d : Line) {o j : Nat} {bs : List Byte} (h : o + bs.length ≤ 64) (hj : j < 64) :
    some (byteAt (lineSet d o bs) j) = if o ≤ j ∧ j < o + bs.length then bs[j - o]? else some (byteAt d j) := by
  have hlen : ((bytesOf 64 d).take o ++ bs ++ (bytesOf 64 d).drop (o + bs.length)).length = 64 := by
    simp only [List.length_append, List.length_take, List.length_drop, bytesOf_length]; omega
  rw [← bytesOf_getElem? _ hj, ← bytesOf_getElem? d hj, lineSet, bytesOf_ofBytes hlen (Nat.le_refl _)]
  split
  next hin =>
    rw [List.append_assoc, List.getElem?_append_right, List.getElem?_append_left]
    all_goals simp only [List.length_take, bytesOf_length]
    · congr 1
      omega
    all_goals omega
  next hout =>
    by_cases ho : j < o
    · rw [List.append_assoc, List.getElem?_append_left, List.getElem?_take_of_lt ho]
      simp only [List.length_take, bytesOf_length]
      omega
    · rw [List.getElem?_append_right, List.getElem?_drop]
      all_goals simp only [List.length_append, List.length_take, bytesOf_length]
      · congr 1
        omega
      · omega

/-! Lines that bytes touch. -/

theorem lineAddr_lt (l : LineNo) : lineAddr l + 64 ≤ 2 ^ 52 := by
  have := l.isLt
  rw [lineAddr]; omega

theorem lineNo_lineAddr_add (l : LineNo) {j : Nat} (hj : j < 64) : lineNo (lineAddr l + j) = l := by
  rw [lineNo, lineAddr, show (l.toNat * 64 + j) / 64 = l.toNat by omega, BitVec.ofNat_toNat, BitVec.setWidth_eq]

theorem lineNo_mem_linesOf {a n x : Nat} (hx : a ≤ x ∧ x < a + n) : lineNo x ∈ linesOf a n := by
  rw [linesOf, if_neg (by omega)]
  exact List.mem_map_of_mem (mem_span.mpr (by omega))

/-- Bytes of consecutive lines, one line after another. -/
theorem flatMap_span_getElem? {f : Nat → List Byte} (hf : ∀ i, (f i).length = 64) {c k i : Nat} (hi : i < 64 * k) :
    ((span c k).flatMap f)[i]? = (f (c + i / 64))[i % 64]? := by
  induction k generalizing c i with
  | zero => omega
  | succ k ih =>
    rw [span, List.flatMap_cons, List.getElem?_append, hf]
    split
    next h => rw [Nat.div_eq_of_lt h, Nat.mod_eq_of_lt h]; rfl
    next h => rw [ih (by omega), show c + 1 + (i - 64) / 64 = c + i / 64 by omega, show (i - 64) % 64 = i % 64 by omega]

/-! Bytes of a cell's lines by their address. -/

/-- The byte at an address in the lines that a cell holds. -/
def State.cellByte (s : State) (p x : Nat) : Byte := byteAt (s.agent p (lineNo x)).data (x % 64)

variable {s : State} {p h a : Nat} {l : LineNo} {bs : List Byte}

theorem State.cellByte_lineAddr (s : State) (p : Nat) (l : LineNo) {j : Nat} (hj : j < 64) :
    s.cellByte p (lineAddr l + j) = byteAt (s.agent p l).data j := by
  rw [State.cellByte, lineNo_lineAddr_add l hj, lineAddr, show (l.toNat * 64 + j) % 64 = j by omega]

/-- Reading the cell's lines gives the bytes at the addresses in turn. -/
theorem State.cellRead_getElem? (s : State) (p a : Nat) {n i : Nat} (hi : i < n) :
    (s.cellRead p a n)[i]? = some (s.cellByte p (a + i)) := by
  rw [State.cellRead, linesOf, if_neg (by omega), List.flatMap_map, List.getElem?_take_of_lt hi, List.getElem?_drop,
    flatMap_span_getElem? (fun k => bytesOf_length 64 _) (by omega), bytesOf_getElem? _ (Nat.mod_lt _ (by decide)),
    show a / 64 + (a % 64 + i) / 64 = (a + i) / 64 by omega, show (a % 64 + i) % 64 = (a + i) % 64 by omega]
  rfl

/-! The agents of a cell's lines after a write. -/

theorem agentKey_inj {q : Nat} {k : LineNo} (hp : p < 2048) (hq : q < 2048) (he : agentKey q k = agentKey p l) : q = p ∧ k = l := by
  simp only [agentKey] at he
  exact ⟨by omega, BitVec.eq_of_toNat_eq (by omega)⟩

theorem State.agent_setAgent_same {x : AgentLine} (hx : x ≠ {}) : (s.setAgent p l x).agent p l = x := tget_tset_of_ne hx

theorem State.agent_setAgent_ne {q : Nat} {k : LineNo} (hp : p < 2048) (hq : q < 2048) (hne : ¬ (q = p ∧ k = l)) (x : AgentLine) :
    (s.setAgent p l x).agent q k = s.agent q k := tget_tset_ne fun he => hne (agentKey_inj hp hq he)

/-- The bytes of a write at a that fall into a line, and the write of them. -/
def linePart (a : Nat) (bs : List Byte) (l : LineNo) : List Byte :=
  (bs.drop (max a (lineAddr l) - a)).take (min (a + bs.length) (lineAddr l + 64) - max a (lineAddr l))
def State.cellWritePart (s : State) (p h a : Nat) (bs : List Byte) (l : LineNo) : State :=
  s.cellWriteLine p h l (max a (lineAddr l) % 64) (linePart a bs l)

theorem State.cellWrite_eq (s : State) (p h a : Nat) (bs : List Byte) :
    s.cellWrite p h a bs = (linesOf a bs.length).foldl (fun s l => s.cellWritePart p h a bs l) s := rfl

theorem linePart_length (a : Nat) (bs : List Byte) (l : LineNo) :
    (linePart a bs l).length = min (a + bs.length) (lineAddr l + 64) - max a (lineAddr l) := by
  rw [linePart, List.length_take, List.length_drop]
  omega

theorem State.cellWritePart_agent_same (s : State) (p h a : Nat) (bs : List Byte) (l : LineNo) :
    (s.cellWritePart p h a bs l).agent p l =
      { s.agent p l with st := .M, data := lineSet (s.agent p l).data (max a (lineAddr l) % 64) (linePart a bs l) } :=
  State.agent_setAgent_same (s := s) (by simp [AgentLine.mk.injEq])

theorem State.cellWritePart_agent_ne {q : Nat} {k : LineNo} (hp : p < 2048) (hq : q < 2048) (hne : ¬ (q = p ∧ k = l)) (h a : Nat)
    (bs : List Byte) : (s.cellWritePart p h a bs l).agent q k = s.agent q k :=
  State.agent_setAgent_ne (s := s) hp hq hne _

/-- Which byte of the write falls on an address of the line. -/
theorem linePart_getElem? {x : Nat} (hl : lineAddr l = x / 64 * 64) (hx : a ≤ x ∧ x < a + bs.length) :
    (linePart a bs l)[x % 64 - max a (lineAddr l) % 64]? = bs[x - a]? := by
  rw [linePart, List.getElem?_take_of_lt (by omega), List.getElem?_drop]
  congr 1
  omega

theorem State.cellByte_cellWritePart (s : State) (hp : p < 2048) (h a : Nat) (bs : List Byte) (l : LineNo) {x : Nat} (hx : x < 2 ^ 52) :
    some ((s.cellWritePart p h a bs l).cellByte p x) =
      if lineNo x = l ∧ a ≤ x ∧ x < a + bs.length then bs[x - a]? else some (s.cellByte p x) := by
  by_cases hl : lineNo x = l
  · have hbase : lineAddr l = x / 64 * 64 := by
      rw [← hl, lineAddr, lineNo, BitVec.toNat_ofNat, Nat.mod_eq_of_lt (by omega)]
    have hlen := linePart_length a bs l
    rw [State.cellByte, State.cellByte, hl, State.cellWritePart_agent_same, byteAt_lineSet _ (by omega) (Nat.mod_lt _ (by decide))]
    by_cases hin : a ≤ x ∧ x < a + bs.length
    · rw [if_pos (by omega), if_pos ⟨rfl, hin⟩, linePart_getElem? hbase hin]
    · rw [if_neg (by omega), if_neg fun he => hin he.2]
  · rw [State.cellByte, State.cellWritePart_agent_ne hp hp fun he => hl he.2, if_neg fun he => hl he.1, State.cellByte]

/-! A whole write. -/

theorem State.cellByte_foldl_cellWritePart (s : State) (hp : p < 2048) (h a : Nat) (bs : List Byte) (ls : List LineNo) {x : Nat}
    (hx : x < 2 ^ 52) :
    some ((ls.foldl (fun s l => s.cellWritePart p h a bs l) s).cellByte p x) =
      if lineNo x ∈ ls ∧ a ≤ x ∧ x < a + bs.length then bs[x - a]? else some (s.cellByte p x) := by
  induction ls generalizing s with
  | nil => simp
  | cons l ls ih =>
    rw [List.foldl_cons, ih, s.cellByte_cellWritePart hp h a bs l hx]
    simp only [List.mem_cons]
    by_cases hin : a ≤ x ∧ x < a + bs.length
    · by_cases hl : lineNo x = l <;> simp only [hl, hin, and_true, and_self, true_or, false_or, if_true, if_false, ite_self]
    · simp only [hin, and_false, if_false]

/-- What each byte of the cell's lines is after a write: the byte written there, or as before. -/
theorem State.cellByte_cellWrite (s : State) (hp : p < 2048) (h a : Nat) (bs : List Byte) {x : Nat} (hx : x < 2 ^ 52) :
    some ((s.cellWrite p h a bs).cellByte p x) = if a ≤ x ∧ x < a + bs.length then bs[x - a]? else some (s.cellByte p x) := by
  rw [State.cellWrite_eq, State.cellByte_foldl_cellWritePart s hp h a bs _ hx]
  simp only [and_iff_right_of_imp lineNo_mem_linesOf]

theorem State.cellRead_cellWrite (s : State) (hp : p < 2048) (h : Nat) (ha : a + bs.length ≤ 2 ^ 52) :
    (s.cellWrite p h a bs).cellRead p a bs.length = bs := by
  apply List.ext_getElem?
  intro i
  by_cases hi : i < bs.length
  · rw [State.cellRead_getElem? _ p a hi, s.cellByte_cellWrite hp h a bs (by omega), if_pos (by omega), Nat.add_sub_cancel_left]
  · rw [List.getElem?_eq_none (Nat.le_of_not_lt hi), List.getElem?_eq_none]
    exact Nat.le_trans (List.length_take_le _ _) (Nat.le_of_not_lt hi)

theorem State.cellWrite_mem (s : State) (p h a : Nat) (bs : List Byte) : (s.cellWrite p h a bs).mem = s.mem := by
  rw [State.cellWrite_eq]
  induction linesOf a bs.length generalizing s with
  | nil => rfl
  | cons l ls ih => exact ih (s.cellWritePart p h a bs l)

theorem State.cellWrite_agent_ne {q : Nat} (s : State) (hp : p < 2048) (hq : q < 2048) (hne : q ≠ p) (h a : Nat) (bs : List Byte)
    (k : LineNo) : (s.cellWrite p h a bs).agent q k = s.agent q k := by
  rw [State.cellWrite_eq]
  induction linesOf a bs.length generalizing s with
  | nil => rfl
  | cons l ls ih => rw [List.foldl_cons, ih, State.cellWritePart_agent_ne hp hq fun he => hne he.1]

/-- Settles O12: what each byte of the cell's lines is after a write (`State.cellByte_cellWrite`) gives the bytes that read back and those
that stay; no part of the write touches memory or another agent's line. -/
theorem cellWritesStayInTheirBytes : Obligations.CellWritesStayInTheirBytes := by
  unfold Obligations.CellWritesStayInTheirBytes
  intro s p h a bs _ _ _ ha
  have hp : p.val < 2048 := Nat.lt_trans p.isLt (by decide)
  refine ⟨s.cellRead_cellWrite hp h ha, s.cellWrite_mem p h a bs, fun l j hj hout => ?_, fun q l hne hq => ?_⟩
  · have hx : lineAddr l + j < 2 ^ 52 := by have := lineAddr_lt l; omega
    rw [← State.cellByte_lineAddr _ p l hj, ← State.cellByte_lineAddr s p l hj]
    have hbyte := s.cellByte_cellWrite hp h a bs hx
    rw [if_neg (by omega)] at hbyte
    exact Option.some.inj hbyte
  · exact s.cellWrite_agent_ne hp hq hne h a bs l

end Sys2Proof.Machine
end

section
/-! XLT_REQ at the TLB agent of a die, and its resend (R320, R321, R323, R324). -/
namespace Sys2Proof.Machine

variable {s : State}

/-- The agent's answer to a pcell is sent as XLT_RESP. -/
theorem State.xltAnswer_pcell (s : State) (p : Pcell) (a : XltAnswer) : s.xltAnswer p a = s.send (.xltResp p a) := dif_pos p.isLt

/-! Taking a message leaves what the agent looks at. -/

@[simp] theorem State.cell_take (s : State) (i : Instr) (p : Nat) : (s.take i).cell p = s.cell p := rfl
@[simp] theorem State.tlbAgent_take (s : State) (i : Instr) (d : Nat) : (s.take i).tlbAgent d = s.tlbAgent d := rfl
@[simp] theorem State.pasidKnown_take (s : State) (i : Instr) (n : Nat) (pasid : BitVec 20) :
    (s.take i).pasidKnown n pasid = s.pasidKnown n pasid := rfl

section
variable {p : Pcell} {vpn : BitVec 45} {w x : Bool} {pasid : BitVec 20} {tag : BitVec 3}
  (hm : s.dbg.module = false) (ho : s.inOrder (.xltReq p vpn w x pasid tag) = true)
include hm ho

/-- A PASID of no slice of the partition is answered FAIL (R323). -/
theorem exec_xltReq_unknown (hk : s.pasidKnown (s.cell p).slot.toNat pasid = false) :
    exec (.xltReq p vpn w x pasid tag) s =
      .next ((s.take (.xltReq p vpn w x pasid tag)).send (.xltResp p (answerPlain vpn stFail tag))) := by
  rw [exec_xltReq, execXltReq, s.onModule_run _ hm, State.delivered_inTurn ho]
  simp only [State.cell_take, State.pasidKnown_take, hk, Bool.not_false, if_true, State.xltAnswer_pcell]

variable (hk : s.pasidKnown (s.cell p).slot.toNat pasid = true)
include hk

/-- An entry that holds the page with its permissions is the answer (R321). -/
theorem exec_xltReq_hit {e : TlbEntry} (he : tlbEntryFor (s.tlbAgent (dieOf p)).tlb pasid w x (vpn.toNat * 4096) = some e) :
    exec (.xltReq p vpn w x pasid tag) s =
      .next ((s.take (.xltReq p vpn w x pasid tag)).send (.xltResp p (answerOk vpn e tag))) := by
  rw [exec_xltReq, execXltReq, s.onModule_run _ hm, State.delivered_inTurn ho]
  simp only [State.cell_take, State.pasidKnown_take, State.tlbAgent_take, hk, Bool.not_true, Bool.false_eq_true, if_false, he, State.xltAnswer_pcell]

variable (he : tlbEntryFor (s.tlbAgent (dieOf p)).tlb pasid w x (vpn.toNat * 4096) = none)
include he

/-- The first request for a page goes to the host, without write permission unless it is wanted (R324). -/
theorem exec_xltReq_new (hnone : (s.tlbAgent (dieOf p)).misses.find? (fun m => m.pasid == pasid && m.vpn == vpn) = none)
    (hroom : (s.tlbAgent (dieOf p)).misses.length < 256) :
    exec (.xltReq p vpn w x pasid tag) s = .next (((s.take (.xltReq p vpn w x pasid tag)).setTlbAgent (dieOf p)
      { s.tlbAgent (dieOf p) with misses := (s.tlbAgent (dieOf p)).misses ++
        [{ pasid, vpn, w, x, slot := (s.cell p).slot, waiters := [{ pcell := p, tag, w, x }] }] }).emit
          (.translationRequest pasid vpn (!w) x)) := by
  rw [exec_xltReq, execXltReq, s.onModule_run _ hm, State.delivered_inTurn ho]
  simp only [State.cell_take, State.pasidKnown_take, State.tlbAgent_take, hk, Bool.not_true, Bool.false_eq_true, if_false, he, hnone,
    ge_iff_le, if_neg (Nat.not_le.mpr hroom)]

/-- An agent with 256 misses answers BUSY (R323). -/
theorem exec_xltReq_full (hnone : (s.tlbAgent (dieOf p)).misses.find? (fun m => m.pasid == pasid && m.vpn == vpn) = none)
    (hfull : 256 ≤ (s.tlbAgent (dieOf p)).misses.length) :
    exec (.xltReq p vpn w x pasid tag) s =
      .next ((s.take (.xltReq p vpn w x pasid tag)).send (.xltResp p (answerPlain vpn stBusy tag))) := by
  rw [exec_xltReq, execXltReq, s.onModule_run _ hm, State.delivered_inTurn ho]
  simp only [State.cell_take, State.pasidKnown_take, State.tlbAgent_take, hk, Bool.not_true, Bool.false_eq_true, if_false, he, hnone,
    ge_iff_le, if_pos hfull, State.xltAnswer_pcell]

/-- A request for a page whose miss waits for the host joins the miss (R323). -/
theorem exec_xltReq_joins {m : L2Miss}
    (hfind : (s.tlbAgent (dieOf p)).misses.find? (fun m => m.pasid == pasid && m.vpn == vpn) = some m)
    (hprg : m.prg = none) (hwant : m.wantPage = false) :
    exec (.xltReq p vpn w x pasid tag) s = .next ((s.take (.xltReq p vpn w x pasid tag)).setTlbAgent (dieOf p)
      { s.tlbAgent (dieOf p) with misses := (s.tlbAgent (dieOf p)).misses.map fun m =>
        if m.pasid == pasid && m.vpn == vpn then { m with waiters := m.waiters ++ [{ pcell := p, tag, w, x }] } else m }) := by
  rw [exec_xltReq, execXltReq, s.onModule_run _ hm, State.delivered_inTurn ho]
  simp only [State.cell_take, State.pasidKnown_take, State.tlbAgent_take, hk, Bool.not_true, Bool.false_eq_true, if_false, he, hfind, hprg, hwant]

/-- One whose page request is out joins it, is answered PAGE, and its slot's dispatch core is told (R327, R328). -/
theorem exec_xltReq_joinsPage {m : L2Miss} {prg : BitVec 9} {k : Slot}
    (hfind : (s.tlbAgent (dieOf p)).misses.find? (fun m => m.pasid == pasid && m.vpn == vpn) = some m)
    (hprg : m.prg = some prg) (hn : (s.cell p).slot.toNat = k.val) :
    exec (.xltReq p vpn w x pasid tag) s = .next ((((s.take (.xltReq p vpn w x pasid tag)).setTlbAgent (dieOf p)
      { s.tlbAgent (dieOf p) with misses := (s.tlbAgent (dieOf p)).misses.map fun m =>
        if m.pasid == pasid && m.vpn == vpn then { m with waiters := m.waiters ++ [{ pcell := p, tag, w, x }] } else m }).send
          (.xltResp p (answerPlain vpn stPage tag))).send (.xltPage pasid k prg)) := by
  rw [exec_xltReq, execXltReq, s.onModule_run _ hm, State.delivered_inTurn ho]
  rw [hn] at hk
  simp only [State.cell_take, State.pasidKnown_take, State.tlbAgent_take, hn, hk, Bool.not_true, Bool.false_eq_true, if_false, he, hfind, hprg,
    State.xltAnswer_pcell, dif_pos k.isLt]

end

/-- A request answered BUSY is sent again (R323). -/
theorem exec_xltReqResend_busy {p : Pcell} {tag : BitVec 3} {m : L1Miss} (hu : s.unfrozen p = true)
    (hfind : (s.cell p).misses.find? (fun m => m.tag == tag && m.busy) = some m) :
    exec (.xltReqResend p tag) s = .next ((s.setCell p { s.cell p with
      misses := (s.cell p).misses.map fun y => if y.tag = tag then { y with busy := false } else y }).sendFrom p
        (.xltReq p m.vpn m.w m.x m.pasid tag)) := by
  rw [exec_xltReqResend, execXltReqResend, s.onClock_run _ _ hu]
  simp only [hfind]

/-- Settles O38: each answer of the agent by what it holds of the page, and the resend. -/
theorem translationRequestsAreAnswered : Obligations.TranslationRequestsAreAnswered := by
  unfold Obligations.TranslationRequestsAreAnswered
  intro s p vpn w x pasid tag i u n g me
  refine ⟨fun hm ho => ⟨exec_xltReq_unknown hm ho, fun hk => ⟨fun e => exec_xltReq_hit hm ho hk, fun he => ⟨fun hnone => ?_,
    fun m hfind => ⟨exec_xltReq_joins hm ho hk he hfind, fun prg k => exec_xltReq_joinsPage hm ho hk he hfind⟩⟩⟩⟩,
    fun m => exec_xltReqResend_busy⟩
  have hfind : g.misses.find? (fun m => m.pasid == pasid && m.vpn == vpn) = none := List.find?_eq_none.mpr (List.any_eq_false.mp hnone)
  exact ⟨exec_xltReq_new hm ho hk he hfind, exec_xltReq_full hm ho hk he hfind⟩

end Sys2Proof.Machine
end

section
/-! What an invalidation does to the translations held (R316, R331, R332). -/
namespace Sys2Proof.Machine

section
variable {α : Type} [DecidableEq α] {d : α} {m : SMap α}

/-- A canonical table with every value changed reads as the changed value, where the change keeps the default. -/
theorem tget_tmap {f : Nat → α → α} (hm : twf d m = true) (hf : ∀ k, f k d = d) (i : Nat) :
    tget d (tmap d m f) i = f i (tget d m i) := by
  induction m with
  | nil => exact (hf i).symm
  | cons e m ih =>
    obtain ⟨k, v⟩ := e
    have ht : tget d (tmap d m f) i = f i (tget d m i) := ih (twf_tail hm)
    by_cases hk : k = i
    · subst hk
      by_cases hv : f k v = d
      · have hrest : tget d m k = d := by
          cases m with
          | nil => rfl
          | cons e m =>
            obtain ⟨k', v'⟩ := e
            exact tget_of_lt (twf_tail hm) (twf_keysFrom hm (k', v') List.mem_cons_self)
        rw [hrest, hf] at ht
        simpa [tmap, tget, hv] using ht
      · simp [tmap, tget, hv]
    · by_cases hv : f k v = d <;> simpa [tmap, tget, hv, hk] using ht

end

theorem getLsbD_clearBit {j : Nat} (hj : j < 16) (m : BitVec 16) (i : Nat) :
    (m &&& ~~~BitVec.ofNat 16 (2 ^ i)).getLsbD j = (m.getLsbD j && !decide (i = j)) := by
  rw [BitVec.getLsbD_and, BitVec.getLsbD_not, BitVec.getLsbD_ofNat, Nat.testBit_two_pow, decide_eq_true hj, Bool.true_and, Bool.true_and]

/-- Bits of a mask cleared one after another: those of the list's places that are hit read as clear, the others as before. -/
theorem getLsbD_foldl_clear {hit : Nat → Bool} {j : Nat} (hj : j < 16) (l : List Nat) (m : BitVec 16) :
    (l.foldl (fun (m : BitVec 16) i => if hit i then m &&& ~~~BitVec.ofNat 16 (2 ^ i) else m) m).getLsbD j =
      (m.getLsbD j && !(l.contains j && hit j)) := by
  induction l generalizing m with
  | nil => simp
  | cons i l ih =>
    rw [List.foldl_cons, ih]
    by_cases hij : i = j
    · subst hij
      by_cases hi : hit i = true
      · rw [if_pos hi, getLsbD_clearBit hj]
        simp [hi]
      · simp [hi]
    · by_cases hi : hit i = true
      · rw [if_pos hi, getLsbD_clearBit hj]
        simp [hij, Ne.symm hij]
      · simp [hi, Ne.symm hij]

/-- A page and the range of an invalidation that covers an address in it overlap. -/
theorem page_overlaps_range {va sz n b : Nat} (hsz : 0 < sz) (hn : 0 < n) (hb : b / n = va / 4096 / n) :
    va / sz * sz < b / n * n * 4096 + n * 4096 ∧ b / n * n * 4096 < va / sz * sz + sz := by
  have hpage := Nat.div_mul_le_self va sz
  have hnext := Nat.lt_div_mul_add (a := va) hsz
  have hlo := Nat.div_mul_le_self (va / 4096) n
  have hhi := Nat.lt_div_mul_add (a := va / 4096) hn
  rw [hb]
  omega

/-- An entry of another PASID than the one asked for gives no address. -/
theorem TlbEntry.look_of_pasid_ne {e : TlbEntry} {pasid : BitVec 20} (hp : e.pasid ≠ pasid) (r w x : Bool) (va : Nat) :
    e.look pasid r w x va = none := by
  simp [TlbEntry.look, hp]

/-- Nor does one that lacks the page. -/
theorem TlbEntry.look_of_mask {e : TlbEntry} {va : Nat} (hmask : e.mask.getLsbD (va / 2 ^ pageLog2 e.size % 16) = false)
    (pasid : BitVec 20) (r w x : Bool) : e.look pasid r w x va = none := by
  simp [TlbEntry.look, hmask]

/-- Nor one of another group of pages. -/
theorem TlbEntry.look_of_group_ne {e : TlbEntry} {va : Nat} (hg : va / 2 ^ pageLog2 e.size / 16 ≠ e.vgroup)
    (pasid : BitVec 20) (r w x : Bool) : e.look pasid r w x va = none := by
  simp [TlbEntry.look, hg]

/-- Where an invalidation applies, the entry loses each of its pages that the range touches (R331). -/
theorem TlbEntry.mask_without {e : TlbEntry} {q : XltInvReq} {i : Nat} (hi : i < 16) (hq : q.allPasid = true ∨ e.pasid = q.pasid)
    (hhi : (e.vgroup * 16 + i) * 2 ^ pageLog2 e.size < q.vpn.toNat / 2 ^ q.log2.toNat * 2 ^ q.log2.toNat * 4096 + 2 ^ q.log2.toNat * 4096)
    (hlo : q.vpn.toNat / 2 ^ q.log2.toNat * 2 ^ q.log2.toNat * 4096 < (e.vgroup * 16 + i) * 2 ^ pageLog2 e.size + 2 ^ pageLog2 e.size) :
    (e.without q).mask.getLsbD i = false := by
  have hkeep : ¬ ((!q.allPasid && e.pasid != q.pasid) = true) := by
    rcases hq with h | h <;> simp [h]
  have hmem : (span 0 16).contains i = true := List.contains_iff_mem.mpr (mem_span.mpr ⟨Nat.zero_le i, by omega⟩)
  rw [TlbEntry.without, if_neg hkeep, getLsbD_foldl_clear hi, hmem]
  simp [hhi, hlo]

theorem TlbEntry.without_pasid (e : TlbEntry) (q : XltInvReq) : (e.without q).pasid = e.pasid := by
  unfold TlbEntry.without; split <;> rfl
theorem TlbEntry.without_size (e : TlbEntry) (q : XltInvReq) : (e.without q).size = e.size := by
  unfold TlbEntry.without; split <;> rfl
theorem TlbEntry.without_vgroup (e : TlbEntry) (q : XltInvReq) : (e.without q).vgroup = e.vgroup := by
  unfold TlbEntry.without; split <;> rfl

/-- An entry without the pages of a range gives no address that the range covers. -/
theorem TlbEntry.look_without {q : XltInvReq} {pasid : BitVec 20} {va : Nat} (e : TlbEntry) (r w x : Bool) (hva : va < 2 ^ 57)
    (hc : invCovers q pasid va = true) : (e.without q).look pasid r w x va = none := by
  simp only [invCovers, Nat.sub_self, Nat.max_zero, Nat.mod_eq_of_lt hva, Bool.and_eq_true, Bool.or_eq_true, beq_iff_eq] at hc
  obtain ⟨hpasid, hrange⟩ := hc
  by_cases hp : e.pasid = pasid
  · by_cases hg : va / 2 ^ pageLog2 e.size / 16 = e.vgroup
    · have hover := page_overlaps_range (sz := 2 ^ pageLog2 e.size) (Nat.two_pow_pos _) (Nat.two_pow_pos _) hrange
      have hpage : va / 2 ^ pageLog2 e.size = e.vgroup * 16 + va / 2 ^ pageLog2 e.size % 16 := by omega
      rw [hpage] at hover
      refine TlbEntry.look_of_mask ?_ pasid r w x
      rw [e.without_size]
      exact TlbEntry.mask_without (Nat.mod_lt _ (by decide)) (hpasid.imp_right fun h => hp.trans h.symm) hover.1 hover.2
    · exact TlbEntry.look_of_group_ne (by rwa [e.without_size, e.without_vgroup]) pasid r w x
  · exact TlbEntry.look_of_pasid_ne (by rwa [e.without_pasid]) r w x va

/-- A cleared TLB translates no address that the invalidation covers. -/
theorem tlbLook_tlbClear {q : XltInvReq} {pasid : BitVec 20} {va : Nat} (l : List TlbEntry) (r w x : Bool) (hva : va < 2 ^ 57)
    (hc : invCovers q pasid va = true) : tlbLook (tlbClear l q) pasid r w x va = none := by
  refine List.findSome?_eq_none_iff.mpr fun y hy => ?_
  obtain ⟨e, -, rfl⟩ := List.mem_map.mp (List.mem_filter.mp hy).1
  exact e.look_without r w x hva hc

/-! Messages sent, one after another. -/

/-- Messages that are sent go in flight, each from its sender. -/
theorem State.sendAll_eq (s : State) (l : List Instr) :
    s.sendAll l = { s with flight := s.flight ++ l.map fun i => (Instr.sender homeEp tlbEp i, i) } := by
  induction l generalizing s with
  | nil => simp [State.sendAll]
  | cons i l ih =>
    rw [State.sendAll, List.foldl_cons, ← State.sendAll, ih]
    simp [State.send, State.post]

theorem State.cell_sendAll (s : State) (l : List Instr) (p : Nat) : (s.sendAll l).cell p = s.cell p := by
  rw [State.cell, State.sendAll_cells, State.cell]

theorem State.cellsOk_sendAll {s : State} (hw : s.cellsOk = true) (l : List Instr) : (s.sendAll l).cellsOk = true := by
  rw [State.cellsOk, State.sendAll_cells]
  exact hw

/-! XLT_INV at a cell (R332). -/

section
variable {s : State} {p : Pcell} {q : XltInvReq}

/-- The cell after it has taken an XLT_INV: its TLB is cleared, and the acknowledgement is owed. -/
def State.invTaken (s : State) (p : Pcell) (q : XltInvReq) : State :=
  let u := s.takeAt p (.xltInv p q)
  u.setCell p { u.cell p with tlb := tlbClear (u.cell p).tlb q, invs := (u.cell p).invs ++ [q] }

/-- A message whose turn has not come is not delivered (R152). -/
theorem State.delivered_early {i : Instr} (ho : s.inOrder i = false) (f : State → Out) : s.delivered i f = .next s := by
  simp [State.delivered, ho]

theorem exec_xltInv_waits (hu : s.unfrozen p = true) (ho : s.inOrder (.xltInv p q) = false) : exec (.xltInv p q) s = .next s := by
  rw [exec_xltInv, execXltInv, s.onClock_run _ _ hu, State.delivered_early ho]

theorem exec_xltInv_inTurn (hu : s.unfrozen p = true) (ho : s.inOrder (.xltInv p q) = true) :
    exec (.xltInv p q) s = .next ((s.invTaken p q).checkInvs p) := by
  rw [exec_xltInv, execXltInv, s.onClock_run _ _ hu, State.delivered_inTurn ho]
  rfl

theorem State.invTaken_cell (hw : s.cellsOk = true) (p : Pcell) (q : XltInvReq) :
    let c := (s.takeAt p (.xltInv p q)).cell p
    (s.invTaken p q).cellsOk = true ∧ (s.invTaken p q).cell p = { c with tlb := tlbClear c.tlb q, invs := c.invs ++ [q] } := by
  have ht := (State.takeAt_pcell hw p (.xltInv p q)).1
  exact ⟨State.cellsOk_setCell ht _, State.cell_setCell _ p _ ht⟩

/-- While transfers stand under every translation that its invalidations have cleared, a cell acknowledges none. -/
theorem State.checkInvs_blocked {p : Nat} (h : ∀ q ∈ (s.cell p).invs, (s.cell p).invBlocked q = true) : s.checkInvs p = s := by
  have hnone : ((s.cell p).invs.filter fun q => !(s.cell p).invBlocked q) = [] := by
    simpa using h
  simp [State.checkInvs, hnone]

/-- What is not blocked is acknowledged and owed no more. -/
theorem State.checkInvs_done {l : List XltInvReq} (hl : ((s.cell p).invs.filter fun q => !(s.cell p).invBlocked q) = l) (hne : l ≠ []) :
    s.checkInvs p = ((s.setCell p { s.cell p with invs := (s.cell p).invs.filter fun q => (s.cell p).invBlocked q }).sendAll
      (l.map fun q => .xltInvAck p q.seq)).countCell p 5 l.length := by
  simp [State.checkInvs, hl, hne]

/-- Acknowledging changes what the cell owes, and its counters. -/
theorem State.checkInvs_cell (hw : s.cellsOk = true) (p : Pcell) : (s.checkInvs p).cell p =
    { s.cell p with invs := (s.cell p).invs.filter fun q => (s.cell p).invBlocked q, ctrs := ((s.checkInvs p).cell p).ctrs } := by
  by_cases hb : ∀ q ∈ (s.cell p).invs, (s.cell p).invBlocked q = true
  · rw [State.checkInvs_blocked hb, List.filter_eq_self.mpr hb]
  · rw [State.checkInvs_done rfl (by simpa using hb), State.countCell, State.cell_setCell _ p _ (State.cellsOk_sendAll (State.cellsOk_setCell hw _) _),
      State.cell_sendAll, State.cell_setCell _ p _ hw]
    rfl

end

end Sys2Proof.Machine
end

section
/-! An invalidation begins (R331, R334, R336), and what no TLB translates once it has (R316, R331, R332). -/
namespace Sys2Proof.Machine

variable {s : State} {itag : Option (BitVec 5)} {pasid : BitVec 20} {all : Bool} {vpn : BitVec 45} {log2 : BitVec 8}

/-- The request that an invalidation sends to cells. -/
def State.invReq (s : State) (pasid : BitVec 20) (all : Bool) (vpn : BitVec 45) (log2 : BitVec 8) : XltInvReq :=
  { vpn, pasid, allPasid := all, log2, seq := s.xlt.nextSeq }

/-- A TLB agent after an invalidation: its TLB is cleared, and the overlapped misses that are with the host are stale (R331, R334). -/
def TlbAgent.invalidated (q : XltInvReq) (g : TlbAgent) : TlbAgent :=
  { g with
    tlb := tlbClear g.tlb q
    misses := g.misses.map fun m => if m.prg.isNone && !m.wantPage && invCovers q m.pasid (m.vpn.toNat * 4096) then { m with stale := true } else m }

/-- The state in which the agents have taken an invalidation. -/
def State.agentsInvalidated (s : State) (q : XltInvReq) : State :=
  { s with tlbAgents := tmap {} s.tlbAgents fun _ => TlbAgent.invalidated q, xlt := { s.xlt with nextSeq := s.xlt.nextSeq + 1 } }

/-- XLT_INV of each of a list of cells. -/
def xltInvs (q : XltInvReq) (cells : List Nat) : List Instr :=
  cells.filterMap fun p => if h : p < 1152 then some (.xltInv ⟨p, h⟩ q) else none

theorem xltInvs_pcells (q : XltInvReq) (cs : List Pcell) : xltInvs q (cs.map (·.val)) = cs.map fun c => .xltInv c q := by
  rw [xltInvs, List.filterMap_map, ← List.filterMap_eq_map]
  congr 1
  funext c
  exact dif_pos c.isLt

theorem State.sendAll_xltInvs (s : State) (q : XltInvReq) (cells : List Nat) :
    cells.foldl (fun s p => if h : p < 1152 then s.send (.xltInv ⟨p, h⟩ q) else s) s = s.sendAll (xltInvs q cells) := by
  induction cells generalizing s with
  | nil => rfl
  | cons p cells ih =>
    rw [List.foldl_cons, ih, xltInvs, xltInvs, List.filterMap_cons]
    by_cases h : p < 1152 <;> simp [h, State.sendAll]

/-- Where no cell is hitched or held the invalidation is complete at once. -/
theorem State.invalidate_noCells (hcells : s.invCells = []) : s.invalidate itag pasid all vpn log2 =
    { s.agentsInvalidated (s.invReq pasid all vpn log2) with
      outbox := s.outbox ++ itag.toList.map fun i => .invalidateCompletion i } := by
  simp only [State.invalidate, hcells]
  cases itag with
  | none =>
    rw [Option.toList_none, List.map_nil, List.append_nil]
    rfl
  | some i => rfl

/-- Else it waits for every such cell, to which XLT_INV goes. -/
theorem State.invalidate_cells (hcells : s.invCells ≠ []) : s.invalidate itag pasid all vpn log2 =
    ({ s.agentsInvalidated (s.invReq pasid all vpn log2) with xlt := { s.xlt with
        nextSeq := s.xlt.nextSeq + 1
        invalidations := s.xlt.invalidations ++
          [{ itag, seq := s.xlt.nextSeq, pasid, all, vpn, log2, awaiting := s.invCells, since := s.tick }] } } : State).sendAll
      (xltInvs (s.invReq pasid all vpn log2) s.invCells) := by
  have hne : s.invCells.isEmpty = false := by simpa using hcells
  simp only [State.invalidate, hne, ← State.sendAll_xltInvs]
  rfl

/-- In either case the agents are cleared. -/
theorem State.invalidate_agents (s : State) (itag : Option (BitVec 5)) (pasid : BitVec 20) (all : Bool) (vpn : BitVec 45)
    (log2 : BitVec 8) : (s.invalidate itag pasid all vpn log2).xlt.nextSeq = s.xlt.nextSeq + 1 ∧
    (s.invalidate itag pasid all vpn log2).tlbAgents =
      tmap {} s.tlbAgents fun _ => TlbAgent.invalidated (s.invReq pasid all vpn log2) := by
  by_cases hcells : s.invCells = []
  · rw [State.invalidate_noCells hcells]
    exact ⟨rfl, rfl⟩
  · rw [State.invalidate_cells hcells, State.sendAll_eq]
    exact ⟨rfl, rfl⟩

/-- What an agent's TLB holds after an invalidation. -/
theorem State.invalidate_tlb (hw : twf {} s.tlbAgents = true) (itag : Option (BitVec 5)) (d : Nat) :
    ((s.invalidate itag pasid all vpn log2).tlbAgent d).tlb = tlbClear (s.tlbAgent d).tlb (s.invReq pasid all vpn log2) := by
  rw [State.tlbAgent, (s.invalidate_agents itag pasid all vpn log2).2, tget_tmap hw fun _ => rfl]
  rfl

/-- Settles O41: what is looked up after either command is a cleared TLB (`tlbLook_tlbClear`). -/
theorem noTranslationSurvivesItsInvalidation : Obligations.NoTranslationSurvivesItsInvalidation := by
  unfold Obligations.NoTranslationSurvivesItsInvalidation
  intro s q pasid va r w x hva hc
  refine ⟨fun p t hw hu ho hx => ?_, fun itag d hw => ?_⟩
  · obtain ⟨hw', hcell⟩ := State.invTaken_cell hw p q
    obtain rfl : t = (s.invTaken p q).checkInvs p := Host.Outcome.next.inj (hx.symm.trans (exec_xltInv_inTurn hu ho))
    rw [State.checkInvs_cell hw', hcell]
    exact tlbLook_tlbClear _ r w x hva hc
  · rw [State.invalidate_tlb hw]
    exact tlbLook_tlbClear (q := s.invReq q.pasid q.allPasid q.vpn q.log2) _ r w x hva hc

end Sys2Proof.Machine
end

section
/-! An invalidation's way through the cells and its end (R332, R333, R336). -/
namespace Sys2Proof.Machine

variable {s : State}

/-! Its beginning. -/

theorem exec_atsInvalidateRequest_begins (hm : s.dbg.module = false) (r : AtsInvalidate) :
    (∀ k, r.pasid = some k → exec (.atsInvalidateRequest r) s = .next (s.invalidate (some r.itag) k false r.vpn r.log2)) ∧
    (r.pasid = none → exec (.atsInvalidateRequest r) s = .next (s.invalidate (some r.itag) 0 true r.vpn r.log2)) := by
  rw [exec_atsInvalidateRequest, execAtsInvalidateRequest, s.onModule_run _ hm]
  constructor
  · intro k hk
    simp only [hk]
  · intro hk
    simp only [hk]

/-- A flush is logged and begins, unless one is in progress (R336). -/
theorem exec_xltFlush_open (ho : s.pcieOpen = true) (v : Word) :
    ((s.xlt.invalidations.any (·.itag.isNone)) = false →
      exec (.xltFlush v) s = .next ((s.logWindow 0x380010 v).invalidate none (v.truncate 20) (v.getLsbD 20) 0 45)) ∧
    ((s.xlt.invalidations.any (·.itag.isNone)) = true → exec (.xltFlush v) s = .next s) := by
  rw [exec_xltFlush, execXltFlush, s.gate_open _ ho, State.xltFlushWrite]
  constructor
  · intro hnone
    rw [hnone, BitVec.ofNat_toNat]
    rfl
  · intro hsome
    rw [hsome]
    rfl

/-! At a cell. -/

section
variable {p : Pcell} {q : XltInvReq} (hw : s.cellsOk = true) (howed : ((s.takeAt p (.xltInv p q)).cell p).invs = [])
include hw howed

theorem State.invTaken_invs : ((s.invTaken p q).cell p).invs = [q] := by
  rw [(State.invTaken_cell hw p q).2, howed]
  rfl

/-- While a transfer stands under the translation, the acknowledgement waits. -/
theorem State.invTaken_blocked (hb : ((s.invTaken p q).cell p).invBlocked q = true) :
    (s.invTaken p q).checkInvs p = s.invTaken p q := by
  refine State.checkInvs_blocked fun x hx => ?_
  rw [State.invTaken_invs hw howed, List.mem_singleton] at hx
  rwa [hx]

/-- Where none does, it goes at once, and the cell owes none any more. -/
theorem State.invTaken_acknowledged (hb : ((s.invTaken p q).cell p).invBlocked q = false) :
    ((s.invTaken p q).checkInvs p).flight = (s.invTaken p q).flight ++ [(p.val, .xltInvAck p q.seq)] ∧
    (((s.invTaken p q).checkInvs p).cell p).invs = [] := by
  have hinvs := State.invTaken_invs hw howed
  constructor
  · rw [State.checkInvs_done (l := [q]) (by rw [hinvs, List.filter_cons, hb]; rfl) (List.cons_ne_nil q []),
      State.countCell_flight, State.sendAll_eq]
    rfl
  · rw [State.checkInvs_cell (State.invTaken_cell hw p q).1, hinvs, List.filter_cons, hb]
    rfl

end

/-! The acknowledgement at the agent. -/

section
variable {p : Pcell} {seq : BitVec 8} (hm : s.dbg.module = false)
include hm

theorem exec_xltInvAck_waits (ho : s.inOrder (.xltInvAck p seq) = false) : exec (.xltInvAck p seq) s = .next s := by
  rw [exec_xltInvAck, execXltInvAck, s.onModule_run _ hm, State.delivered_early ho]

/-- A cell's acknowledgement takes it off the invalidation, which ends with the last. -/
theorem exec_xltInvAck_taken (ho : s.inOrder (.xltInvAck p seq) = true) {x : Invalidation}
    (hx : s.xlt.invalidations.find? (fun x => x.seq == seq && x.awaiting.contains p.val) = some x) :
    let y := { x with awaiting := x.awaiting.filter (· != p.val) }
    let u := s.take (.xltInvAck p seq)
    let u := { u with xlt := { u.xlt with invalidations := s.xlt.invalidations.map fun z => if z = x then y else z } }
    exec (.xltInvAck p seq) s = .next (if y.awaiting.isEmpty then u.invEnds y else u) := by
  rw [exec_xltInvAck, execXltInvAck, s.onModule_run _ hm, State.delivered_inTurn ho]
  have hx' : (s.take (.xltInvAck p seq)).xlt.invalidations.find? (fun x => x.seq == seq && x.awaiting.contains p.val) = some x := hx
  simp only [hx']
  rfl

end

theorem State.invEnds_completes (s : State) (x : Invalidation) :
    (s.invEnds x).xlt.invalidations = dropFirst x s.xlt.invalidations ∧
    (s.invEnds x).outbox = s.outbox ++ (x.itag.toList.map fun i => .invalidateCompletion i) := by
  rw [State.invEnds]
  rcases x.itag with _ | i
  · exact ⟨rfl, (List.append_nil _).symm⟩
  · exact ⟨rfl, rfl⟩

/-! Giving up (R333). -/

/-- The step of a context whose cell has been given up faults, on its slot where it runs there. -/
def State.xltDrained (s : State) (k : Nat) : State := match s.ctxSlot k with
  | some n => if s.runningCtx n = some k then s.stepFault n stepXltDrain else s.ctxFault k stepXltDrain
  | none => s

section
variable {itag : BitVec 5} (hm : s.dbg.module = false)
include hm

theorem exec_invalidationAbandon_early
    (hnone : (s.xlt.invalidations.any fun x => decide (x.since + 10000 ≤ s.tick)) = false) :
    exec (.invalidationAbandon itag) s = .next s := by
  have hdue := List.any_eq_false.mp hnone
  have hfind (f : Invalidation → Bool) :
      s.xlt.invalidations.find? (fun x => f x && decide (x.since + 10000 ≤ s.tick)) = none :=
    List.find?_eq_none.mpr fun x hx h => hdue x hx (Bool.and_eq_true_iff.mp h).2
  rw [exec_invalidationAbandon, execInvalidationAbandon, s.onModule_run _ hm]
  simp only [ge_iff_le, hfind fun x => x.itag == some itag, hfind fun x => x.itag.isNone]

/-- The agent gives up what each awaited cell has under the translation, discards what their slots have not started, faults the steps
that run on them, and ends the invalidation. -/
theorem exec_invalidationAbandon_due {x : Invalidation}
    (hx : s.xlt.invalidations.find? (fun x => x.itag == some itag && decide (x.since + 10000 ≤ s.tick)) = some x) :
    let u := x.awaiting.foldl (fun (s : State) p => s.abandon p x) s
    let u := (distinct (x.awaiting.map fun p => (u.cell p).slot.toNat)).foldl (fun (s : State) n => s.dropUnstarted n) u
    let u := x.awaiting.foldl (fun (s : State) p => s.checkInvs p) u
    let w := (distinct (x.awaiting.filterMap fun p => u.cellCtx p)).foldl State.xltDrained u
    exec (.invalidationAbandon itag) s =
      .next ({ w with xlt := { w.xlt with abandons := .ofNat 16 (satInc 16 w.xlt.abandons.toNat) } }.invEnds x) := by
  rw [exec_invalidationAbandon, execInvalidationAbandon, s.onModule_run _ hm]
  simp only [ge_iff_le, hx]
  rfl

end

/-- Requests that leave a cell's outbound queues leave its Drays as they are. -/
theorem State.dropQueued_cells (s : State) (p : Nat) (gone : DrayReq → Bool) : (s.dropQueued p gone).cells = s.cells :=
  List.foldlRecOn (motive := fun t : State => t.cells = s.cells) _ _ rfl fun _ ht _ _ => ht

theorem State.recallTags_cells (s : State) (n : Nat) (l : List JbnReq) :
    (l.foldl (fun s r => s.recallTag n r.tag) s).cells = s.cells :=
  List.foldlRecOn (motive := fun t : State => t.cells = s.cells) _ _ rfl fun _ ht _ _ => ht

/-- Giving up leaves no request of the cell's Drays under the cleared translation outstanding. -/
theorem State.abandon_dray_out (hw : s.cellsOk = true) (p : Nat) (x : Invalidation) (d : DrayIx) :
    ((s.abandon p x).dray p d).out = (s.dray p d).out.filter fun r =>
      !r.covered { vpn := x.vpn, pasid := x.pasid, allPasid := x.all, log2 := x.log2, seq := x.seq } := by
  have hd (t : State) (gone : DrayReq → Bool) : (t.dropQueued p gone).cellsOk = t.cellsOk := by
    rw [State.cellsOk, State.dropQueued_cells, State.cellsOk]
  rw [State.dray, State.cell]
  simp only [State.abandon, State.recallTags_cells]
  rw [← State.cell, State.cell_setCell _ p _ ((hd s _).trans hw)]
  simp [Cell.dray, State.dray]

/-- Settles O40: an invalidation from its beginning (`State.invalidate_noCells`, `State.invalidate_cells`) through the cells and their
acknowledgements to its end, or to its being given up. -/
theorem invalidationsReachEveryCell : Obligations.InvalidationsReachEveryCell := by
  unfold Obligations.InvalidationsReachEveryCell
  intro s p q seq v
  refine ⟨exec_atsInvalidateRequest_begins, fun ho => exec_xltFlush_open ho v, fun itag pasid all vpn log2 => ?_, fun hu => ?_,
    fun hm => ⟨exec_xltInvAck_waits hm, fun ho x => exec_xltInvAck_taken hm ho⟩, s.invEnds_completes,
    fun hm itag => ⟨exec_invalidationAbandon_early hm, fun x => exec_invalidationAbandon_due hm⟩,
    fun x d hw => State.abandon_dray_out hw p x d⟩
  · obtain ⟨hseq, hagents⟩ := s.invalidate_agents itag pasid all vpn log2
    refine ⟨hseq, hagents, fun hcells => ?_, fun cs hne hcells => ?_⟩
    · rw [State.invalidate_noCells hcells]
      exact ⟨rfl, rfl, rfl⟩
    · have hcells' : s.invCells ≠ [] := by simpa [hcells] using hne
      rw [State.invalidate_cells hcells', State.sendAll_eq, hcells, xltInvs_pcells, List.map_map]
      exact ⟨rfl, rfl, rfl⟩
  · exact ⟨exec_xltInv_waits hu, fun ho => ⟨exec_xltInv_inTurn hu ho, fun hw howed =>
      ⟨State.invTaken_blocked hw howed, State.invTaken_acknowledged hw howed⟩⟩⟩

end Sys2Proof.Machine
end

section
/-! XLT_RESP at the cell, and the host's translation completion at the agent (R313, R317, R318, R323 to R326, R328). -/
namespace Sys2Proof.Machine

variable {s : State}

/-! XLT_RESP. -/

section
variable {p : Pcell} {r : XltAnswer} {m : L1Miss}

/-- A taken message is only counted in its cell. -/
theorem State.takeAt_misses (hw : s.cellsOk = true) (p : Pcell) (i : Instr) : ((s.takeAt p i).cell p).misses = (s.cell p).misses := by
  rw [(State.takeAt_pcell hw p i).2]
  rfl

variable (hu : s.unfrozen p = true) (hw : s.cellsOk = true) (ho : s.inOrder (.xltResp p r) = true)
  (hm : (s.cell p).misses.find? (fun m => m.tag == r.tag && m.vpn == r.vpn) = some m)
include hu hw ho hm

/-- An answer BUSY marks its miss, which asks again later (R323). -/
theorem exec_xltResp_busy (h : r.status = stBusy) :
    let u := s.takeAt p (.xltResp p r)
    exec (.xltResp p r) s = .next (u.setCell p { u.cell p with
      misses := (u.cell p).misses.map fun y => if y.tag = r.tag then { y with busy := true } else y }) := by
  rw [exec_xltResp, execXltResp, s.onClock_run _ _ hu, State.delivered_inTurn ho]
  simp only [State.takeAt_misses hw, hm, if_pos h]

/-- An answer PAGE marks it as one that waits for a page (R328). -/
theorem exec_xltResp_page (h : r.status = stPage) :
    let u := s.takeAt p (.xltResp p r)
    exec (.xltResp p r) s = .next (u.setCell p { u.cell p with
      misses := (u.cell p).misses.map fun y => if y.tag = r.tag then { y with page := true } else y }) := by
  have hb : r.status ≠ stBusy := by rw [h]; decide
  rw [exec_xltResp, execXltResp, s.onClock_run _ _ hu, State.delivered_inTurn ho]
  simp only [State.takeAt_misses hw, hm, if_neg hb, if_pos h]

/-- An answer OK ends the miss and fills the cell's TLB, and its Hens try again (R317). -/
theorem exec_xltResp_ok (h : r.status = stOk) :
    let u := s.takeAt p (.xltResp p r)
    let lg := pageLog2 r.size
    let e : TlbEntry := { pasid := m.pasid, vgroup := r.vpn.toNat * 4096 / 2 ^ lg / 16, size := r.size, pbase := r.pbase, mask := r.mask
                          rd := r.rd, wr := r.wr, ex := r.ex }
    let v := u.setCell p { u.cell p with
      misses := (u.cell p).misses.filter fun y => y.tag != r.tag, tlb := tlbFill (u.cell p).tlb e (fun _ => true) 256 (Config.plru s.free) }
    exec (.xltResp p r) s = .next ({ v with free := v.free + 1 }.retryCell p none) := by
  have hb : r.status ≠ stBusy := by rw [h]; decide
  have hp : r.status ≠ stPage := by rw [h]; decide
  rw [exec_xltResp, execXltResp, s.onClock_run _ _ hu, State.delivered_inTurn ho]
  simp only [State.takeAt_misses hw, hm, if_neg hb, if_neg hp, if_pos h, State.takeAt_free]

/-- Any other answer ends the miss, and what waits for it fails (R325). -/
theorem exec_xltResp_fails (h : 3 ≤ r.status.toNat) :
    let u := s.takeAt p (.xltResp p r)
    exec (.xltResp p r) s = .next (((u.setCell p { u.cell p with
      misses := (u.cell p).misses.filter fun y => y.tag != r.tag }).xltFails p m).retryCell p none) := by
  have hne {k : BitVec 3} (hk : k.toNat < 3) : r.status ≠ k := fun e => by rw [e] at h; omega
  have hb : r.status ≠ stBusy := hne (by decide)
  have hp : r.status ≠ stPage := hne (by decide)
  have hk : r.status ≠ stOk := hne (by decide)
  rw [exec_xltResp, execXltResp, s.onClock_run _ _ hu, State.delivered_inTurn ho]
  simp only [State.takeAt_misses hw, hm, if_neg hb, if_neg hp, if_neg hk]

end

/-! The translation completion. -/

section
variable {die : DieIx} {c : AtsCompletion} {m : L2Miss} (hm : s.dbg.module = false)
  (hfind : (s.tlbAgent die).misses.find? (fun m => m.pasid == c.pasid && m.vpn == c.vpn && m.prg.isNone && !m.wantPage) = some m)
include hm hfind

/-- A stale miss asks the host again (R334). -/
theorem exec_atsTranslationCompletion_stale (hs : m.stale = true) :
    exec (.atsTranslationCompletion die c) s = .next ((s.setTlbAgent die { s.tlbAgent die with
      misses := (s.tlbAgent die).misses.map fun y => if y = m then { y with stale := false } else y }).emit
        (.translationRequest m.pasid m.vpn (!m.waiters.any (·.w)) (m.waiters.any (·.x)))) := by
  rw [exec_atsTranslationCompletion, execAtsTranslationCompletion, s.onModule_run _ hm]
  simp only [hfind, hs]
  rfl

/-- A page that the host refuses, or gives untranslated or outside the aperture, fails for every waiter (R313, R325). -/
theorem exec_atsTranslationCompletion_fails (hs : m.stale = false) (hno : c.ok = false ∨ c.u = true ∨ s.apertureOf c.taddr.toNat = none) :
    exec (.atsTranslationCompletion die c) s = .next (m.waiters.foldl (fun s w => s.xltAnswer w.pcell (answerPlain m.vpn stFail w.tag))
      (s.setTlbAgent die { s.tlbAgent die with misses := dropFirst m (s.tlbAgent die).misses })) := by
  have hnone : (if c.ok && !c.u then s.apertureOf c.taddr.toNat else none) = none := by
    rcases hno with h | h | h <;> simp [h]
  rw [exec_atsTranslationCompletion, execAtsTranslationCompletion, s.onModule_run _ hm]
  simp only [hfind, hs, hnone]
  rfl

/-- One that gives every waiter its permissions fills the TLB and is answered with the entry (R317, R323). -/
theorem exec_atsTranslationCompletion_fills (hs : m.stale = false) {a : Nat} (hok : c.ok = true) (hu : c.u = false)
    (ha : s.apertureOf c.taddr.toNat = some a) (hperm : (completionEntry c a).rd = true ∨ (completionEntry c a).wr = true)
    (hcan : ∀ w ∈ m.waiters, ((completionEntry c a).look m.pasid (!w.w) w.w w.x (m.vpn.toNat * 4096)).isSome = true) :
    let e := completionEntry c a
    let tlb := tlbFill (s.tlbAgent die).tlb e (fun o => tlbSetOf o == tlbSetOf e) 8 (Config.plru s.free)
    exec (.atsTranslationCompletion die c) s = .next ((m.waiters.foldl (fun (s : State) w => s.xltAnswer w.pcell (answerOk m.vpn
      ((tlb.find? fun o => o.pasid == e.pasid && o.size == e.size && o.vgroup == e.vgroup).getD e) w.tag)) { s with free := s.free + 1 }).setTlbAgent
        die { s.tlbAgent die with misses := dropFirst m (s.tlbAgent die).misses, tlb }) := by
  have hsome : (if c.ok && !c.u then s.apertureOf c.taddr.toNat else none) = some a := by
    rw [hok, hu]
    exact ha
  have hfills : ((completionEntry c a).rd || (completionEntry c a).wr) = true := Bool.or_eq_true_iff.mpr hperm
  have hall := List.filter_eq_self.mpr hcan
  have hlack : (m.waiters.filter fun w => !((completionEntry c a).look m.pasid (!w.w) w.w w.x (m.vpn.toNat * 4096)).isSome) = [] :=
    List.filter_eq_nil_iff.mpr fun w hw => by simp [hcan w hw]
  rw [exec_atsTranslationCompletion, execAtsTranslationCompletion, s.onModule_run _ hm]
  simp only [hfind, hs, hsome, hfills, hall, hlack]
  rfl

end

/-- Settles O39: an answer acts on its miss by its status, and a completion by what the host gives. -/
theorem translationAnswersAreTaken : Obligations.TranslationAnswersAreTaken := by
  unfold Obligations.TranslationAnswersAreTaken
  intro s p r die c
  refine ⟨fun m hu hw ho hfind => ⟨exec_xltResp_busy hu hw ho hfind, exec_xltResp_page hu hw ho hfind,
    exec_xltResp_ok hu hw ho hfind, exec_xltResp_fails hu hw ho hfind⟩, fun m hm => ?_⟩
  intro g hfind
  refine ⟨exec_atsTranslationCompletion_stale hm hfind, fun hs => ⟨exec_atsTranslationCompletion_fails hm hfind hs, fun a hok hu ha => ?_⟩⟩
  exact exec_atsTranslationCompletion_fills hm hfind hs hok hu ha

end Sys2Proof.Machine
end

section
/-! Pages (R327 to R330), and the access counters' decay and ring (R339, R342). -/
namespace Sys2Proof.Machine

variable {s : State}

/-- A list of one number, repeated, has that number alone. -/
theorem distinct_eq_singleton {k : Nat} {l : List Nat} (hne : l ≠ []) (hl : ∀ j ∈ l, j = k) : distinct l = [k] := by
  induction l with
  | nil => exact absurd rfl hne
  | cons j l ih =>
    obtain rfl : j = k := hl j List.mem_cons_self
    by_cases hnil : l = []
    · subst hnil
      rfl
    · rw [distinct, ih hnil fun i hi => hl i (List.mem_cons_of_mem j hi)]
      simp

/-! XLT_PAGE at a dispatch core. -/

/-- Where the running context has the PASID and no other context's accesses wait for the page, it alone is told. -/
theorem State.distinct_told_running {n k : Nat} {pasid : BitVec 20} {prg : BitVec 9} (hpasid : (s.slice (s.ctx k).slice).pasid = pasid)
    (honly : ∀ j ∈ s.pageCtxs n pasid prg, j = k) :
    distinct ((s.pageCtxs n pasid prg).filter (fun j => (s.slice (s.ctx j).slice).pasid == pasid) ++
      ((some k).filter fun j => (s.slice (s.ctx j).slice).pasid == pasid).toList) = [k] := by
  have hk : ((some k).filter fun j => (s.slice (s.ctx j).slice).pasid == pasid) = some k := Option.filter_some_pos (beq_iff_eq.mpr hpasid)
  rw [hk]
  exact distinct_eq_singleton (by simp) fun j hj =>
    (List.mem_append.mp hj).elim (fun h => honly j (List.mem_filter.mp h).1) List.mem_singleton.mp

section
variable {pasid : BitVec 20} {n : Slot} {prg : BitVec 9} {k : Nat} (hm : s.dbg.module = false)
  (ho : s.inOrder (.xltPage pasid n prg) = true) (hpasid : (s.slice (s.ctx k).slice).pasid = pasid)
include hm ho hpasid

/-- Told of a page for which the running context alone waits, the core switches it out at the next frame boundary where a spill level
is free (R328, R396). -/
theorem exec_xltPage_running (hrun : s.runningCtx n = some k)
    (honly : ∀ j ∈ (s.take (.xltPage pasid n prg)).pageCtxs n pasid prg, j = k)
    (hstop : (s.slotSched n).stopAt = none) (hswitch : (s.slotSched n).switch = .none) (harea : s.areaHolds n = true)
    (hlevel : (s.slotSched n).freeLevel ≠ none) :
    exec (.xltPage pasid n prg) s = .next (((s.take (.xltPage pasid n prg)).awaitsPage k prg).setSlotSched n
      { s.slotSched n with stopAt := some true }) := by
  have hall := State.distinct_told_running (s := s.take (.xltPage pasid n prg)) hpasid honly
  have hrun' : (s.take (.xltPage pasid n prg)).runningCtx n = some k := hrun
  have hslot : ((s.take (.xltPage pasid n prg)).awaitsPage k prg).slotSched n = s.slotSched n := rfl
  have harea' : ((s.take (.xltPage pasid n prg)).awaitsPage k prg).areaHolds n = true := harea
  rw [exec_xltPage, execXltPage, s.onModule_run _ hm, State.delivered_inTurn ho]
  simp only [hrun', hall]
  simp [hslot, hstop, hswitch, harea', hlevel]

/-- Told of a page for which one context alone waits, on a slot where none runs, it notes the page request only. -/
theorem exec_xltPage_idle (hrun : s.runningCtx n = none) (honly : (s.take (.xltPage pasid n prg)).pageCtxs n pasid prg = [k]) :
    exec (.xltPage pasid n prg) s = .next ((s.take (.xltPage pasid n prg)).awaitsPage k prg) := by
  have hown : (((s.take (.xltPage pasid n prg)).slice ((s.take (.xltPage pasid n prg)).ctx k).slice).pasid == pasid) = true :=
    beq_iff_eq.mpr hpasid
  have hrun' : (s.take (.xltPage pasid n prg)).runningCtx n = none := hrun
  rw [exec_xltPage, execXltPage, s.onModule_run _ hm, State.delivered_inTurn ho]
  simp [honly, hown, hrun', distinct]

end

/-! PRG_RESPONSE. -/

/-- The message tells a dispatch core of a page request. -/
def tellsPage (prg : BitVec 9) : Instr → Bool
  | .xltPage _ _ r => r == prg
  | _ => false

theorem tellsPage_eq_false {prg : BitVec 9} {i : Instr} (h : ∀ a b, i ≠ .xltPage a b prg) : tellsPage prg i = false := by
  unfold tellsPage
  split
  · rename_i a b r
    exact beq_eq_false_iff_ne.mpr fun hr => h a b (by rw [hr])
  · rfl

/-- A state in which no message in flight tells of a page request. -/
def State.withoutPages (s : State) (prg : BitVec 9) : State := { s with flight := s.flight.filter fun e => !tellsPage prg e.2 }

theorem State.withoutPages_eq {prg : BitVec 9} (h : ∀ e ∈ s.flight, tellsPage prg e.2 = false) : s.withoutPages prg = s := by
  rw [State.withoutPages, List.filter_eq_self.mpr fun e he => congrArg not (h e he)]

/-- The step of a context has been told of a page request. -/
def State.stepTold (s : State) (prg : BitVec 9) (k : Nat) : Bool := match (s.ctx k).step with
  | some st => st.pages.contains prg
  | none => false

/-- Where no cell waits at the agent, no PAGE answer of the miss is in flight. -/
theorem State.pageTold_unheard (s : State) {m : L2Miss} (hw : m.waiters = []) : s.pageTold m = s := by
  simp only [State.pageTold, hw, List.any_nil, List.filter_nil, List.foldl_nil]
  rw [List.filter_eq_self.mpr fun e _ => ?_]
  split <;> rfl

section
variable {prg : BitVec 9} (hm : s.dbg.module = false) (ok : Bool)
include hm

/-- A response with no such page request outstanding is counted (R330). -/
theorem exec_prgResponse_unknown (hnone : (s.tlbAgents.any fun e => e.2.misses.any fun m => m.prg == some prg) = false) :
    exec (.prgResponse prg ok) s = .next { s with xlt := { s.xlt with latePrg := .ofNat 16 (satInc 16 s.xlt.latePrg.toNat) } } := by
  have hfind : s.tlbAgents.find? (fun e => e.2.misses.any fun m => m.prg == some prg) = none :=
    List.find?_eq_none.mpr (List.any_eq_false.mp hnone)
  rw [exec_prgResponse, execPrgResponse, s.onModule_run _ hm]
  simp only [hfind]

variable {d : Nat} {g : TlbAgent} {m : L2Miss}
  (hagent : s.tlbAgents.find? (fun e => e.2.misses.any fun m => m.prg == some prg) = some (d, g))
  (hfind : g.misses.find? (fun m => m.prg == some prg) = some m) (hw : m.waiters = [])
include hagent hfind hw

/-- Where no cell waits for the miss at its agent, it ends for the contexts of its slot: those that wait for the page go on or fail, and
where none does the response is counted as late. -/
theorem exec_prgResponse_unheard :
    let u := s.setTlbAgent d { g with misses := dropFirst m g.misses }
    let v := u.withoutPages prg
    let ks := v.pageWaiters m.slot.toNat m.pasid prg
    exec (.prgResponse prg ok) s =
      if !(u.flight.any (fun e => tellsPage prg e.2) || ks.any (v.stepTold prg)) then
        .next ({ v with xlt := { v.xlt with latePrg := .ofNat 16 (satInc 16 v.xlt.latePrg.toNat) } }.sendWaiting)
      else .next ((ks.foldl (fun s k => if ok then s.pageCame m.slot.toNat k prg
        else s.pageFails m.slot.toNat k (BitVec.ofNat 64 (m.vpn.toNat * 4096))) v).sendWaiting) := by
  rw [exec_prgResponse, execPrgResponse, s.onModule_run _ hm]
  simp only [hagent, hfind, hw, List.map_nil, distinct, State.pageTold_unheard _ hw, List.foldl_nil, List.flatMap_cons, List.flatMap_nil,
    List.append_nil, List.any_map, List.foldl_map, List.any_nil, Bool.or_false, List.contains_nil, Bool.false_eq_true, if_false]
  rfl

variable (hflight : ∀ e ∈ s.flight, ∀ a b, e.2 ≠ .xltPage a b prg)
include hflight

/-- So it does where every dispatch core has been told of the page request. -/
theorem exec_prgResponse_told :
    let u := s.setTlbAgent d { g with misses := dropFirst m g.misses }
    let ks := u.pageWaiters m.slot.toNat m.pasid prg
    exec (.prgResponse prg ok) s =
      if !ks.any (u.stepTold prg) then .next ({ u with xlt := { u.xlt with latePrg := .ofNat 16 (satInc 16 u.xlt.latePrg.toNat) } }.sendWaiting)
      else .next ((ks.foldl (fun s k => if ok then s.pageCame m.slot.toNat k prg
        else s.pageFails m.slot.toNat k (BitVec.ofNat 64 (m.vpn.toNat * 4096))) u).sendWaiting) := by
  have htold : ∀ e ∈ s.flight, tellsPage prg e.2 = false := fun e he => tellsPage_eq_false (hflight e he)
  have hkeep := State.withoutPages_eq (s := s.setTlbAgent d { g with misses := dropFirst m g.misses }) htold
  have hany : (s.setTlbAgent d { g with misses := dropFirst m g.misses }).flight.any (fun e => tellsPage prg e.2) = false :=
    List.any_eq_false.mpr fun e he => Bool.eq_false_iff.mp (htold e he)
  have hexec := exec_prgResponse_unheard hm ok hagent hfind hw
  simp only [hkeep, hany, Bool.false_or] at hexec
  exact hexec

end

/-! The access counters. -/

/-- At a multiple of 2^DECAY_LOG2 ticks every count is halved, and an entry below the threshold reports again (R339). -/
theorem exec_countDecay_due (hm : s.dbg.module = false) (ht : s.tick % 2 ^ s.xlt.decayLog2 = 0) :
    exec .countDecay s = .next { s with xlt := { s.xlt with
      ac := tmap [] s.xlt.ac fun _ l => l.map fun e => { e with
        count := e.count / 2, reported := e.reported && decide (e.count / 2 ≥ s.xlt.thresh) } } } := by
  rw [exec_countDecay, execCountDecay, s.onModule_run _ hm]
  exact if_neg fun h => h ht

/-- A write of AC_RING_BASE is logged and restarts the ring (R342). -/
theorem exec_acRingReset_base (ho : s.pcieOpen = true) (v : Word) :
    let u := s.logWindow 0x380108 v
    exec (.acRingReset true v) s = .next { u with xlt := { u.xlt with acRingBase := v &&& ~~~0xFFF#64, acTail := u.xlt.acHead } } := by
  rw [exec_acRingReset, execAcRingReset, s.gate_open _ ho]
  rfl

/-- So does one of AC_CTRL, whose fields are taken where they are in range (R342). -/
theorem exec_acRingReset_ctrl (ho : s.pcieOpen = true) {v : Word} (hd : 10 ≤ bfield v 32 6) (hd' : bfield v 32 6 ≤ 40)
    (hr : 8 ≤ bfield v 3 5) (hr' : bfield v 3 5 ≤ 16) :
    let u := s.logWindow 0x380100 v
    exec (.acRingReset false v) s = .next { u with xlt := { u.xlt with
      acTail := s.xlt.acHead
      acCtrl := put 48 (bfield v 48 16) ||| put 32 (bfield v 32 6) ||| put 3 (bfield v 3 5) ||| put 0 (bfield v 0 3) } } := by
  rw [exec_acRingReset, execAcRingReset, s.gate_open _ ho]
  simp only [State.acCtrlWrite, hd, hd', hr, hr', and_self, if_true]
  rfl

/-- Settles O42: XLT_PAGE by what runs on the slot, PRG_RESPONSE by what waits for it, and the counters' decay and ring. -/
theorem pagesComeAndAccessesAreCounted : Obligations.PagesComeAndAccessesAreCounted := by
  unfold Obligations.PagesComeAndAccessesAreCounted
  intro s n pasid prg v
  refine ⟨fun k hm ho hrun honly hpasid hstop hswitch harea hlevel => exec_xltPage_running hm ho hpasid hrun honly hstop hswitch harea hlevel,
    fun j hm ho hrun hpasid honly => exec_xltPage_idle hm ho hpasid hrun honly, fun hm ok => ⟨exec_prgResponse_unknown hm ok, ?_⟩,
    exec_countDecay_due, fun ho => ⟨exec_acRingReset_base ho v, exec_acRingReset_ctrl ho⟩⟩
  intro d g m hagent hfind hw hflight u ks waits
  have hexec := exec_prgResponse_told hm ok hagent hfind hw hflight
  exact ⟨fun h => hexec.trans (if_neg fun hnone => absurd (hnone.symm.trans (congrArg not h)) (by decide)),
    fun h => hexec.trans (if_pos (congrArg not h))⟩

end Sys2Proof.Machine
end

section
/-! Cold reset and boot, the pins, clocks and supply, the flash and management (R487, R552 to R560, R568 to R571, R602 to R607). -/
namespace Sys2Proof.Machine

variable {s : State}

/-! The boot (R552 to R560). -/

/-- A boot that has begun: the state that a cold reset leaves, with its nonce drawn and its stage 0x1 behind it. -/
def State.booting (s : State) (env : BootEnv) : State :=
  let c := s.coldClear
  { c with
    tick := min env.ticks 900000000
    stable := { c.stable with drawn := s.stable.drawn + 1, bootNonce := (Config.random s.stable.drawn).truncate 256 }
    harness := { c.harness with addrSel := env.addrSel } }

theorem exec_coldReset_boots (hd : s.harness.down = false) (env : BootEnv) :
    exec (.coldReset env) s = .next (
      if s.stable.lcState = 0 then s.booting env
      else if s.stable.lcState = 5 then (s.booting env).recover 1 0 true
      else if env.forceRecovery then (s.booting env).recover 1 0 false
      else (s.booting env).selectCopy env) := by
  rw [exec_coldReset, execColdReset, if_neg (by simp [hd])]
  rfl

/-- Seeds are fused once, and on a blank module only (R487, R489). -/
theorem exec_fuseSeedsAtTest_refused (h : s.stable.lcState ≠ 0 ∨ s.stable.seedLock = true) : exec .fuseSeedsAtTest s = .next s := by
  have hstop : (s.harness.down || s.stable.lcState != 0 || s.stable.seedLock) = true := by
    obtain h | h := h <;> simp [h]
  rw [exec_fuseSeedsAtTest, execFuseSeedsAtTest, if_pos hstop]

theorem exec_fuseSeedsAtTest_blank (hd : s.harness.down = false) (hlc : s.stable.lcState = 0) (hl : s.stable.seedLock = false) :
    exec .fuseSeedsAtTest s = .next (s.lcAdvance oDebug 1).seedsFused := by
  rw [exec_fuseSeedsAtTest, execFuseSeedsAtTest, if_neg (by simp [hd, hlc, hl])]

/-! The flash (R570). -/

theorem exec_flashHeaderWrite_written (hp : s.harness.powered = true) (hr : s.harness.modRst = true) {off : Nat} {data : List Byte}
    (hlen : off + data.length ≤ flashSize) (dev : Bool) :
    exec (.flashHeaderWrite dev off data) s =
      .next { s with harness := s.harness.setFlash dev (flashWrite (s.harness.flash dev) off data) } := by
  rw [exec_flashHeaderWrite, execFlashHeaderWrite, if_pos (by simp [hp, hr, hlen])]

theorem exec_flashHeaderWrite_ignored (h : s.harness.powered = false ∨ s.harness.modRst = false) (dev : Bool) (off : Nat) (data : List Byte) :
    exec (.flashHeaderWrite dev off data) s = .next s := by
  have hshut : ¬(s.harness.powered && s.harness.modRst && decide (off + data.length ≤ flashSize)) = true := by
    obtain h | h := h <;> simp [h]
  rw [exec_flashHeaderWrite, execFlashHeaderWrite, if_neg hshut]

/-! Updates (R568). -/

section
variable (hr : s.harness.ready = true) (hh : s.stable.held = false)
include hr hh

theorem State.updatable_ready (pcie : Bool) : s.updatable pcie = true := by simp [State.updatable, hr, hh]

theorem exec_requestUpdate_again (hu : s.harness.updated = true) (pcie : Bool) (image : List Byte) :
    exec (.requestUpdate pcie image) s = .next (s.emit (.management (pldmResponse 5 0x10 0x81 []))) := by
  rw [exec_requestUpdate, execRequestUpdate, if_neg (by simp [State.updatable_ready hr hh]), if_pos hu]

theorem exec_requestUpdate_taken (hu : s.harness.updated = false) (pcie : Bool) (image : List Byte) :
    exec (.requestUpdate pcie image) s = .next ((s.updateCopy image).emit (.management (pldmResponse 5 0x10 0 (natBytes 3 0)))) := by
  rw [exec_requestUpdate, execRequestUpdate, if_neg (by simp [State.updatable_ready hr hh]), if_neg (by simp [hu])]

theorem exec_activateFirmware_pending (hu : s.harness.updated = true) : exec .activateFirmware s =
    .next (({ s with harness := { s.harness with updated := false } } : State).emit (.management (pldmResponse 5 0x1A 0x8C (natBytes 2 0)))) := by
  rw [exec_activateFirmware, execActivateFirmware, if_neg (by simp [State.updatable_ready hr hh]), if_pos hu]

theorem exec_activateFirmware_none (hu : s.harness.updated = false) :
    exec .activateFirmware s = .next (s.emit (.management (pldmResponse 5 0x1A 0x80 []))) := by
  rw [exec_activateFirmware, execActivateFirmware, if_neg (by simp [State.updatable_ready hr hh]), if_neg (by simp [hu])]

omit hh in
/-- While the module runs, an update goes to the copy that has not booted, and is logged (R568, R572). -/
theorem State.updateCopy_ready (image : List Byte) :
    let b := s.harness.image.getLsbD 0
    let m := flashWrite (s.harness.flash (!b)) 0 (image.take imageMax)
    let good := s.imageGood m
    let l := s.log 0x1A oMctp 0x3E 63 (putB 0 (!b)) (putB 0 (!good))
    let after := if good then flashWrite m 24 (natBytes 8 (imageGen (s.harness.flash b) + 1)) else m
    s.updateCopy image = { l with harness := Harness.setFlash { l.harness with updated := good } (!b) after } := by
  simp only [State.updateCopy, hr, Bool.true_and, if_true]

theorem exec_getSensorReading_some {id : Nat} {v : Int} (hv : s.sensor id = some v) :
    exec (.getSensorReading id) s = .next (s.emit (.management
      (pldmResponse 2 0x11 0 (natBytes 1 5 ++ natBytes 5 0 ++ bytesOf 4 (BitVec.ofInt 32 v))))) := by
  rw [exec_getSensorReading, execGetSensorReading, if_neg (by simp [hr, hh]), hv]

theorem exec_getSensorReading_none {id : Nat} (hv : s.sensor id = none) :
    exec (.getSensorReading id) s = .next (s.emit (.management (pldmResponse 2 0x11 0x80 []))) := by
  rw [exec_getSensorReading, execGetSensorReading, if_neg (by simp [hr, hh]), hv]

end

/-- The sensors are numbered from 1 to 8 (R571). -/
theorem State.sensor_eq_none {id : Nat} (h : id = 0 ∨ 8 < id) : s.sensor id = none := by
  obtain rfl | h := h
  · rfl
  · obtain ⟨k, rfl⟩ : ∃ k, id = k + 9 := ⟨id - 9, by omega⟩
    rfl

/-- Settles O55: a boot by the life-cycle state and the copies of the flash (`exec_coldReset_boots`), the pins by what settles after them,
and the flash, the seeds, updates and sensors by their checks. -/
theorem bootPinsAndUpdatesAct : Obligations.BootPinsAndUpdatesAct := by
  unfold Obligations.BootPinsAndUpdatesAct
  refine ⟨fun s => ⟨rfl, rfl, rfl, rfl, rfl, rfl, rfl, rfl, rfl, rfl, rfl, rfl, rfl⟩,
    fun s env => ⟨fun hd => ?_, fun hd => ⟨fun hlc => ?_, fun hlc => ?_, fun h0 h5 => ⟨fun hf => ?_, fun hf => ?_⟩⟩⟩,
    fun s h n => ⟨rfl, rfl, rfl, rfl, rfl, rfl, rfl⟩, fun s hd => ⟨?_, fun hlc hl => ?_, exec_fuseSeedsAtTest_refused⟩,
    fun s dev off data => ⟨fun hp hr hlen => exec_flashHeaderWrite_written hp hr hlen dev, fun h => exec_flashHeaderWrite_ignored h dev off data⟩,
    fun s pcie image id hr hh => ⟨fun hu => ⟨exec_requestUpdate_again hr hh hu pcie image, exec_activateFirmware_pending hr hh hu⟩,
      fun hu => ⟨?_, exec_activateFirmware_none hr hh hu⟩, fun v hv => exec_getSensorReading_some hr hh hv,
      fun h => exec_getSensorReading_none hr hh (State.sensor_eq_none h)⟩⟩
  -- COLD_RESET
  · rw [exec_coldReset, execColdReset, if_pos hd]
  · rw [exec_coldReset_boots hd, if_pos hlc]
    rfl
  · rw [exec_coldReset_boots hd, if_neg (by omega), if_pos hlc]
    rfl
  · rw [exec_coldReset_boots hd, if_neg h0, if_neg h5, if_pos hf]
    rfl
  · rw [exec_coldReset_boots hd, if_neg h0, if_neg h5, if_neg (by simp [hf])]
    rfl
  -- HOT_RESET, FUSE_SEEDS_AT_TEST and REQUEST_UPDATE
  · rw [exec_hotReset, execHotReset, if_neg (by simp [hd])]
  · rw [exec_fuseSeedsAtTest_blank hd hlc hl]
    rfl
  · rw [exec_requestUpdate_taken hr hh hu, State.updateCopy_ready hr]
    rfl

end Sys2Proof.Machine
end

section
/-! The mailbox's commands (R350 to R355, R361, R364, R375, R376, R617, R618): how the words of a row are put in place and checked, and what
each command that passes does. -/
namespace Sys2Proof.Machine

variable {s : State} {ws : List Word} {op : Nat}

/-! The words of a command, its checks and its log entry. -/

/-- A row's words put in place, its OP among them (R350). -/
def State.mbxPlaced (s : State) (op : Nat) (ws : List Word) : State :=
  { s with host := { s.host with
      mbxCmd := (span 0 8).foldl (fun m i => tset 0 m i (if i = 0 then withOp op (mbWord ws 0) else mbWord ws i)) s.host.mbxCmd } }

/-- The words that the mailbox finds in place. -/
def State.mbxWords (s : State) : List Word := (span 0 8).map fun i => tget 0 s.host.mbxCmd i

/-- A command of an OP that passes its checks is logged (R572). -/
def State.mbxLogged (s : State) (op : Nat) : State :=
  s.log 0x11 oPcie (s.mbPart s.mbxWords) (if op = 0x30 && mbField s.mbxWords 0 32 6 != 63 then mbField s.mbxWords 0 32 6 else 63)
    (mbWord s.mbxWords 0) (mbWord s.mbxWords 1)

/-- A key reads as before where other keys are written. -/
theorem tget_foldl_tset_of_notMem {α : Type} [DecidableEq α] {d : α} {f : Nat → α} {l : List Nat} {i : Nat} (h : i ∉ l) (m : SMap α) :
    tget d (l.foldl (fun m j => tset d m j (f j)) m) i = tget d m i := by
  induction l generalizing m with
  | nil => rfl
  | cons j l ih => rw [List.foldl_cons, ih (List.not_mem_of_not_mem_cons h), tget_tset_ne (List.ne_of_not_mem_cons h)]

/-- The OP that the mailbox finds is the row's. -/
theorem State.mbxPlaced_op (h0 : 0 < op) (h : op < 256) : mbField (s.mbxPlaced op ws).mbxWords 0 0 8 = op := by
  have hop := bfield_withOp h (mbWord ws 0)
  have hne : withOp op (mbWord ws 0) ≠ 0 := fun hz => by
    rw [hz] at hop
    exact absurd hop (Nat.ne_of_lt h0)
  have hrest := tget_foldl_tset_of_notMem (d := 0) (f := fun i => if i = 0 then withOp op (mbWord ws 0) else mbWord ws i)
    (l := span 1 7) (i := 0) (by decide) (tset 0 s.host.mbxCmd 0 (withOp op (mbWord ws 0)))
  have hword : mbWord (s.mbxPlaced op ws).mbxWords 0 = withOp op (mbWord ws 0) := hrest.trans (tget_tset_of_ne hne)
  rw [mbField, hword, hop]

section
variable (hw : s.host.mbxWaits = none)
include hw

theorem State.mbxCommand_go : s.mbxCommand op ws = (s.mbxPlaced op ws).mbxGo := by
  rw [State.mbxCommand, if_neg (by simp [hw])]
  rfl

/-- A command that fails a check is answered with its status (R353, R618). -/
theorem State.mbxGo_fails (hc : s.mbCheck s.mbxWords ≠ mbOk) : s.mbxGo = s.mbxAnswer (s.mbCheck s.mbxWords) 0 := by
  rw [State.mbxGo, if_neg (by simp [hw])]
  exact if_pos hc

/-- One that passes is logged, acts, and is answered unless it waits. -/
theorem State.mbxGo_passes (hop : mbField s.mbxWords 0 0 8 = op) (hc : s.mbCheck s.mbxWords = mbOk) :
    let r := (s.mbxLogged op).mbAct s.mbxWords
    s.mbxGo = if r.2 then r.1.mbxAnswer mbOk 0 else r.1 := by
  rw [State.mbxGo, if_neg (by simp [hw]), ← hop]
  exact if_neg fun hne => hne hc

end

section
variable {i : Instr} (hi : exec i s = s.gate fun s => .next (s.mbxCommand op ws)) (ho : s.pcieOpen = true) (hw : s.host.mbxWaits = none)
include hi ho hw

/-- A row of the mailbox puts its words in place and writes MBX_GO (R350). -/
theorem exec_mailboxRow : exec i s = .next (s.mbxPlaced op ws).mbxGo := by
  rw [hi, s.gate_open _ ho, State.mbxCommand_go hw]

variable (h0 : 0 < op) (h : op < 256)
include h0 h

variable (hc : (s.mbxPlaced op ws).mbCheck (s.mbxPlaced op ws).mbxWords = mbOk) {t : State}

include hc in
/-- A command that passes its checks and has acted is answered OK (R353). -/
theorem exec_mailboxRow_acted (hact : ((s.mbxPlaced op ws).mbxLogged op).mbAct (s.mbxPlaced op ws).mbxWords = (t, true)) :
    exec i s = .next (t.mbxAnswer mbOk 0) := by
  rw [exec_mailboxRow hi ho hw, State.mbxGo_passes (s := s.mbxPlaced op ws) hw (State.mbxPlaced_op h0 h) hc, hact]
  rfl

include hc in
/-- One that waits is not answered yet (R375). -/
theorem exec_mailboxRow_waits (hact : ((s.mbxPlaced op ws).mbxLogged op).mbAct (s.mbxPlaced op ws).mbxWords = (t, false)) :
    exec i s = .next t := by
  rw [exec_mailboxRow hi ho hw, State.mbxGo_passes (s := s.mbxPlaced op ws) hw (State.mbxPlaced_op h0 h) hc, hact]
  rfl

/-- A row whose command has the effect f: it is answered with the status of the check that it fails, or is logged and acts. -/
theorem exec_mailboxRow_acts {f : State → State}
    (hf : ∀ u : State, mbField (s.mbxPlaced op ws).mbxWords 0 0 8 = op → u.mbAct (s.mbxPlaced op ws).mbxWords = (f u, true)) :
    let v := s.mbxPlaced op ws
    (v.mbCheck v.mbxWords ≠ mbOk → exec i s = .next (v.mbxAnswer (v.mbCheck v.mbxWords) 0)) ∧
    (v.mbCheck v.mbxWords = mbOk → exec i s = .next ((f (v.mbxLogged op)).mbxAnswer mbOk 0)) := by
  refine ⟨fun hc => ?_, fun hc => exec_mailboxRow_acted hi ho hw h0 h hc (hf _ (State.mbxPlaced_op h0 h))⟩
  rw [exec_mailboxRow hi ho hw, State.mbxGo_fails (s := s.mbxPlaced op ws) hw hc]

end

/-! What a CONTEXT_TEARDOWN does (R375). -/

/-- A context is torn down at once, but for one whose step runs on the slot to which it is bound: that waits, its queued steps discarded
(R375). -/
theorem State.mbAct_contextTeardown {w : List Word} (hop : mbField w 0 0 8 = 0x11) :
    let k := mbField w 0 8 16
    (s.ctxSlot k = none → s.mbAct w = ((s.teardown k none).settle, true)) ∧
    (∀ n, s.ctxSlot k = some n →
      (s.runningCtx n ≠ some k → tget none s.errs.resets n = none → s.mbAct w = ((s.teardown k none).settle, true)) ∧
      (s.runningCtx n = some k →
        let t := (s.setCtx k { s.ctx k with closing := true }).discardSteps k ((s.ctx k).tail - (s.ctx k).head).toNat
        s.mbAct w = ({ t with host := { t.host with mbxWaits := some k } }, false))) := by
  refine ⟨fun hs => ?_, fun n hs => ⟨fun hr hn => ?_, fun hr => ?_⟩⟩
  · simp [State.mbAct, hop, hs]
  · simp [State.mbAct, hop, hs, hr, hn]
  · simp [State.mbAct, hop, hs, hr]

/-- Settles O47: each command is its row's words with MBX_GO (`exec_mailboxRow_acts`), and acts by its OP. -/
theorem mailboxCommandsAct : Obligations.MailboxCommandsAct := by
  unfold Obligations.MailboxCommandsAct
  intro s ws ho hw cmd v words w logged acts
  have hrow {op : Nat} {i : Instr} {f : State → State} (hi : exec i s = s.gate fun s => .next (s.mbxCommand op ws)) (h0 : 0 < op) (h : op < 256)
      (hf : ∀ u : State, mbField (words op) 0 0 8 = op → u.mbAct (words op) = (f u, true)) : acts i op f :=
    exec_mailboxRow_acts hi ho hw h0 h hf
  clear_value acts
  refine ⟨hrow rfl (by decide) (by decide) fun u hop => ?_, hrow rfl (by decide) (by decide) fun u hop => ?_,
    hrow rfl (by decide) (by decide) fun u hop => ?_, hrow rfl (by decide) (by decide) fun u hop => ?_, ?_,
    hrow rfl (by decide) (by decide) fun u hop => ?_, hrow rfl (by decide) (by decide) fun u hop => ?_,
    hrow rfl (by decide) (by decide) fun u hop => ?_, hrow rfl (by decide) (by decide) fun u hop => ?_⟩
  case refine_5 =>
    intro k u hc
    have hop : mbField (words 0x11) 0 0 8 = 0x11 := State.mbxPlaced_op (by decide) (by decide)
    obtain ⟨hunbound, hbound⟩ := State.mbAct_contextTeardown (s := u) hop
    refine ⟨fun hs => ?_, fun n hs => ⟨fun hr hn => ?_, fun hr => ?_⟩⟩
    · exact exec_mailboxRow_acted rfl ho hw (by decide) (by decide) hc (hunbound hs)
    · exact exec_mailboxRow_acted rfl ho hw (by decide) (by decide) hc ((hbound n hs).1 hr hn)
    · exact exec_mailboxRow_waits rfl ho hw (by decide) (by decide) hc ((hbound n hs).2 hr)
  all_goals
    simp only [State.mbAct, hop]
    rfl

end Sys2Proof.Machine
end

section
/-! Steps: how they start, retire, are charged, are promoted, and time out (R330, R358 to R360, R380 to R386, R391 to R395, R472). -/
namespace Sys2Proof.Machine

variable {s : State} {k : Nat} {st : StepRec}

/-! STEP_START (R382). -/

section
variable {n : Slot} (hm : s.dbg.module = false) (hfree : s.slotFree n = true) (hload : s.stage.loading = none)
  (hwrite : s.ttMayWrite n = true) (hchosen : s.chosen n = some k) (hready : s.ctxState k = some .ready) (hstep : (s.ctx k).step = some st)
include hm hfree hload hwrite hchosen hready hstep

/-- A step that breaks R358 or R364 faults before its program is read. -/
theorem exec_stepStart_badFields (hb : s.stepBadFields k st.desc = true) :
    exec (.stepStart n) s = .next ((s.ctxFault k stepBad).settle.parkIfIdle n) := by
  rw [exec_stepStart, execStepStart, s.onModule_run _ hm]
  simp [hfree, hload, hwrite, hchosen, hready, hstep, hb]

variable (hb : s.stepBadFields k st.desc = false)
include hb

theorem exec_stepStart_badHeader (hs : s.stepShape (s.partOf n) st.desc = none) :
    exec (.stepStart n) s = .next (((s.shapeTouch (s.partOf n) st.desc).ctxFault k stepBad).settle.parkIfIdle n) := by
  rw [exec_stepStart, execStepStart, s.onModule_run _ hm]
  simp [hfree, hload, hwrite, hchosen, hready, hstep, hb, hs]

variable {sh : Shape} (hs : s.stepShape (s.partOf n) st.desc = some sh)
include hs

theorem exec_stepStart_badShape (hc : sh.cells ≠ (s.coach n).localCells ∨ (s.coach n).unplaced ≠ []) :
    exec (.stepStart n) s = .next (((s.shapeTouch (s.partOf n) st.desc).ctxFault k stepShape).settle.parkIfIdle n) := by
  have hbad : (decide (sh.cells ≠ (s.coach n).localCells) || !(s.coach n).unplaced.isEmpty) = true := by simpa using hc
  rw [exec_stepStart, execStepStart, s.onModule_run _ hm]
  simp only [hfree, hload, hwrite, hchosen, hready, hstep, hb, hs, hbad]
  rfl

variable (hc : sh.cells = (s.coach n).localCells) (hu : (s.coach n).unplaced = [])
include hc hu

/-- Where the shape fits, the step starts if its timetable is made active, and faults with TT_MISSING if it is not (R384). -/
theorem exec_stepStart_fits :
    exec (.stepStart n) s = match (s.shapeTouch (s.partOf n) st.desc).activate n sh.list with
      | (none, u) => .next ((u.ctxFault k stepTtMissing).settle.parkIfIdle n)
      | (some t, _) =>
        let v := t.setCoach n { t.coach n with yieldTable := sh.yieldTable &&& 0x000FFFFFFFFFE000#64 }
        .next (((v.lcellsOf n).foldl (fun s p => s.startHens p sh.henMask sh.entry (stArg st.desc)) v).takeCells n k) := by
  have hfits : (decide (sh.cells ≠ (s.coach n).localCells) || !(s.coach n).unplaced.isEmpty) = false := by simp [hc, hu]
  rw [exec_stepStart, execStepStart, s.onModule_run _ hm]
  simp only [hfree, hload, hwrite, hchosen, hready, hstep, hb, hs, hfits]
  rfl

end

/-! Charging (R386) and STEP_RETIRE (R360, R393). -/

theorem State.charge_running {n : Nat} (hr : s.runningCtx n = some k) (hstep : (s.ctx k).step = some st) : s.charge n = s.setCtx k { s.ctx k with
    vt := (s.ctx k).vt + BitVec.ofNat 64 (st.busy * 65536 / ((s.ctx k).weight * s.classScale (stClass st.desc)))
    step := some { st with busy := 0 } } := by
  simp only [State.charge, hr, hstep]

/-- Learning a phase changes the power manager's state only (R546). -/
theorem State.phaseLearn_power (n : Nat) : s.phaseLearn n = { s with power := (s.phaseLearn n).power } := by
  unfold State.phaseLearn
  split
  · rfl
  · split
    · rfl
    · simp only []
      split <;> rfl

theorem State.phaseLearn_runningCtx (n m : Nat) : (s.phaseLearn n).runningCtx m = s.runningCtx m := by rw [s.phaseLearn_power n]; rfl

theorem State.phaseLearn_ctx (n j : Nat) : (s.phaseLearn n).ctx j = s.ctx j := by rw [s.phaseLearn_power n]; rfl

theorem State.phaseLearn_tick (n : Nat) : (s.phaseLearn n).tick = s.tick := by rw [s.phaseLearn_power n]

/-- The running step of a slot retires: charged, and counted where it is late, it gives its cells back; then its signals and its record
follow. -/
theorem State.stepRetire_running {n : Nat} (hr : s.runningCtx n = some k) (hstep : (s.ctx k).step = some st) :
    let u := (s.charge n).lateCount st
    let v := u.setSlotSched n { u.slotSched n with running := none, stopAt := none }
    let w := v.setCtx k { v.ctx k with held := none, step := none, idleSince := v.tick, awake := true }
    s.stepRetire n = (((w.doSignals k st.desc).stepDone k st).settle).parkIfIdle n := by
  simp only [State.stepRetire, hr, hstep]

/-- A step without a deadline is never late. -/
theorem State.lateCount_noDeadline (hd : stDeadline st.desc = 0) : s.lateCount st = s := if_neg fun h => h.1 hd

theorem exec_stepRetire_complete {n : Slot} (hm : s.dbg.module = false) (hr : (s.slotSched n).running = some k)
    (hswitch : (s.slotSched n).switch = .none) (hf : (s.slotSched n).faulted = none) (hc : s.stepComplete n = true) :
    exec (.stepRetire n) s = .next ((s.phaseLearn n).stepRetire n) := by
  rw [exec_stepRetire, execStepRetire, s.onModule_run _ hm]
  simp [State.stepRuns, State.runningCtx, hr, hswitch, hf, hc]

/-! MAKE_RESIDENT (R380). -/

theorem exec_makeResident_room (hm : s.dbg.module = false) (hres : (s.ctx k).resident = false) (hready : s.ctxState k = some .ready)
    (hroom : (s.host.ctxs.filter fun e => e.2.resident).length < 64) :
    exec (.makeResident k) s = .next (s.setCtx k { s.ctx k with resident := true }) := by
  rw [exec_makeResident, execMakeResident, s.onModule_run _ hm]
  simp [hres, hready, hroom]

/-! PROMOTION_CHECK (R391, R394, R395). -/

/-- The slot's READY steps and its running step evaluated (R391). -/
def State.promoted (s : State) (n : Nat) : State :=
  (((s.ctxsOf n).filter fun k => s.ctxState k == some .ready) ++ (s.runningCtx n).toList).foldl (fun s k => s.promote n k) s

section
variable {n : Slot} {u : State} (hm : s.dbg.module = false) (hu : s.promoted n = u)
include hm hu

/-- Without a running step nothing is pre-empted. -/
theorem exec_promotionCheck_idle (hr : (u.slotSched n).running = none) : exec (.promotionCheck n) s = .next u := by
  unfold State.promoted at hu
  rw [exec_promotionCheck, execPromotionCheck, s.onModule_run _ hm]
  simp only [hu, hr]

variable {v p : Nat} (hr : (u.slotSched n).running = some v) (hswitch : (u.slotSched n).switch = .none) (hp : u.choose n = some p)
include hr hswitch hp

/-- A stop already decided no longer waits for a batch where the chosen step is promoted and the running one is not (R228). -/
theorem exec_promotionCheck_decided {stop : Bool} (hstop : (u.slotSched n).stopAt = some stop) (hpp : u.isPromoted p = true)
    (hvp : u.isPromoted v = false) (hspan : (u.coach n).span = false) (hphase : (u.coach n).phase = 1) :
    exec (.promotionCheck n) s = .next (u.moveCancel n true) := by
  unfold State.promoted at hu
  rw [exec_promotionCheck, execPromotionCheck, s.onModule_run _ hm]
  simp [hu, hr, hswitch, hp, hstop, hpp, hvp, hspan, hphase]

variable (hstop : (u.slotSched n).stopAt = none) {sv : StepRec} (hsv : (u.ctx v).step = some sv) (hpages : sv.pages = [])
  (hvp : u.isPromoted v = false) (hspan : (u.coach n).span = false)
include hstop hsv hpages hvp hspan

/-- A step that is neither promoted nor ahead by the hysteresis lets the running one go on (R394, R395). -/
theorem exec_promotionCheck_behind (hpp : u.isPromoted p = false) (hlead : (u.ctx v).vt.toNat ≤ (u.ctx p).vt.toNat + u.sched.hyst.toNat) :
    exec (.promotionCheck n) s = .next u := by
  unfold State.promoted at hu
  rw [exec_promotionCheck, execPromotionCheck, s.onModule_run _ hm]
  simp [hu, hr, hswitch, hp, hstop, hsv, hpages, hvp, hspan, hpp, hlead]

/-- A promoted step, or one that is ahead of a running step with frames enough left, stops it (R394, R395). -/
theorem exec_promotionCheck_stops (hlead : u.isPromoted p = true ∨
      ((u.ctx v).vt.toNat > (u.ctx p).vt.toNat + u.sched.hyst.toNat ∧ ∀ r, sv.remaining n = some r → 2 * State.spillFrames n ≤ r)) :
    exec (.promotionCheck n) s = .next (u.decideStop n p (u.isPromoted p)) := by
  unfold State.promoted at hu
  rw [exec_promotionCheck, execPromotionCheck, s.onModule_run _ hm]
  obtain hpp | ⟨hahead, hleft⟩ := hlead
  · simp [hu, hr, hswitch, hp, hstop, hsv, hpages, hvp, hspan, hpp]
  · cases hrem : sv.remaining n with
    | none => simp [hu, hr, hswitch, hp, hstop, hsv, hpages, hvp, hspan, hahead, hrem]
    | some r => simp [hu, hr, hswitch, hp, hstop, hsv, hpages, hvp, hspan, hahead, hrem, Nat.not_lt.mpr (hleft r hrem)]

end

/-- Where the spill area holds the slot and a level is free, a stop decided is noted with the context for which it is (R396). -/
theorem State.decideStop_level {n p : Nat} {promoted : Bool} (ha : s.areaHolds n = true) (hl : (s.slotSched n).freeLevel ≠ none) :
    let w := if promoted && (s.coach n).phase == 1 then s.moveCancel n true else s
    s.decideStop n p promoted = w.setSlotSched n { w.slotSched n with stopAt := some false, forCtx := some p } := by
  have hfree : (s.slotSched n).freeLevel.isNone = false := Option.isNone_eq_false_iff.mpr (Option.isSome_iff_ne_none.mpr hl)
  simp only [State.decideStop, ha, hfree]
  rfl

/-! COMMAND_TIMEOUT (R330, R472). -/

/-- A context's step has counted to its limit. -/
def State.stepExpired (s : State) (k : Nat) : Bool := match (s.ctx k).step with
  | some st => decide (st.count s.tick ≥ stTimeoutMs st.desc * 100000)
  | none => false

theorem State.stepExpired_iff : s.stepExpired k = true ↔ ∃ st, (s.ctx k).step = some st ∧ stTimeoutMs st.desc * 100000 ≤ st.count s.tick := by
  unfold State.stepExpired
  split
  next st h => simp [h]
  next h => simp [h]

/-- The contexts of a slot whose steps, switched out for a page, have expired (R330). -/
def State.pagedExpired (s : State) (n : Nat) : List Nat :=
  ((s.slotSched n).levels.toList.filterMap (·.ctx)).filter fun k =>
    (s.slotSched n).running != some k && (s.ctx k).held == some .paged && s.stepExpired k

section
variable {n : Slot} (hm : s.dbg.module = false) (stuck : List Nat)
include hm

/-- The paged steps that have expired fault, and a running one that has is reset with its coach (R472, R473). -/
theorem exec_commandTimeout_expired :
    let t := (s.pagedExpired n).foldl (fun s k => s.ctxFault k stepPageTimeout) s
    exec (.commandTimeout n stuck) s = match (s.slotSched n).running.filter s.stepExpired with
      | none => .next t
      | some k => .next ((t.recordFault (stepReport n stepTimeout) (some k) (((t.ctx k).step.map (·.num)).getD 0)).resetBegin n
          (some (faultCode 0 stepTimeout)) (some k) stuck) := by
  have hnum (t : State) (k : Nat) : ((t.ctx k).step.map (·.num)).getD 0 = match (t.ctx k).step with
      | some st => st.num
      | none => 0 := by
    cases (t.ctx k).step <;> rfl
  rw [exec_commandTimeout, execCommandTimeout, s.onModule_run _ hm]
  simp only [hnum]
  rfl

theorem exec_commandTimeout_running (hpaged : s.pagedExpired n = []) (hr : (s.slotSched n).running = some k) (hstep : (s.ctx k).step = some st)
    (hexp : s.stepExpired k = true) :
    exec (.commandTimeout n stuck) s = .next ((s.recordFault (stepReport n stepTimeout) (some k) st.num).resetBegin n
      (some (faultCode 0 stepTimeout)) (some k) stuck) := by
  have hfound : (s.slotSched n).running.filter s.stepExpired = some k := by rw [hr, Option.filter_some_pos hexp]
  simp only [exec_commandTimeout_expired hm, hpaged, hfound, List.foldl_nil, hstep, Option.map_some, Option.getD_some]

theorem exec_commandTimeout_paged (hpaged : s.pagedExpired n = [k]) (hr : (s.slotSched n).running = none) :
    exec (.commandTimeout n stuck) s = .next (s.ctxFault k stepPageTimeout) := by
  simp only [exec_commandTimeout_expired hm, hpaged, hr, Option.filter_none, List.foldl_cons, List.foldl_nil]

end

/-- No step of the slot that waits for a page has expired. -/
theorem State.pagedExpired_eq_nil {n : Nat} (h : ∀ l ∈ (s.slotSched n).levels.toList, ∀ j, l.ctx = some j → (s.ctx j).held = some .paged →
    (s.slotSched n).running ≠ some j → s.stepExpired j = false) : s.pagedExpired n = [] := by
  refine List.filter_eq_nil_iff.mpr fun j hj hp => ?_
  obtain ⟨l, hl, hc⟩ := List.mem_filterMap.mp hj
  simp only [Bool.and_eq_true, bne_iff_ne, beq_iff_eq] at hp
  obtain ⟨⟨hr, hheld⟩, hexp⟩ := hp
  rw [h l hl j hc hheld hr] at hexp
  exact absurd hexp Bool.false_ne_true

/-- The one step switched out has expired. -/
theorem State.pagedExpired_eq_singleton {n : Nat} {cells : List CellSpill} (hr : (s.slotSched n).running = none)
    (hl : (s.slotSched n).levels = #v[{ ctx := some k, cells }, {}]) (hheld : (s.ctx k).held = some .paged) (hexp : s.stepExpired k = true) :
    s.pagedExpired n = [k] := by
  simp [State.pagedExpired, hl, hr, hheld, hexp]

/-- Settles O44: a start by what is found of the step's program, a retirement and a charge by the step that runs, promotion by what the
slot's contexts are once evaluated (`State.promoted`), and a timeout by the steps that have expired. -/
theorem stepsStartAreChargedAndTimeOut : Obligations.StepsStartAreChargedAndTimeOut := by
  unfold Obligations.StepsStartAreChargedAndTimeOut
  intro s n k st hm hstep c x q
  refine ⟨fun hfree hload hwrite hchosen hready => ⟨fun hb => ?_, fun hb hs => ?_,
      fun sh hb hs => ⟨fun hc => ?_, fun hc hu => ⟨fun u ha => ?_, fun t u ha => ?_⟩⟩⟩,
    fun hr hswitch hf hc hd => ?_, fun hframe => ?_, fun hr hframe => ?_,
    fun hres hready hroom => exec_makeResident_room hm hres hready hroom, ⟨exec_promotionCheck_idle hm rfl, ?_, ?_⟩, ?_, ?_⟩
  -- STEP_START
  · exact exec_stepStart_badFields hm hfree hload hwrite hchosen hready hstep hb
  · exact exec_stepStart_badHeader hm hfree hload hwrite hchosen hready hstep hb hs
  · exact exec_stepStart_badShape hm hfree hload hwrite hchosen hready hstep hb hs hc
  · rw [exec_stepStart_fits hm hfree hload hwrite hchosen hready hstep hb hs hc hu, ha]
  · rw [exec_stepStart_fits hm hfree hload hwrite hchosen hready hstep hb hs hc hu, ha]
  -- STEP_RETIRE and CHARGE
  · have hrun : (s.phaseLearn n).runningCtx n = some k := (State.phaseLearn_runningCtx n n).trans hr
    have hst : ((s.phaseLearn n).ctx k).step = some st := (congrArg _ (State.phaseLearn_ctx n k)).trans hstep
    rw [exec_stepRetire_complete hm hr hswitch hf hc, State.stepRetire_running hrun hst, State.lateCount_noDeadline hd,
      State.charge_running hrun hst, ← State.phaseLearn_tick (s := s) n]
    rfl
  · rw [exec_charge, execCharge, s.onModule_run _ hm, if_neg hframe]
  · rw [exec_charge, execCharge, s.onModule_run _ hm, if_pos hframe, State.charge_running hr hstep]
  -- PROMOTION_CHECK
  · intro v p sv hr hswitch hstop hp hsv hpages hvp hspan harea hlevel w
    refine ⟨fun hlead => ?_, fun hpp hlead => ?_⟩
    · rw [exec_promotionCheck_stops hm rfl hr hswitch hp hstop hsv hpages hvp hspan hlead]
      exact congrArg _ (State.decideStop_level harea hlevel)
    · exact exec_promotionCheck_behind hm rfl hr hswitch hp hstop hsv hpages hvp hspan hpp hlead
  · exact fun v p stop hr hswitch hstop hp hpp hvp hspan hphase => exec_promotionCheck_decided hm rfl hr hswitch hp hstop hpp hvp hspan hphase
  -- COMMAND_TIMEOUT
  · intro stuck expired hr hexp hothers
    refine exec_commandTimeout_running hm stuck (State.pagedExpired_eq_nil fun l hl j hj hheld hne => ?_) hr hstep (State.stepExpired_iff.mpr hexp)
    exact Bool.eq_false_iff.mpr fun h => hothers l hl j hj hheld (fun hjk => hne (hjk ▸ hr)) (State.stepExpired_iff.mp h)
  · intro stuck j l hr hl hheld hsj hexp
    exact exec_commandTimeout_paged hm stuck (State.pagedExpired_eq_singleton hr hl hheld (State.stepExpired_iff.mpr ⟨st, hsj, hexp⟩)) hr

end Sys2Proof.Machine
end

section
/-! Contexts and memory (R355): no read or write of memory, by the coherence protocol or by the device itself, reaches a context. One rule
per operation, in the order of the definitions. -/
namespace Sys2Proof.Machine

variable (s : State)

/-- Steps that each leave the contexts alone leave them alone together. -/
theorem foldl_ctxs {α : Type} {f : State → α → State} (hf : ∀ t x, (f t x).host.ctxs = t.host.ctxs) (l : List α) :
    (l.foldl f s).host.ctxs = s.host.ctxs := by
  induction l generalizing s with
  | nil => rfl
  | cons x l ih => rw [List.foldl_cons, ih, hf]

/-! Memory, its errors, and the counts of accesses. -/

@[simp] theorem State.noteKey_ctxs (a n key : Nat) : (s.noteKey a n key).host.ctxs = s.host.ctxs := by
  unfold State.noteKey; simp only []; split <;> rfl

@[simp] theorem State.noteWrite_ctxs (a n : Nat) : (s.noteWrite a n).host.ctxs = s.host.ctxs := rfl

@[simp] theorem State.writeMem_ctxs (a : Nat) (bs : List Byte) : (s.writeMem a bs).host.ctxs = s.host.ctxs := by
  unfold State.writeMem; split
  · rfl
  · simp

@[simp] theorem State.writePhys_ctxs (a : Nat) (bs : List Byte) : (s.writePhys a bs).host.ctxs = s.host.ctxs := by
  unfold State.writePhys; split <;> simp

@[simp] theorem State.msix_ctxs (v : Nat) : (s.msix v).host.ctxs = s.host.ctxs := by
  unfold State.msix; split
  · split <;> rfl
  · rfl

@[simp] theorem State.acReport_ctxs (g : Nat) (e : AcEntry) : (s.acReport g e).host.ctxs = s.host.ctxs := by
  unfold State.acReport; simp only []; split
  · rfl
  · split <;> simp

@[simp] theorem State.acTouch_ctxs (g part a lines : Nat) : (s.acTouch g part a lines).host.ctxs = s.host.ctxs := by
  unfold State.acTouch; simp only []; split
  · rfl
  · split <;> split <;> simp

@[simp] theorem State.countMem_ctxs (l : Nat) (w : Bool) (m : Nat) : (s.countMem l w m).host.ctxs = s.host.ctxs := by
  unfold State.countMem; simp only []; split
  · simp
  · split <;> simp

@[simp] theorem State.countLlc_ctxs (l : Nat) (hit : Bool) (m : Nat) : (s.countLlc l hit m).host.ctxs = s.host.ctxs := by
  unfold State.countLlc; split <;> simp

@[simp] theorem State.flipLine_ctxs (l : Nat) : (s.flipLine l).host.ctxs = s.host.ctxs := by
  unfold State.flipLine; simp only []; split <;> rfl

@[simp] theorem State.ctlWritten_ctxs (l m : Nat) : (s.ctlWritten l m).host.ctxs = s.host.ctxs := by simp [State.ctlWritten]

@[simp] theorem State.countEcc_ctxs (c : Nat) (ce : Bool) : (s.countEcc c ce).host.ctxs = s.host.ctxs := rfl

@[simp] theorem State.scrubWrite_ctxs (l : Nat) : (s.scrubWrite l).host.ctxs = s.host.ctxs := by simp [State.scrubWrite]

@[simp] theorem State.summaryUp_ctxs (q place : Nat) : (s.summaryUp q place).host.ctxs = s.host.ctxs := by
  unfold State.summaryUp; split <;> rfl

@[simp] theorem State.summaryError_ctxs (kind struct_ part : Nat) : (s.summaryError kind struct_ part).host.ctxs = s.host.ctxs := by
  unfold State.summaryError; split
  · rfl
  · split
    · simp
    · split
      · simp
      · split <;> simp

@[simp] theorem State.putErr_ctxs (bs : List Byte) : (s.putErr bs).host.ctxs = s.host.ctxs := by
  unfold State.putErr; simp only []; split
  · rfl
  · split <;> simp

@[simp] theorem State.logErr_ctxs (kind struct_ unit addr part pos value : Nat) :
    (s.logErr kind struct_ unit addr part pos value).host.ctxs = s.host.ctxs := by
  unfold State.logErr; simp only []; split
  · split <;> simp
  · simp

@[simp] theorem State.memCheck_ctxs (l key : Nat) : (s.memCheck l key).2.host.ctxs = s.host.ctxs := by
  unfold State.memCheck; simp only []; split
  · simp
  · split
    · simp
    · split
      · split <;> rfl
      · simp

@[simp] theorem State.memDemand_ctxs (l key m : Nat) : (s.memDemand l key m).2.host.ctxs = s.host.ctxs := by simp [State.memDemand]

@[simp] theorem State.putLine_ctxs (l : Nat) (d : Line) (key : Nat) : (s.putLine l d key).host.ctxs = s.host.ctxs := by
  unfold State.putLine; split <;> simp

/-! The LLC and what a home reads and writes. -/

@[simp] theorem State.llcPlace_ctxs (l : Nat) (e : LlcLine) : (s.llcPlace l e).host.ctxs = s.host.ctxs := rfl

@[simp] theorem State.llcDrop_ctxs (l m : Nat) : (s.llcDrop l m).host.ctxs = s.host.ctxs := by
  unfold State.llcDrop; split
  · rfl
  · simp only []; split <;> simp

@[simp] theorem State.llcAlloc_ctxs (l who : Nat) (dirty : Bool) (under : Line) (m : Nat) :
    (s.llcAlloc l who dirty under m).host.ctxs = s.host.ctxs := by
  unfold State.llcAlloc; simp only []; split
  · rfl
  · split
    · split <;> simp
    · split
      · rfl
      · split <;> simp

@[simp] theorem State.homeRead_ctxs (l who : Nat) (alloc : Bool) (key m : Nat) :
    (s.homeRead l who alloc key m).2.host.ctxs = s.host.ctxs := by
  have hm (t : State) := t.memDemand_ctxs l key m
  unfold State.homeRead; simp only []; split
  · simp
  · split
    next t h => simpa [h] using hm (s.countLlc l (s.llcLine l).isSome m)
    next d t h =>
      have ht : t.host.ctxs = s.host.ctxs := by simpa [h] using hm (s.countLlc l (s.llcLine l).isSome m)
      split <;> simp [ht]

@[simp] theorem State.homeWrite_ctxs (l who : Nat) (alloc : Bool) (d : Line) (key m : Nat) :
    (s.homeWrite l who alloc d key m).host.ctxs = s.host.ctxs := by
  unfold State.homeWrite; simp only []; split <;> simp

/-! Agents. -/

@[simp] theorem State.setAgent_ctxs (a : Nat) (l : LineNo) (x : AgentLine) : (s.setAgent a l x).host.ctxs = s.host.ctxs := rfl

@[simp] theorem State.agentTo_ctxs (a : Nat) (l : LineNo) (st : AgentState) : (s.agentTo a l st).host.ctxs = s.host.ctxs := rfl

@[simp] theorem State.request_ctxs (a : Nat) (l : LineNo) (i : Instr) : (s.request a l i).host.ctxs = s.host.ctxs := by
  unfold State.request; simp only []; split
  · simp
  · rfl

@[simp] theorem State.loseReservation_ctxs (a : Nat) (l : LineNo) : (s.loseReservation a l).host.ctxs = s.host.ctxs := by
  unfold State.loseReservation; split <;> rfl

@[simp] theorem State.agentLose_ctxs (a : Nat) (l : LineNo) (st : AgentState) : (s.agentLose a l st).host.ctxs = s.host.ctxs := by
  simp [State.agentLose]

@[simp] theorem State.replaceLine_ctxs (a : Nat) (l : LineNo) : (s.replaceLine a l).host.ctxs = s.host.ctxs := by
  unfold State.replaceLine; simp only []; split <;> simp

theorem State.makeRoom_ctxs {a : Nat} {l : LineNo} {t : State} (h : s.makeRoom a l = some t) : t.host.ctxs = s.host.ctxs := by
  unfold State.makeRoom at h; simp only [] at h; split at h
  · cases h; rfl
  · split at h
    · cases h; simp
    · cases h

@[simp] theorem State.wantRead_ctxs (a : Nat) (l : LineNo) (so : Bool) : (s.wantRead a l so).host.ctxs = s.host.ctxs := by
  unfold State.wantRead; split
  · split
    next t h => simp [s.makeRoom_ctxs h]
    · rfl
  · rfl

@[simp] theorem State.rereadTail_ctxs (a : Nat) (l : LineNo) : (s.rereadTail a l).host.ctxs = s.host.ctxs := by
  unfold State.rereadTail; split
  · split <;> simp
  · rfl

/-! Homes. -/

@[simp] theorem State.setHome_ctxs (h : Nat) (x : Home) : (s.setHome h x).host.ctxs = s.host.ctxs := rfl

@[simp] theorem State.noteServed_ctxs (h : Nat) (l : LineNo) (a : Nat) : (s.noteServed h l a).host.ctxs = s.host.ctxs := rfl

@[simp] theorem State.setHomeLine_ctxs (l : LineNo) (x : HomeLine) : (s.setHomeLine l x).host.ctxs = s.host.ctxs := rfl

@[simp] theorem State.freePool_ctxs (h q : Nat) (l : LineNo) : (s.freePool h q l).host.ctxs = s.host.ctxs := by
  unfold State.freePool; simp only []; split <;> rfl

@[simp] theorem State.freeEntry_ctxs (l : LineNo) (r : HomeReq) : (s.freeEntry l r).host.ctxs = s.host.ctxs := by
  unfold State.freeEntry; split <;> simp

@[simp] theorem State.sendInv_ctxs (l : LineNo) (t : List Nat) : (s.sendInv l t).host.ctxs = s.host.ctxs :=
  foldl_ctxs s (fun t i => congrArg _ (t.send_host i)) _

@[simp] theorem State.serve_ctxs (l : LineNo) (r : Nat) (mk : Line → Instr) : (s.serve l r mk).2.host.ctxs = s.host.ctxs := by
  have hr := s.homeRead_ctxs l.toNat (s.partOfAgent r l) (isCellEp r) 0 (s.agentMaster r)
  unfold State.serve; split
  next h => simpa [h] using hr
  next h => simpa [h] using hr

/-- The state after a line has been served. -/
theorem State.ctxs_of_serve {l : LineNo} {r : Nat} {mk : Line → Instr} {b : Bool} {t : State} (h : s.serve l r mk = (b, t)) :
    t.host.ctxs = s.host.ctxs := by simpa [h] using s.serve_ctxs l r mk

@[simp] theorem State.noteAmo_ctxs (l : Nat) (b : BitVec 192) : (s.noteAmo l b).host.ctxs = s.host.ctxs := rfl

@[simp] theorem State.doneShown_ctxs (ep : Nat) (l : LineNo) (b : BitVec 192) : (s.doneShown ep l b).host.ctxs = s.host.ctxs := by
  unfold State.doneShown; split
  · rfl
  · simp only []; split <;> rfl

@[simp] theorem State.homeAmo_ctxs (l : LineNo) (r : Nat) (b : BitVec 192) (c : Bool) : (s.homeAmo l r b c).host.ctxs = s.host.ctxs := by
  have hr := s.homeRead_ctxs l.toNat 0x3F false 0 (s.agentMaster r)
  unfold State.homeAmo; simp only []; split
  next h => simpa [h] using hr
  next h => simpa [h] using hr

@[simp] theorem State.setNc_ctxs (q : NcReq) : (s.setNc q).host.ctxs = s.host.ctxs := rfl

@[simp] theorem State.ncPerform_ctxs (l : LineNo) (r : HomeReq) : (s.ncPerform l r).host.ctxs = s.host.ctxs := by
  have hr (q : NcReq) (alloc : Bool) := s.homeRead_ctxs l.toNat q.who alloc q.key q.charge
  unfold State.ncPerform; simp only []
  cases r <;> simp only []
  case read id =>
    split
    · rfl
    next q _ => rcases h : s.homeRead l.toNat q.who q.alloc q.key q.charge with ⟨_ | d, t⟩ <;> simpa [h] using hr q q.alloc
  case write id d n =>
    split
    · rfl
    next q _ =>
      split
      · simp
      · rcases h : s.homeRead l.toNat q.who false q.key q.charge with ⟨_ | d, t⟩ <;> simpa [h] using hr q false
  case remote id b =>
    split
    · rfl
    next q _ => rcases h : s.homeRead l.toNat q.who false q.key q.charge with ⟨_ | d, t⟩ <;> simpa [h] using hr q false

@[simp] theorem State.muleAmo_ctxs (l : LineNo) (r : HomeReq) (x : HomeLine) : (s.muleAmo l r x).host.ctxs = s.host.ctxs := by
  unfold State.muleAmo; simp only []
  repeat' split
  all_goals simp

/-! Every branch of a home's tables sends messages, serves or writes the line, and replaces the line's entry. -/

@[simp] theorem State.homeAct_ctxs (l : LineNo) (x : HomeLine) (r : HomeReq) : (s.homeAct l x r).host.ctxs = s.host.ctxs := by
  unfold State.homeAct; simp only []
  cases r <;> simp only []
  all_goals repeat' split
  all_goals simp
  all_goals exact s.ctxs_of_serve (by assumption)

@[simp] theorem State.homeActOO_ctxs (l : LineNo) (x : HomeLine) (r : HomeReq) : (s.homeActOO l x r).host.ctxs = s.host.ctxs := by
  unfold State.homeActOO
  cases r <;> simp only []
  all_goals repeat' split
  all_goals simp
  all_goals exact s.ctxs_of_serve (by assumption)

@[simp] theorem State.homeServe_ctxs (l : LineNo) (x : HomeLine) (r : HomeReq) : (s.homeServe l x r).host.ctxs = s.host.ctxs := by
  unfold State.homeServe; simp only []; split <;> split <;> simp

@[simp] theorem State.homeRun_ctxs (l : LineNo) (k : Nat) : (s.homeRun l k).host.ctxs = s.host.ctxs := by
  induction k generalizing s l with
  | zero => rfl
  | succ k ih =>
    unfold State.homeRun; simp only []
    generalize hs : List.foldl _ s _ = t
    have ht : t.host.ctxs = s.host.ctxs := by rw [← hs]; exact foldl_ctxs s (fun u w => by rw [ih]; rfl) _
    rw [← ht]
    repeat' split
    all_goals simp [ih]

@[simp] theorem State.homeNext_ctxs (l : LineNo) : (s.homeNext l).host.ctxs = s.host.ctxs := s.homeRun_ctxs l _

@[simp] theorem State.writeBack_ctxs (l : LineNo) (m : Nat) : (s.writeBack l m).host.ctxs = s.host.ctxs := by
  unfold State.writeBack; split <;> simp

@[simp] theorem State.uncache_ctxs (l : LineNo) : (s.uncache l).host.ctxs = s.host.ctxs := by
  unfold State.uncache; split <;> rfl

@[simp] theorem State.flushLine_ctxs (l : LineNo) (discard : Bool) (m : Nat) : (s.flushLine l discard m).host.ctxs = s.host.ctxs := by
  have hlose (t : State) (e : Nat × AgentLine) : (t.agentLose (e.1 % 2048) l .I).host.ctxs = t.host.ctxs := t.agentLose_ctxs _ l .I
  have hread (t : State) (e : Nat × AgentLine) : (t.rereadTail (e.1 % 2048) l).host.ctxs = t.host.ctxs := t.rereadTail_ctxs _ l
  unfold State.flushLine; simp only [foldl_ctxs _ hread]
  cases discard <;> simp [foldl_ctxs _ hlose]

/-! The device's own writes. -/

@[simp] theorem State.devOwn_ctxs (l a : Nat) (bs : List Byte) (m : Nat) : (s.devOwn l a bs m).host.ctxs = s.host.ctxs := by
  unfold State.devOwn; simp only []; split
  · rfl
  · split
    · simp
    · rw [foldl_ctxs]; intros; rfl

@[simp] theorem State.devLine_ctxs (a : Nat) (bs : List Byte) (m l : Nat) : (s.devLine a bs m l).host.ctxs = s.host.ctxs := by
  have hm (t : State) := t.memDemand_ctxs l 0 m
  unfold State.devLine; simp only []
  generalize hu : (s.devOwn l a bs m).countLlc l ((s.devOwn l a bs m).llcLine l).isSome m = u
  have huh : u.host.ctxs = s.host.ctxs := by rw [← hu]; simp
  split
  · simp [huh]
  · split
    · simp [huh]
    · have := hm u
      split <;> simp_all

/-- What the device writes to memory leaves the contexts alone. -/
@[simp] theorem State.devWrite_ctxs (a : Nat) (bs : List Byte) (m : Nat) : (s.devWrite a bs m).host.ctxs = s.host.ctxs := by
  unfold State.devWrite; split
  · simp
  · split
    · rfl
    · rw [foldl_ctxs _ fun t l => t.devLine_ctxs a bs m l]; simp

/-- So does what it reads. -/
@[simp] theorem State.devTouch_ctxs (a n m : Nat) : (s.devTouch a n m).host.ctxs = s.host.ctxs := by
  unfold State.devTouch; split
  · rfl
  · refine foldl_ctxs s (fun t l => ?_) _
    simp only []; split <;> simp

/-! Fences (R364, R617). -/

@[simp] theorem State.partWrite_ctxs (q a : Nat) (bs : List Byte) : (s.partWrite q a bs).host.ctxs = s.host.ctxs := by
  unfold State.partWrite; split <;> simp

@[simp] theorem State.partTouch_ctxs (q a n : Nat) : (s.partTouch q a n).host.ctxs = s.host.ctxs := by
  unfold State.partTouch; split <;> simp

@[simp] theorem State.setFence_ctxs (q f : Nat) (x : Fence) : (s.setFence q f x).host.ctxs = s.host.ctxs := rfl

@[simp] theorem State.fenceEvict_ctxs (key : Nat) : (s.fenceEvict key).host.ctxs = s.host.ctxs := by
  unfold State.fenceEvict; simp only []; split <;> simp

/-- A fence brought into the cache leaves the contexts alone. -/
@[simp] theorem State.fenceLoad_ctxs (q f : Nat) : (s.fenceLoad q f).host.ctxs = s.host.ctxs := by
  unfold State.fenceLoad; simp only []
  repeat' split
  all_goals simp

theorem State.fenceLoad_ctx (q f k : Nat) : (s.fenceLoad q f).ctx k = s.ctx k := by
  rw [State.ctx, State.fenceLoad_ctxs, State.ctx]

end Sys2Proof.Machine
end

section
/-! The doorbell pages and the BAR4 window (R346, R347, R361 to R367, R370, R373). -/
namespace Sys2Proof.Machine

variable {s : State} {pg : Nat} {v : Word}

/-! Doorbell pages. -/

/-- On a page that serves no context each command is ignored and counted (R361). -/
theorem exec_pageCommand_ignored (ho : s.pcieOpen = true) (hm : s.dbg.module = false) (hn : s.pageCtx pg = none) {i : Instr}
    (hi : i ∈ [Instr.doorbellTail pg v, .waitLatch pg v, .waitRegister pg v, .signalLatch pg v, .signal pg v, .fenceQuery pg v, .eventHead pg v,
      .eventArm pg v]) : exec i s = .next s.dbIgnore := by
  simp only [List.mem_cons, List.not_mem_nil, or_false] at hi
  obtain rfl | rfl | rfl | rfl | rfl | rfl | rfl | rfl := hi
  · rw [exec_doorbellTail, execDoorbellTail, s.gateData_open _ ho hm, State.dbTail, hn]
  · rw [exec_waitLatch, execWaitLatch, s.gateData_open _ ho hm, State.dbWaitLatch, hn]
  · rw [exec_waitRegister, execWaitRegister, s.gateData_open _ ho hm, State.dbWait, hn]
  · rw [exec_signalLatch, execSignalLatch, s.gateData_open _ ho hm, State.dbSignalLatch, hn]
  · rw [exec_signal, execSignal, s.gateData_open _ ho hm, State.dbSignal, hn]
  · rw [exec_fenceQuery, execFenceQuery, s.gateData_open _ ho hm, State.dbQuery, hn]
  · rw [exec_eventHead, execEventHead, s.gateData_open _ ho hm, State.dbEvent, hn]
  · rw [exec_eventArm, execEventArm, s.gateData_open _ ho hm, State.dbEvent, hn]

/-! The values of waits (R365 to R367). -/

theorem waitMet_of_reached {x v : Word} (h : reached x v = true) : waitMet x v = true := by simp [waitMet, h]

/-- A value not reached, and at most 2^62 ahead, is waited for. -/
theorem waitMet_eq_false {x v : Word} (h : reached x v = false) (hd : (v - x).toNat ≤ 2 ^ 62) : waitMet x v = false := by
  rw [waitMet, h, decide_eq_false (Nat.not_lt.mpr hd)]
  rfl

section
variable {k : Nat} (hk : s.pageCtx pg = some k)
include hk

/-- A TAIL that goes neither back nor past the ring's end is taken (R362). -/
theorem State.dbTail_moves (hlo : ((s.ctx k).tail - (s.ctx k).head).toNat ≤ (BitVec.ofNat 32 (bfield v 0 32) - (s.ctx k).head).toNat)
    (hhi : (BitVec.ofNat 32 (bfield v 0 32) - (s.ctx k).head).toNat ≤ 2 ^ (s.ctx k).ringLog2) :
    s.dbTail pg v = (s.setCtx k { s.ctx k with tail := BitVec.ofNat 32 (bfield v 0 32) }).settle := by
  simp only [State.dbTail, hk]
  exact if_neg fun h => h.elim (Nat.not_lt.mpr hhi) (Nat.not_lt.mpr hlo)

theorem State.dbTail_ignored (h : (BitVec.ofNat 32 (bfield v 0 32) - (s.ctx k).head).toNat < ((s.ctx k).tail - (s.ctx k).head).toNat ∨
      2 ^ (s.ctx k).ringLog2 < (BitVec.ofNat 32 (bfield v 0 32) - (s.ctx k).head).toNat) : s.dbTail pg v = s.dbIgnore := by
  simp only [State.dbTail, hk]
  exact if_pos h.symm

/-! WAIT_REGISTER (R363). -/

/-- A wait answered with the fence's value. -/
def State.waitAnswered (s : State) (k f : Nat) (cookie : BitVec 32) : State :=
  let u := s.fenceLoad (s.ctxPart k) f
  u.event (s.ctx k).slice (fenceEvent cookie f (u.fence (s.ctxPart k) f))

/-- A wait registered, or answered NO_ROOM where the slice's quota is full. -/
def State.waitQueued (s : State) (k f : Nat) (cookie : BitVec 32) (v : Word) : State :=
  let sl := (s.ctx k).slice
  let u := s.fenceLoad (s.ctxPart k) f
  if (u.slice sl).waits ≤ u.waitsOf sl then
    u.event sl { fenceEvent cookie f (u.fence (s.ctxPart k) f) with kind := evNoRoom, value := 0 }
  else { u with host := { u.host with waits := u.host.waits ++ [{ slice := sl, part := s.ctxPart k, fence := f, cookie, value := v }] } }

section
variable {f : Nat} {cookie : BitVec 32} (hl : (s.page pg).waitLatch = some (f, cookie))
include hl

theorem State.dbWait_invalid (hx : ((s.fenceLoad (s.ctxPart k) f).fence (s.ctxPart k) f).valid = false) :
    s.dbWait pg v = .next (s.fenceLoad (s.ctxPart k) f).dbIgnore := by
  simp [State.dbWait, hk, hl, hx]

theorem State.dbWait_valid (hx : ((s.fenceLoad (s.ctxPart k) f).fence (s.ctxPart k) f).valid = true) :
    s.dbWait pg v = .next (if waitMet ((s.fenceLoad (s.ctxPart k) f).fence (s.ctxPart k) f).value v then s.waitAnswered k f cookie
      else s.waitQueued k f cookie v) := by
  simp only [State.dbWait, hk, hl, hx, State.waitAnswered, State.waitQueued]
  by_cases hmet : waitMet ((s.fenceLoad (s.ctxPart k) f).fence (s.ctxPart k) f).value v = true
  · simp [hmet]
  · simp only [hmet, apply_ite Host.Outcome.next]
    rfl

end

/-- A signal of the latched fence (R366). -/
theorem State.dbSignal_valid {f : Nat} (hl : (s.page pg).signalLatch = some f) (hx : (s.fence (s.ctxPart k) f).valid = true) :
    s.dbSignal pg v = (s.fenceSignal (s.ctxPart k) f v).settle := by
  simp only [State.dbSignal, hk, hl, hx, if_true]

theorem State.dbQuery_valid (hx : ((s.fenceLoad (s.ctxPart k) (bfield v 0 20)).fence (s.ctxPart k) (bfield v 0 20)).valid = true) :
    let u := s.fenceLoad (s.ctxPart k) (bfield v 0 20)
    s.dbQuery pg v = u.event (s.ctx k).slice
      { fenceEvent (BitVec.ofNat 32 (bfield v 32 32)) (bfield v 0 20) (u.fence (s.ctxPart k) (bfield v 0 20)) with kind := evValue } := by
  simp only [State.dbQuery, hk, hx, State.fenceLoad_ctx]
  rfl

/-- A HEAD written to a page, with ARM or without, moves the HEAD of the context's slice and lets kept records out (R370, R371, R373). -/
theorem State.dbEvent_eq : s.dbEvent pg v =
    let i := (s.ctx k).slice
    let u := (s.setSlice i { s.slice i with head := BitVec.ofNat 32 (bfield v 0 32) }).eventDrain i 65
    (u.setSlice i { u.slice i with armed := (u.slice i).armed || v.getLsbD 32 }).eventArmed i := by
  simp only [State.dbEvent, hk]

end

/-! ARM's bit of an event HEAD. -/

theorem bfield_arm (v : Word) : bfield (v ||| 0x100000000#64) 0 32 = bfield v 0 32 := by
  rw [bfield_eq_extractLsb', bfield_eq_extractLsb', BitVec.extractLsb'_or, show (0x100000000#64).extractLsb' 0 32 = 0#32 by decide, BitVec.or_zero]

theorem bfield_disarm (v : Word) : bfield (v &&& ~~~0x100000000#64) 0 32 = bfield v 0 32 := by
  rw [bfield_eq_extractLsb', bfield_eq_extractLsb', BitVec.extractLsb'_and,
    show (~~~0x100000000#64).extractLsb' 0 32 = BitVec.allOnes 32 by decide, BitVec.and_allOnes]

/-! The BAR4 window (R346 to R348). -/

theorem mem_lines_iff {a len l : Nat} (hlen : 0 < len) :
    l ∈ span (a / 64) ((a + len - 1) / 64 - a / 64 + 1) ↔ a / 64 ≤ l ∧ 64 * l < a + len := by
  rw [mem_span]
  omega

section
variable (ho : s.pcieOpen = true) (hm : s.dbg.module = false) {off len a : Nat}
include ho hm

theorem exec_bar4Read_clean (ha : s.bar4Addr off len = some a) (hc : ∀ l, a / 64 ≤ l → 64 * l < a + len → s.lineFails l = false) :
    exec (.bar4Read off len) s = .next ((s.devTouch a len mPcie).emit (.completion (s.devRead a len))) := by
  have hbad : (len != 0 && (span (a / 64) ((a + len - 1) / 64 - a / 64 + 1)).any s.lineFails) = false := by
    obtain rfl | hlen := Nat.eq_zero_or_pos len
    · rfl
    · have hall : (span (a / 64) ((a + len - 1) / 64 - a / 64 + 1)).any s.lineFails = false := List.any_eq_false.mpr fun l hl => by
        obtain ⟨hlo, hhi⟩ := (mem_lines_iff hlen).mp hl
        exact Bool.eq_false_iff.mp (hc l hlo hhi)
      rw [hall, Bool.and_false]
  rw [exec_bar4Read, execBar4Read, s.gateData_open _ ho hm, ha]
  simp only [hbad]
  rfl

theorem exec_bar4Read_fails {l : Nat} (ha : s.bar4Addr off len = some a) (hlo : a / 64 ≤ l) (hhi : 64 * l < a + len) (hlen : 0 < len)
    (hf : s.lineFails l = true) : exec (.bar4Read off len) s = .next ((s.devTouch a len mPcie).emit .unsupported) := by
  have hbad : (len != 0 && (span (a / 64) ((a + len - 1) / 64 - a / 64 + 1)).any s.lineFails) = true := by
    rw [List.any_eq_true.mpr ⟨l, (mem_lines_iff hlen).mpr ⟨hlo, hhi⟩, hf⟩, Bool.and_true]
    exact bne_iff_ne.mpr (Nat.ne_of_gt hlen)
  rw [exec_bar4Read, execBar4Read, s.gateData_open _ ho hm, ha]
  simp only [hbad]
  rfl

theorem exec_bar4Read_refused (ha : s.bar4Addr off len = none) : exec (.bar4Read off len) s = .next (s.bar4Refuse.emit .unsupported) := by
  rw [exec_bar4Read, execBar4Read, s.gateData_open _ ho hm, ha]

end

theorem State.segWrite_maps {k : Nat} (ha : bfield v 30 22 * 2 ^ 30 % s.segSize = 0) (hs : bfield v 8 8 ∉ s.stable.sealed) :
    s.segWrite k v = { s with host := { s.host with segs := tset 0x3F00 s.host.segs k (v &&& 0x000FFFFFC000FF01#64) } } := by
  have hok : (decide (bfield v 30 22 * 2 ^ 30 % s.segSize ≠ 0) || s.stable.sealed.contains (bfield v 8 8)) = false := by
    rw [ha]
    simpa using hs
  rw [State.segWrite, if_neg (Bool.eq_false_iff.mp hok)]

theorem State.segWrite_misaligned {k : Nat} (ha : bfield v 30 22 * 2 ^ 30 % s.segSize ≠ 0) :
    s.segWrite k v = { s with host := { s.host with segBad := true } } := by
  rw [State.segWrite, if_pos (by rw [decide_eq_true ha, Bool.true_or])]

/-- Settles O48: a page's commands by its context, its latches and the fence, and the window by what its range reaches. -/
theorem doorbellPagesAct : Obligations.DoorbellPagesAct := by
  unfold Obligations.DoorbellPagesAct
  intro s pg v ho hm
  refine ⟨fun hn i hi => exec_pageCommand_ignored ho hm hn hi,
    fun k hk => ⟨fun hlo hhi => ?_, fun h => ?_, ?_, ?_, fun f cookie hl => ?_, fun hl => ?_, fun f hl hx => ?_, fun hl => ?_,
      fun hx => ?_, ?_, ?_⟩,
    fun off len data k => ⟨fun a ha hc => exec_bar4Read_clean ho hm ha hc,
      fun a l ha hlo hhi hlen hf => exec_bar4Read_fails ho hm ha hlo hhi hlen hf, exec_bar4Read_refused ho hm, fun a ha => ?_, fun ha => ?_, fun ha hs => ?_, fun ha => ?_⟩⟩
  -- DOORBELL_TAIL and the latches
  · rw [exec_doorbellTail, execDoorbellTail, s.gateData_open _ ho hm, State.dbTail_moves hk hlo hhi]
  · rw [exec_doorbellTail, execDoorbellTail, s.gateData_open _ ho hm, State.dbTail_ignored hk h]
  · rw [exec_waitLatch, execWaitLatch, s.gateData_open _ ho hm, State.dbWaitLatch, hk]
  · rw [exec_signalLatch, execSignalLatch, s.gateData_open _ ho hm, State.dbSignalLatch, hk]
  -- WAIT_REGISTER
  · have hwait : exec (.waitRegister pg v) s = s.dbWait pg v := (exec_waitRegister s pg v).trans (s.gateData_open _ ho hm)
    refine ⟨fun hx => ?_, fun hx hr => ?_, fun hx hr hd => ?_, fun hx hd => ?_⟩
    · exact hwait.trans (State.dbWait_invalid hk hl hx)
    · rw [hwait, State.dbWait_valid hk hl hx, if_pos (waitMet_of_reached hr)]
      rfl
    · rw [hwait, State.dbWait_valid hk hl hx, if_neg (by simp [waitMet_eq_false hr hd])]
      rfl
    · rw [hwait, State.dbWait_valid hk hl hx]
      split
      · exact .inl rfl
      · exact .inr rfl
  · rw [exec_waitRegister, execWaitRegister, s.gateData_open _ ho hm, State.dbWait, hk, hl]
  -- SIGNAL, FENCE_QUERY and the event HEAD
  · rw [exec_signal, execSignal, s.gateData_open _ ho hm, State.dbSignal_valid hk hl hx]
  · rw [exec_signal, execSignal, s.gateData_open _ ho hm, State.dbSignal, hk, hl]
  · rw [exec_fenceQuery, execFenceQuery, s.gateData_open _ ho hm]
    exact congrArg _ (State.dbQuery_valid hk hx)
  · rw [exec_eventHead, execEventHead, s.gateData_open _ ho hm, State.dbEvent_eq hk, bfield_disarm]
    simp
  · rw [exec_eventArm, execEventArm, s.gateData_open _ ho hm, State.dbEvent_eq hk, bfield_arm]
    simp
  -- BAR4_WRITE and BAR4_SEG_WRITE
  · rw [exec_bar4Write, execBar4Write, s.gateData_open _ ho hm, ha]
  · rw [exec_bar4Write, execBar4Write, s.gateData_open _ ho hm, ha]
  · rw [exec_bar4SegWrite, execBar4SegWrite, s.gate_open _ ho, State.segWrite_maps ha hs]
  · rw [exec_bar4SegWrite, execBar4SegWrite, s.gate_open _ ho, State.segWrite_misaligned ha]

end Sys2Proof.Machine
end

section
/-! STEP_RETIRE of a step past its DEADLINE (R393). -/
namespace Sys2Proof.Machine

section
variable {s : State} {st : StepRec}

/-- A charge changes what the host interface holds only, where the running step's context is (R386). -/
theorem State.charge_host (n : Nat) : s.charge n = { s with host := (s.charge n).host } := by
  unfold State.charge
  split
  · rfl
  · simp only []
    split <;> rfl

/-! Learning a step's phase and making its last charge leave the tick and the scheduling block as they were. -/

theorem State.charge_phaseLearn_tick (n : Nat) : ((s.phaseLearn n).charge n).tick = s.tick := by
  rw [State.charge_host, State.phaseLearn_power]

theorem State.charge_phaseLearn_sched (n : Nat) : ((s.phaseLearn n).charge n).sched = s.sched := by
  rw [State.charge_host, State.phaseLearn_power]

theorem State.lateCount_tick : (s.lateCount st).tick = s.tick := by
  rw [State.lateCount]
  simp only []
  split <;> rfl

theorem State.lateCount_late (hd : stDeadline st.desc ≠ 0) (hlate : stDeadline st.desc < s.tick) :
    (s.lateCount st).sched.misses = BitVec.ofNat 16 (satInc 16 s.sched.misses.toNat) := by
  rw [State.lateCount]
  simp only []
  rw [if_pos ⟨hd, hlate⟩]

end

/-- A count below its limit goes up by one. -/
theorem ofNat_satInc {x : BitVec 16} (h : x < 0xFFFF) : BitVec.ofNat 16 (satInc 16 x.toNat) = x + 1 := by
  have hlt : x.toNat + 1 < 2 ^ 16 := Nat.succ_lt_succ (BitVec.lt_def.mp h)
  rw [satInc, if_pos hlt, BitVec.ofNat_add, BitVec.ofNat_toNat, BitVec.setWidth_eq]
  rfl

/-- Settles O43: the step retires as `State.stepRetire_running` says, and `State.lateCount` is all that its lateness adds. -/
theorem aStepPastItsDeadlineStillRetires : Obligations.AStepPastItsDeadlineStillRetires := by
  unfold Obligations.AStepPastItsDeadlineStillRetires
  intro s n k st hm hr hswitch hf hc hstep u v w x
  have hrun : (s.phaseLearn n).runningCtx n = some k := (State.phaseLearn_runningCtx n n).trans hr
  have hst : ((s.phaseLearn n).ctx k).step = some st := (congrArg _ (State.phaseLearn_ctx n k)).trans hstep
  have htick : u.tick = s.tick := State.charge_phaseLearn_tick n
  have hv : v = u.lateCount st := by
    simp only [v]
    rw [← htick]
    rfl
  have hvtick : v.tick = s.tick := by rw [hv, State.lateCount_tick, htick]
  refine ⟨?_, fun hd hlate hroom => ?_⟩
  · rw [exec_stepRetire_complete hm hr hswitch hf hc, State.stepRetire_running hrun hst, ← hv]
    simp only [x, w]
    rw [← hvtick]
    rfl
  · rw [hv, State.lateCount_late hd (htick.symm ▸ hlate), ofNat_satInc hroom, State.charge_phaseLearn_sched]

end Sys2Proof.Machine
end

section
/-! A step switched out and back: STOP_BOUNDARY, SPILL_SWAP, SPILL_COMPLETE, REFILL and REFILL_COMPLETE (R397 to R404). -/
namespace Sys2Proof.Machine

section
variable {s : State} {n : Slot} {k level : Nat}

/-- A step that a page request stops, or that is not promoted, is switched out (R394). -/
theorem State.stop_stands {paged : Bool} (h : paged = true ∨ s.isPromoted k = false) : (!paged && s.isPromoted k) = false := by
  obtain rfl | hk := h
  · rfl
  · rw [hk, Bool.and_false]

/-- No Hen of a spilled cell runs (R402). -/
theorem Cell.spilled_run (c : Cell) (h : HenIx) : c.spilled.hens[h].run = false := by
  rw [Cell.spilled]
  simp

/-- A cell of the slot takes its state and its live banks back, its Hens run on, and messages that waited leave (R403). -/
def State.resumed (s : State) (n : Nat) (im : CellSpill) : State :=
  match s.placed n im.lcell with
  | some p => ((s.restoreCell p im).setCell p (((s.restoreCell p im).cell p).runAgain im.ran)).pumpCell p
  | none => s

/-- Where the step's program still fits, its timetable is made active and no line of the level fails, a refill gives the cells back to the
context (R403). -/
theorem exec_refillComplete_resumes {x : SlotSched} {u t w : State} {st : StepRec} {sh : Shape} (hm : s.dbg.module = false)
    (hx : s.slotSched n = x) (hswitch : x.switch = .refilling k level) (he : (x.level level).ecc = false)
    (hload : s.stage.loading = none) (hwrite : s.ttMayWrite n = true)
    (hu : s.setSlotSched n { x.setLevel level {} with switch := .none } = u) (hst : (u.ctx k).step = some st)
    (hs : u.stepShape (u.partOf n) st.desc = some sh) (ha : u.activate n sh.list = (some t, w)) :
    let v := t.setCoach n { t.coach n with yieldTable := sh.yieldTable &&& 0x000FFFFFFFFFE000#64 }
    (∀ im ∈ (x.level level).cells, (v.spillFetch n level im).2 = none) →
    exec (.refillComplete n) s = .next ((((x.level level).cells.map fun im => (v.spillFetch n level im).1).foldl (fun s im => s.resumed n im)
      ((x.level level).cells.foldl (fun s im => s.fetchTouch n level im) v)).takeCells n k) := by
  intro v hclean
  have hbad : ((x.level level).cells.map fun im => v.spillFetch n level im).findSome? (·.2) = none :=
    List.findSome?_eq_none_iff.mpr (List.forall_mem_map.mpr hclean)
  have hgoes : (s.stage.loading.isSome || !s.ttMayWrite n) = false := by rw [hload, hwrite]; rfl
  subst hx hu
  rw [exec_refillComplete, execRefillComplete, s.onModule_run _ hm, hswitch]
  simp only [v] at hbad
  simp only [hgoes, hst, hs, ha, hbad, he, Bool.false_eq_true, if_false, List.foldl_map]
  rfl

end

/-- Settles O45: each command's conditions hold, so that it does what its definition says; of a refill whose lines are read without error
nothing is left but `State.resumed` for each cell. -/
theorem preemptionSpillsAndRefills : Obligations.PreemptionSpillsAndRefills := by
  unfold Obligations.PreemptionSpillsAndRefills
  intro s n k hm x
  refine ⟨fun paged level hr hstop hswitch hb hp hl ha => ?_, fun hr hstop hswitch hb hp => ?_,
    fun f paged level hswitch hframe hd hl => ?_, fun level hswitch hf => ?_, fun level hswitch hf => ?_, fun level l b => rfl,
    fun p => ⟨rfl, rfl, (s.cell p).spilled_run⟩, fun level hfree hl hk hlevel => ?_, ?_⟩
  -- STOP_BOUNDARY
  · rw [exec_stopBoundary, execStopBoundary, s.onModule_run _ hm]
    simp only [x] at hr hstop hswitch hl
    simp only [hr, hstop, hswitch, hb, State.stop_stands hp, hl, ha]
    rfl
  · rw [exec_stopBoundary, execStopBoundary, s.onModule_run _ hm]
    simp only [x] at hr hstop hswitch
    simp only [x, hr, hstop, hswitch, hb, hp]
    rfl
  -- SPILL_SWAP
  · have hgoes : (decide (s.stage.frame < f + 4) || !(s.lcellsOf n).all s.drained || !s.mayLoad n) = false := by
      rw [decide_eq_false (Nat.not_lt.mpr hframe), hd, hl]
      rfl
    rw [exec_spillSwap, execSpillSwap, s.onModule_run _ hm]
    simp only [x] at hswitch
    simp only [hswitch, hgoes]
    rfl
  -- SPILL_COMPLETE
  · rw [exec_spillComplete, execSpillComplete, s.onModule_run _ hm]
    simp only [x] at hswitch hf
    simp only [hswitch, hf, if_true]
  · rw [exec_spillComplete, execSpillComplete, s.onModule_run _ hm]
    simp only [x] at hswitch hf
    simp only [hswitch, hf]
    rfl
  -- REFILL and REFILL_COMPLETE
  · rw [exec_refill, execRefill, s.onModule_run _ hm]
    simp only [hfree, hl, hk, hlevel]
    rfl
  · intro level st sh t w hswitch _ he hload hwrite u hst hs ha
    exact exec_refillComplete_resumes hm rfl hswitch he hload hwrite rfl hst hs ha

end Sys2Proof.Machine
end

section
/-! Semaphore operations and the scheduling registers (R407, R409, R414). Of what O46 states, the operations and a write of an inheritance
cell hold in every state, and a write of SCHED_CLASS_c where the table of the classes is canonical. -/
namespace Sys2Proof.Machine

/-! What an operation of a cell that runs a context's step does (R407). -/

section
variable {s : State} {east : Bool} {m : GigMsg} {k op : Nat}

/-- An operation in its turn reaches its unit. -/
theorem exec_semaphore_inTurn (hm : s.dbg.module = false) {i : Instr}
    (hi : (i, op) ∈ [(.acquire east m, 0), (.release east m, 1), (.semTry east m, 2), (.semRead east m, 3), (.semSet east m, 4)])
    (ho : s.inOrder i = true) : exec i s = .next ((s.take i).semOp east m op) := by
  simp only [List.mem_cons, Prod.mk.injEq, List.not_mem_nil, or_false] at hi
  obtain ⟨rfl, rfl⟩ | ⟨rfl, rfl⟩ | ⟨rfl, rfl⟩ | ⟨rfl, rfl⟩ | ⟨rfl, rfl⟩ := hi
  · rw [exec_acquire, execAcquire, s.onModule_run _ hm, State.delivered_inTurn ho]
  · rw [exec_release, execRelease, s.onModule_run _ hm, State.delivered_inTurn ho]
  · rw [exec_semTry, execSemTry, s.onModule_run _ hm, State.delivered_inTurn ho]
  · rw [exec_semRead, execSemRead, s.onModule_run _ hm, State.delivered_inTurn ho]
  · rw [exec_semSet, execSemSet, s.onModule_run _ hm, State.delivered_inTurn ho]

theorem semArg_lt (m : GigMsg) : semArg m < 2 ^ 8 := Nat.mod_lt _ (by decide)

variable {n i : Nat} {q : GigMsg} {l : BitVec 27} {x : Semaphore} (hn : m.coach.toNat = n) (hk : s.cellCtx (bfield m.src 0 11) = some k)
  (hl : (s.cell (bfield m.src 0 11)).lcell = l) (hq : { m with src := BitVec.ofNat 28 l.toNat } = q) (hi : semIndex q = i)
  (hx : s.sem (semKey n i) = x)
include hn hk hl hq hi hx

theorem State.semOp_refused (hr : s.semRefuses east q op = true) : s.semOp east m op = s.semReply east n k q i x.value.toNat semBad := by
  simp only [State.semOp, hn, hk, hl, hq, hi, hx, hr, if_true]

/-- ACQUIRE and TRY take a unit of a semaphore above zero that has room for the context. -/
theorem State.semOp_grants (hop : op = 0 ∨ op = 2) (hr : s.semRefuses east q op = false) (hfree : x.value ≠ 0 ∧ x.room k = true) :
    s.semOp east m op = (s.setSem (semKey n i) (x.grant k l)).semReply east n k q i (x.value - 1).toNat semGranted := by
  have hvalue : (x.grant k l).value = x.value - 1 := rfl
  obtain rfl | rfl := hop
  · simp only [State.semOp, hn, hk, hl, hq, hi, hx, hr, Bool.false_eq_true, if_false, if_pos hfree, hvalue]
  · simp only [State.semOp, hn, hk, hl, hq, hi, hx, hr, Bool.false_eq_true, if_false, if_pos hfree, hvalue]

theorem State.semOp_try_busy (hr : s.semRefuses east q 2 = false) (hbusy : ¬(x.value ≠ 0 ∧ x.room k = true)) :
    s.semOp east m 2 = s.semReply east n k q i x.value.toNat semBusy := by
  simp only [State.semOp, hn, hk, hl, hq, hi, hx, hr, Bool.false_eq_true, if_false, hbusy, if_true]

theorem State.semOp_acquire_full (hr : s.semRefuses east q 0 = false) (hbusy : ¬(x.value ≠ 0 ∧ x.room k = true))
    (hfull : 1024 ≤ s.semWaiters east) : s.semOp east m 0 = s.semReply east n k q i x.value.toNat semFull := by
  simp only [State.semOp, hn, hk, hl, hq, hi, hx, hr, Bool.false_eq_true, if_false, hbusy, ge_iff_le, hfull, if_true]
  rfl

/-- Otherwise ACQUIRE waits, and where it is the slot's running step that waits, holders of the semaphore inherit (R409). -/
theorem State.semOp_acquire_waits (hr : s.semRefuses east q 0 = false) (hbusy : ¬(x.value ≠ 0 ∧ x.room k = true))
    (hroom : s.semWaiters east < 1024) :
    let v := s.setSem (semKey n i) { x with waiters := x.waiters ++ [(k, q)] }
    s.semOp east m 0 = if v.runningCtx n = some k then v.inherit n i else v := by
  simp only [State.semOp, hn, hk, hl, hq, hi, hx, hr, Bool.false_eq_true, if_false, hbusy, ge_iff_le, Nat.not_le.mpr hroom]
  rfl

theorem State.semOp_release (hr : s.semRefuses east q 1 = false) :
    let v : BitVec 8 := .ofNat 8 (satInc 8 x.value.toNat)
    let h := (x.holders.map fun e => if e.1 = k then (k, e.2 - 1) else e).filter fun e => e.2 != 0
    s.semOp east m 1 = ((s.setSem (semKey n i) { x with
      value := v
      holders := h
      grants := (dropFirst (k, l) x.grants).filter fun g => h.any (·.1 == g.1) }).semReply east n k q i v.toNat semDone).semGrant n i x.waiters.length := by
  simp only [State.semOp, hn, hk, hl, hq, hi, hx, hr, Bool.false_eq_true, if_false]

theorem State.semOp_read (hr : s.semRefuses east q 3 = false) : s.semOp east m 3 = s.semReply east n k q i x.value.toNat semDone := by
  simp only [State.semOp, hn, hk, hl, hq, hi, hx, hr, Bool.false_eq_true, if_false]

theorem State.semOp_set (hr : s.semRefuses east q 4 = false) :
    s.semOp east m 4 = ((s.setSem (semKey n i) { x with
      value := BitVec.ofNat 8 (semArg q), holders := [], grants := [] }).semReply east n k q i (semArg q) semDone).semGrant n i x.waiters.length := by
  have harg : (BitVec.ofNat 8 (semArg q)).toNat = semArg q := Nat.mod_eq_of_lt (semArg_lt q)
  simp only [State.semOp, hn, hk, hl, hq, hi, hx, hr, Bool.false_eq_true, if_false, harg]

end

/-! The scheduling registers (R414). -/

section
variable {s : State} {c : ClassIx} {r : RegionIx} {v : Word}

/-- The word of SCHED_CLASS_c that a write leaves, SCALE above SLACK; a SCALE of zero keeps the old one. -/
def classWord (old v : Word) : Word := put 40 (if bfield v 40 8 = 0 then bfield old 40 8 else bfield v 40 8) ||| put 0 (bfield v 0 40)

theorem bfield_lt {n : Nat} (v : BitVec n) (lo w : Nat) : bfield v lo w < 2 ^ w := Nat.mod_lt _ (Nat.two_pow_pos w)

theorem bfield_put_or_put {scale slack : Nat} (hscale : scale < 2 ^ 8) (hslack : slack < 2 ^ 40) :
    bfield (put 40 scale ||| put 0 slack) 0 40 = slack ∧ bfield (put 40 scale ||| put 0 slack) 40 8 = scale := by
  have hput : ∀ {lo a : Nat}, a * 2 ^ lo < 2 ^ 64 → (put lo a).toNat = a * 2 ^ lo := fun h => Nat.mod_eq_of_lt h
  have hword : (put 40 scale ||| put 0 slack).toNat = 2 ^ 40 * scale + slack := by
    rw [BitVec.toNat_or, hput (by omega), hput (by omega), Nat.mul_comm, Nat.pow_zero, Nat.mul_one, Nat.two_pow_add_eq_or_of_lt hslack]
  rw [bfield, bfield, hword, field, field]
  omega

theorem classWord_fields (old v : Word) : bfield (classWord old v) 0 40 = bfield v 0 40 ∧
    bfield (classWord old v) 40 8 = if bfield v 40 8 = 0 then bfield old 40 8 else bfield v 40 8 := by
  refine bfield_put_or_put ?_ (bfield_lt v 0 40)
  split
  · exact bfield_lt old 40 8
  · exact bfield_lt v 40 8

/-- A write replaces one class's word (R414). -/
theorem exec_schedClassWrite_eq (ho : s.pcieOpen = true) : exec (.schedClassWrite c v) s = .next { s with sched := { s.sched with
    classes := tset 0x10000000000 s.sched.classes c.val (classWord (tget 0x10000000000 s.sched.classes c.val) v) } } :=
  (exec_schedClassWrite s c v).trans (s.gate_open _ ho)

/-- In a canonical table of the classes the write sets SLACK and a SCALE that is not zero, and nothing else changes: what O46 states in
every state. -/
theorem exec_schedClassWrite_canonical (ho : s.pcieOpen = true) (hw : twf 0x10000000000 s.sched.classes = true) :
    ∃ t, exec (.schedClassWrite c v) s = .next t ∧ t.classSlack c.val = bfield v 0 40 ∧
      t.classScale c.val = (if bfield v 40 8 = 0 then s.classScale c.val else bfield v 40 8) ∧
      (∀ d : ClassIx, d ≠ c → t.classSlack d.val = s.classSlack d.val ∧ t.classScale d.val = s.classScale d.val) ∧
      t = { s with sched := { s.sched with classes := t.sched.classes } } := by
  obtain ⟨hslack, hscale⟩ := classWord_fields (tget 0x10000000000 s.sched.classes c.val) v
  refine ⟨_, exec_schedClassWrite_eq ho, ?_, ?_, fun d hd => ?_, rfl⟩
  · rw [State.classSlack, tget_tset_same hw, hslack]
  · rw [State.classScale, tget_tset_same hw, hscale, State.classScale]
  · have hother : d.val ≠ c.val := fun h => hd (Fin.ext h)
    rw [State.classSlack, State.classScale, tget_tset_ne hother, State.classSlack, State.classScale]
    exact ⟨rfl, rfl⟩

theorem exec_inheritCellWrite_inside (ho : s.pcieOpen = true)
    (h : v.getLsbD 63 = false ∨ (bfield v 0 11 < 1152 ∧ regionOf (bfield v 0 11) = r.val)) :
    exec (.inheritCellWrite r v) s = .next { s with sched := { s.sched with
      inherit := tset 0 s.sched.inherit r.val (v &&& 0x80000000000007FF#64) } } := by
  rw [exec_inheritCellWrite, execInheritCellWrite, s.gate_open _ ho, State.inheritWrite, if_neg]
  obtain h | ⟨hlt, hr⟩ := h
  · rw [h, Bool.false_and]
    exact Bool.false_ne_true
  · simp [hlt, hr]

theorem exec_inheritCellWrite_outside (ho : s.pcieOpen = true) (hv : v.getLsbD 63 = true)
    (h : 1152 ≤ bfield v 0 11 ∨ regionOf (bfield v 0 11) ≠ r.val) : exec (.inheritCellWrite r v) s = .next s := by
  rw [exec_inheritCellWrite, execInheritCellWrite, s.gate_open _ ho, State.inheritWrite, if_pos]
  simpa [hv] using h

end

/-- The module answers PCIe requests. Class 0 is listed twice: the entry that is read has SCALE 1 and SLACK 5, and the one behind it SCALE 1
and SLACK 7. -/
def classListedTwice : State :=
  { harness := { ({} : State).harness with ready := true }, sched := { classes := [(0, 0x10000000005), (0, 0x10000000007)] } }

/-- SCALE 1 with SLACK 0, which an unlisted class reads as, takes the entry out of the table and uncovers the other. -/
theorem classListedTwice_schedClassWrite :
    ∃ t, exec (.schedClassWrite 0 0x10000000000) classListedTwice = .next t ∧ t.classSlack 0 = 7 :=
  ⟨_, exec_schedClassWrite_eq (by decide), by decide⟩

/-- Refutes O46: in a table that lists a class twice, a write of SCALE 1 and SLACK 0 leaves a SLACK of 7, for it takes the first entry out
and uncovers the second. In a canonical table it sets both (`exec_schedClassWrite_canonical`). -/
theorem not_semaphoreOperationsAct : ¬ Obligations.SemaphoreOperationsAct := by
  unfold Obligations.SemaphoreOperationsAct
  intro h
  obtain ⟨⟨t, ht, hslack, -⟩, -⟩ := h.2 classListedTwice 0 0 0x10000000000 (by decide)
  obtain ⟨u, hu, hseven⟩ := classListedTwice_schedClassWrite
  obtain rfl : u = t := Host.Outcome.next.inj (hu.symm.trans ht)
  exact absurd (hseven.symm.trans hslack) (by decide)

end Sys2Proof.Machine
end

section
/-! One step (O57). -/
namespace Sys2Proof.Machine

theorem step_cons {s : State} {c : Instr} {rest : List Instr} (h : s.pending = c :: rest) :
    step s = exec c { s with pending := rest } := by
  rw [step, h]

theorem step_nil {s : State} (h : s.pending = []) : step s = .next s.idle := by
  rw [step, h]

/-- Without a reply waiting at the semaphore units, none leaves (R408). -/
theorem State.replyPump_of_no_replies {s : State} (h : s.sched.replies = []) : s.replyPump = s := by
  have hfold : s.sched.replies.foldl State.replyGo (s, []) = (s, s.sched.replies) := by rw [h]; rfl
  rw [State.replyPump, hfold]

/-- Settles O57: `step` answers by the two cases of its queue, and on an empty one only the replies could change more than the tick. -/
theorem stepRunsTheFrontCommand : Obligations.StepRunsTheFrontCommand := by
  unfold Obligations.StepRunsTheFrontCommand
  refine ⟨fun c rest s => step_cons rfl, fun s hp => ⟨step_nil hp, fun hr => ?_⟩, fun c rest s hp => step_cons hp⟩
  have hidle : s.idle = { s with tick := (s.tick + 1) % 2 ^ 64 } := State.replyPump_of_no_replies hr
  rw [step_nil hp, hidle]

end Sys2Proof.Machine
end

section
/-! Memory stays canonical (O59), part 1: the predicate, the operations, the memory. -/
namespace Sys2Proof.Machine

/-- Device memory and host memory are in their canonical form. -/
def State.MemOk (s : State) : Prop := Memory.wf s.mem ∧ Memory.wf s.hostMem

/-- The next state, where a command answers one, has its memories in canonical form. -/
def OutMemOk (o : Out) : Prop := ∀ ⦃t⦄, o = .next t → t.MemOk

/-- So has the state of an operation that may have none. -/
def OptMemOk (o : Option State) : Prop := ∀ ⦃t⦄, o = some t → t.MemOk

variable {s t : State}

theorem OutMemOk.next (hs : s.MemOk) : OutMemOk (.next s) := fun _ h => Host.Outcome.next.inj h ▸ hs

theorem OutMemOk.fault {f : Fault} : OutMemOk (.fault f) := fun _ h => by simp at h

theorem OutMemOk.ite {c : Prop} [Decidable c] {a b : Out} (ha : OutMemOk a) (hb : OutMemOk b) : OutMemOk (if c then a else b) := by
  split
  · exact ha
  · exact hb

theorem OutMemOk.dite {c : Prop} [Decidable c] {a : c → Out} {b : ¬ c → Out} (ha : ∀ h, OutMemOk (a h)) (hb : ∀ h, OutMemOk (b h)) :
    OutMemOk (if h : c then a h else b h) := by
  split
  · exact ha _
  · exact hb _

theorem OptMemOk.some (hs : s.MemOk) : OptMemOk (some s) := fun _ h => Option.some.inj h ▸ hs

theorem OptMemOk.none : OptMemOk none := fun _ h => by simp at h

theorem OptMemOk.ite {c : Prop} [Decidable c] {a b : Option State} (ha : OptMemOk a) (hb : OptMemOk b) :
    OptMemOk (if c then a else b) := by
  split
  · exact ha
  · exact hb

/-! What changes neither memory keeps them, as a branch, a sequence or a part of a pair keeps what its parts keep. -/

theorem State.MemOk.withMem {pending tick free flight outbox isL1 ceilFused cellEnable cells stage coaches coachRegs written writeSeq mcs llc
      llcWays wayConflict carve engines agents homeLines homes nonCaching ncNext muleCached muleGone lineKey refused retrying coh tlbAgents
      xlt host sched errs stable jbn harness power dbg mem} (hs : s.MemOk) (hm : Memory.wf mem) :
    State.MemOk {
      pending, tick, free, flight, outbox, isL1, ceilFused, cellEnable, cells, stage, coaches, coachRegs, mem, hostMem := s.hostMem
      written, writeSeq, mcs, llc, llcWays, wayConflict, carve, engines, agents, homeLines, homes, nonCaching, ncNext, muleCached, muleGone
      lineKey, refused, retrying, coh, tlbAgents, xlt, host, sched, errs, stable, jbn, harness, power, dbg } := ⟨hm, hs.2⟩

theorem State.MemOk.frame {pending tick free flight outbox isL1 ceilFused cellEnable cells stage coaches coachRegs written writeSeq mcs llc
      llcWays wayConflict carve engines agents homeLines homes nonCaching ncNext muleCached muleGone lineKey refused retrying coh tlbAgents
      xlt host sched errs stable jbn harness power dbg} (hs : s.MemOk) :
    State.MemOk {
      pending, tick, free, flight, outbox, isL1, ceilFused, cellEnable, cells, stage, coaches, coachRegs, mem := s.mem, hostMem := s.hostMem
      written, writeSeq, mcs, llc, llcWays, wayConflict, carve, engines, agents, homeLines, homes, nonCaching, ncNext, muleCached, muleGone
      lineKey, refused, retrying, coh, tlbAgents, xlt, host, sched, errs, stable, jbn, harness, power, dbg } := hs

theorem State.MemOk.ite {c : Prop} [Decidable c] (hs : s.MemOk) (ht : t.MemOk) : (if c then s else t).MemOk := by
  split
  · exact hs
  · exact ht

theorem State.MemOk.dite {c : Prop} [Decidable c] {s : c → State} {t : ¬ c → State} (hs : ∀ h, (s h).MemOk) (ht : ∀ h, (t h).MemOk) :
    (if h : c then s h else t h).MemOk := by
  split
  · exact hs _
  · exact ht _

theorem State.MemOk.foldl {α : Type} {l : List α} {f : State → α → State} (hs : s.MemOk) (hf : ∀ t x, t.MemOk → (f t x).MemOk) :
    (l.foldl f s).MemOk := by
  induction l generalizing s with
  | nil => exact hs
  | cons x l ih => exact ih (hf s x hs)

theorem State.MemOk.foldr {α : Type} {l : List α} {f : α → State → State} (hs : s.MemOk) (hf : ∀ t x, t.MemOk → (f x t).MemOk) :
    (l.foldr f s).MemOk := by
  induction l with
  | nil => exact hs
  | cons x l ih => exact hf _ x ih

theorem State.MemOk.of_snd {α : Type} {x : α × State} {a : α} (hs : x.2.MemOk) (h : x = (a, t)) : t.MemOk := by
  rw [h] at hs
  exact hs

theorem State.MemOk.of_fst {α : Type} {x : State × α} {a : α} (hs : x.1.MemOk) (h : x = (t, a)) : t.MemOk := by
  rw [h] at hs
  exact hs

theorem State.MemOk.of_snd_snd {α β : Type} {x : α × β × State} {a : α} {b : β} (hs : x.2.2.MemOk) (h : x = (a, b, t)) : t.MemOk := by
  rw [h] at hs
  exact hs

theorem State.MemOk.iteFst {α : Type} {c : Prop} [Decidable c] {x y : State × α} (hx : x.1.MemOk) (hy : y.1.MemOk) :
    (if c then x else y).1.MemOk := by
  split
  · exact hx
  · exact hy

theorem State.MemOk.iteSnd {α : Type} {c : Prop} [Decidable c] {x y : α × State} (hx : x.2.MemOk) (hy : y.2.MemOk) :
    (if c then x else y).2.MemOk := by
  split
  · exact hx
  · exact hy

theorem State.MemOk.foldl_fst {α β : Type} {l : List α} {f : State × β → α → State × β} {x : State × β} (hx : x.1.MemOk)
    (hf : ∀ y a, y.1.MemOk → (f y a).1.MemOk) : (l.foldl f x).1.MemOk := by
  induction l generalizing x with
  | nil => exact hx
  | cons a l ih => exact ih (hf x a hx)

/-! Memories stay canonical: the state's operations. -/

theorem State.MemOk.setCell {p c} (hs : s.MemOk) : (s.setCell p c).MemOk := hs.frame
theorem State.MemOk.setHen {p h x} (hs : s.MemOk) : (s.setHen p h x).MemOk := hs.setCell
theorem State.MemOk.setOx {p o} (hs : s.MemOk) : (s.setOx p o).MemOk := hs.setCell
theorem State.MemOk.setCoach {n c} (hs : s.MemOk) : (s.setCoach n c).MemOk := hs.frame
theorem State.MemOk.setSlotSched {n x} (hs : s.MemOk) : (s.setSlotSched n x).MemOk := hs.frame
theorem State.MemOk.setCtx {k x} (hs : s.MemOk) : (s.setCtx k x).MemOk := hs.frame
theorem State.MemOk.setSlice {k x} (hs : s.MemOk) : (s.setSlice k x).MemOk := hs.frame
theorem State.MemOk.setEngine {e x} (hs : s.MemOk) : (s.setEngine e x).MemOk := hs.frame
theorem State.MemOk.setMc {c x} (hs : s.MemOk) : (s.setMc c x).MemOk := hs.frame
theorem State.MemOk.setTt {n x} (hs : s.MemOk) : (s.setTt n x).MemOk := hs.frame
theorem State.MemOk.noteWrite {a n} (hs : s.MemOk) : (s.noteWrite a n).MemOk := hs.frame
theorem State.MemOk.noteKey {a n key} (hs : s.MemOk) : (s.noteKey a n key).MemOk := by
  fun_cases State.noteKey
  · exact hs
  · exact hs.frame
theorem State.MemOk.writeMem {a bs} (hs : s.MemOk) : (s.writeMem a bs).MemOk := by
  fun_cases State.writeMem
  · exact hs
  · exact hs.noteWrite.noteKey.withMem (Memory.wf_writeBytes hs.1)
theorem State.MemOk.countCell {p i n} (hs : s.MemOk) : (s.countCell p i n).MemOk := hs.setCell
theorem State.MemOk.countCoach {n i k} (hs : s.MemOk) : (s.countCoach n i k).MemOk := by
  fun_cases State.countCoach
  · exact hs
  · exact hs.frame
theorem State.MemOk.countGlobal {i k} (hs : s.MemOk) : (s.countGlobal i k).MemOk := hs.frame
theorem State.MemOk.post {a i} (hs : s.MemOk) : (s.post a i).MemOk := hs.frame
theorem State.MemOk.send {i} (hs : s.MemOk) : (s.send i).MemOk := hs.post
theorem State.MemOk.sendAll {l} (hs : s.MemOk) : (s.sendAll l).MemOk := hs.foldl fun _ _ h1 => h1.send
theorem State.MemOk.take {i} (hs : s.MemOk) : (s.take i).MemOk := hs.frame
theorem State.MemOk.sendFrom {a i} (hs : s.MemOk) : (s.sendFrom a i).MemOk := .post (.ite hs.countCell hs)
theorem State.MemOk.takeAt {a i} (hs : s.MemOk) : (s.takeAt a i).MemOk := by
  fun_cases State.takeAt
  · exact hs.take.countCell
  · exact hs.take
theorem State.MemOk.emit {o} (hs : s.MemOk) : (s.emit o).MemOk := hs.frame
theorem State.MemOk.writePhys {a bs} (hs : s.MemOk) : (s.writePhys a bs).MemOk := by
  fun_cases State.writePhys
  · exact hs.writeMem
  · exact ⟨hs.1, Memory.wf_writeBytes hs.2⟩
theorem State.MemOk.setMsixWord {k v} (hs : s.MemOk) : (s.setMsixWord k v).MemOk := hs.frame
theorem State.MemOk.msix {v} (hs : s.MemOk) : (s.msix v).MemOk := by
  fun_cases State.msix
  · exact hs
  · exact hs.frame
  · exact hs.emit
theorem State.MemOk.freeWord (hs : s.MemOk) : s.freeWord.2.MemOk := hs.frame
theorem State.MemOk.cellFault {p hen code tag} (hs : s.MemOk) : (s.cellFault p hen code tag).MemOk := hs.sendFrom
theorem State.MemOk.stepFault {n kind} (hs : s.MemOk) : (s.stepFault n kind).MemOk := hs.send
theorem State.MemOk.resumeModule (hs : s.MemOk) : s.resumeModule.MemOk := hs.frame
theorem State.MemOk.gate {f} (hs : s.MemOk) (hf : ∀ t, t.MemOk → OutMemOk (f t)) : OutMemOk (s.gate f) :=
  .ite (hf s hs) (.ite (.next hs) (.next hs.emit))
theorem State.MemOk.gateData {f} (hs : s.MemOk) (hf : ∀ t, t.MemOk → OutMemOk (f t)) : OutMemOk (s.gateData f) :=
  hs.gate fun t ht => .ite (.next ht.emit) (hf t ht)
theorem State.MemOk.onClock {p f} (hs : s.MemOk) (hf : ∀ t, t.MemOk → OutMemOk (f t)) : OutMemOk (s.onClock p f) := .ite (hf s hs) (.next hs)
theorem State.MemOk.onModule {f} (hs : s.MemOk) (hf : ∀ t, t.MemOk → OutMemOk (f t)) : OutMemOk (s.onModule f) := .ite (.next hs) (hf s hs)
theorem State.MemOk.delivered {i f} (hs : s.MemOk) (hf : ∀ t, t.MemOk → OutMemOk (f t)) : OutMemOk (s.delivered i f) :=
  .ite (hf s hs) (.next hs)
theorem State.MemOk.gateCell {p f} (hs : s.MemOk) (hf : ∀ t, t.MemOk → OutMemOk (f t)) : OutMemOk (s.gateCell p f) :=
  hs.gate fun t ht => .ite (.next ht) (hf t ht)

/-! Memories stay canonical: access counts. -/

theorem State.MemOk.acReport {g e} (hs : s.MemOk) : (s.acReport g e).MemOk := by
  fun_cases State.acReport
  · exact hs.frame
  · exact hs.writePhys.frame.msix
  · exact hs.writePhys.frame
theorem State.MemOk.acTouch {g part a lines} (hs : s.MemOk) : (s.acTouch g part a lines).MemOk := by
  fun_cases State.acTouch
  · exact hs
  · exact hs.frame.acReport
  · exact hs.frame

/-! Memories stay canonical: scratchpads. -/

theorem State.MemOk.putErr {bs} (hs : s.MemOk) : (s.putErr bs).MemOk := by
  fun_cases State.putErr
  · exact hs.frame
  · exact .frame (.ite hs hs.writeMem)
theorem State.MemOk.summaryUp {q place} (hs : s.MemOk) : (s.summaryUp q place).MemOk := by
  fun_cases State.summaryUp
  · exact hs
  · exact hs.frame
theorem State.MemOk.summaryError {kind struct_ part} (hs : s.MemOk) : (s.summaryError kind struct_ part).MemOk := by
  fun_cases State.summaryError
  · exact hs
  iterate 3 exact hs.summaryUp
  · exact hs
theorem State.MemOk.logErr {kind struct_ unit addr part pos value} (hs : s.MemOk) : (s.logErr kind struct_ unit addr part pos value).MemOk := by
  fun_cases State.logErr
  · exact hs.summaryError.putErr.frame
  · exact hs.summaryError.frame
  · exact hs.summaryError.putErr
theorem State.MemOk.spTouchWord {p w} (hs : s.MemOk) : (s.spTouchWord p w).MemOk := by
  fun_cases State.spTouchWord
  · exact hs.logErr.setCell.frame
  · exact hs.logErr.setCell
  · exact hs
theorem State.MemOk.spTouch {p a n} (hs : s.MemOk) : (s.spTouch p a n).MemOk := hs.foldl fun _ _ h1 => h1.spTouchWord
theorem State.MemOk.countSpRead {p a n} (hs : s.MemOk) : (s.countSpRead p a n).MemOk := hs.countCell
theorem State.MemOk.spFlipWrite {p a n} (hs : s.MemOk) : (s.spFlipWrite p a n).MemOk := by
  fun_cases State.spFlipWrite
  · exact hs.setCell.frame
  · exact hs
theorem State.MemOk.spWrite {p a bs} (hs : s.MemOk) : (s.spWrite p a bs).MemOk := by
  fun_cases State.spWrite
  · exact hs
  · exact .countCell (.spFlipWrite (.frame (.setCell (hs.foldl fun _ _ h1 => h1.spTouchWord))))

/-! Memories stay canonical: memory accesses. -/

theorem State.MemOk.countMem {l write m} (hs : s.MemOk) : (s.countMem l write m).MemOk := by
  fun_cases State.countMem
  · exact hs.setMc.countGlobal.countCoach
  · exact hs.setMc.countGlobal.countCoach.countGlobal.acTouch
  · exact hs.setMc.countGlobal.countCoach.countGlobal
theorem State.MemOk.countMemN {c k write m} (hs : s.MemOk) : (s.countMemN c k write m).MemOk := by
  fun_cases State.countMemN
  · exact hs.setMc.countGlobal
  · exact hs.setMc.countGlobal.countGlobal
theorem State.MemOk.countLlc {l hit m} (hs : s.MemOk) : (s.countLlc l hit m).MemOk := by
  fun_cases State.countLlc
  · exact hs
  · exact hs.countGlobal.countCoach
theorem State.MemOk.flipLine {l} (hs : s.MemOk) : (s.flipLine l).MemOk := by
  fun_cases State.flipLine <;> exact hs.frame
theorem State.MemOk.flipRange {a n} (hs : s.MemOk) : (s.flipRange a n).MemOk := hs.foldl fun _ _ h1 => .ite h1.flipLine h1
theorem State.MemOk.ctlWritten {l m} (hs : s.MemOk) : (s.ctlWritten l m).MemOk := hs.countMem.flipLine
theorem State.MemOk.countEcc {c ce} (hs : s.MemOk) : (s.countEcc c ce).MemOk := hs.frame
theorem State.MemOk.scrubWrite {l} (hs : s.MemOk) : (s.scrubWrite l).MemOk := hs.countEcc.ctlWritten
theorem State.MemOk.memCheck {l key} (hs : s.MemOk) : (s.memCheck l key).2.MemOk := by
  fun_cases State.memCheck <;> dsimp only
  · exact hs.logErr.countEcc
  · exact hs.logErr.countEcc
  · exact hs.frame
  · exact hs
  · exact hs.logErr.scrubWrite
theorem State.MemOk.memDemand {l key m} (hs : s.MemOk) : (s.memDemand l key m).2.MemOk := hs.countMem.memCheck
theorem State.MemOk.putLine {l d key} (hs : s.MemOk) : (s.putLine l d key).MemOk := by
  fun_cases State.putLine
  · exact hs
  · exact hs.noteKey.withMem (Memory.wf_writeBytes hs.1)
theorem State.MemOk.memPut {l d m} (hs : s.MemOk) : (s.memPut l d m).MemOk := hs.putLine.ctlWritten
theorem State.MemOk.llcDrop {l m} (hs : s.MemOk) : (s.llcDrop l m).MemOk := by
  fun_cases State.llcDrop
  · exact hs
  · exact hs.frame.ctlWritten
  · exact hs.frame
theorem State.MemOk.llcPlace {l e} (hs : s.MemOk) : (s.llcPlace l e).MemOk := hs.frame
theorem State.MemOk.llcAlloc {l who dirty under m} (hs : s.MemOk) : (s.llcAlloc l who dirty under m).MemOk := by
  unfold State.llcAlloc
  dsimp only
  split
  · exact hs.llcPlace
  · split
    · exact .ite hs.ctlWritten hs
    · split
      · exact hs.llcPlace
      · refine .llcPlace ?_
        split
        · exact hs.frame.llcDrop
        · exact hs.frame
theorem State.MemOk.homeRead {l who alloc key m} (hs : s.MemOk) : (s.homeRead l who alloc key m).2.MemOk := by
  fun_cases State.homeRead <;> dsimp only
  · exact hs.countLlc
  · exact (hs.countLlc.memDemand.of_snd ‹_›)
  · exact .ite (hs.countLlc.memDemand.of_snd ‹_›).llcAlloc (hs.countLlc.memDemand.of_snd ‹_›)
theorem State.MemOk.homeWrite {l who alloc d key m} (hs : s.MemOk) : (s.homeWrite l who alloc d key m).MemOk := by
  fun_cases State.homeWrite
  · exact hs.countLlc.putLine.llcAlloc
  · exact hs.countLlc.putLine.ctlWritten
theorem State.MemOk.chargeLines {a n write m} (hs : s.MemOk) : (s.chargeLines a n write m).MemOk := by
  fun_cases State.chargeLines
  · exact hs
  · exact hs.foldl fun _ _ h1 => .ite h1.countLlc h1.countLlc.countMem
theorem State.MemOk.llcLose (hs : s.MemOk) : s.llcLose.MemOk := .frame (hs.foldl fun _ _ h1 => h1.putLine)

end Sys2Proof.Machine
end

section
/-! Memory stays canonical (O59), part 2: the coherence protocol. -/
namespace Sys2Proof.Machine

variable {s t : State}

/-! Memories stay canonical: the coherence protocol. -/

theorem State.MemOk.setAgent {a l x} (hs : s.MemOk) : (s.setAgent a l x).MemOk := hs.frame
theorem State.MemOk.agentTo {a l st} (hs : s.MemOk) : (s.agentTo a l st).MemOk := hs.setAgent
theorem State.MemOk.request {a l i} (hs : s.MemOk) : (s.request a l i).MemOk := by
  fun_cases State.request
  · exact hs.sendFrom
  · exact hs.frame
theorem State.MemOk.loseReservation {a l} (hs : s.MemOk) : (s.loseReservation a l).MemOk := by
  fun_cases State.loseReservation
  · exact hs.setCell
  · exact hs
theorem State.MemOk.replaceLine {a l} (hs : s.MemOk) : (s.replaceLine a l).MemOk := by
  fun_cases State.replaceLine
  iterate 4 exact hs.loseReservation.agentTo.sendFrom
  · exact hs.loseReservation
theorem State.MemOk.makeRoom {a l} (hs : s.MemOk) : OptMemOk (s.makeRoom a l) := by
  fun_cases State.makeRoom
  · exact .some hs
  · exact .some hs.frame.replaceLine
  · exact .none
theorem State.MemOk.wantRead {a l sharedOnly} (hs : s.MemOk) : (s.wantRead a l sharedOnly).MemOk := by
  fun_cases State.wantRead
  · exact (hs.makeRoom ‹_›).agentTo.request
  · exact hs
  · exact hs
theorem State.MemOk.wantWrite {a l} (hs : s.MemOk) : (s.wantWrite a l).MemOk := by
  fun_cases State.wantWrite
  · exact hs
  · exact (hs.makeRoom ‹_›).agentTo.request
  · exact hs
  · exact hs.agentTo.request
  · exact hs.agentTo.request
  · exact hs
theorem State.MemOk.wantReserved {a l} (hs : s.MemOk) : (s.wantReserved a l).MemOk := by
  fun_cases State.wantReserved
  · exact hs.loseReservation.agentTo.request
  · exact hs.wantWrite
theorem State.MemOk.agentLose {a l st} (hs : s.MemOk) : (s.agentLose a l st).MemOk := hs.agentTo.loseReservation
theorem State.MemOk.onFwdS {a l req} (hs : s.MemOk) : (s.onFwdS a l req).MemOk := by
  fun_cases State.onFwdS
  iterate 7 exact hs.sendFrom.sendFrom.agentTo
  · exact hs.sendFrom
  · exact hs
theorem State.MemOk.onFwdM {a l req acks} (hs : s.MemOk) : (s.onFwdM a l req acks).MemOk := by
  fun_cases State.onFwdM
  iterate 7 exact hs.sendFrom.sendFrom.agentLose
  · exact hs.sendFrom
  · exact hs
theorem State.MemOk.onSnpData {a l} (hs : s.MemOk) : (s.onSnpData a l).MemOk := by
  fun_cases State.onSnpData
  iterate 7 exact hs.sendFrom.agentTo
  · exact hs.sendFrom
  · exact hs
theorem State.MemOk.onSnpInv {a l} (hs : s.MemOk) : (s.onSnpInv a l).MemOk := by
  fun_cases State.onSnpInv
  iterate 7 exact hs.sendFrom.agentLose
  · exact hs.sendFrom
  · exact hs
theorem State.MemOk.actDeferred {i} (hs : s.MemOk) : (s.actDeferred i).MemOk := by
  fun_cases State.actDeferred
  · exact hs.onFwdS
  · exact hs.onFwdM
  · exact hs.onSnpData
  · exact hs.onSnpInv
  · exact hs
theorem State.MemOk.drainDeferred {a l} (hs : s.MemOk) : (s.drainDeferred a l).MemOk := by
  fun_cases State.drainDeferred
  · exact hs.setAgent.foldl fun _ _ h1 => h1.actDeferred
  · exact hs
theorem State.MemOk.forwarded {a l i} (hs : s.MemOk) : (s.forwarded a l i).MemOk := by
  fun_cases State.forwarded
  · exact hs.setAgent
  · exact hs.actDeferred
theorem State.MemOk.invAgent {a l} (hs : s.MemOk) : (s.invAgent a l).MemOk := by
  fun_cases State.invAgent
  · exact hs.sendFrom.agentLose
  · exact hs.sendFrom.agentTo
  · exact hs.sendFrom.agentLose
  · exact hs.sendFrom.agentLose
  · exact hs.sendFrom
theorem State.MemOk.setHome {h x} (hs : s.MemOk) : (s.setHome h x).MemOk := hs.frame
theorem State.MemOk.noteServed {h l a} (hs : s.MemOk) : (s.noteServed h l a).MemOk := hs.setHome
theorem State.MemOk.setHomeLine {l x} (hs : s.MemOk) : (s.setHomeLine l x).MemOk := hs.frame
theorem State.MemOk.freePool {h q l} (hs : s.MemOk) : (s.freePool h q l).MemOk := by
  fun_cases State.freePool
  · exact hs
  · exact hs.setHome.send
theorem State.MemOk.freeReserved {h q} (hs : s.MemOk) : (s.freeReserved h q).MemOk := by
  fun_cases State.freeReserved
  · exact hs.freePool
  · exact hs
theorem State.MemOk.freeEntry {l r} (hs : s.MemOk) : (s.freeEntry l r).MemOk := by
  fun_cases State.freeEntry
  · exact hs.freePool
  · exact hs
theorem State.MemOk.sendInv {l t} (hs : s.MemOk) : (s.sendInv l t).MemOk := hs.sendAll
theorem State.MemOk.serve {l r mk} (hs : s.MemOk) : (s.serve l r mk).2.MemOk := by
  fun_cases State.serve <;> dsimp only
  · exact (hs.homeRead.of_snd ‹_›).noteServed.send
  · exact (hs.homeRead.of_snd ‹_›).send
theorem State.MemOk.noteAmo {l b} (hs : s.MemOk) : (s.noteAmo l b).MemOk := hs.noteWrite
theorem State.MemOk.doneShown {ep l b} (hs : s.MemOk) : (s.doneShown ep l b).MemOk := by
  fun_cases State.doneShown
  · exact hs
  · exact hs.setEngine
  · exact hs
theorem State.MemOk.homeAmo {l r b contended} (hs : s.MemOk) : (s.homeAmo l r b contended).MemOk := by
  fun_cases State.homeAmo
  · exact (hs.homeRead.of_snd ‹_›).send
  · exact (hs.homeRead.of_snd ‹_›).homeWrite.noteAmo.noteServed.doneShown.send
theorem State.MemOk.setNc {q} (hs : s.MemOk) : (s.setNc q).MemOk := hs.frame
theorem State.MemOk.ncPerform {l r} (hs : s.MemOk) : (s.ncPerform l r).MemOk := by
  unfold State.ncPerform
  extract_lets run read write
  have hrun : ∀ id f, (∀ q, (f q).1.MemOk) → (run id f).MemOk := by
    intro id f hf
    simp only [run]
    split
    · exact hs
    · exact (hf _).setNc
  clear_value run
  have hread : ∀ q a, (read q a).2.MemOk := fun _ _ => hs.homeRead
  split
  · refine hrun _ _ fun q => ?_
    split <;> exact (hread q _).of_snd ‹_›
  · refine hrun _ _ fun q => ?_
    split
    · exact hs.noteWrite.homeWrite
    · split
      · exact ((hread q _).of_snd ‹_›).noteWrite.homeWrite
      · exact (hread q _).of_snd ‹_›
  · refine hrun _ _ fun q => ?_
    split
    · exact ((hread q _).of_snd ‹_›).homeWrite.noteAmo
    · exact (hread q _).of_snd ‹_›
  · exact hs
theorem State.MemOk.muleAmo {l r x} (hs : s.MemOk) : (s.muleAmo l r x).MemOk := by
  fun_cases State.muleAmo
  iterate 3 exact .dite (fun _ => hs.send.setHomeLine) fun _ => hs.setHomeLine
  · exact hs.setHomeLine
  · exact hs.setHomeLine
theorem State.MemOk.homeAct {l x r} (hs : s.MemOk) : (s.homeAct l x r).MemOk := by
  unfold State.homeAct
  extract_lets h x' set phase getM
  have hgetM : ∀ a, (getM a).MemOk := by
    intro a
    simp only [getM]
    split
    · exact hs.send.sendInv.noteServed.setHomeLine
    · split
      · exact (hs.serve.of_snd ‹_›).setHomeLine
      · exact .ite (hs.serve.of_snd ‹_›).setHomeLine (hs.serve.of_snd ‹_›).sendInv.setHomeLine
  have hsnp : ∀ y, ((match x'.owner with | some o => s.send (.snpInv o l) | none => s).sendInv l y).MemOk := by
    intro y
    refine .sendInv ?_
    split
    · exact hs.send
    · exact hs
  split
  · split
    · exact hs.send.noteServed.setHomeLine
    · split
      · split <;> exact (hs.serve.of_snd ‹_›).setHomeLine
      · split <;> exact (hs.serve.of_snd ‹_›).setHomeLine
  · exact hgetM _
  · exact .ite (.ite hs.sendInv.noteServed.send.setHomeLine hs.sendInv.setHomeLine) (hgetM _)
  iterate 2 exact hs.send.setHomeLine
  · exact .ite hs.homeWrite.send.setHomeLine hs.send.setHomeLine
  · split
    · exact .ite hs.ncPerform.setHomeLine hs.send.setHomeLine
    · exact hs.ncPerform.setHomeLine
  · exact .ite (.ite hs.muleAmo hs.homeAmo.setHomeLine) (hsnp _).setHomeLine
  iterate 3 exact .ite (.ite hs.ncPerform.setHomeLine hs.muleAmo) (.ite hs.ncPerform.setHomeLine (hsnp _).setHomeLine)
theorem State.MemOk.homeActOO {l x r} (hs : s.MemOk) : (s.homeActOO l x r).MemOk := by
  unfold State.homeActOO
  extract_lets h set wait clear bring y own pass
  have hclear : ∀ k, (k ()).MemOk → (clear k).MemOk := fun k hk => .ite hk hs.sendInv.setHomeLine
  clear_value clear
  have hbring : ∀ k, (k ()).MemOk → (bring k).MemOk := by
    intro k hk
    simp only [bring]
    split
    · exact hk
    · exact hs.send.setHomeLine
  clear_value bring
  have hown : ∀ a, (own a).MemOk := by
    intro a
    simp only [own]
    split <;> exact (hs.serve.of_snd ‹_›).setHomeLine
  have hpass : ∀ a, (pass a).MemOk := by
    intro a
    simp only [pass]
    refine hclear _ ?_
    split
    · exact .ite (hown a) hs.send.noteServed.setHomeLine
    · exact hown a
  split
  · refine hbring _ ?_
    split <;> exact (hs.serve.of_snd ‹_›).setHomeLine
  iterate 3 exact hpass _
  iterate 2 exact hs.send.setHomeLine
  · exact .ite hs.homeWrite.send.setHomeLine hs.send.setHomeLine
  · exact hbring _ hs.ncPerform.setHomeLine
  iterate 3 exact hbring _ (hclear _ hs.ncPerform.setHomeLine)
  · exact hbring _ (hclear _ hs.homeAmo.setHomeLine)
theorem State.MemOk.homeServe {l x r} (hs : s.MemOk) : (s.homeServe l x r).MemOk := by
  fun_cases State.homeServe
  · exact .freeEntry (.ite hs.homeActOO hs.homeAct)
  · exact .ite hs.homeActOO hs.homeAct
theorem State.MemOk.homeRun {l k} (hs : s.MemOk) : (s.homeRun l k).MemOk := by
  induction k generalizing s l with
  | zero => exact hs
  | succ k ih =>
    unfold State.homeRun
    extract_lets free u x
    have hu : u.MemOk := hs.foldl fun _ _ h => ih h.setHomeLine
    clear_value u
    split
    · dsimp only
      split
      · refine ih (.freeEntry ?_)
        split
        · exact hu.setHomeLine.send
        · exact hu.setHomeLine
      · split
        · split
          · exact ih hu.homeServe
          · exact ih hu.frame.setHomeLine.setHomeLine
          · exact hu
        · exact ih hu.homeServe
    · exact hu
theorem State.MemOk.homeNext {l} (hs : s.MemOk) : (s.homeNext l).MemOk := hs.homeRun
theorem State.MemOk.homeJoin {l r} (hs : s.MemOk) : (s.homeJoin l r).MemOk := hs.setHomeLine.homeNext
theorem State.MemOk.atHome {l r i} (hs : s.MemOk) : (s.atHome l r i).MemOk := by
  fun_cases State.atHome
  · exact hs.homeJoin
  · exact hs.setHome.homeJoin
  · exact hs.setHome.frame.frame.send
theorem State.MemOk.homeEnd {l y r} (hs : s.MemOk) : (s.homeEnd l y r).MemOk := hs.setHomeLine.freeEntry.homeNext
theorem State.MemOk.homeFinish {l} (hs : s.MemOk) : (s.homeFinish l).MemOk := by
  fun_cases State.homeFinish
  · exact hs.homeEnd
  · exact .homeEnd (.ite hs.send hs)
  · exact hs.homeEnd
  · exact .homeEnd (.ite hs.send hs)
  · exact .homeEnd (.ite hs.noteServed.send hs.send)
  · exact .homeEnd (.ite hs.noteServed.send hs.send)
  · exact hs.ncPerform.homeEnd
  · exact hs.muleAmo
  · exact hs.homeAmo.homeEnd
  · exact hs.muleAmo
  · exact hs.ncPerform.homeEnd
  · exact hs.ncPerform.homeEnd
  · exact hs.setHomeLine.homeNext
  · exact hs
theorem State.MemOk.homeInvAck {l} (hs : s.MemOk) : (s.homeInvAck l).MemOk := hs.setHomeLine.homeFinish
theorem State.MemOk.homeFwd {a l code} (hs : s.MemOk) : (s.homeFwd a l code).MemOk := by
  fun_cases State.homeFwd
  · exact hs
  · exact hs.setHomeLine.serve
  · exact hs.setHomeLine
theorem State.MemOk.homeSnp {a l code} (hs : s.MemOk) : (s.homeSnp a l code).MemOk := by
  fun_cases State.homeSnp
  · exact .homeEnd (.homeFwd (.ite hs.frame hs))
  · exact .homeEnd (.homeFwd (.ite hs.frame hs))
  · exact .homeEnd (.of_snd (.serve (.homeFwd (.ite hs.frame hs))) ‹_›)
  · exact .homeEnd (.of_snd (.serve (.homeFwd (.ite hs.frame hs))) ‹_›)
  · exact .homeFinish (.setHomeLine (.of_snd (.serve (.homeFwd (.ite hs.frame hs))) ‹_›))
  · exact .homeFinish (.setHomeLine (.homeFwd (.ite hs.frame hs)))
  · exact .homeFinish (.setHomeLine (.homeFwd (.ite hs.frame hs)))
  · exact .homeEnd (.homeFwd (.ite hs.frame hs))
  · exact .homeFinish (.setHomeLine (.homeFwd (.ite hs.frame hs)))
  · exact .homeFwd (.ite hs.frame hs)
  · exact .homeFwd (.ite hs.frame hs)
theorem State.MemOk.homeWb {a l d} (hs : s.MemOk) : (s.homeWb a l d).MemOk := by
  fun_cases State.homeWb
  · exact hs.homeWrite.setHomeLine.homeFinish
  · exact hs
theorem State.MemOk.homeDataM {l d} (hs : s.MemOk) : (s.homeDataM l d).MemOk := by
  fun_cases State.homeDataM
  · exact hs.homeWrite.setHomeLine.homeFinish
  · exact hs
theorem State.MemOk.rereadTail {a l} (hs : s.MemOk) : (s.rereadTail a l).MemOk := by
  fun_cases State.rereadTail
  · exact hs.wantRead
  · exact hs
  · exact hs
theorem State.MemOk.writeBack {l m} (hs : s.MemOk) : (s.writeBack l m).MemOk := by
  fun_cases State.writeBack
  · exact hs.homeWrite
  · exact hs
theorem State.MemOk.uncache {l} (hs : s.MemOk) : (s.uncache l).MemOk := by
  fun_cases State.uncache
  · exact hs
  · exact hs.frame
theorem State.MemOk.flushLine {l discard m} (hs : s.MemOk) : (s.flushLine l discard m).MemOk :=
  .foldl (.uncache (.homeNext (.llcDrop (.setHomeLine (.foldl (.ite hs hs.writeBack) fun _ _ h1 => h1.agentLose))))) fun _ _ h1 => h1.rereadTail
theorem State.MemOk.cleanLine {l m} (hs : s.MemOk) : (s.cleanLine l m).MemOk := by
  unfold State.cleanLine
  dsimp only
  split
  · split
    · refine .ctlWritten (.llcPlace ?_)
      split
      · split
        · exact hs.writeBack.agentTo
        · exact hs.writeBack.agentTo.setHomeLine
        · exact hs.writeBack
      · exact hs.writeBack
    · split
      · split
        · exact hs.writeBack.agentTo
        · exact hs.writeBack.agentTo.setHomeLine
        · exact hs.writeBack
      · exact hs.writeBack
  · split
    · split
      · exact hs.writeBack.agentTo
      · exact hs.writeBack.agentTo.setHomeLine
      · exact hs.writeBack
    · exact hs.writeBack

end Sys2Proof.Machine
end

section
/-! Memory stays canonical (O59), part 3: the Ox, the Hens, the Gig. -/
namespace Sys2Proof.Machine

variable {s t : State}

/-! Memories stay canonical: the Ox. -/

theorem State.MemOk.oxFault {p earlier c kind addr} (hs : s.MemOk) : (s.oxFault p earlier c kind addr).MemOk := hs.setOx.cellFault
theorem execOxDispatch_memOk {p} (hs : s.MemOk) : OutMemOk (execOxDispatch p s) := by
  unfold execOxDispatch
  dsimp only
  refine hs.onClock fun _ h1 => ?_
  split
  · exact .next h1
  · split
    · exact .next h1
    · split
      · exact .next h1
      · split
        · exact .next h1.oxFault
        · exact .next h1.setOx
theorem execOxNop_memOk {p} (hs : s.MemOk) : OutMemOk (execOxNop p s) := hs.onClock fun _ h1 => .next h1.setOx
theorem execBarrier_memOk {p} (hs : s.MemOk) : OutMemOk (execBarrier p s) := hs.onClock fun _ h1 => .next h1.setOx
theorem State.MemOk.oxRead {p e} (hs : s.MemOk) : (s.oxRead p e).2.2.MemOk := (hs.foldl fun _ _ h => h.spTouch).countCell
theorem State.MemOk.chargeBusy {p k} (hs : s.MemOk) : (s.chargeBusy p k).MemOk := by
  fun_cases State.chargeBusy
  · exact hs
  · exact hs.setCtx
theorem State.MemOk.oxRun {p pipe op body cycles} (hs : s.MemOk) : (s.oxRun p pipe op body cycles).MemOk := by
  fun_cases State.oxRun
  · exact hs
  · exact ((hs.oxRead.of_snd_snd ‹_›).freeWord.of_snd ‹_›).setOx.setOx.countCoach.chargeBusy.oxFault
  · exact (hs.oxRead.of_snd_snd ‹_›).setOx.setOx.countCoach.chargeBusy
  · exact hs
theorem execWload_memOk {p} (hs : s.MemOk) : OutMemOk (execWload p s) := hs.onClock fun _ h1 => .next h1.oxRun
theorem execCbload_memOk {p} (hs : s.MemOk) : OutMemOk (execCbload p s) := hs.onClock fun _ h1 => .next h1.oxRun
theorem execTload_memOk {p} (hs : s.MemOk) : OutMemOk (execTload p s) := hs.onClock fun _ h1 => .next h1.oxRun
theorem execMma_memOk {p conflicts} (hs : s.MemOk) : OutMemOk (execMma p conflicts s) := hs.onClock fun _ h1 => .next h1.oxRun
theorem execAccload_memOk {p} (hs : s.MemOk) : OutMemOk (execAccload p s) := hs.onClock fun _ h1 => .next h1.oxRun
theorem State.MemOk.epiWrite {p x} (hs : s.MemOk) : (s.epiWrite p x).2.MemOk := by
  fun_induction State.epiWrite with
  | case1 => exact hs
  | case2 => exact hs.spWrite.spTouchWord
  | case3 _ _ _ _ _ ih => exact ih hs.spWrite
theorem State.MemOk.epiRun {p} (hs : s.MemOk) : (s.epiRun p).MemOk := by
  fun_cases State.epiRun
  · exact hs
  · exact (hs.oxRead.of_snd_snd ‹_›).oxFault
  · exact ((hs.oxRead.of_snd_snd ‹_›).epiWrite.of_snd ‹_›).setOx.oxFault
  · exact ((hs.oxRead.of_snd_snd ‹_›).epiWrite.of_snd ‹_›).setOx
  · exact hs
theorem execEpi_memOk {p} (hs : s.MemOk) : OutMemOk (execEpi p s) := by
  unfold execEpi
  refine hs.onClock fun _ h1 => ?_
  split
  · exact .fault
  · exact .next h1.epiRun
theorem execOxRetire_memOk {p} (hs : s.MemOk) : OutMemOk (execOxRetire p s) := by
  unfold execOxRetire
  dsimp only
  refine hs.onClock fun _ h1 => ?_
  split
  · exact .next h1
  · exact .ite (.next h1.setOx) (.next h1)
theorem execOxFlush_memOk {p} (hs : s.MemOk) : OutMemOk (execOxFlush p s) := hs.gateCell fun _ h1 => .next h1.setOx
theorem execOxSrSeedWrite_memOk {p v} (hs : s.MemOk) : OutMemOk (execOxSrSeedWrite p v s) := hs.gateCell fun _ h1 => .next h1.setOx

/-! Memories stay canonical: the logs. -/

theorem State.MemOk.devTouch {a n m} (hs : s.MemOk) : (s.devTouch a n m).MemOk := by
  fun_cases State.devTouch
  · exact hs
  · exact hs.foldl fun _ _ h1 => .ite h1.countLlc h1.countLlc.memDemand
theorem State.MemOk.devOwn {l a bs m} (hs : s.MemOk) : (s.devOwn l a bs m).MemOk := by
  fun_cases State.devOwn
  · exact hs
  · exact hs.flushLine
  · exact hs.foldl fun _ _ h1 => h1.setAgent
theorem State.MemOk.devLine {a bs m l} (hs : s.MemOk) : (s.devLine a bs m l).MemOk := by
  unfold State.devLine
  extract_lets u lo part put v
  have hput : ∀ w : State, w.MemOk → (put w).MemOk := fun w hw => hw.noteKey.withMem (Memory.wf_writeBytes hw.1)
  clear_value put
  have hv : v.MemOk := hs.devOwn.countLlc
  clear_value v
  split
  · exact hput _ hv.llcPlace
  · split
    · exact (hput _ hv).ctlWritten
    · split
      · exact (hput _ (hv.memDemand.of_snd ‹_›)).ctlWritten
      · exact hv.memDemand.of_snd ‹_›
theorem State.MemOk.devWrite {a bs m} (hs : s.MemOk) : (s.devWrite a bs m).MemOk := by
  fun_cases State.devWrite
  · exact hs.writePhys
  · exact hs
  · exact hs.noteWrite.foldl fun _ _ h1 => h1.devLine
theorem State.MemOk.partTouch {q a n} (hs : s.MemOk) : (s.partTouch q a n).MemOk := by
  fun_cases State.partTouch
  · exact hs.devTouch
  · exact hs
theorem State.MemOk.partWrite {q a bs} (hs : s.MemOk) : (s.partWrite q a bs).MemOk := by
  fun_cases State.partWrite
  · exact hs.devWrite
  · exact hs
theorem State.MemOk.logPush {kind origin part coach piece arg0 arg1} (hs : s.MemOk) : (s.logPush kind origin part coach piece arg0 arg1).MemOk :=
  hs.frame
theorem State.MemOk.logDrain (hs : s.MemOk) : s.logDrain.MemOk := by
  fun_cases State.logDrain
  · exact hs
  · exact hs.frame.devWrite
  · exact hs.frame.devWrite.frame
  · exact hs.frame.devWrite.frame.frame.logPush
theorem State.MemOk.logRoom (hs : s.MemOk) : s.logRoom.MemOk := by
  fun_cases State.logRoom
  · exact .ite hs hs.logDrain
  · exact .logDrain (.ite hs hs.logDrain)
theorem State.MemOk.logSignNow (hs : s.MemOk) : s.logSignNow.MemOk := by
  fun_cases State.logSignNow
  · exact hs
  · exact .msix (hs.foldl fun _ _ h1 => h1.logRoom.logPush)
theorem State.MemOk.logSpan {n} (hs : s.MemOk) : (s.logSpan n).MemOk := by
  fun_cases State.logSpan
  · exact hs.logSignNow
  · exact hs
theorem State.MemOk.log {kind origin part coach arg0 arg1} (hs : s.MemOk) : (s.log kind origin part coach arg0 arg1).MemOk :=
  hs.logRoom.logPush.logSpan
theorem State.MemOk.logWindow {off v} (hs : s.MemOk) : (s.logWindow off v).MemOk := hs.log
theorem execChangeLogDrain_memOk (hs : s.MemOk) : OutMemOk (execChangeLogDrain s) := .next hs.logDrain.logSpan
theorem State.MemOk.logSignWrite {v} (hs : s.MemOk) : (s.logSignWrite v).MemOk := by
  fun_cases State.logSignWrite
  · exact hs
  · exact hs.logWindow.logSignNow.logSpan
theorem execLogSign_memOk {v} (hs : s.MemOk) : OutMemOk (execLogSign v s) := hs.gate fun _ h1 => .next h1.logSignWrite

/-! Memories stay canonical: the access-count registers. -/

theorem execCountDecay_memOk (hs : s.MemOk) : OutMemOk (execCountDecay s) := hs.onModule fun _ h1 => .ite (.next h1) (.next h1.frame)
theorem State.MemOk.acCtrlWrite {v} (hs : s.MemOk) : (s.acCtrlWrite v).MemOk := hs.logWindow.frame
theorem State.MemOk.acBaseWrite {v} (hs : s.MemOk) : (s.acBaseWrite v).MemOk := hs.logWindow.frame
theorem execAcRingReset_memOk {base v} (hs : s.MemOk) : OutMemOk (execAcRingReset base v s) :=
  hs.gate fun _ h1 => .next (.ite h1.acBaseWrite h1.acCtrlWrite)

/-! Memories stay canonical: regulation. -/

theorem State.MemOk.setShare {c m v} (hs : s.MemOk) : (s.setShare c m v).MemOk := hs.setMc
theorem State.MemOk.guaranteeMiss {c m} (hs : s.MemOk) : (s.guaranteeMiss c m).MemOk := by
  fun_cases State.guaranteeMiss
  · exact .log (.ite (.msix (.ite hs.setMc.summaryUp hs.setMc)) (.ite hs.setMc.summaryUp hs.setMc))
  · exact .ite (.msix (.ite hs.setMc.summaryUp hs.setMc)) (.ite hs.setMc.summaryUp hs.setMc)
theorem execRegulationWindow_memOk {c waited} (hs : s.MemOk) : OutMemOk (execRegulationWindow c waited s) :=
  hs.onModule fun _ h1 => .ite (.next h1) (.next (.setMc (h1.foldl fun _ _ h2 => h2.guaranteeMiss)))
theorem State.MemOk.missLastWrite {c v} (hs : s.MemOk) : (s.missLastWrite c v).MemOk := by
  fun_cases State.missLastWrite
  · exact hs.setMc
  · exact hs
theorem execMcMissLastClear_memOk {c v} (hs : s.MemOk) : OutMemOk (execMcMissLastClear c v s) :=
  hs.gate fun _ h1 => .next h1.missLastWrite
theorem State.MemOk.mcShareWrite {c m v} (hs : s.MemOk) : (s.mcShareWrite c m v).MemOk := by
  fun_cases State.mcShareWrite
  · exact hs
  · exact hs.setMc
  · exact hs.setShare
theorem execMcShareWrite_memOk {c m v} (hs : s.MemOk) : OutMemOk (execMcShareWrite c m v s) :=
  hs.gate fun _ h1 => .next h1.mcShareWrite
theorem execRefreshChange_memOk {c mode} (hs : s.MemOk) : OutMemOk (execRefreshChange c mode s) :=
  hs.onModule fun _ h1 => .next (.ite h1.setMc h1)
theorem State.MemOk.llcWaysWrite {k v} (hs : s.MemOk) : (s.llcWaysWrite k v).MemOk := by
  fun_cases State.llcWaysWrite
  · exact hs
  · exact hs.logWindow.frame
  · exact hs.frame
theorem execLlcWaysWrite_memOk {k v} (hs : s.MemOk) : OutMemOk (execLlcWaysWrite k v s) := hs.gate fun _ h1 => .next h1.llcWaysWrite
theorem State.MemOk.llcStrict {q} (hs : s.MemOk) : (s.llcStrict q).MemOk := hs.foldl fun _ _ h1 => h1.llcDrop

/-! Memories stay canonical: the Hens. -/

theorem State.MemOk.released {t p} (ht : t.MemOk) : (s.released t p).MemOk := ht.foldl fun _ _ h => h.drainDeferred
theorem State.MemOk.clearReserved {p} (hs : s.MemOk) : (s.clearReserved p).MemOk := hs.setCell.released
theorem State.MemOk.noteYield {p} (hs : s.MemOk) : (s.noteYield p).MemOk := by
  fun_cases State.noteYield
  · exact hs
  · exact hs.clearReserved
  · exact hs.clearReserved
  · exact hs.clearReserved.setCell.frame
theorem State.MemOk.raise {p h cause tval} (hs : s.MemOk) : (s.raise p h cause tval).MemOk := by
  fun_cases State.raise
  · exact hs.setHen
  · exact hs.setHen.cellFault.noteYield
theorem State.MemOk.l1Miss {p pasid va w x who} (hs : s.MemOk) : (s.l1Miss p pasid va w x who).MemOk := by
  fun_cases State.l1Miss
  · exact hs.setCell
  · exact hs
  · exact hs.setCell.sendFrom
  · exact hs.setCell
theorem State.MemOk.unwait {p who} (hs : s.MemOk) : (s.unwait p who).MemOk := hs.setCell
theorem State.MemOk.xlat {p h acc va t} (hs : s.MemOk) (ht : s.xlat p h acc va = .miss t) : t.MemOk := by
  unfold State.xlat at ht
  dsimp only at ht
  split at ht
  · split at ht <;> nomatch ht
  · split at ht
    · nomatch ht
    · split at ht
      · nomatch ht
      · split at ht
        · split at ht <;> nomatch ht
        · split at ht
          · nomatch ht
          · exact Xlat.miss.inj ht ▸ hs.l1Miss
theorem State.MemOk.checkInvs {p} (hs : s.MemOk) : (s.checkInvs p).MemOk := by
  fun_cases State.checkInvs
  · exact hs
  · exact hs.setCell.sendAll.countCell
  · exact hs.setCell
theorem State.MemOk.fetch {p h pc len t} (hs : s.MemOk) (ht : s.fetch p h pc len = .miss t) : t.MemOk := by
  unfold State.fetch at ht
  split at ht
  · nomatch ht
  · exact Fetched.miss.inj ht ▸ hs.xlat ‹_›
  · split at ht
    · nomatch ht
    · split at ht
      · nomatch ht
      · exact Fetched.miss.inj ht ▸ hs.xlat ‹_›
      · nomatch ht
theorem State.MemOk.henStep {p h i len f} (hs : s.MemOk) (hf : ∀ t, t.MemOk → OutMemOk (f t)) : OutMemOk (s.henStep p h i len f) := by
  obtain h | ⟨va, hva, h⟩ | ⟨t, ht, h⟩ | h | h := s.henStep_cases p h i len f <;> rw [h]
  · exact .next hs
  · exact .next hs.raise
  · exact .next (hs.fetch ht).setHen
  · exact .fault
  · exact hf _ hs.setHen
theorem State.MemOk.stallIn {p h i} (hs : s.MemOk) : OutMemOk (s.stallIn p h i) := .next hs.setHen
theorem State.MemOk.done {p h len f} (hs : s.MemOk) : (s.done p h len f).MemOk := hs.setHen.countCell
theorem spLoad_memOk {p h i rd rs1 imm n f} (hs : s.MemOk) : OutMemOk (spLoad p h i rd rs1 imm n f s) := by
  unfold spLoad
  dsimp only
  refine hs.henStep fun _ h1 => ?_
  split
  · exact .next h1.raise
  · split
    · exact .next h1.raise
    · split
      · exact .next h1.spTouch.raise
      · exact .next h1.spTouch.countSpRead.done
theorem spStore_memOk {p h i rs2 rs1 imm n} (hs : s.MemOk) : OutMemOk (spStore p h i rs2 rs1 imm n s) := by
  unfold spStore
  dsimp only
  refine hs.henStep fun _ h1 => ?_
  split
  · exact .next h1.raise
  · split
    · exact .fault
    · split
      · exact .next h1.spTouchWord.raise
      · exact .next h1.spWrite.done
theorem execSplB_memOk {p h rd rs1 imm} (hs : s.MemOk) : OutMemOk (execSplB p h rd rs1 imm s) := spLoad_memOk hs
theorem execSplH_memOk {p h rd rs1 imm} (hs : s.MemOk) : OutMemOk (execSplH p h rd rs1 imm s) := spLoad_memOk hs
theorem execSplW_memOk {p h rd rs1 imm} (hs : s.MemOk) : OutMemOk (execSplW p h rd rs1 imm s) := spLoad_memOk hs
theorem execSplD_memOk {p h rd rs1 imm} (hs : s.MemOk) : OutMemOk (execSplD p h rd rs1 imm s) := spLoad_memOk hs
theorem execSplBu_memOk {p h rd rs1 imm} (hs : s.MemOk) : OutMemOk (execSplBu p h rd rs1 imm s) := spLoad_memOk hs
theorem execSplHu_memOk {p h rd rs1 imm} (hs : s.MemOk) : OutMemOk (execSplHu p h rd rs1 imm s) := spLoad_memOk hs
theorem execSplWu_memOk {p h rd rs1 imm} (hs : s.MemOk) : OutMemOk (execSplWu p h rd rs1 imm s) := spLoad_memOk hs
theorem execSpsB_memOk {p h rs2 rs1 imm} (hs : s.MemOk) : OutMemOk (execSpsB p h rs2 rs1 imm s) := spStore_memOk hs
theorem execSpsH_memOk {p h rs2 rs1 imm} (hs : s.MemOk) : OutMemOk (execSpsH p h rs2 rs1 imm s) := spStore_memOk hs
theorem execSpsW_memOk {p h rs2 rs1 imm} (hs : s.MemOk) : OutMemOk (execSpsW p h rs2 rs1 imm s) := spStore_memOk hs
theorem execSpsD_memOk {p h rs2 rs1 imm} (hs : s.MemOk) : OutMemOk (execSpsD p h rs2 rs1 imm s) := spStore_memOk hs
theorem execVsplV_memOk {p h vd rs1} (hs : s.MemOk) : OutMemOk (execVsplV p h vd rs1 s) := by
  unfold execVsplV
  dsimp only
  refine hs.henStep fun _ h1 => ?_
  split
  · exact .next h1.raise
  · split
    · exact .next h1.raise
    · split
      · exact .next h1.raise
      · split
        · exact .next h1.spTouch.raise
        · exact .next h1.spTouch.countSpRead.done
theorem execVspsV_memOk {p h vs3 rs1} (hs : s.MemOk) : OutMemOk (execVspsV p h vs3 rs1 s) := by
  unfold execVspsV
  dsimp only
  refine hs.henStep fun _ h1 => ?_
  split
  · exact .next h1.raise
  · split
    · exact .next h1.raise
    · split
      · exact .fault
      · split
        · exact .next h1.spTouchWord.raise
        · exact .next h1.spWrite.done
theorem execOxIssue_memOk {p h vs2} (hs : s.MemOk) : OutMemOk (execOxIssue p h vs2 s) :=
  hs.henStep fun _ h1 => .ite (.next h1.done) (.ite h1.stallIn (.next h1.setOx.done))
theorem execOxWait_memOk {p h rs1} (hs : s.MemOk) : OutMemOk (execOxWait p h rs1 s) :=
  hs.henStep fun _ h1 => .ite (.next h1.raise) (.ite (.next h1.done) h1.stallIn)
theorem execDrayIssue_memOk {p h vs2 d} (hs : s.MemOk) : OutMemOk (execDrayIssue p h vs2 d s) :=
  hs.henStep fun _ h1 => .ite (.next h1.done) (.ite h1.stallIn (.next h1.setCell.done))
theorem execDrayWait_memOk {p h rs1 d} (hs : s.MemOk) : OutMemOk (execDrayWait p h rs1 d s) :=
  hs.henStep fun _ h1 => .ite (.next h1.done) h1.stallIn
theorem State.MemOk.countDiscard {type} (hs : s.MemOk) : (s.countDiscard type).MemOk := by
  fun_cases State.countDiscard
  · exact hs.frame
  · exact hs
theorem State.MemOk.gigPump {p h k} (hs : s.MemOk) : (s.gigPump p h k).MemOk := by
  induction k generalizing s with
  | zero => exact hs
  | succ k ih =>
    unfold State.gigPump
    extract_lets c x
    split
    · exact hs
    · extract_lets phys drop cell reject sem
      have hdrop : drop.MemOk := hs.setHen
      have hreject : reject.MemOk := ih hdrop.setCell.countDiscard
      have hsem : ∀ east, (sem east).MemOk := fun _ => ih hdrop.sendFrom
      refine .ite hs (.ite (.ite hreject ?_) (.ite (hsem _) (.ite (hsem _) (.ite (ih hdrop.sendFrom) hreject))))
      split
      · exact hreject
      · exact .dite (fun _ => hs.setHen.sendFrom) fun _ => hreject
theorem execGigSend_memOk {p h vs2} (hs : s.MemOk) : OutMemOk (execGigSend p h vs2 s) :=
  hs.henStep fun _ h1 => .ite h1.stallIn (.ite (.next h1.done.setCell) (.next h1.done.gigPump))
theorem execGigRecv_memOk {p h vd} (hs : s.MemOk) : OutMemOk (execGigRecv p h vd s) := by
  unfold execGigRecv
  dsimp only
  refine hs.henStep fun _ h1 => ?_
  split
  · exact h1.stallIn
  · exact .next h1.done
theorem execBankGive_memOk {p h rd rs1 rs2} (hs : s.MemOk) : OutMemOk (execBankGive p h rd rs1 rs2 s) :=
  hs.henStep fun _ h1 => .ite h1.stallIn (.ite (.next h1.raise) (.ite (.next h1.done) h1.setCell.stallIn))
theorem State.MemOk.endGive {p h old} (hs : s.MemOk) : (s.endGive p h old).MemOk := by
  fun_cases State.endGive
  · exact hs.done
  · exact hs
theorem execBankHandover_memOk {p b} (hs : s.MemOk) : OutMemOk (execBankHandover p b s) := by
  unfold execBankHandover
  dsimp only
  refine hs.onClock fun _ h1 => ?_
  split
  · exact .next h1
  · exact .next (.dite (fun _ => h1.setCell.endGive) fun _ => h1.setCell)
theorem State.MemOk.bankOwnWrite {p b v} (hs : s.MemOk) : (s.bankOwnWrite p b v).MemOk := by
  fun_cases State.bankOwnWrite
  · exact hs
  · exact hs.setCell
theorem execBankOwnWrite_memOk {p b v} (hs : s.MemOk) : OutMemOk (execBankOwnWrite p b v s) :=
  hs.gateCell fun _ h1 => .next h1.bankOwnWrite
theorem execBankOwner_memOk {p h rd rs1} (hs : s.MemOk) : OutMemOk (execBankOwner p h rd rs1 s) :=
  hs.henStep fun _ h1 => .next h1.done
theorem execEpochGet_memOk {p h rd} (hs : s.MemOk) : OutMemOk (execEpochGet p h rd s) := hs.henStep fun _ h1 => .next h1.done
theorem State.MemOk.yieldEnded {p} (hs : s.MemOk) : (s.yieldEnded p).MemOk := hs.frame
theorem execYield_memOk {p h id} (hs : s.MemOk) : OutMemOk (execYield p h id s) :=
  hs.henStep fun _ h1 => .ite (.next h1.setHen.noteYield) (.next h1.done)
theorem State.MemOk.leaveYield {p} (hs : s.MemOk) : (s.leaveYield p).MemOk := hs.setCell.yieldEnded
theorem execEcall_memOk {p h} (hs : s.MemOk) : OutMemOk (execEcall p h s) := hs.henStep fun _ h1 => .next h1.setHen
theorem execEbreak_memOk {p h c} (hs : s.MemOk) : OutMemOk (execEbreak p h c s) := hs.henStep fun _ h1 => .next h1.raise
theorem State.MemOk.unquiesce {p} (hs : s.MemOk) : (s.unquiesce p).MemOk := by
  fun_cases State.unquiesce
  · exact hs.setCell.yieldEnded.setCoach
  · exact hs.setCell.yieldEnded
theorem execInterrupt_memOk {p h} (hs : s.MemOk) : OutMemOk (execInterrupt p h s) := by
  unfold execInterrupt
  refine hs.onClock fun u h1 => ?_
  extract_lets x s1 s2
  have h2 : s1.MemOk := .unwait (.ite h1.unquiesce h1)
  have h3 : s2.MemOk := .ite h2.done h2
  split
  · exact .next h1
  · exact .ite (.next h1) (.next (.ite h3.setHen h3))
theorem execMtip_memOk {p h} (hs : s.MemOk) : OutMemOk (execMtip p h s) := hs.onClock fun _ h1 => .ite (.next h1.done) (.next h1)
theorem execWfi_memOk {p h} (hs : s.MemOk) : OutMemOk (execWfi p h s) := hs.henStep fun _ h1 => .ite (.next h1.done) h1.stallIn
theorem execMret_memOk {p h} (hs : s.MemOk) : OutMemOk (execMret p h s) :=
  hs.henStep fun _ h1 => .ite (.next h1.raise) (.next h1.setHen.countCell)
theorem execFinishProgram_memOk {p h} (hs : s.MemOk) : OutMemOk (execFinishProgram p h s) :=
  hs.onClock fun _ h1 => .ite (.next h1) (.next h1.setHen.noteYield)
theorem State.MemOk.henCtrl {p h v} (hs : s.MemOk) : (s.henCtrl p h v).MemOk := by
  fun_cases State.henCtrl
  · exact .checkInvs (.noteYield (.setHen (.ite hs.setCell.unwait hs)))
  · exact .noteYield (.setHen (.ite hs.setCell.unwait hs))
theorem execHenReset_memOk {p h v} (hs : s.MemOk) : OutMemOk (execHenReset p h v s) := hs.gateCell fun _ h1 => .next h1.henCtrl
theorem execHenRun_memOk {p h v} (hs : s.MemOk) : OutMemOk (execHenRun p h v s) := hs.gateCell fun _ h1 => .next h1.henCtrl
theorem execHenStop_memOk {p h v} (hs : s.MemOk) : OutMemOk (execHenStop p h v s) := hs.gateCell fun _ h1 => .next h1.henCtrl
theorem execSoftInt_memOk {p h b} (hs : s.MemOk) : OutMemOk (execSoftInt p h b s) := hs.gateCell fun _ h1 => .next h1.setHen

/-! Memories stay canonical: the Hens' control registers. -/

theorem State.MemOk.readCycle {p h} (hs : s.MemOk) : (s.readCycle p h).2.MemOk := by
  fun_cases State.readCycle <;> dsimp only
  · exact hs
  · exact (hs.freeWord.of_snd ‹_›)
theorem State.MemOk.readHpm {p h n} (hs : s.MemOk) : (s.readHpm p h n).2.MemOk := by
  fun_cases State.readHpm
  · exact hs
  · exact hs.freeWord
theorem State.MemOk.csrRead {p h csr x} (hs : s.MemOk) (ht : s.csrRead p h csr = some x) : x.2.MemOk := by
  have hr (v : Word) : ∀ y, some (v, s) = some y → y.2.MemOk := fun y hy => Option.some.inj hy ▸ hs
  have hopt (b : Bool) (v : Word) : ∀ y, (if b then none else some (v, s)) = some y → y.2.MemOk := by
    intro y hy
    split at hy
    · nomatch hy
    · exact hr v y hy
  have hcycle : ∀ y, some (s.readCycle p h) = some y → y.2.MemOk := fun y hy => Option.some.inj hy ▸ hs.readCycle
  have hhpm (n : Nat) : ∀ y, some (s.readHpm p h n) = some y → y.2.MemOk := fun y hy => Option.some.inj hy ▸ hs.readHpm
  have hif (c : Prop) [Decidable c] (o : Option (Word × State)) (ho : ∀ y, o = some y → y.2.MemOk) :
      ∀ y, (if c then o else none) = some y → y.2.MemOk := by
    intro y hy
    split at hy
    · exact ho y hy
    · nomatch hy
  revert x
  unfold State.csrRead
  extract_lets y c r n fs vs
  have hfs (v : Nat) : ∀ y, fs v = some y → y.2.MemOk := hopt _ _
  have hvs (v : Nat) : ∀ y, vs v = some y → y.2.MemOk := hopt _ _
  split
  iterate 3 exact @hfs _
  iterate 7 exact @hvs _
  iterate 12 exact @hr _
  · exact @hcycle
  · exact @hr _
  · exact @hif _ _ _ hcycle
  · exact @hif _ _ _ (hr _)
  · exact @hif _ _ _ (hr _)
  iterate 19 exact @hr _
  · split
    · exact @hr _
    · split
      · exact @hhpm _
      · split
        · exact @hif _ _ _ (hhpm _)
        · exact fun _ hx => nomatch hx
theorem State.MemOk.csrWrite {p h csr v} (hs : s.MemOk) : (s.csrWrite p h csr v).MemOk := by
  fun_cases State.csrWrite
  iterate 18 exact hs.setHen
  · exact hs.setOx
  · exact hs.setHen
  · exact hs.setOx
  · exact hs
  · exact hs.setHen
  · exact hs.setHen
  · exact hs
theorem execCsrAccess_memOk {p h op imm csr rd rs1} (hs : s.MemOk) : OutMemOk (execCsrAccess p h op imm csr rd rs1 s) := by
  unfold execCsrAccess
  dsimp only
  refine hs.henStep fun _ h1 => ?_
  split
  · exact .next h1.raise
  · split
    · exact .next h1.raise
    · exact .next (.ite (h1.csrRead ‹_›).done.csrWrite (h1.csrRead ‹_›).done)

/-! Memories stay canonical: Gig messages. -/

theorem State.MemOk.gigTakenAt {m} (hs : s.MemOk) : (s.gigTakenAt m).MemOk := by
  fun_cases State.gigTakenAt
  · exact hs
  · exact hs.setCell
  · exact hs.setHen.gigPump
theorem State.MemOk.gigDeliver {p m} (hs : s.MemOk) : (s.gigDeliver p m).MemOk := hs.setHen
theorem execUser_memOk {p m} (hs : s.MemOk) : OutMemOk (execUser p m s) := by
  unfold execUser
  dsimp only
  refine hs.onModule fun _ h1 => ?_
  refine h1.delivered fun _ h2 => ?_
  split
  · exact .next h2.takeAt.gigDeliver.gigTakenAt
  · split
    · exact .next h2.takeAt
    · exact .dite (fun _ => .next h2.takeAt.sendFrom) fun _ => .next h2.takeAt
theorem execSemReply_memOk {p m} (hs : s.MemOk) : OutMemOk (execSemReply p m s) := by
  unfold execSemReply
  dsimp only
  refine hs.onModule fun _ h1 => ?_
  refine h1.delivered fun _ h2 => ?_
  split
  · exact .next h2.takeAt.gigDeliver
  · split
    · exact .next h2.take.countCell.countCell.frame
    · exact .next h2.take.countCell.countCell.frame
theorem execNack_memOk {p h moved} (hs : s.MemOk) : OutMemOk (execNack p h moved s) := by
  unfold execNack
  dsimp only
  refine hs.onModule fun _ h1 => ?_
  refine h1.delivered fun _ h2 => ?_
  split
  · exact .next h2.takeAt.setCell
  · exact .next h2.takeAt.setHen
theorem execGigResend_memOk {p h} (hs : s.MemOk) : OutMemOk (execGigResend p h s) :=
  hs.onClock fun _ h1 => .ite (.next h1) (.next h1.setHen.setCell.gigPump)
theorem execDoorbell_memOk {p m} (hs : s.MemOk) : OutMemOk (execDoorbell p m s) :=
  hs.onModule fun _ h1 => h1.delivered fun _ h2 => .next h2.takeAt.setHen
theorem execGigDoorbellRead_memOk {p h} (hs : s.MemOk) : OutMemOk (execGigDoorbellRead p h s) :=
  hs.onClock fun _ h1 => .next (.ite h1.setHen h1)
theorem State.MemOk.askYield {p dc} (hs : s.MemOk) : (s.askYield p dc).MemOk := hs.setCell.noteYield
theorem execYieldReq_memOk {p m} (hs : s.MemOk) : OutMemOk (execYieldReq p m s) :=
  hs.onModule fun _ h1 => h1.delivered fun _ h2 => .next h2.takeAt.yieldEnded.askYield
theorem execEpochSet_memOk {p m} (hs : s.MemOk) : OutMemOk (execEpochSet p m s) :=
  hs.onModule fun _ h1 => h1.delivered fun _ h2 => .next h2.takeAt.setCell
theorem State.MemOk.setFreq {p target} (hs : s.MemOk) : (s.setFreq p target).MemOk := hs.setCell
theorem execClockSet_memOk {p m} (hs : s.MemOk) : OutMemOk (execClockSet p m s) :=
  hs.onModule fun _ h1 => h1.delivered fun _ h2 => .next h2.takeAt.setFreq

/-! Memories stay canonical: jombitin ports. -/

theorem State.MemOk.dropMisrouted (hs : s.MemOk) : s.dropMisrouted.MemOk := hs.frame
theorem State.MemOk.dropNotMember (hs : s.MemOk) : s.dropNotMember.MemOk := hs.frame
theorem State.MemOk.dropFull (hs : s.MemOk) : s.dropFull.MemOk := hs.frame
theorem State.MemOk.dropAuth (hs : s.MemOk) : s.dropAuth.MemOk := hs.frame
theorem State.MemOk.setJport {k x} (hs : s.MemOk) : (s.setJport k x).MemOk := hs.frame
theorem State.MemOk.jbnPump {k f kept rest} (hs : s.MemOk) : (s.jbnPump k f kept rest).MemOk := by
  induction f generalizing s kept rest with
  | zero => exact hs.setJport
  | succ f ih =>
    cases rest with
    | nil => exact hs.setJport
    | cons e rest => exact .ite (ih (.emit (.countCoach (.countGlobal (.countGlobal hs.setJport))))) (ih hs)
theorem State.MemOk.portPump {k} (hs : s.MemOk) : (s.portPump k).MemOk := hs.jbnPump
theorem State.MemOk.queuePacket {k n p} (hs : s.MemOk) : (s.queuePacket k n p).MemOk := hs.setJport.portPump
theorem State.MemOk.sendPacket {k n owner p} (hs : s.MemOk) : (s.sendPacket k n owner p).MemOk := by
  fun_cases State.sendPacket
  · exact hs
  · exact hs.dropAuth
  · exact hs.frame.queuePacket
theorem State.MemOk.recallTag {n tag} (hs : s.MemOk) : (s.recallTag n tag).MemOk := hs.frame
theorem State.MemOk.dropUnsent {n} (hs : s.MemOk) : (s.dropUnsent n).MemOk := hs.frame
theorem State.MemOk.sendNotes {n} (hs : s.MemOk) : (s.sendNotes n).MemOk :=
  hs.foldl fun _ _ h1 => h1.foldl fun _ _ h2 => h2.sendPacket

end Sys2Proof.Machine
end

section
/-! Memory stays canonical (O59), part 4: the Mules, the Drays, events, the Stage, faults, accesses of the Hens. -/
namespace Sys2Proof.Machine

variable {s t : State}

/-! Memories stay canonical: the Mules. -/

theorem State.MemOk.storePump {e k} (hs : s.MemOk) : (s.storePump e k).MemOk := by
  induction k generalizing s with
  | zero => exact hs
  | succ k ih =>
    unfold State.storePump
    dsimp only
    split
    · exact .ite (ih hs.setEngine.request) hs
    · exact hs
theorem State.MemOk.storeAnswered {e l} (hs : s.MemOk) : (s.storeAnswered e l).MemOk := hs.setEngine.storePump
theorem State.MemOk.storeDone {e n tag} (hs : s.MemOk) : (s.storeDone e n tag).MemOk := hs.setEngine.storePump
theorem State.MemOk.setRing {e n r} (hs : s.MemOk) : (s.setRing e n r).MemOk := hs.setEngine
theorem State.MemOk.ringFault {e n kind c} (hs : s.MemOk) : (s.ringFault e n kind c).MemOk := hs.setRing.storeDone.post
theorem execRingFetch_memOk {e n} (hs : s.MemOk) : OutMemOk (execRingFetch e n s) := by
  unfold execRingFetch
  dsimp only
  refine hs.onModule fun _ h1 => ?_
  split
  · exact .next h1
  · split
    · exact .next h1.rereadTail
    · split
      · exact .next h1.memDemand.countCoach.setRing.ringFault
      · split
        · exact .next h1.memDemand.countCoach.setRing.ringFault
        · exact .next h1.memDemand.countCoach.setRing
theorem State.MemOk.pushOut {ep coach stream f} (hs : s.MemOk) : (s.pushOut ep coach stream f).MemOk := hs.frame
theorem State.MemOk.muSend {e n r} (hs : s.MemOk) : (s.muSend e n r).MemOk := hs.setRing
/-! A Mule's run writes its memory with `writeBytes` only, so it keeps it canonical. -/

theorem MuRun.stop_mem (r : MuRun) (k : Nat) : (r.stop k).mem = r.mem := by
  unfold MuRun.stop
  split <;> rfl
theorem MuRun.read_mem (x : MuCtx) (r : MuRun) (a n : Nat) : (r.read x a n).1.mem = r.mem := by
  unfold MuRun.read
  split
  · rfl
  · split <;> rfl
theorem MuRun.wf_stop {r : MuRun} {k : Nat} (hr : Memory.wf r.mem) : Memory.wf (r.stop k).mem := (r.stop_mem k).symm ▸ hr
theorem MuRun.wf_read {x : MuCtx} {r : MuRun} {a n : Nat} (hr : Memory.wf r.mem) : Memory.wf (r.read x a n).1.mem :=
  (r.read_mem x a n).symm ▸ hr
theorem MuRun.wf_write {x : MuCtx} {r : MuRun} {a : Nat} {bs : List Byte} (hr : Memory.wf r.mem) : Memory.wf (r.write x a bs).mem := by
  unfold MuRun.write
  extract_lets put
  have hput (bs : List Byte) : Memory.wf (put r bs).mem := by
    dsimp only [put]
    split
    · exact hr
    · exact Memory.wf_writeBytes hr
  clear_value put
  split
  · exact hr
  · split
    · exact hput _
    · exact hput _
theorem MuRun.wf_emit {x : MuCtx} {r : MuRun} {a : Nat} {bs : List Byte} (hr : Memory.wf r.mem) : Memory.wf (r.emit x a bs).mem := by
  unfold MuRun.emit
  split
  · split <;> exact hr
  · exact wf_write hr
theorem MuRun.wf_each {f : MuRun → Nat → MuRun} (hf : ∀ r i, Memory.wf r.mem → Memory.wf (f r i).mem) {n lo : Nat} {r : MuRun}
    (hr : Memory.wf r.mem) : Memory.wf (MuRun.each f n lo r).mem := by
  induction n generalizing lo r with
  | zero => exact hr
  | succ n ih =>
    unfold MuRun.each
    split
    · exact hr
    · exact ih (hf _ _ hr)
theorem MuRun.wf_foldl_fst {α : Type} {l : List Nat} {f : MuRun × α → Nat → MuRun × α} {r : MuRun × α}
    (hf : ∀ p i, Memory.wf p.1.mem → Memory.wf (f p i).1.mem) (hr : Memory.wf r.1.mem) : Memory.wf (l.foldl f r).1.mem := by
  induction l generalizing r with
  | nil => exact hr
  | cons i l ih => exact ih (hf _ _ hr)
theorem MuRun.wf_finish {c : Line} {r : MuRun} (hr : Memory.wf r.mem) : Memory.wf (r.finish c).mem := by
  unfold MuRun.finish
  split <;> exact hr
theorem wf_muGather {x : MuCtx} {c : Line} {r : MuRun} (hr : Memory.wf r.mem) : Memory.wf (muGather x c r).mem := by
  refine MuRun.wf_each (fun r i h => ?_) hr
  dsimp only
  split
  · exact MuRun.wf_stop (MuRun.wf_read h)
  · exact MuRun.wf_emit (MuRun.wf_read (MuRun.wf_read h))
theorem wf_muScatter {x : MuCtx} {c : Line} {r : MuRun} (hr : Memory.wf r.mem) : Memory.wf (muScatter x c r).mem := by
  refine MuRun.wf_each (fun r i h => ?_) hr
  dsimp only
  split
  · exact MuRun.wf_stop (MuRun.wf_read h)
  · exact MuRun.wf_write (MuRun.wf_read (MuRun.wf_read (MuRun.wf_read h)))
theorem wf_muReduce {x : MuCtx} {c : Line} {r : MuRun} (hr : Memory.wf r.mem) : Memory.wf (muReduce x c r).mem := by
  refine MuRun.wf_each (fun r i h => ?_) hr
  dsimp only
  exact MuRun.wf_emit (MuRun.wf_foldl_fst (fun _ _ h1 => MuRun.wf_read h1) (MuRun.wf_read h))
theorem wf_muBag {x : MuCtx} {c : Line} {lo n : Nat} {r : MuRun} (hr : Memory.wf r.mem) : Memory.wf (muBag x c lo n r).1.mem := by
  refine MuRun.wf_foldl_fst (fun p i h => ?_) hr
  dsimp only
  refine MuRun.wf_read ?_
  split
  · refine MuRun.wf_read ?_
    split
    · exact MuRun.wf_stop (MuRun.wf_read h)
    · exact MuRun.wf_read h
  · split
    · exact MuRun.wf_stop (MuRun.wf_read h)
    · exact MuRun.wf_read h
theorem wf_muEmbed {x : MuCtx} {limit : Nat} {c : Line} {r : MuRun} (hr : Memory.wf r.mem) : Memory.wf (muEmbed x limit c r).mem := by
  refine MuRun.wf_each (fun r i h => ?_) hr
  dsimp only
  split
  · exact MuRun.wf_stop (MuRun.wf_read h)
  · exact MuRun.wf_emit (wf_muBag (MuRun.wf_read h))
theorem wf_muAttend {x : MuCtx} {c : Line} {r : MuRun} (hr : Memory.wf r.mem) : Memory.wf (muAttend x c r).mem := by
  refine MuRun.wf_each (fun _ _ h => MuRun.wf_emit h) (MuRun.wf_foldl_fst (fun p i h => ?_) (MuRun.wf_read hr))
  dsimp only
  have hentry (b : Bool) : Memory.wf (if b = true then (p.1.read x (muA c 1 + 8 * i) 8).1.stop mPage else (p.1.read x (muA c 1 + 8 * i) 8).1).mem := by
    split
    · exact MuRun.wf_stop (MuRun.wf_read h)
    · exact MuRun.wf_read h
  split
  · exact MuRun.wf_read (MuRun.wf_read (hentry _))
  · exact MuRun.wf_read (MuRun.wf_read (hentry _))
theorem wf_muExec {x : MuCtx} {limit : Nat} {c : Line} {r : MuRun} (hr : Memory.wf r.mem) : Memory.wf (muExec x limit c r).mem := by
  unfold muExec
  split
  · exact MuRun.wf_stop hr
  · split
    · exact wf_muGather hr
    · exact wf_muScatter hr
    · exact wf_muReduce hr
    · exact wf_muEmbed hr
    · exact MuRun.wf_emit (MuRun.wf_read hr)
    · exact MuRun.wf_write hr
    · exact wf_muAttend hr
    · exact hr
theorem wf_muRunSteps {x : Line → MuCtx} {light : Bool} {limit : Line → Nat} {c : Line} {hdr : List Byte} {left j : Nat} {r : MuRun} {b : Line}
    (hr : Memory.wf r.mem) : Memory.wf (muRunSteps x light limit c hdr left j r b).run.mem := by
  induction left generalizing j r b with
  | zero => exact hr
  | succ left ih =>
    unfold muRunSteps
    dsimp only
    split
    · exact hr
    · split
      · exact MuRun.wf_read hr
      · split
        · exact MuRun.wf_stop (MuRun.wf_read hr)
        · split
          · exact MuRun.wf_stop (MuRun.wf_read hr)
          · split
            · exact MuRun.wf_finish (wf_muExec (MuRun.wf_read hr))
            · exact ih (MuRun.wf_finish (wf_muExec (MuRun.wf_read hr)))
theorem wf_muRunProgram {x : Line → MuCtx} {light : Bool} {limit : Line → Nat} {c : Line} {r : MuRun} (hr : Memory.wf r.mem) :
    Memory.wf (muRunProgram x light limit c r).run.mem := by
  unfold muRunProgram
  dsimp only
  split
  · exact MuRun.wf_stop hr
  · split
    · exact MuRun.wf_stop hr
    · split
      · exact MuRun.wf_read hr
      · split
        · exact MuRun.wf_stop (MuRun.wf_read hr)
        · exact wf_muRunSteps (MuRun.wf_read hr)
theorem State.muResult_wf (s : State) (e : EngineIx) (n : Slot) (c : Line) (hm : Memory.wf s.mem) : Memory.wf (s.muResult e n c).run.mem := by
  unfold State.muResult
  dsimp only
  split
  · split
    · exact wf_muRunSteps hm
    · exact wf_muRunProgram hm
  · exact MuRun.wf_finish (wf_muExec hm)
theorem State.MemOk.muCommit {e n r} (hs : s.MemOk) (hr : Memory.wf r.mem) : (s.muCommit e n r).MemOk :=
  .foldr (.withMem (.foldl hs.countMemN.countMemN.countCoach fun _ _ h1 => h1.memCheck) hr)
    fun _ _ h1 => h1.noteWrite.noteKey.foldl fun _ _ h2 => .ite h2.flipLine h2
theorem State.MemOk.ringDoom {e n} (hs : s.MemOk) : (s.ringDoom e n).MemOk := by
  fun_cases State.ringDoom
  · exact hs.ringFault
  · exact hs
  · exact hs
theorem State.MemOk.muleRun {e n op} (hs : s.MemOk) : OutMemOk (s.muleRun e n op) := by
  have hres := fun c => s.muResult_wf e n c hs.1
  unfold State.muleRun
  dsimp only
  split
  · exact .next hs
  · refine .ite (.next hs) (.ite .fault (.next ?_))
    have hsent := (hs.muCommit (e := e) (n := n) (hres ‹_›)).muSend (e := e) (n := n) (r := (s.muResult e n ‹_›).run)
    split
    · exact hsent.setRing.ringDoom
    · exact hsent.setRing
theorem execMuleNop_memOk {e n} (hs : s.MemOk) : OutMemOk (execMuleNop e n s) := hs.onModule fun _ h1 => h1.muleRun
theorem execGather_memOk {e n} (hs : s.MemOk) : OutMemOk (execGather e n s) := hs.onModule fun _ h1 => h1.muleRun
theorem execScatterAdd_memOk {e n} (hs : s.MemOk) : OutMemOk (execScatterAdd e n s) := hs.onModule fun _ h1 => h1.muleRun
theorem execReduce_memOk {e n} (hs : s.MemOk) : OutMemOk (execReduce e n s) := hs.onModule fun _ h1 => h1.muleRun
theorem execEmbedBag_memOk {e n} (hs : s.MemOk) : OutMemOk (execEmbedBag e n s) := hs.onModule fun _ h1 => h1.muleRun
theorem execCopy_memOk {e n} (hs : s.MemOk) : OutMemOk (execCopy e n s) := hs.onModule fun _ h1 => h1.muleRun
theorem execFill_memOk {e n} (hs : s.MemOk) : OutMemOk (execFill e n s) := hs.onModule fun _ h1 => h1.muleRun
theorem execAttend_memOk {e n} (hs : s.MemOk) : OutMemOk (execAttend e n s) := hs.onModule fun _ h1 => h1.muleRun
theorem execRun_memOk {e n} (hs : s.MemOk) : OutMemOk (execRun e n s) := hs.onModule fun _ h1 => h1.muleRun
theorem execMuleRetire_memOk {e n} (hs : s.MemOk) : OutMemOk (execMuleRetire e n s) := by
  unfold execMuleRetire
  dsimp only
  refine hs.onModule fun _ h1 => ?_
  split
  · exact .next h1
  · exact .ite (.next (.ite h1.setRing.storeDone h1.setRing)) (.next h1)
theorem State.MemOk.readTail {e r} (hs : s.MemOk) : (s.readTail e r).MemOk := by
  fun_cases State.readTail
  · exact hs.setEngine
  · exact hs.wantRead
theorem State.MemOk.takeTails {e l} (hs : s.MemOk) : (s.takeTails e l).MemOk := hs.setEngine
theorem State.MemOk.ringCfgWrite {e n v} (hs : s.MemOk) : (s.ringCfgWrite e n v).MemOk := by
  fun_cases State.ringCfgWrite
  · exact hs.setRing
  · exact hs.setRing
  · exact hs.setRing.readTail.takeTails
  · exact hs.setRing.readTail
  · exact hs.setRing
theorem execRingEnable_memOk {e n v} (hs : s.MemOk) : OutMemOk (execRingEnable e n v s) := hs.gate fun _ h1 => .next h1.ringCfgWrite
theorem State.MemOk.ringAbort {e n} (hs : s.MemOk) : (s.ringAbort e n).MemOk := by
  fun_cases State.ringAbort
  · exact hs.ringFault
  · exact hs
theorem State.MemOk.ringFlush {e n} (hs : s.MemOk) : (s.ringFlush e n).MemOk := by
  fun_cases State.ringFlush
  · exact hs.setRing
  · exact hs
theorem State.MemOk.ringDisable {e n} (hs : s.MemOk) : (s.ringDisable e n).MemOk := hs.ringAbort.setRing
theorem State.MemOk.ringCtrlWrite {e n v} (hs : s.MemOk) : (s.ringCtrlWrite e n v).MemOk := by
  fun_cases State.ringCtrlWrite
  · exact .ringDisable (.ite (.ringAbort (.ite hs.ringFlush hs)) (.ite hs.ringFlush hs))
  · exact .ite (.ringAbort (.ite hs.ringFlush hs)) (.ite hs.ringFlush hs)
theorem execRingDisable_memOk {e n} (hs : s.MemOk) : OutMemOk (execRingDisable e n s) := hs.gate fun _ h1 => .next h1.ringDisable
theorem execRingAbort_memOk {e n} (hs : s.MemOk) : OutMemOk (execRingAbort e n s) := hs.gate fun _ h1 => .next h1.ringAbort
theorem execRingFlush_memOk {e n} (hs : s.MemOk) : OutMemOk (execRingFlush e n s) := hs.gate fun _ h1 => .next h1.ringFlush
theorem State.MemOk.mapWrite {e k v} (hs : s.MemOk) : (s.mapWrite e k v).MemOk := by
  fun_cases State.mapWrite
  · exact hs
  · exact hs.setEngine
  · exact hs.setEngine
theorem execMuleMapWrite_memOk {e k v} (hs : s.MemOk) : OutMemOk (execMuleMapWrite e k v s) := hs.gate fun _ h1 => .next h1.mapWrite
theorem execMuleMapTakeEffect_memOk {e} (hs : s.MemOk) : OutMemOk (execMuleMapTakeEffect e s) :=
  hs.onModule fun _ h1 => .ite (.next h1) (.next (.setEngine (h1.foldl fun _ _ h2 => h2.flushLine)))

/-! Memories stay canonical: the Drays. -/

theorem State.MemOk.drayXlat {p d q va w t} (hs : s.MemOk) (ht : s.drayXlat p d q va w = .wait t) : t.MemOk := by
  unfold State.drayXlat at ht
  dsimp only at ht
  split at ht
  · split at ht <;> nomatch ht
  · split at ht
    · nomatch ht
    · split at ht
      · nomatch ht
      · split at ht
        · nomatch ht
        · exact DXlat.wait.inj ht ▸ hs.l1Miss
theorem State.MemOk.setDray {p d y} (hs : s.MemOk) : (s.setDray p d y).MemOk := hs.setCell
theorem State.MemOk.drayFault {p d seq kind tag} (hs : s.MemOk) : (s.drayFault p d seq kind tag).MemOk := hs.setDray.cellFault
theorem execDrayFlush_memOk {p d} (hs : s.MemOk) : OutMemOk (execDrayFlush p d s) := hs.gateCell fun _ h1 => .next h1.setDray
theorem State.MemOk.recvClaim {p st} (hs : s.MemOk) : (s.recvClaim p st).MemOk := hs.setCell.frame
theorem State.MemOk.drayStart {p d kind} (hs : s.MemOk) : (s.drayStart p d kind).MemOk := by
  fun_cases State.drayStart
  · exact hs
  · exact hs
  · exact hs.setDray.drayFault
  · exact hs.setDray.recvClaim
  · exact hs.setDray
theorem State.MemOk.setRun {p d r} (hs : s.MemOk) : (s.setRun p d r).MemOk := hs.setDray
theorem State.MemOk.drayPump {p d seq l} (hs : s.MemOk) : (s.drayPump p d seq l).1.MemOk := by
  induction l generalizing s with
  | nil => exact hs
  | cons e rest ih =>
    obtain ⟨va, lines, sp⟩ := e
    unfold State.drayPump
    dsimp only
    split
    · exact hs
    · refine .iteFst hs ?_
      split
      · exact hs.drayFault
      · exact hs.drayXlat ‹_›
      · refine .iteFst hs.drayFault ?_
        split
        · exact hs.drayFault
        · refine .iteFst hs.drayFault ?_
          split
          · exact hs.spTouch.drayFault
          · exact ih hs.spTouch.pushOut.setDray
theorem State.MemOk.drayDeliver {p d r} (hs : s.MemOk) : (s.drayDeliver p d r).MemOk := by
  fun_cases State.drayDeliver
  · exact hs
  · exact .setRun (hs.foldl fun _ _ h1 => h1.spWrite)
  · exact hs.foldl fun _ _ h1 => h1.spWrite
theorem State.MemOk.drayRequests {p d kind l} (hs : s.MemOk) : (s.drayRequests p d kind l).MemOk := by
  induction l generalizing s with
  | nil => exact hs
  | cons r rest ih =>
    have hd := hs.drayDeliver (p := p) (d := d) (r := r)
    unfold State.drayRequests
    dsimp only
    refine .ite (.ite (ih hd.drayPump) hd.drayPump) (.ite hd (ih hd))
theorem State.MemOk.drayMemory {p d kind} (hs : s.MemOk) : (s.drayMemory p d kind).MemOk := hs.drayStart.drayRequests
theorem execDrayLoad_memOk {p d} (hs : s.MemOk) : OutMemOk (execDrayLoad p d s) := hs.onClock fun _ h1 => .next h1.drayMemory
theorem execDrayStore_memOk {p d} (hs : s.MemOk) : OutMemOk (execDrayStore p d s) := hs.onClock fun _ h1 => .next h1.drayMemory
theorem execPrefetch_memOk {p d} (hs : s.MemOk) : OutMemOk (execPrefetch p d s) := hs.onClock fun _ h1 => .next h1.drayMemory
theorem execRatomic_memOk {p d} (hs : s.MemOk) : OutMemOk (execRatomic p d s) := hs.onClock fun _ h1 => .next h1.drayMemory
theorem State.MemOk.takeFlits {p st n} (hs : s.MemOk) : (s.takeFlits p st n).MemOk := hs.frame
theorem State.MemOk.recvPlace {p d r l} (hs : s.MemOk) : (s.recvPlace p d r l).MemOk := by
  induction l generalizing s r with
  | nil => exact hs
  | cons f rest ih => exact .ite hs (ih hs.takeFlits.spWrite.setRun)
theorem execRecv_memOk {p d} (hs : s.MemOk) : OutMemOk (execRecv p d s) := by
  unfold execRecv
  dsimp only
  refine hs.onClock fun _ h1 => ?_
  split
  · exact .next h1.drayStart
  · split
    · exact .next h1.drayStart
    · exact .next h1.drayStart.recvPlace
theorem State.MemOk.sendFrom32 {p d seq c l} (hs : s.MemOk) : (s.sendFrom32 p d seq c l).MemOk := by
  induction l generalizing s with
  | nil => exact hs
  | cons k rest ih =>
    unfold State.sendFrom32
    dsimp only
    split
    · exact hs.drayFault
    · split
      · exact hs.spTouch.drayFault
      · split
        · exact ih hs.spTouch.pushOut.setRun
        · exact hs.spTouch.pushOut
theorem execSend_memOk {p d} (hs : s.MemOk) : OutMemOk (execSend p d s) := by
  unfold execSend
  dsimp only
  refine hs.onClock fun _ h1 => ?_
  split
  · exact .next h1.drayStart
  · split
    · exact .next h1.drayStart
    · exact .next h1.drayStart.sendFrom32
theorem execStreamMap_memOk {p d} (hs : s.MemOk) : OutMemOk (execStreamMap p d s) := by
  unfold execStreamMap
  dsimp only
  refine hs.onClock fun _ h1 => ?_
  split
  · exact .next h1.drayStart
  · split
    · exact .next h1.drayStart
    · split
      · exact .next h1.drayStart.spTouch.drayFault
      · exact .next h1.drayStart.spTouch.setRun
theorem execStatusFlit_memOk {p stream} (hs : s.MemOk) : OutMemOk (execStatusFlit p stream s) := by
  unfold execStatusFlit
  dsimp only
  refine hs.onClock fun _ h1 => ?_
  split
  · exact .next h1
  · split
    · exact .next h1
    · refine .next (.checkInvs (.setDray ?_))
      split
      · exact h1.frame.setDray
      · split
        · exact h1.frame.setDray
        · exact .ite h1.frame.setDray.drayFault h1.frame.setDray.setRun.drayDeliver
theorem execDescriptorComplete_memOk {p d} (hs : s.MemOk) : OutMemOk (execDescriptorComplete p d s) := by
  unfold execDescriptorComplete
  dsimp only
  refine hs.onClock fun _ h1 => ?_
  split
  · exact .next h1
  · split
    · exact .ite (.next h1.drayDeliver.setCell.setDray) (.next h1.drayDeliver)
    · exact .next h1.drayDeliver

/-! Memories stay canonical: events and fences. -/

theorem State.MemOk.setFence {q f x} (hs : s.MemOk) : (s.setFence q f x).MemOk := hs.frame
theorem State.MemOk.fenceEvict {key} (hs : s.MemOk) : (s.fenceEvict key).MemOk := by
  unfold State.fenceEvict
  dsimp only
  refine .frame ?_
  split
  · exact hs.partWrite
  · exact hs
theorem State.MemOk.fenceLoad {q f} (hs : s.MemOk) : (s.fenceLoad q f).MemOk := by
  unfold State.fenceLoad
  dsimp only
  split
  · exact hs
  · split
    · exact hs
    · refine .frame (.partTouch (.setFence ?_))
      split
      · exact .ite hs.fenceEvict hs
      · exact hs
theorem State.MemOk.eventArmed {k} (hs : s.MemOk) : (s.eventArmed k).MemOk := by
  fun_cases State.eventArmed
  · exact hs.setSlice.msix
  · exact hs
theorem State.MemOk.eventPut {k e} (hs : s.MemOk) : (s.eventPut k e).MemOk := hs.partWrite.setSlice.eventArmed
theorem State.MemOk.event {k e} (hs : s.MemOk) : (s.event k e).MemOk := by
  fun_cases State.event
  · exact hs
  · exact hs.eventPut
  · exact hs.setSlice
  · exact hs.setSlice
theorem State.MemOk.eventDrain {k f} (hs : s.MemOk) : (s.eventDrain k f).MemOk := by
  induction f generalizing s with
  | zero => exact hs
  | succ f ih =>
    unfold State.eventDrain
    dsimp only
    split
    · exact hs
    · split
      · exact ih hs.setSlice.eventPut
      · exact .ite hs hs.setSlice.eventPut
theorem State.MemOk.answerWaits {q f} (hs : s.MemOk) : (s.answerWaits q f).MemOk := hs.frame.foldl fun _ _ h1 => h1.event
theorem State.MemOk.fenceSignal {q f v} (hs : s.MemOk) : (s.fenceSignal q f v).MemOk := by
  fun_cases State.fenceSignal
  · exact hs.fenceLoad
  · exact hs.fenceLoad.setFence.answerWaits
  · exact hs.fenceLoad.setFence
theorem State.MemOk.fenceTarget {q f ctx v} (hs : s.MemOk) : (s.fenceTarget q f ctx v).MemOk := by
  fun_cases State.fenceTarget
  · exact hs.fenceLoad.setFence
  · exact hs.fenceLoad
theorem State.MemOk.fenceAbandon {q f} (hs : s.MemOk) : (s.fenceAbandon q f).MemOk := hs.fenceLoad.setFence.fenceSignal

/-! Memories stay canonical: the Stage. -/

theorem State.MemOk.runningFault {n kind} (hs : s.MemOk) : (s.runningFault n kind).MemOk := by
  fun_cases State.runningFault
  · exact hs.stepFault
  · exact hs
theorem State.MemOk.flitLeft {key} (hs : s.MemOk) : (s.flitLeft key).MemOk := hs.frame
theorem State.MemOk.nextFlit {ep coach stream tt} (hs : s.MemOk) : (s.nextFlit ep coach stream tt).2.MemOk := by
  fun_cases State.nextFlit <;> dsimp only
  · exact hs
  · exact hs
  · exact hs.setCell
  · exact hs
  · exact hs
  · exact hs.setCell
  · exact hs
  · exact hs.setRing.ringDoom
  · exact hs
  · exact hs
  · exact hs.frame.flitLeft
theorem State.MemOk.laneFlit {ep lane c n lent} (hs : s.MemOk) : (s.laneFlit ep lane c n lent).2.MemOk := by
  fun_cases State.laneFlit
  · exact hs.nextFlit
  · exact hs
theorem execInject_memOk {ep lane cyc} (hs : s.MemOk) : OutMemOk (execInject ep lane cyc s) := by
  unfold execInject
  dsimp only
  refine hs.onModule fun _ h1 => ?_
  split
  · split
    · exact .next h1
    · split
      · exact .next (h1.laneFlit.of_snd ‹_›)
      · exact .next (.frame (.countCoach (.ite (h1.laneFlit.of_snd ‹_›).countCell (h1.laneFlit.of_snd ‹_›))))
  · exact .next h1
theorem State.MemOk.discard {o} (hs : s.MemOk) : (s.discard o).MemOk := hs.countCoach
theorem State.MemOk.corrected {unit f} (hs : s.MemOk) : (s.corrected unit f).1.MemOk := by
  fun_cases State.corrected <;> dsimp only
  · exact hs.logErr
  · exact hs
theorem execHop_memOk {sw lane cyc} (hs : s.MemOk) : OutMemOk (execHop sw lane cyc s) := by
  unfold execHop
  dsimp only
  refine hs.onModule fun _ h1 => ?_
  split
  · exact .next h1
  · split
    · exact .next h1
    · split
      · exact .next (h1.foldl fun _ _ h2 => h2.discard)
      · exact .next (.frame (.corrected (h1.foldl fun _ _ h2 => h2.discard)))
theorem State.MemOk.staleDrop {n} (hs : s.MemOk) : (s.staleDrop n).MemOk := hs.summaryUp.setCoach.runningFault
theorem State.MemOk.moveDrop {n} (hs : s.MemOk) : (s.moveDrop n).MemOk := hs.summaryUp.setCoach.runningFault
theorem State.MemOk.pushIn {k f} (hs : s.MemOk) : (s.pushIn k f).MemOk := hs.frame
theorem State.MemOk.streamDrop {p st} (hs : s.MemOk) : (s.streamDrop p st).MemOk := hs.setDray.runningFault
theorem State.MemOk.deliverCell {p st f} (hs : s.MemOk) : (s.deliverCell p st f).MemOk := by
  fun_cases State.deliverCell
  · exact hs.pushIn
  · exact hs
  · exact hs.streamDrop
  · exact hs.pushIn
  · exact hs.setCell
  · exact hs.streamDrop
theorem State.MemOk.deliver {ep st f} (hs : s.MemOk) : (s.deliver ep st f).MemOk := by
  fun_cases State.deliver
  · exact hs.setCell
  iterate 4 exact hs.moveDrop
  · exact hs
  · exact hs.setCell
  · exact hs.setCell
  · exact hs.moveDrop
  · exact hs
  · exact hs.deliverCell
  · exact hs
  · exact hs.setEngine
  · exact hs.frame.runningFault
  · exact hs.pushIn
theorem State.MemOk.accept {ep n st f} (hs : s.MemOk) : (s.accept ep n st f).MemOk := by
  fun_cases State.accept
  · exact .staleDrop (.countCoach (.ite hs.countCell hs))
  · exact .deliver (.countCoach (.ite hs.countCell hs))
theorem State.MemOk.stopFifo {ep n st f} (hs : s.MemOk) : (s.stopFifo ep n st f).MemOk := by
  fun_cases State.stopFifo
  · exact hs.setCell
  · exact hs.countCell.countCoach
theorem execEject_memOk {ep lane cyc} (hs : s.MemOk) : OutMemOk (execEject ep lane cyc s) := by
  unfold execEject
  dsimp only
  refine hs.onModule fun _ h1 => ?_
  split
  · exact .next h1
  · split
    · exact .next h1.frame.discard
    · split
      · exact .next h1.frame.corrected
      · exact .ite (.next h1.frame.corrected.stopFifo) (.next h1.frame.corrected.accept)
theorem State.MemOk.ttTouch {a} (hs : s.MemOk) : (s.ttTouch a).MemOk := by
  fun_cases State.ttTouch
  · exact hs.devTouch
  · exact hs.devTouch.devTouch
theorem State.MemOk.sparesOut {p} (hs : s.MemOk) : (s.sparesOut p).MemOk := hs.frame.logErr
theorem State.MemOk.retireFreeN {p f} (hs : s.MemOk) : (s.retireFreeN p f).MemOk := by
  induction f generalizing s p with
  | zero => exact hs
  | succ f ih =>
    unfold State.retireFreeN
    dsimp only
    split
    · exact .ite (ih hs.setCell.setCell.logErr) hs.setCell.setCell.logErr
    · exact hs.setCell.sparesOut
theorem State.MemOk.retireFree {p} (hs : s.MemOk) : (s.retireFree p).MemOk := hs.retireFreeN
theorem State.MemOk.clearStub {p} (hs : s.MemOk) : (s.clearStub p).MemOk := by
  fun_cases State.clearStub
  · exact hs
  · exact .setCell (hs.foldl fun _ _ h1 => h1.moveDrop)
theorem State.MemOk.freeVacated (hs : s.MemOk) : s.freeVacated.MemOk := hs.foldl fun _ _ h1 => .ite h1.retireFree h1.setCell
theorem State.MemOk.ttReplace {n l loaded image} (hs : s.MemOk) : (s.ttReplace n l loaded image).MemOk := hs.setTt.freeVacated
theorem State.MemOk.ttLoadWrite {coach clear} (hs : s.MemOk) : (s.ttLoadWrite coach clear).MemOk := by
  fun_cases State.ttLoadWrite
  · exact hs.frame
  · exact hs.frame
  · exact hs.frame.ttReplace
  · exact hs.frame.frame
  · exact hs.frame
theorem execTtLoad_memOk {coach} (hs : s.MemOk) : OutMemOk (execTtLoad coach s) := hs.gate fun _ h1 => .next h1.ttLoadWrite
theorem execTtClear_memOk {coach} (hs : s.MemOk) : OutMemOk (execTtClear coach s) := hs.gate fun _ h1 => .next h1.ttLoadWrite
theorem execTtLoadBegin_memOk {n} (hs : s.MemOk) : OutMemOk (execTtLoadBegin n s) := by
  unfold execTtLoadBegin
  dsimp only
  refine hs.onModule fun _ h1 => ?_
  split
  · exact .next h1
  · split
    · exact .next h1
    · split
      · exact .next h1.frame.ttReplace
      · split
        · exact .next h1.frame.ttTouch.frame
        · exact .next h1.frame.ttTouch.ttReplace
theorem State.MemOk.ttSwapWrite {v} (hs : s.MemOk) : (s.ttSwapWrite v).MemOk := by
  fun_cases State.ttSwapWrite
  · exact hs.frame
  iterate 3 exact hs.frame.frame
  · exact hs.frame.setTt.frame
theorem execTtSwap_memOk {v} (hs : s.MemOk) : OutMemOk (execTtSwap v s) := hs.gate fun _ h1 => .next h1.ttSwapWrite
theorem State.MemOk.ttFlip {n} (hs : s.MemOk) : (s.ttFlip n).MemOk := hs.setTt
theorem State.MemOk.swapsDue (hs : s.MemOk) : s.swapsDue.MemOk := hs.foldl fun _ _ h1 => .ite h1.ttFlip.frame h1.ttFlip
theorem State.MemOk.nextFrame (hs : s.MemOk) : s.nextFrame.MemOk := hs.frame
theorem execCoachPark_memOk {v} (hs : s.MemOk) : OutMemOk (execCoachPark v s) := hs.gate fun _ h1 => .next h1.frame
theorem State.MemOk.slotOwn {op coach count first unit} (hs : s.MemOk) : (s.slotOwn op coach count first unit).MemOk := by
  fun_cases State.slotOwn <;> exact hs.frame
theorem execSetOwner_memOk {coach laneCount laneFirst unit} (hs : s.MemOk) : OutMemOk (execSetOwner coach laneCount laneFirst unit s) :=
  hs.gate fun _ h1 => .next h1.slotOwn
theorem execSetLendee_memOk {coach laneCount laneFirst unit} (hs : s.MemOk) : OutMemOk (execSetLendee coach laneCount laneFirst unit s) :=
  hs.gate fun _ h1 => .next h1.slotOwn
theorem execFreeBlocks_memOk {coach laneCount laneFirst unit} (hs : s.MemOk) : OutMemOk (execFreeBlocks coach laneCount laneFirst unit s) :=
  hs.gate fun _ h1 => .next h1.slotOwn
theorem execClearLendee_memOk {coach laneCount laneFirst unit} (hs : s.MemOk) : OutMemOk (execClearLendee coach laneCount laneFirst unit s) :=
  hs.gate fun _ h1 => .next h1.slotOwn
theorem State.MemOk.clearLending {q} (hs : s.MemOk) : (s.clearLending q).MemOk := hs.frame
theorem execMarginLoss_memOk {unit lane} (hs : s.MemOk) : OutMemOk (execMarginLoss unit lane s) := .next (.ite hs.logErr hs)

/-! Memories stay canonical: faults and the scrubber. -/

theorem State.MemOk.faultNotice {b} (hs : s.MemOk) : (s.faultNotice b).MemOk := by
  fun_cases State.faultNotice
  · exact hs.frame.frame.msix
  · exact hs.frame.frame
theorem State.MemOk.collectorClose {i} (hs : s.MemOk) : (s.collectorClose i).MemOk := by
  fun_cases State.collectorClose
  · exact hs
  · exact hs.frame.frame
  · exact hs.frame.devWrite.frame.faultNotice
theorem execCollectorClose_memOk {i} (hs : s.MemOk) : OutMemOk (execCollectorClose i s) := by
  fun_cases execCollectorClose
  · exact .next hs
  · exact .next (.ite hs.collectorClose hs)
theorem execFaultNotice_memOk {b} (hs : s.MemOk) : OutMemOk (execFaultNotice b s) := by
  fun_cases execFaultNotice
  · exact .next hs.frame.msix
  · exact .next hs
theorem State.MemOk.recordFault {r ctx step} (hs : s.MemOk) : (s.recordFault r ctx step).MemOk := by
  unfold State.recordFault
  dsimp only
  split
  · exact hs.frame
  · split
    · split
      · exact hs
      · split
        · exact hs.collectorClose
        · exact hs
    · refine .frame ?_
      split
      · exact hs
      · split
        · exact hs.collectorClose
        · exact hs
theorem State.MemOk.markFailed {p cause} (hs : s.MemOk) : (s.markFailed p cause).MemOk := by
  fun_cases State.markFailed
  · exact hs
  · exact hs.logErr.setCell.retireFree
  · exact hs.logErr.setCell
theorem State.MemOk.retireWrite {v} (hs : s.MemOk) : (s.retireWrite v).MemOk := by
  fun_cases State.retireWrite
  · exact hs.frame
  · exact hs.log.logErr.frame
  · exact hs.frame
  · exact hs.log.logErr.setCell.markFailed
  · exact hs.frame
  · exact hs.log.markFailed
  · exact hs.frame
theorem execRetirePage_memOk {v} (hs : s.MemOk) : OutMemOk (execRetirePage v s) := hs.gate fun _ h1 => .next h1.retireWrite
theorem execRetireBank_memOk {v} (hs : s.MemOk) : OutMemOk (execRetireBank v s) := hs.gate fun _ h1 => .next h1.retireWrite
theorem execRetireCell_memOk {v} (hs : s.MemOk) : OutMemOk (execRetireCell v s) := hs.gate fun _ h1 => .next h1.retireWrite
theorem execMcFlipArm_memOk {c v} (hs : s.MemOk) : OutMemOk (execMcFlipArm c v s) := hs.gate fun _ h1 => .next h1.log.frame
theorem execSpFlipArm_memOk {p v} (hs : s.MemOk) : OutMemOk (execSpFlipArm p v s) := hs.gateCell fun _ h1 => .next h1.log.frame
theorem execScrub_memOk {c} (hs : s.MemOk) : OutMemOk (execScrub c s) := by
  unfold execScrub
  refine hs.onModule fun u h1 => ?_
  extract_lets pos a l skip bad x s1 s2 e
  have h2 : s1.MemOk := .ite h1 h1.setMc.countGlobal
  have h3 : s2.MemOk := .ite h2 (.ite h2.logErr.countEcc h2.logErr.scrubWrite)
  exact .ite (.next h3.frame) (.next h3.frame)
theorem State.MemOk.crashFreeWrite {v} (hs : s.MemOk) : (s.crashFreeWrite v).MemOk := hs.logWindow.frame
theorem execCrashFree_memOk {v} (hs : s.MemOk) : OutMemOk (execCrashFree v s) := hs.gate fun _ h1 => .next h1.crashFreeWrite

/-! Memories stay canonical: the Hens' accesses to memory. -/

theorem State.MemOk.cellWriteLine {p h l o bs} (hs : s.MemOk) : (s.cellWriteLine p h l o bs).MemOk := hs.setAgent.setCell.noteWrite
theorem State.MemOk.cellWrite {p h a bs} (hs : s.MemOk) : (s.cellWrite p h a bs).MemOk := hs.foldl fun _ _ h1 => h1.cellWriteLine
theorem State.MemOk.spotWrite {p h n e bs} (hs : s.MemOk) : (s.spotWrite p h n e bs).MemOk := by
  fun_cases State.spotWrite
  · exact hs.cellWrite.cellWrite
  · exact hs.cellWrite
theorem State.MemOk.xlatAll {p h acc l va t} (hs : s.MemOk) (ht : (s.xlatAll p h acc l).2 = some (va, some t)) : t.MemOk := by
  induction l with
  | nil => nomatch ht
  | cons v l ih =>
    unfold State.xlatAll at ht
    split at ht
    · exact ih ht
    · nomatch ht
    · obtain ⟨-, ht⟩ := Prod.mk.inj (Option.some.inj ht)
      exact Option.some.inj ht ▸ hs.xlat ‹_›
theorem State.MemOk.wait {p h i} (hs : s.MemOk) : (s.wait p h i).MemOk := hs.setHen
theorem State.MemOk.accessEnded {t p h} (ht : t.MemOk) : (s.accessEnded t p h).MemOk := .ite ht ht.checkInvs
theorem State.MemOk.access {p h i acc own ref vas n commit part done trap} (hs : s.MemOk) (hcommit : ∀ t l, t.MemOk → (commit t l).MemOk)
    (hpart : ∀ t j, t.MemOk → (part t j).MemOk) (hdone : ∀ t, t.MemOk → (done t).MemOk)
    (htrap : ∀ t j c va, t.MemOk → (trap t j c va).MemOk) : (s.access p h i acc own ref vas n commit part done trap).MemOk := by
  unfold State.access
  split
  next pas stop hpas =>
  split
  next ends stop2 hends =>
  have hx (va t) (ht : stop = some (va, some t)) : t.MemOk := hs.xlatAll ((congrArg Prod.snd hpas).trans ht)
  have hx2 (va t) (ht : stop2 = some (va, some t)) : t.MemOk := hs.xlatAll ((congrArg Prod.snd hends).trans ht)
  extract_lets k spans ok missing kept hold want first
  have hfirst (t : State) (j : Nat) (ht : t.MemOk) : (first t j).MemOk := hpart _ _ (.ite ht (hcommit _ _ ht))
  have hwant (ls : List LineNo) : (want ls).MemOk :=
    .setHen (.wait (hs.foldl fun _ _ h1 => .ite h1.wantReserved (.ite h1.wantWrite h1.wantRead)))
  clear_value want first
  split
  · split
    · exact (hdone _ (hcommit _ _ hs)).accessEnded
    · exact (htrap _ _ _ _ (hfirst _ _ hs)).accessEnded
    · next va t hstop =>
      have ht : t.MemOk := by
        split at hstop
        · obtain ⟨e, he, heq⟩ := Option.map_eq_some_iff.mp hstop
          obtain ⟨va', o⟩ := e
          obtain ⟨-, rfl⟩ := Prod.mk.inj heq
          exact hx2 _ _ he
        · exact hx _ _ hstop
      exact .ite ht.wait (hfirst _ _ ht).wait
  · split
    · exact hwant _
    · split
      · exact hs.wait
      · split
        · exact (htrap _ _ _ _ (hfirst _ _ hs)).accessEnded
        · exact hwant _
theorem State.MemOk.loadBody {p h i ref c k rd rs1 imm} (hs : s.MemOk) : (s.loadBody p h i ref c k rd rs1 imm).MemOk := by
  fun_cases State.loadBody
  · exact hs.raise
  · exact hs.access (fun _ _ h1 => h1.setHen) (fun _ _ h1 => h1.setHen) (fun _ h1 => h1.done) (fun _ _ _ _ h1 => .ite h1.done h1.raise)
  · exact hs
  · exact hs.raise
  · exact hs.access (fun _ _ h1 => h1.setHen) (fun _ _ h1 => h1) (fun _ h1 => h1.done) (fun _ _ _ _ h1 => h1.raise)
theorem State.MemOk.storeBody {p h i ref c k rs2 rs1 imm} (hs : s.MemOk) : (s.storeBody p h i ref c k rs2 rs1 imm).MemOk := by
  fun_cases State.storeBody
  · exact hs.raise
  · exact hs.access (fun _ _ h1 => .released (h1.foldl fun _ _ h2 => h2.spotWrite)) (fun _ _ h1 => h1.setHen) (fun _ h1 => h1.done) (fun _ _ _ _ h1 => h1.raise)
  · exact hs
  · exact hs.raise
  · exact hs.access (fun _ _ h1 => h1.spotWrite.released) (fun _ _ h1 => h1) (fun _ h1 => h1.done) (fun _ _ _ _ h1 => h1.raise)
theorem State.MemOk.learn {p a up} (hs : s.MemOk) : (s.learn p a up).MemOk := by
  fun_cases State.learn
  · exact hs.setCell
  · exact hs
theorem State.MemOk.amoRun {p h i ref op dbl rd rs1 rs2} (hs : s.MemOk) : (s.amoRun p h i ref op dbl rd rs1 rs2).MemOk := by
  fun_cases State.amoRun
  · exact hs.raise
  · exact hs.raise
  · exact (hs.xlat ‹_›).wait
  · exact hs.setCell.setHen.raise
  iterate 3 exact hs.wait
  · exact hs.setCell.setHen.request.wait
  · exact .access (.ite hs.setHen hs) (fun _ _ h1 => h1.learn.cellWriteLine.released.setHen) (fun _ _ h1 => h1) (fun _ h1 => h1.done) (fun _ _ _ _ h1 => h1.raise)
theorem State.MemOk.lrBody {p h i ref dbl rd rs1} (hs : s.MemOk) : (s.lrBody p h i ref dbl rd rs1).MemOk := by
  fun_cases State.lrBody
  · exact hs.raise
  · exact hs.raise
  · exact (hs.xlat ‹_›).wait
  · exact hs.raise
  · exact hs.access (fun _ _ h1 => h1.setHen.released) (fun _ _ h1 => h1) (fun _ h1 => h1.done) (fun _ _ _ _ h1 => h1.raise)
theorem State.MemOk.scBody {p h i ref dbl rd rs1 rs2} (hs : s.MemOk) : (s.scBody p h i ref dbl rd rs1 rs2).MemOk := by
  unfold State.scBody
  extract_lets x n va clear
  have hclear (t : State) (ht : t.MemOk) : (clear t).MemOk := by
    dsimp only [clear]
    split
    · exact ht.setHen.drainDeferred
    · exact ht.setHen
  clear_value clear
  split
  · exact hs.raise
  · split
    · exact hs.raise
    · exact (hs.xlat ‹_›).wait
    · exact .ite hs.raise (.ite (hclear _ hs.done) (hs.access (fun _ _ h1 => h1.cellWrite.released.setHen) (fun _ _ h1 => h1)
        (fun _ h1 => hclear _ h1.done) (fun _ _ _ _ h1 => h1.raise)))
theorem State.MemOk.cboBody {p h i o rs1} (hs : s.MemOk) : (s.cboBody p h i o rs1).MemOk := by
  unfold State.cboBody
  extract_lets x va look
  have hlook (t : State) (ht : look = .miss t) : t.MemOk := by
    dsimp only [look] at ht
    split at ht
    · exact hs.xlat ht
    · exact hs.xlat ht
  clear_value look
  split
  · exact hs.raise
  · exact (hlook _ rfl).wait
  · refine .ite hs.raise (.ite hs.wait (.done ?_))
    cases o
    · exact hs.flushLine
    · exact hs.cleanLine
    · exact hs.flushLine
theorem State.MemOk.retryHen {p h ref} (hs : s.MemOk) : (s.retryHen p h ref).MemOk := by
  fun_cases State.retryHen
  · exact hs
  · exact hs
  · exact hs.setHen.raise
  · exact (hs.fetch ‹_›)
  · exact hs
  · exact hs.setHen.loadBody
  · exact hs.setHen.storeBody
  · exact hs.setHen.amoRun
  · exact hs.setHen.lrBody
  · exact hs.setHen.scBody
  iterate 3 exact hs.setHen.cboBody
  · exact hs
theorem State.MemOk.retryCell {p ref} (hs : s.MemOk) : (s.retryCell p ref).MemOk := hs.retryHen.retryHen.retryHen.retryHen
theorem State.MemOk.retryLoads {p} (hs : s.MemOk) : (s.retryLoads p).MemOk :=
  hs.foldl fun _ _ h1 => .dite (fun _ => .ite h1.retryHen h1) fun _ => h1
theorem State.MemOk.agentWon {a l} (hs : s.MemOk) : (s.agentWon a l).MemOk := .drainDeferred (.ite hs.retryCell hs)
theorem execLoad_memOk {p h c k rd rs1 imm} (hs : s.MemOk) : OutMemOk (execLoad p h c k rd rs1 imm s) :=
  hs.henStep fun _ h1 => .next h1.loadBody
theorem execStore_memOk {p h c k rs2 rs1 imm} (hs : s.MemOk) : OutMemOk (execStore p h c k rs2 rs1 imm s) :=
  hs.henStep fun _ h1 => .next h1.storeBody
theorem execAmo_memOk {p h op dbl aq rl rd rs1 rs2} (hs : s.MemOk) : OutMemOk (execAmo p h op dbl aq rl rd rs1 rs2 s) :=
  hs.henStep fun _ h1 => .next h1.amoRun
theorem execLr_memOk {p h dbl rd rs1} (hs : s.MemOk) : OutMemOk (execLr p h dbl rd rs1 s) := hs.henStep fun _ h1 => .next h1.lrBody
theorem execSc_memOk {p h dbl rd rs1 rs2} (hs : s.MemOk) : OutMemOk (execSc p h dbl rd rs1 rs2 s) :=
  hs.henStep fun _ h1 => .next h1.scBody
theorem execLrDeferralEnd_memOk {p line} (hs : s.MemOk) : OutMemOk (execLrDeferralEnd p line s) :=
  hs.onClock fun _ h1 => .next h1.setCell.drainDeferred.retryCell
theorem execCboFlush_memOk {p h rs1} (hs : s.MemOk) : OutMemOk (execCboFlush p h rs1 s) := hs.henStep fun _ h1 => .next h1.cboBody
theorem execCboClean_memOk {p h rs1} (hs : s.MemOk) : OutMemOk (execCboClean p h rs1 s) := hs.henStep fun _ h1 => .next h1.cboBody
theorem execCboInval_memOk {p h rs1} (hs : s.MemOk) : OutMemOk (execCboInval p h rs1 s) := hs.henStep fun _ h1 => .next h1.cboBody
theorem execFence_memOk {p h pred succ} (hs : s.MemOk) : OutMemOk (execFence p h pred succ s) := hs.henStep fun _ h1 => .next h1.done
theorem execFenceI_memOk {p h} (hs : s.MemOk) : OutMemOk (execFenceI p h s) := hs.henStep fun _ h1 => .next h1.done

end Sys2Proof.Machine
end

section
/-! Memory stays canonical (O59), part 5: steps, moves, resets, coaches. -/
namespace Sys2Proof.Machine

variable {s t : State}

/-! Memories stay canonical: steps of a context. -/

theorem State.MemOk.raiseTargets {k d} (hs : s.MemOk) : (s.raiseTargets k d).MemOk := hs.foldl fun _ _ h1 => h1.fenceTarget
theorem State.MemOk.readStep {k} (hs : s.MemOk) : (s.readStep k).MemOk := by
  fun_cases State.readStep
  · exact hs
  · exact hs.partTouch.setCtx.raiseTargets
theorem State.MemOk.parkBit {n b} (hs : s.MemOk) : (s.parkBit n b).MemOk := hs.frame
theorem State.MemOk.stepDone {k st} (hs : s.MemOk) : (s.stepDone k st).MemOk := by
  fun_cases State.stepDone
  · exact hs.event
  · exact hs
theorem State.MemOk.doSignals {k d} (hs : s.MemOk) : (s.doSignals k d).MemOk := hs.foldl fun _ _ h1 => h1.fenceSignal
theorem State.MemOk.setSem {key x} (hs : s.MemOk) : (s.setSem key x).MemOk := hs.frame
theorem State.MemOk.replyGo {x e} (hx : x.1.MemOk) : (State.replyGo x e).1.MemOk := by
  unfold State.replyGo
  dsimp only
  refine .iteFst hx ?_
  split
  · split
    · exact hx.send
    · exact hx
  · exact hx
theorem State.MemOk.replyPump (hs : s.MemOk) : s.replyPump.MemOk :=
  .frame (State.MemOk.foldl_fst hs fun _ _ h1 => h1.replyGo)
theorem State.MemOk.semReply {east n k m i value status} (hs : s.MemOk) : (s.semReply east n k m i value status).MemOk :=
  hs.frame.replyPump
theorem State.MemOk.semGrant {n i f} (hs : s.MemOk) : (s.semGrant n i f).MemOk := by
  induction f generalizing s with
  | zero => exact hs
  | succ f ih =>
    unfold State.semGrant
    dsimp only
    split
    · exact hs
    · exact .ite (ih hs.setSem.semReply) hs
theorem State.MemOk.semRemove {k} (hs : s.MemOk) : (s.semRemove k).MemOk :=
  hs.frame.foldl fun _ _ h1 => .ite h1.setSem h1.setSem.semGrant
theorem State.MemOk.charge {n} (hs : s.MemOk) : (s.charge n).MemOk := by
  fun_cases State.charge
  · exact hs
  · exact hs
  · exact hs.setCtx
theorem State.MemOk.abortRings {n} (hs : s.MemOk) : (s.abortRings n).MemOk := hs.foldl fun _ _ h1 => h1.ringAbort
theorem State.MemOk.stepGone {n} (hs : s.MemOk) : (s.stepGone n).MemOk := by
  fun_cases State.stepGone
  · exact hs
  · exact hs.charge.setSlotSched
theorem State.MemOk.killStep {n} (hs : s.MemOk) : (s.killStep n).MemOk := by
  fun_cases State.killStep
  · exact hs
  · exact .abortRings (hs.stepGone.foldl fun _ _ h1 => h1.setCell)
theorem State.MemOk.spWhole {p} (hs : s.MemOk) : (s.spWhole p).MemOk := hs.frame
theorem State.MemOk.dropXlt {p} (hs : s.MemOk) : (s.dropXlt p).MemOk := hs.frame
theorem State.MemOk.cleanCell {p} (hs : s.MemOk) : (s.cleanCell p).MemOk := by
  fun_cases State.cleanCell
  · exact hs.setCell.spWhole.dropXlt.frame.sendAll.countCell
  · exact hs.setCell.spWhole.dropXlt.frame
theorem State.MemOk.dropLine {a l discard} (hs : s.MemOk) : (s.dropLine a l discard).MemOk := by
  fun_cases State.dropLine <;> exact .setHomeLine (.foldl (.uncache (.setAgent (.ite hs.homeWrite hs))) fun _ _ h1 => h1.actDeferred)
theorem State.MemOk.freeInherit {cells} (hs : s.MemOk) : (s.freeInherit cells).MemOk :=
  hs.foldl fun _ _ h1 => .setCell (.cleanCell (h1.foldl fun _ _ h2 => h2.dropLine))
theorem State.MemOk.discardSteps {k f} (hs : s.MemOk) : (s.discardSteps k f).MemOk := by
  induction f generalizing s with
  | zero => exact hs
  | succ f ih => exact .ite hs (ih hs.partTouch.setCtx.raiseTargets)
theorem State.MemOk.keepVt {k vt} (hs : s.MemOk) : (s.keepVt k vt).MemOk := hs.frame
theorem State.MemOk.teardown {k code} (hs : s.MemOk) : (s.teardown k code).MemOk := by
  unfold State.teardown
  dsimp only
  split
  · exact hs
  · refine .setCtx ?_
    split
    · refine .summaryUp (.event ?_)
      refine .foldl ?_ fun _ _ h1 => h1.fenceAbandon
      refine .semRemove (.keepVt ?_)
      split
      · exact hs.setCtx.discardSteps
      · exact hs.setCtx.discardSteps.freeInherit.setSlotSched
    · refine .event ?_
      refine .foldl ?_ fun _ _ h1 => h1.fenceAbandon
      refine .semRemove (.keepVt ?_)
      split
      · exact hs.setCtx.discardSteps
      · exact hs.setCtx.discardSteps.freeInherit.setSlotSched
theorem State.MemOk.stepFaultAt {n kind a} (hs : s.MemOk) : (s.stepFaultAt n kind a).MemOk := hs.setSlotSched.stepFault
theorem State.MemOk.ctxFault {k kind detail} (hs : s.MemOk) : (s.ctxFault k kind detail).MemOk := hs.recordFault.teardown
theorem State.MemOk.asleep {k} (hs : s.MemOk) : (s.asleep k).MemOk := by
  fun_cases State.asleep
  · exact hs
  · exact hs.setCtx
theorem State.MemOk.lateCount {st} (hs : s.MemOk) : (s.lateCount st).MemOk := by
  fun_cases State.lateCount
  · exact hs.frame
  · exact hs
theorem State.MemOk.examine {k} (hs : s.MemOk) : (s.examine k).1.MemOk := by
  fun_cases State.examine <;> dsimp only
  · exact hs
  · exact hs.readStep
  · exact hs.readStep.parkBit
  · exact hs.readStep.ctxFault
  · exact hs.readStep.lateCount.setCtx.doSignals.stepDone
  · exact hs.readStep.asleep
  · exact hs.readStep.setCtx.parkBit
  · exact hs.readStep.asleep
  · exact hs.readStep.asleep
theorem State.MemOk.settlePass {l} (hs : s.MemOk) : (s.settlePass l).1.MemOk :=
  State.MemOk.foldl_fst hs fun _ _ h1 => h1.examine
theorem State.MemOk.settleN {f} (hs : s.MemOk) : (s.settleN f).MemOk := by
  induction f generalizing s with
  | zero => exact hs
  | succ f ih => exact .ite (ih hs.settlePass) hs.settlePass
theorem State.MemOk.parkIfIdle {n} (hs : s.MemOk) : (s.parkIfIdle n).MemOk := by
  fun_cases State.parkIfIdle
  · exact hs
  · exact hs.parkBit
theorem State.MemOk.parkIdle (hs : s.MemOk) : s.parkIdle.MemOk := hs.foldl fun _ _ h1 => h1.parkIfIdle
theorem State.MemOk.settle (hs : s.MemOk) : s.settle.MemOk := hs.settleN.parkIdle
theorem State.MemOk.killAndTear {n code} (hs : s.MemOk) : (s.killAndTear n code).MemOk := by
  fun_cases State.killAndTear
  · exact hs
  · exact hs.killStep.teardown.settle.parkIfIdle
theorem State.MemOk.faultArrives {r} (hs : s.MemOk) : (s.faultArrives r).MemOk := by
  fun_cases State.faultArrives
  · exact hs.recordFault.setCtx
  · exact hs.recordFault
  · exact hs.recordFault
  · exact hs.recordFault.setSlotSched
  iterate 3 exact hs.recordFault
theorem execFault_memOk {m} (hs : s.MemOk) : OutMemOk (execFault m s) :=
  hs.onModule fun _ h1 => h1.delivered fun _ h2 => .next h2.take.faultArrives
theorem State.MemOk.clearTorn {n} (hs : s.MemOk) : (s.clearTorn n).MemOk := by
  fun_cases State.clearTorn
  · exact hs.setSlotSched
  · exact hs

/-! Memories stay canonical: Stage images. -/

theorem State.MemOk.restoreCell {p im} (hs : s.MemOk) : (s.restoreCell p im).MemOk := hs.setCell.spWhole.frame
theorem State.MemOk.clearStubs {n} (hs : s.MemOk) : (s.clearStubs n).MemOk := hs.foldl fun _ _ h1 => h1.clearStub
theorem State.MemOk.windowClose {n} (hs : s.MemOk) : (s.windowClose n).MemOk := by
  fun_cases State.windowClose
  · exact hs.setCoach.clearStubs
  · exact hs
  · exact hs
theorem execOverlapWindowClose_memOk {n} (hs : s.MemOk) : OutMemOk (execOverlapWindowClose n s) :=
  hs.onModule fun _ h1 => .next h1.windowClose
theorem State.MemOk.advanceEpoch {n window} (hs : s.MemOk) : (s.advanceEpoch n window).MemOk := by
  fun_cases State.advanceEpoch
  · exact .frame (.sendNotes (hs.setCoach.foldl fun _ _ h1 => h1.setCell))
  · exact hs.setCoach.foldl fun _ _ h1 => h1.setCell
theorem State.MemOk.sendEpochSet {n p} (hs : s.MemOk) : (s.sendEpochSet n p).MemOk := by
  fun_cases State.sendEpochSet
  · exact hs.send
  · exact hs
theorem State.MemOk.sendYieldReq {n p} (hs : s.MemOk) : (s.sendYieldReq n p).MemOk := by
  fun_cases State.sendYieldReq
  · exact hs.send
  · exact hs

/-! Memories stay canonical: moves of cells. -/

theorem State.MemOk.giveBack {p} (hs : s.MemOk) : (s.giveBack p).MemOk := by
  fun_cases State.giveBack
  · exact hs.retireFree
  · exact hs.setCell
theorem State.MemOk.withdraw {p} (hs : s.MemOk) : (s.withdraw p).MemOk := hs.leaveYield.setOx
theorem State.MemOk.dropYieldReq {p} (hs : s.MemOk) : (s.dropYieldReq p).MemOk := hs.frame
theorem State.MemOk.moveCancel {n promoted} (hs : s.MemOk) : (s.moveCancel n promoted).MemOk :=
  .setCoach (hs.foldl fun _ _ h1 => .giveBack (.setCell (.ite h1.withdraw.dropYieldReq h1)))
theorem State.MemOk.quiesce {p} (hs : s.MemOk) : (s.quiesce p).MemOk := by
  fun_cases State.quiesce
  · exact hs
  · exact hs
  · exact hs.setCell
  · exact hs.setCell.setCoach
theorem execQuiesce_memOk {p} (hs : s.MemOk) : OutMemOk (execQuiesce p s) := hs.onClock fun _ h1 => .next h1.quiesce
theorem State.MemOk.moveStart {n m} (hs : s.MemOk) : (s.moveStart n m).MemOk := by
  fun_cases State.moveStart
  · exact hs.setCell.setCell.stepFaultAt
  · exact hs.setCell.setCell
  · exact hs.setCell.setCell
theorem State.MemOk.recheck {n} (hs : s.MemOk) : (s.recheck n).MemOk := hs.foldl fun _ _ h1 => .ite h1.unquiesce h1
theorem State.MemOk.batchEffect {n} (hs : s.MemOk) : (s.batchEffect n).MemOk := by
  fun_cases State.batchEffect
  · exact hs.recheck
  · exact .setCoach (hs.recheck.ttFlip.advanceEpoch.foldl fun _ _ h1 => h1.moveStart)
theorem State.MemOk.leave {p then_} (hs : s.MemOk) : (s.leave p then_).MemOk := hs.setCell
theorem State.MemOk.batchEnd {n} (hs : s.MemOk) : (s.batchEnd n).MemOk := by
  fun_cases State.batchEnd
  · exact hs.setCoach
  · exact hs
theorem State.MemOk.targetGoes {p m} (hs : s.MemOk) : (s.targetGoes p m).MemOk :=
  .batchEnd (.setCoach (.yieldEnded (.leave (hs.setCell.foldl fun _ _ h1 => h1.deliverCell))))
theorem execTargetResume_memOk {p} (hs : s.MemOk) : OutMemOk (execTargetResume p s) := by
  unfold execTargetResume
  dsimp only
  refine hs.onClock fun _ h1 => ?_
  split
  · exact .ite (.next h1.restoreCell.leaveYield.targetGoes) (.next h1)
  · exact .next h1
theorem execMoveLost_memOk {p} (hs : s.MemOk) : OutMemOk (execMoveLost p s) := by
  unfold execMoveLost
  dsimp only
  refine hs.onModule fun _ h1 => ?_
  split
  · exact .ite (.next (.stepFault (.targetGoes (.ite h1.restoreCell.leaveYield h1.setCell)))) (.next h1)
  · exact .next h1
theorem State.MemOk.cellClean {p} (hs : s.MemOk) : (s.cellClean p).MemOk := by
  fun_cases State.cellClean
  · exact hs
  · exact hs
  · exact .freeVacated (.setCell (.cleanCell (hs.foldl fun _ _ h1 => h1.dropLine)))
theorem execCellClean_memOk {p} (hs : s.MemOk) : OutMemOk (execCellClean p s) := hs.onClock fun _ h1 => .next h1.cellClean

/-! Memories stay canonical: clocks. -/

theorem State.MemOk.joinClock {t p} (ht : t.MemOk) : (s.joinClock t p).MemOk := .ite ht.setCell.frame ht.setCell

/-! Memories stay canonical: resets. -/

theorem State.MemOk.crashCollect {n code tick ran} (hs : s.MemOk) : (s.crashCollect n code tick ran).MemOk := by
  fun_cases State.crashCollect
  · exact hs.frame
  · exact .frame (.ite hs.devWrite.devWrite hs.devWrite)
theorem State.MemOk.mbxAnswer {status value} (hs : s.MemOk) : (s.mbxAnswer status value).MemOk := hs.frame.msix
theorem State.MemOk.mbxTornDown (hs : s.MemOk) : s.mbxTornDown.MemOk := by
  fun_cases State.mbxTornDown
  · exact hs
  · exact hs.mbxAnswer
  · exact hs
theorem State.MemOk.faultBoundary {n} (hs : s.MemOk) : (s.faultBoundary n).MemOk := by
  unfold State.faultBoundary
  dsimp only
  split
  · exact hs
  · split
    · refine hs.foldl fun _ _ h1 => ?_
      split
      · exact h1.teardown.settle.mbxTornDown
      · exact h1
    · refine .mbxTornDown (.killAndTear ?_)
      refine hs.foldl fun _ _ h1 => ?_
      split
      · exact h1.teardown.settle.mbxTornDown
      · exact h1
theorem State.MemOk.dropNc {n fab} (hs : s.MemOk) : (s.dropNc n fab).MemOk := hs.frame
theorem State.MemOk.dropRequests {n} (hs : s.MemOk) : (s.dropRequests n).MemOk :=
  .foldl (hs.dropNc.dropUnsent.frame.foldl fun _ _ h1 => h1.freeEntry) fun _ _ h1 => h1.freeReserved
theorem State.MemOk.newSpillKey {n} (hs : s.MemOk) : (s.newSpillKey n).MemOk := hs.frame
theorem State.MemOk.clearSems {n} (hs : s.MemOk) : (s.clearSems n).MemOk := hs.frame
theorem State.MemOk.replaceFailed {n p} (hs : s.MemOk) : (s.replaceFailed n p).MemOk := by
  fun_cases State.replaceFailed
  · exact hs.setCell.setCell.joinClock.sendEpochSet.logErr
  · exact hs.setCell.setCoach.sparesOut
theorem State.MemOk.resetMoves {n} (hs : s.MemOk) : (s.resetMoves n).MemOk := by
  fun_cases State.resetMoves
  · exact .setCoach (hs.foldl fun _ _ h1 => .ite h1 h1.setCell.setCell)
  · exact hs.moveCancel
theorem State.MemOk.resetCell {n p} (hs : s.MemOk) : (s.resetCell n p).MemOk := by
  fun_cases State.resetCell
  · exact hs.cleanCell.setCell
  · exact hs.cleanCell.replaceFailed
  · exact hs.cleanCell
theorem State.MemOk.resetFinish {n timedOut warm} (hs : s.MemOk) : (s.resetFinish n timedOut warm).MemOk := by
  unfold State.resetFinish
  extract_lets errs s1 s2 s3 s4 x s5 cells s6 s7 s8 s9 t s10 s11 s12
  have h3 : s3.MemOk := hs.frame.dropRequests.foldl fun _ _ h1 => h1.teardown
  have h6 : s6.MemOk := h3.freeInherit.setSlotSched.foldl fun _ _ h1 => h1.foldl fun _ _ h2 => h2.dropLine
  have h9 : s9.MemOk := h6.clearSems.resetMoves.advanceEpoch.clearStubs
  have h11 : s11.MemOk := .ite h9.setTt h9.setTt.newSpillKey
  have h12 : s12.MemOk := h11.foldl fun _ _ h1 => h1.resetCell
  exact h12.frame.freeVacated.settle.mbxTornDown
theorem State.MemOk.setReset {n r} (hs : s.MemOk) : (s.setReset n r).MemOk := hs.frame
theorem State.MemOk.resetStopped {n r} (hs : s.MemOk) : (s.resetStopped n r).MemOk := by
  unfold State.resetStopped
  split
  · refine .setReset ?_
    split
    · exact hs.crashCollect
    · exact hs
  · exact hs.setReset
theorem State.MemOk.resetBegin {n crash timedOut stuck} (hs : s.MemOk) : (s.resetBegin n crash timedOut stuck).MemOk := by
  fun_cases State.resetBegin
  · exact hs
  · exact .stepGone (.resetStopped (.foldl (.frame (.foldl (.ite hs hs.moveCancel) fun _ _ h1 => h1.setCell)) fun _ _ h1 => h1.ringDisable))
theorem State.MemOk.resetBoundary {n} (hs : s.MemOk) : (s.resetBoundary n).MemOk := by
  fun_cases State.resetBoundary
  · exact hs.resetFinish
  · exact hs
  · exact hs
theorem execPcellStopTimeout_memOk {p} (hs : s.MemOk) : OutMemOk (execPcellStopTimeout p s) := by
  fun_cases execPcellStopTimeout
  · exact .next hs.resetBegin
  · exact .next hs
  · exact .next hs
  · exact .next hs.markFailed.setCell.resetStopped
theorem execCommandTimeout_memOk {n stuck} (hs : s.MemOk) : OutMemOk (execCommandTimeout n stuck s) := by
  unfold execCommandTimeout
  dsimp only
  refine hs.onModule fun _ h1 => ?_
  split
  · exact .next (h1.foldl fun _ _ h2 => h2.ctxFault)
  · exact .next (.resetBegin (.recordFault (h1.foldl fun _ _ h2 => h2.ctxFault)))
theorem State.MemOk.zeroRange {a n} (hs : s.MemOk) : (s.zeroRange a n).MemOk := by
  fun_cases State.zeroRange
  · exact hs
  · exact State.MemOk.flipRange ⟨twf_filter hs.1 _, hs.noteWrite.noteKey.2⟩
theorem State.MemOk.clearRoutes {n} (hs : s.MemOk) : (s.clearRoutes n).MemOk := hs.zeroRange.frame
theorem State.MemOk.warmClose {n} (hs : s.MemOk) : (s.warmClose n).MemOk := by
  fun_cases State.warmClose
  · exact hs
  · exact .setCoach (.frame (.frame (.foldl (hs.frame.killStep.resetFinish.foldl fun _ _ h1 => h1.setCell) fun _ _ h1 => h1.ringDisable)))
theorem State.MemOk.closeAll (hs : s.MemOk) : s.closeAll.MemOk := .frame (.llcLose (hs.foldl fun _ _ h1 => h1.warmClose))
theorem State.MemOk.warmResetNow {cause} (hs : s.MemOk) : (s.warmResetNow cause).MemOk :=
  hs.resumeModule.frame.log.logErr.frame.closeAll
theorem execWarmReset_memOk (hs : s.MemOk) : OutMemOk (execWarmReset s) := hs.gate fun _ h1 => .next h1.warmResetNow
theorem execWarmResetEscalation_memOk {n} (hs : s.MemOk) : OutMemOk (execWarmResetEscalation n s) := by
  fun_cases execWarmResetEscalation
  · exact .next hs.warmResetNow
  · exact .next hs
  · exact .next hs

/-! Memories stay canonical: coaches. -/

theorem State.MemOk.linkSettle {n} (hs : s.MemOk) : (s.linkSettle n).MemOk := hs.foldl fun _ _ h1 => h1.setCoach
theorem State.MemOk.coachOpen {n l arg} (hs : s.MemOk) : (s.coachOpen n l arg).MemOk :=
  hs.clearRoutes.clearSems.newSpillKey.setSlotSched.frame.setCoach.parkIfIdle
theorem State.MemOk.syncRecall {n} (hs : s.MemOk) : (s.syncRecall n).MemOk := by
  fun_cases State.syncRecall
  · exact hs.frame
  · exact hs.frame
  · exact hs
  · exact hs.frame
  · exact hs
theorem State.MemOk.coachClose {n} (hs : s.MemOk) : (s.coachClose n).MemOk := hs.frame.clearRoutes.syncRecall.setCoach
theorem State.MemOk.join {n p peer l} (hs : s.MemOk) : (s.join n p peer l).MemOk := hs.setCell.sendEpochSet
theorem State.MemOk.coachAct {n v arg stuck} (hs : s.MemOk) : (s.coachAct n v arg stuck).MemOk := by
  fun_cases State.coachAct
  · exact hs.coachOpen
  · exact hs.coachClose
  · exact hs.frame.resetBegin
  · exact hs.frame.resetBegin.frame
  · exact hs.join.setCoach.joinClock
  · exact hs.setCell
  · exact hs
  · exact hs.join.setCell.setFreq.setCell.setCoach
  · exact hs
  · exact hs.setCoach.foldl fun _ _ h1 => h1.sendYieldReq
  · exact hs.moveCancel
  · exact hs.setShare.setCoach
  · exact hs.setCoach
  · exact hs.setCoach.linkSettle
  · exact hs.setCoach
  · exact hs
theorem State.MemOk.coachCommand {v arg stuck} (hs : s.MemOk) : (s.coachCommand v arg stuck).MemOk := by
  fun_cases State.coachCommand
  iterate 4 exact hs.frame.frame
  · exact hs.frame.log.frame.coachAct
  · exact hs.frame.frame
theorem execCoachOpen_memOk {cmd arg} (hs : s.MemOk) : OutMemOk (execCoachOpen cmd arg s) :=
  hs.gate fun _ h1 => .next h1.coachCommand
theorem execCoachClose_memOk {cmd arg} (hs : s.MemOk) : OutMemOk (execCoachClose cmd arg s) :=
  hs.gate fun _ h1 => .next h1.coachCommand
theorem execHitchCell_memOk {cmd arg} (hs : s.MemOk) : OutMemOk (execHitchCell cmd arg s) :=
  hs.gate fun _ h1 => .next h1.coachCommand
theorem execUnhitchCell_memOk {cmd arg} (hs : s.MemOk) : OutMemOk (execUnhitchCell cmd arg s) :=
  hs.gate fun _ h1 => .next h1.coachCommand
theorem execMoveCell_memOk {cmd arg} (hs : s.MemOk) : OutMemOk (execMoveCell cmd arg s) := hs.gate fun _ h1 => .next h1.coachCommand
theorem execMoveGo_memOk {cmd arg} (hs : s.MemOk) : OutMemOk (execMoveGo cmd arg s) := hs.gate fun _ h1 => .next h1.coachCommand
theorem execMoveCancel_memOk {cmd arg} (hs : s.MemOk) : OutMemOk (execMoveCancel cmd arg s) :=
  hs.gate fun _ h1 => .next h1.coachCommand
theorem execSetMem_memOk {cmd arg} (hs : s.MemOk) : OutMemOk (execSetMem cmd arg s) := hs.gate fun _ h1 => .next h1.coachCommand
theorem execSetLink_memOk {cmd arg} (hs : s.MemOk) : OutMemOk (execSetLink cmd arg s) := hs.gate fun _ h1 => .next h1.coachCommand
theorem execSetWindow_memOk {cmd arg} (hs : s.MemOk) : OutMemOk (execSetWindow cmd arg s) :=
  hs.gate fun _ h1 => .next h1.coachCommand
theorem execCoachReset_memOk {cmd arg stuck} (hs : s.MemOk) : OutMemOk (execCoachReset cmd arg stuck s) :=
  hs.gate fun _ h1 => .next h1.coachCommand

/-! Memories stay canonical: requests that do not cache. -/

theorem State.MemOk.pushReply {ep n stream l} (hs : s.MemOk) : (s.pushReply ep n stream l).MemOk := by
  fun_cases State.pushReply
  · exact hs
  · exact hs.pushOut
theorem State.MemOk.respond {k n p status data} (hs : s.MemOk) : (s.respond k n p status data).MemOk := hs.sendPacket
theorem State.MemOk.ncReply {q} (hs : s.MemOk) : (s.ncReply q).MemOk := by
  fun_cases State.ncReply
  · exact hs
  · exact hs.pushReply
  · exact hs.setJport.respond
theorem State.MemOk.ncAnswer (hs : s.MemOk) : s.ncAnswer.MemOk := hs.foldl fun _ _ h1 => h1.frame.ncReply
theorem State.MemOk.ncOpen {ep q o} (hs : s.MemOk) : (s.ncOpen ep q o).MemOk := .ncAnswer (hs.frame.foldl fun _ _ h1 => h1.homeJoin)

/-! Memories stay canonical: coherence messages. -/

theorem State.MemOk.request_ {i l r} (hs : s.MemOk) : OutMemOk (s.request_ i l r) :=
  hs.delivered fun _ h1 => .ite (.next h1.take.atHome.ncAnswer) (.next h1)
theorem execGetS_memOk {a line sharedOnly} (hs : s.MemOk) : OutMemOk (execGetS a line sharedOnly s) :=
  hs.onModule fun _ h1 => h1.request_
theorem execGetM_memOk {a line} (hs : s.MemOk) : OutMemOk (execGetM a line s) := hs.onModule fun _ h1 => h1.request_
theorem execUpgrade_memOk {a line} (hs : s.MemOk) : OutMemOk (execUpgrade a line s) := hs.onModule fun _ h1 => h1.request_
theorem execPutS_memOk {a line} (hs : s.MemOk) : OutMemOk (execPutS a line s) := hs.onModule fun _ h1 => h1.request_
theorem execPutE_memOk {a line} (hs : s.MemOk) : OutMemOk (execPutE a line s) := hs.onModule fun _ h1 => h1.request_
theorem execPutD_memOk {a line data} (hs : s.MemOk) : OutMemOk (execPutD a line data s) := hs.onModule fun _ h1 => h1.request_
theorem execAmoFar_memOk {a line body} (hs : s.MemOk) : OutMemOk (execAmoFar a line body s) := hs.onModule fun _ h1 => h1.request_
theorem execFwdGetS_memOk {a line requester acks} (hs : s.MemOk) : OutMemOk (execFwdGetS a line requester acks s) :=
  hs.onClock fun _ h1 => h1.delivered fun _ h2 => .next h2.takeAt.forwarded
theorem execFwdGetM_memOk {a line requester acks} (hs : s.MemOk) : OutMemOk (execFwdGetM a line requester acks s) :=
  hs.onClock fun _ h1 => h1.delivered fun _ h2 => .next h2.takeAt.forwarded
theorem execSnpData_memOk {a line} (hs : s.MemOk) : OutMemOk (execSnpData a line s) :=
  hs.onClock fun _ h1 => h1.delivered fun _ h2 => .next h2.takeAt.forwarded
theorem execSnpInv_memOk {a line} (hs : s.MemOk) : OutMemOk (execSnpInv a line s) :=
  hs.onClock fun _ h1 => h1.delivered fun _ h2 => .next h2.takeAt.forwarded
theorem execInv_memOk {a line} (hs : s.MemOk) : OutMemOk (execInv a line s) :=
  hs.onClock fun _ h1 => h1.delivered fun _ h2 => .next h2.takeAt.invAgent.rereadTail
theorem execFwdAmo_memOk {e line requester body} (hs : s.MemOk) : OutMemOk (execFwdAmo e line requester body s) := by
  unfold execFwdAmo
  dsimp only
  refine hs.onModule fun _ h1 => ?_
  refine h1.delivered fun _ h2 => ?_
  split
  · exact .next h2
  · split
    · exact .next (h2.take.memDemand.of_snd ‹_›).post.post
    · exact .next (h2.take.memDemand.of_snd ‹_›).memPut.noteAmo.noteServed.doneShown.post.post
theorem State.MemOk.noteCached {a l} (hs : s.MemOk) : (s.noteCached a l).MemOk := by
  fun_cases State.noteCached
  · exact hs.frame
  · exact hs
theorem State.MemOk.filled {a l f} (hs : s.MemOk) (hf : ∀ t, t.MemOk → (f t).MemOk) : OutMemOk (s.filled a l f) :=
  .ite .fault (.next (hf _ hs.noteCached))
theorem State.MemOk.win {a l x hold} (hs : s.MemOk) : (s.win a l x hold).MemOk := hs.setAgent.agentWon
theorem State.MemOk.useOnce {a l d} (hs : s.MemOk) : (s.useOnce a l d).MemOk := by
  fun_cases State.useOnce
  · exact hs.setAgent.takeTails.agentTo.rereadTail
  · exact hs.setAgent.retryLoads.agentLose.drainDeferred.retryCell
  · exact hs.setAgent
theorem execPutAck_memOk {a line} (hs : s.MemOk) : OutMemOk (execPutAck a line s) := by
  unfold execPutAck
  dsimp only
  refine hs.onClock fun _ h1 => ?_
  refine h1.delivered fun _ h2 => ?_
  split
  iterate 5 exact .next h2.takeAt.agentTo.agentWon
  · exact .next h2.takeAt
theorem execGrant_memOk {a line cont} (hs : s.MemOk) : OutMemOk (execGrant a line cont s) := by
  unfold execGrant
  dsimp only
  refine hs.onClock fun _ h1 => ?_
  refine h1.delivered fun _ h2 => ?_
  split
  · exact .next h2.takeAt.win
  · exact .next h2.takeAt.win
  · exact .next h2.takeAt
theorem execDone_memOk {a line} (hs : s.MemOk) : OutMemOk (execDone a line s) := by
  unfold execDone
  dsimp only
  refine hs.onClock fun _ h1 => ?_
  refine h1.delivered fun _ h2 => ?_
  split
  · exact .next h2.takeAt.win
  · exact .next h2.takeAt
theorem execDataS_memOk {a line data} (hs : s.MemOk) : OutMemOk (execDataS a line data s) := by
  unfold execDataS
  dsimp only
  refine hs.onClock fun _ h1 => ?_
  refine h1.delivered fun _ h2 => ?_
  split
  · refine h2.takeAt.filled fun _ h3 => ?_
    split
    · exact h3.setAgent.takeTails
    · exact h3.setAgent.agentWon
  · exact h2.takeAt.filled fun _ h3 => h3.useOnce
  · exact .next h2.takeAt
theorem execDataE_memOk {a line data} (hs : s.MemOk) : OutMemOk (execDataE a line data s) := by
  unfold execDataE
  dsimp only
  refine hs.onClock fun _ h1 => ?_
  refine h1.delivered fun _ h2 => ?_
  split
  · exact h2.takeAt.filled fun _ h3 => h3.win
  · exact h2.takeAt.filled fun _ h3 => h3.useOnce
  · exact .next h2.takeAt
theorem execDataM_memOk {a line data cont wait} (hs : s.MemOk) : OutMemOk (execDataM a line data cont wait s) := by
  unfold execDataM
  dsimp only
  refine hs.onClock fun _ h1 => ?_
  refine h1.delivered fun _ h2 => ?_
  split
  · exact .next h2.takeAt.homeDataM.ncAnswer
  · split
    iterate 3 exact h2.takeAt.filled fun _ h3 => .ite h3.setAgent h3.win
    · exact h2.takeAt.filled fun _ h3 => h3.useOnce
    · exact .next h2.takeAt
theorem State.MemOk.farRefused {p l code} (hs : s.MemOk) : (s.farRefused p l code).MemOk := by
  fun_cases State.farRefused
  · exact hs.retryHen
  · exact hs
  · exact hs
theorem State.MemOk.fabAmo {ep l status old} (hs : s.MemOk) : (s.fabAmo ep l status old).MemOk := by
  fun_cases State.fabAmo
  · exact hs.setNc.ncAnswer
  · exact hs
theorem execRefuse_memOk {a line code} (hs : s.MemOk) : OutMemOk (execRefuse a line code s) := by
  unfold execRefuse
  dsimp only
  refine hs.onClock fun _ h1 => ?_
  refine h1.delivered fun _ h2 => ?_
  split
  · exact .next (.foldl (.ite h2.takeAt.agentTo h2.takeAt.storeAnswered) fun _ _ h3 => h3.ringFault)
  · split
    · exact .next h2.takeAt.fabAmo
    · split
      iterate 6 exact .next h2.takeAt.agentLose.retryCell.drainDeferred
      · exact .next h2.takeAt.farRefused
theorem execRetry_memOk {a line} (hs : s.MemOk) : OutMemOk (execRetry a line s) := by
  unfold execRetry
  dsimp only
  refine hs.onClock fun _ h1 => ?_
  refine h1.delivered fun _ h2 => ?_
  split
  · exact .next h2.takeAt
  · exact .next h2.takeAt.frame
theorem execCredit_memOk {a line} (hs : s.MemOk) : OutMemOk (execCredit a line s) := by
  unfold execCredit
  dsimp only
  refine hs.onClock fun _ h1 => ?_
  refine h1.delivered fun _ h2 => ?_
  split
  · exact .next (h2.takeAt.frame.foldl fun _ _ h3 => h3.sendFrom)
  · split
    · exact .next (h2.takeAt.frame.foldl fun _ _ h3 => h3.sendFrom)
    · exact .next (.freePool (.setHome (h2.takeAt.frame.foldl fun _ _ h3 => h3.sendFrom)))
theorem execHoldEnd_memOk {a line} (hs : s.MemOk) : OutMemOk (execHoldEnd a line s) :=
  hs.onClock fun _ h1 => .next (.ite h1.setAgent.drainDeferred.retryCell h1.setAgent.drainDeferred)
theorem execAmoResp_memOk {a line old hot} (hs : s.MemOk) : OutMemOk (execAmoResp a line old hot s) := by
  unfold execAmoResp
  dsimp only
  refine hs.onClock fun _ h1 => ?_
  refine h1.delivered fun _ h2 => ?_
  split
  · refine .next ?_
    split
    · exact h2.takeAt.storeAnswered
    · exact h2.takeAt.fabAmo
  · split
    · exact .next h2.takeAt
    · split
      · split
        · exact .next h2.takeAt.setCell.learn.checkInvs.done.retryCell
        · exact .next h2.takeAt.setCell.learn.checkInvs
      · exact .next h2.takeAt.setCell.learn.checkInvs
theorem execInvAck_memOk {a line} (hs : s.MemOk) : OutMemOk (execInvAck a line s) :=
  hs.onModule fun _ h1 => h1.delivered fun _ h2 => .next h2.take.homeInvAck.ncAnswer
theorem execSnpResp_memOk {a line code} (hs : s.MemOk) : OutMemOk (execSnpResp a line code s) :=
  hs.onModule fun _ h1 => h1.delivered fun _ h2 => .next h2.take.homeSnp.ncAnswer
theorem execWbData_memOk {a line data} (hs : s.MemOk) : OutMemOk (execWbData a line data s) :=
  hs.onModule fun _ h1 => h1.delivered fun _ h2 => .next h2.take.homeWb.ncAnswer
theorem State.MemOk.syncPageWrite {n v} (hs : s.MemOk) : (s.syncPageWrite n v).MemOk := by
  fun_cases State.syncPageWrite
  · exact hs
  · exact hs.frame
  · exact hs.logWindow.frame
  · exact hs.logWindow.frame
theorem execSyncPageWrite_memOk {n v} (hs : s.MemOk) : OutMemOk (execSyncPageWrite n v s) :=
  hs.gate fun _ h1 => .next h1.syncPageWrite
theorem execSyncPageRecallDone_memOk (hs : s.MemOk) : OutMemOk (execSyncPageRecallDone s) := by
  unfold execSyncPageRecallDone
  dsimp only
  refine hs.onModule fun _ h1 => ?_
  split
  · exact .next h1
  · exact .ite (.next h1) (.next (.frame (h1.foldl fun _ _ h2 => h2.flushLine)))
theorem State.MemOk.cohStrictWrite {q v} (hs : s.MemOk) : (s.cohStrictWrite q v).MemOk := by
  fun_cases State.cohStrictWrite
  · exact hs.frame
  · exact hs.logWindow.frame
theorem execCohStrictWrite_memOk {q v} (hs : s.MemOk) : OutMemOk (execCohStrictWrite q v s) :=
  hs.gate fun _ h1 => .next h1.cohStrictWrite

end Sys2Proof.Machine
end

section
/-! Memory stays canonical (O59), part 6: the fabric, the scheduler, translation, the frame, the host. -/
namespace Sys2Proof.Machine

variable {s t : State}

/-! Memories stay canonical: jombitin packets. -/

theorem State.MemOk.fabReplies {l b} (hs : s.MemOk) : (s.fabReplies l b).MemOk := by
  induction l generalizing s b with
  | nil => exact hs
  | cons r rest ih =>
    unfold State.fabReplies
    dsimp only
    split
    · exact ih hs
    · exact .ite (ih hs) (ih (.ite hs.frame hs.frame.pushReply))
theorem State.MemOk.fabAnswer {r f} (hs : s.MemOk) : (s.fabAnswer r f).MemOk := hs.frame.fabReplies
theorem State.MemOk.fabIssue {r} (hs : s.MemOk) : (s.fabIssue r).MemOk := by
  suffices h : ∀ f : State → JbnReq → State, f = State.fabIssue → (f s r).MemOk from h _ rfl
  delta State.fabIssue
  rintro f rfl
  beta_reduce
  split
  · exact hs.fabAnswer
  · exact hs.sendPacket
theorem State.MemOk.fabRequest {east n reply op lines a data part} (hs : s.MemOk) : OptMemOk (s.fabRequest east n reply op lines a data part) := by
  fun_cases State.fabRequest
  · exact .none
  · exact .none
  · exact .some (.fabIssue (.ite hs.frame.acTouch hs.frame))
theorem State.MemOk.handOver {k n p r} (hs : s.MemOk) : (s.handOver k n p r).MemOk := hs.sendPacket.frame
theorem State.MemOk.jbnRehomed {k n p r} (hs : s.MemOk) : (s.jbnRehomed k n p r).MemOk := by
  fun_cases State.jbnRehomed
  · exact hs.handOver
  · exact hs.dropMisrouted
theorem State.MemOk.jbnRequest {k n p} (hs : s.MemOk) : (s.jbnRequest k n p).MemOk := by
  fun_cases State.jbnRequest
  · exact hs.jbnRehomed
  · exact hs.respond
  · exact hs.respond
  · exact hs.setJport.ncOpen
theorem State.MemOk.ingressRehome {k n} (hs : s.MemOk) : (s.ingressRehome k n).MemOk := by
  unfold State.ingressRehome
  dsimp only
  refine hs.foldl fun _ _ h1 => ?_
  split
  · exact h1
  · exact .ite h1 h1.setJport.frame.jbnRehomed
theorem State.MemOk.jbnAccept {k p t} (hs : s.MemOk) (ht : s.jbnAccept k p = .inl t) : t.MemOk := by
  have hite {c : Prop} [Decidable c] {u : State} {o : State ⊕ Nat} (h : (if c then .inl u else o) = .inl t) (hu : u.MemOk)
      (ho : o = .inl t → t.MemOk) : t.MemOk := by
    split at h
    · exact Sum.inl.inj h ▸ hu
    · exact ho h
  unfold State.jbnAccept at ht
  split at ht
  · exact Sum.inl.inj ht ▸ hs.dropNotMember
  · exact hite ht hs.dropFull fun ht => hite ht hs.dropFull fun ht => hite ht hs.dropAuth fun ht => hite ht hs.dropMisrouted fun ht =>
      hite ht hs.dropNotMember fun ht => hite ht hs.staleDrop nofun
theorem State.MemOk.jbnArrive {k p act} (hs : s.MemOk) (hact : ∀ t n, t.MemOk → (act t n).MemOk) : (s.jbnArrive k p act).MemOk := by
  unfold State.jbnArrive
  extract_lets s1 s2
  have h2 : s2.MemOk := hs.emit.countGlobal.countGlobal
  clear_value s2
  refine .ite hs (.ite h2.dropFull ?_)
  split
  · exact h2.jbnAccept ‹_›
  · exact hact _ _ h2.countCoach
theorem execJbnRead_memOk {k pkt} (hs : s.MemOk) : OutMemOk (execJbnRead k pkt s) := .next (hs.jbnArrive fun _ _ h1 => h1.jbnRequest)
theorem execJbnWrite_memOk {k pkt} (hs : s.MemOk) : OutMemOk (execJbnWrite k pkt s) :=
  .next (hs.jbnArrive fun _ _ h1 => h1.jbnRequest)
theorem execJbnAtomic_memOk {k pkt} (hs : s.MemOk) : OutMemOk (execJbnAtomic k pkt s) :=
  .next (hs.jbnArrive fun _ _ h1 => h1.jbnRequest)
theorem State.MemOk.jbnStream {k n p} (hs : s.MemOk) : (s.jbnStream k n p).MemOk := by
  fun_cases State.jbnStream
  · exact hs.dropMisrouted
  · exact hs.foldl fun _ _ h1 => h1.accept
  · exact .pushReply (.ite hs hs.frame)
theorem execStream_memOk {k pkt} (hs : s.MemOk) : OutMemOk (execStream k pkt s) := .next (hs.jbnArrive fun _ _ h1 => h1.jbnStream)
theorem State.MemOk.jbnResponse {n p} (hs : s.MemOk) : (s.jbnResponse n p).MemOk := by
  fun_cases State.jbnResponse
  · exact hs.frame
  · exact hs.fabAnswer
theorem execReadResp_memOk {k pkt} (hs : s.MemOk) : OutMemOk (execReadResp k pkt s) :=
  .next (hs.jbnArrive fun _ _ h1 => h1.jbnResponse)
theorem execWriteResp_memOk {k pkt} (hs : s.MemOk) : OutMemOk (execWriteResp k pkt s) :=
  .next (hs.jbnArrive fun _ _ h1 => h1.jbnResponse)
theorem execAtomicResp_memOk {k pkt} (hs : s.MemOk) : OutMemOk (execAtomicResp k pkt s) :=
  .next (hs.jbnArrive fun _ _ h1 => h1.jbnResponse)
theorem State.MemOk.noteArrives {n p} (hs : s.MemOk) : (s.noteArrives n p).MemOk :=
  .foldl (hs.foldl fun _ _ h1 => .ite h1.devWrite h1) fun _ _ h1 => .ite h1.devWrite h1
theorem execEpochNote_memOk {k pkt} (hs : s.MemOk) : OutMemOk (execEpochNote k pkt s) :=
  .next (hs.jbnArrive fun _ _ h1 => h1.noteArrives)
theorem execEpochNoteResend_memOk {n} (hs : s.MemOk) : OutMemOk (execEpochNoteResend n s) :=
  hs.onModule fun _ h1 => .ite (.next h1) (.next h1.frame.sendNotes)
theorem execHandover_memOk {k pkt} (hs : s.MemOk) : OutMemOk (execHandover k pkt s) :=
  .next (hs.jbnArrive fun _ _ h1 => h1.sendPacket.jbnRequest)
theorem execHandoverAck_memOk {k pkt} (hs : s.MemOk) : OutMemOk (execHandoverAck k pkt s) := by
  unfold execHandoverAck
  dsimp only
  refine .next ?_
  refine hs.jbnArrive fun _ _ h1 => ?_
  split
  · exact h1
  · exact h1.frame
theorem execHandoverLost_memOk {n tag} (hs : s.MemOk) : OutMemOk (execHandoverLost n tag s) := by
  unfold execHandoverLost
  dsimp only
  refine hs.onModule fun _ h1 => ?_
  split
  · exact .next h1
  · exact .ite (.next h1) (.next h1.frame)
theorem execLinkCreditBlock_memOk {k cls credits} (hs : s.MemOk) : OutMemOk (execLinkCreditBlock k cls credits s) :=
  .ite (.next hs) (.next (.portPump (hs.setJport.foldl fun _ _ h1 => .ite h1 h1.linkSettle)))
theorem execStreamPacketSend_memOk {east n stream} (hs : s.MemOk) : OutMemOk (execStreamPacketSend east n stream s) := by
  refine hs.onModule fun _ h1 => .ite (.next h1) (.ite (.next (h1.frame.foldl fun _ _ h2 => h2.dropMisrouted)) ?_)
  split
  · exact .next (h1.frame.foldl fun _ _ h2 => h2.dropMisrouted)
  · exact .next h1.frame.sendPacket
theorem execRequestTimeout_memOk {tag} (hs : s.MemOk) : OutMemOk (execRequestTimeout tag s) := by
  refine hs.onModule fun u h1 => ?_
  split
  · exact .next h1
  · exact .ite (.next h1) (.ite (.next h1.recallTag.frame.fabIssue) (.next h1.recallTag.frame.fabAnswer))
theorem State.MemOk.jbnCtrlWrite {v} (hs : s.MemOk) : (s.jbnCtrlWrite v).MemOk := by
  fun_cases State.jbnCtrlWrite
  · exact hs
  · exact hs.logWindow.frame

/-! Memories stay canonical: fabric management. -/

theorem State.MemOk.sendMgmt {k p} (hs : s.MemOk) : (s.sendMgmt k p).MemOk := hs.frame.queuePacket
theorem State.MemOk.fmAnswer {k p status} (hs : s.MemOk) : (s.fmAnswer k p status).MemOk := by
  fun_cases State.fmAnswer
  · exact hs
  · exact hs.frame
theorem execFmResp_memOk {k} (hs : s.MemOk) : OutMemOk (execFmResp k s) := by
  unfold execFmResp
  dsimp only
  refine hs.onModule fun _ h1 => ?_
  split
  · exact .next h1
  · exact .next h1.frame.sendMgmt
theorem State.MemOk.fmArrive {k pkt op needsCoach act} (hs : s.MemOk) (hact : ∀ t n, t.MemOk → OptMemOk (act t n)) :
    (s.fmArrive k pkt op needsCoach act).MemOk := by
  unfold State.fmArrive
  extract_lets p s1 s2 jbn s3 slot n part s4
  have h2 : s2.MemOk := hs.emit.countGlobal.countGlobal
  have h4 : s4.MemOk := h2.frame.log
  clear_value s2 s4
  refine .ite hs (.ite h2.dropFull (.ite h2.dropMisrouted (.ite h2.dropAuth (.ite h4.fmAnswer ?_))))
  split
  · exact (hact _ _ h4 ‹_›).fmAnswer
  · exact h4.fmAnswer
theorem execSetId_memOk {k pkt} (hs : s.MemOk) : OutMemOk (execSetId k pkt s) :=
  .next (hs.fmArrive fun _ _ h1 => .ite .none (.some h1.frame))
theorem execRouteHdr_memOk {k pkt} (hs : s.MemOk) : OutMemOk (execRouteHdr k pkt s) :=
  .next (hs.fmArrive fun _ _ h1 => .ite .none (.some h1.devWrite))
theorem execMemberWrite_memOk {k pkt} (hs : s.MemOk) : OutMemOk (execMemberWrite k pkt s) :=
  .next (hs.fmArrive fun _ _ h1 => .ite .none (.some h1.devWrite))
theorem execStreamWrite_memOk {k pkt} (hs : s.MemOk) : OutMemOk (execStreamWrite k pkt s) :=
  .next (hs.fmArrive fun _ _ h1 => .ite .none (.some h1.devWrite))
theorem execRemoteWrite_memOk {k pkt} (hs : s.MemOk) : OutMemOk (execRemoteWrite k pkt s) :=
  .next (hs.fmArrive fun _ _ h1 => .ite .none (.some h1.devWrite))
theorem execRehome_memOk {k pkt} (hs : s.MemOk) : OutMemOk (execRehome k pkt s) :=
  .next (hs.fmArrive fun _ _ h1 => .ite .none (.some (h1.frame.foldl fun _ _ h2 => h2.ingressRehome)))
theorem State.MemOk.portFalls {k lanes} (hs : s.MemOk) : (s.portFalls k lanes).MemOk :=
  hs.setJport.foldl fun _ _ h1 => .ite h1 h1.linkSettle
theorem execPort_memOk {k pkt} (hs : s.MemOk) : OutMemOk (execPort k pkt s) :=
  .next (hs.fmArrive fun _ _ h1 => .ite .none (.ite (.some h1.setJport) (.some h1.setJport.portFalls)))
theorem execPortUp_memOk {k} (hs : s.MemOk) : OutMemOk (execPortUp k s) := by
  fun_cases execPortUp
  · exact .next hs
  · exact .next hs.setJport
  · exact .next hs.setJport.sendMgmt
theorem execPortDown_memOk {k lanes} (hs : s.MemOk) : OutMemOk (execPortDown k lanes s) := .next hs.portFalls

/-! Memories stay canonical: the scheduler. -/

theorem State.MemOk.shapeTouch {q d} (hs : s.MemOk) : (s.shapeTouch q d).MemOk := by
  fun_cases State.shapeTouch <;> exact hs.partTouch
theorem State.MemOk.placementTouch {q a} (hs : s.MemOk) : (s.placementTouch q a).MemOk := by
  fun_cases State.placementTouch <;> exact hs.partTouch
theorem State.MemOk.activate {n list} (hs : s.MemOk) : (s.activate n list).2.MemOk := by
  fun_cases State.activate <;> dsimp only
  · exact hs.placementTouch
  · exact hs.placementTouch
  · exact hs.placementTouch.frame
  · exact hs.placementTouch.ttTouch.frame
  · exact hs.placementTouch.ttTouch.ttReplace.ttFlip
theorem State.MemOk.activate_some {n list u} (hs : s.MemOk) (h : s.activate n list = (some t, u)) : t.MemOk := by
  have hsnd := hs.activate.of_snd h
  have heq : t = u := by
    unfold State.activate at h
    dsimp only at h
    split at h
    · nomatch h
    · split at h
      · exact (Option.some.inj (Prod.mk.inj h).1).symm.trans (Prod.mk.inj h).2
      · split at h
        · nomatch h
        · split at h
          · nomatch h
          · exact (Option.some.inj (Prod.mk.inj h).1).symm.trans (Prod.mk.inj h).2
  exact heq ▸ hsnd
theorem State.MemOk.promote {n k} (hs : s.MemOk) : (s.promote n k).MemOk := by
  fun_cases State.promote
  · exact hs
  · exact hs.setCtx
  · exact hs
theorem State.MemOk.startHens {p mask entry arg} (hs : s.MemOk) : (s.startHens p mask entry arg).MemOk :=
  hs.setCell.foldl fun _ _ h1 => .dite (fun _ => .ite h1.setHen.henCtrl.setHen h1) fun _ => h1
theorem State.MemOk.takeCells {n k} (hs : s.MemOk) : (s.takeCells n k).MemOk := hs.setSlotSched.setCtx.replyPump
theorem execStepStart_memOk {n} (hs : s.MemOk) : OutMemOk (execStepStart n s) := by
  unfold execStepStart
  dsimp only
  refine hs.onModule fun _ h1 => ?_
  split
  · exact .next h1
  · split
    · exact .next h1
    · split
      · split
        · exact .next h1.ctxFault.settle.parkIfIdle
        · split
          · exact .next h1.shapeTouch.ctxFault.settle.parkIfIdle
          · split
            · exact .next h1.shapeTouch.ctxFault.settle.parkIfIdle
            · split
              · exact .next (h1.shapeTouch.activate.of_snd ‹_›).ctxFault.settle.parkIfIdle
              · exact .next (.takeCells ((h1.shapeTouch.activate_some ‹_›).setCoach.foldl fun _ _ h2 => h2.startHens))
      · exact .next h1
theorem State.MemOk.stepRetire {n} (hs : s.MemOk) : (s.stepRetire n).MemOk := by
  fun_cases State.stepRetire
  · exact hs
  · exact hs
  · exact hs.charge.lateCount.setSlotSched.setCtx.doSignals.stepDone.settle.parkIfIdle
theorem execCharge_memOk {n} (hs : s.MemOk) : OutMemOk (execCharge n s) := hs.onModule fun _ h1 => .next (.ite h1.charge h1)
theorem execMakeResident_memOk {k} (hs : s.MemOk) : OutMemOk (execMakeResident k s) := by
  unfold execMakeResident
  dsimp only
  refine hs.onModule fun _ h1 => ?_
  split
  · exact .next h1
  · split
    · exact .next h1.setCtx
    · split
      · exact .next h1
      · exact .ite (.next h1) (.next h1.setCtx.setCtx)
theorem State.MemOk.noSpill (hs : s.MemOk) : s.noSpill.MemOk := hs.frame
theorem State.MemOk.decideStop {n p promoted} (hs : s.MemOk) : (s.decideStop n p promoted).MemOk := by
  fun_cases State.decideStop
  · exact hs.noSpill
  · exact hs
  · exact .setSlotSched (.ite hs.moveCancel hs)
theorem execPromotionCheck_memOk {n} (hs : s.MemOk) : OutMemOk (execPromotionCheck n s) := by
  unfold execPromotionCheck
  refine hs.onModule fun u h1 => ?_
  extract_lets ready s1
  have h2 : s1.MemOk := h1.foldl fun _ _ h => h.promote
  clear_value s1
  split
  · exact .next h2
  · refine .ite (.next h2) ?_
    split
    · exact .next h2
    · exact .ite (.ite (.next h2.moveCancel) (.next h2)) (.ite (.ite (.next h2.setSlotSched) (.next h2))
        (.ite (.next h2) (.ite (.next h2) (.next h2.decideStop))))
theorem execStopBoundary_memOk {n} (hs : s.MemOk) : OutMemOk (execStopBoundary n s) := by
  unfold execStopBoundary
  refine hs.onModule fun u h1 => ?_
  extract_lets x
  split
  · refine .ite (.next h1) (.ite (.next h1.setSlotSched) ?_)
    split
    · exact .next h1.noSpill.setSlotSched
    · refine .ite (.next h1.noSpill.setSlotSched) (.next (.setSlotSched ?_))
      have hstop := (h1.charge (n := n)).foldl (l := (u.charge n).lcellsOf n) (f := fun s p =>
        s.setCell p { (s.cell p).stop with live := s.liveOf p (s.coach n).yieldTable }) fun _ _ h => h.setCell
      exact .ite hstop.setCtx hstop.setCtx.frame
  · exact .next h1
theorem State.MemOk.ownImage {n} (hs : s.MemOk) : (s.ownImage n).MemOk := hs.ttReplace.ttFlip
theorem execSpillSwap_memOk {n} (hs : s.MemOk) : OutMemOk (execSpillSwap n s) := by
  unfold execSpillSwap
  dsimp only
  refine hs.onModule fun _ h1 => ?_
  split
  · exact .ite (.next h1) (.next h1.ownImage.setSlotSched)
  · exact .next h1
theorem State.MemOk.spilled {n p} (hs : s.MemOk) : (s.spilled n p).MemOk := hs.setCell.frame
theorem State.MemOk.spillContext {n level l} (hs : s.MemOk) : (s.spillContext n level l).MemOk :=
  hs.writeMem.flipRange.chargeLines.frame.noteKey
theorem execOxStateImageSave_memOk {p} (hs : s.MemOk) : OutMemOk (execOxStateImageSave p s) := by
  unfold execOxStateImageSave
  dsimp only
  refine hs.onModule fun _ h1 => ?_
  split
  · exact .ite (.next h1) (.next h1.setSlotSched.spillContext)
  · exact .next h1
theorem State.MemOk.spillBanks {n level im} (hs : s.MemOk) : (s.spillBanks n level im).MemOk := by
  refine .ite hs.spillContext (hs.spillContext.foldl fun _ _ h1 => .noteKey ?_)
  exact h1.zeroRange.chargeLines.foldl fun _ _ h2 => h2.withMem (twf_tset h2.1)
theorem State.MemOk.fetchTouch {n level im} (hs : s.MemOk) : (s.fetchTouch n level im).MemOk :=
  hs.foldl fun _ _ h1 => h1.foldl fun _ _ h2 => h2.memDemand
theorem State.MemOk.spillLevel {n level} (hs : s.MemOk) : (s.spillLevel n level).MemOk :=
  .setSlotSched (hs.foldl fun _ _ h1 => h1.spillBanks)
theorem execSpillComplete_memOk {n} (hs : s.MemOk) : OutMemOk (execSpillComplete n s) := by
  unfold execSpillComplete
  dsimp only
  refine hs.onModule fun _ h1 => ?_
  split
  · exact .ite (.next h1.faultBoundary) (.next (.parkIfIdle (.settle (.setSlotSched (h1.spillLevel.foldl fun _ _ h2 => h2.spilled)))))
  · exact .next h1
theorem execRefill_memOk {n} (hs : s.MemOk) : OutMemOk (execRefill n s) := by
  unfold execRefill
  dsimp only
  refine hs.onModule fun _ h1 => ?_
  split
  · exact .next h1
  · split
    · exact .next h1
    · split
      · exact .next h1
      · exact .next h1.ownImage.setSlotSched
theorem State.MemOk.pumpCell {p} (hs : s.MemOk) : (s.pumpCell p).MemOk :=
  hs.foldl fun _ _ h1 => .dite (fun _ => h1.gigPump) fun _ => h1
theorem execRefillComplete_memOk {n} (hs : s.MemOk) : OutMemOk (execRefillComplete n s) := by
  unfold execRefillComplete
  refine hs.onModule fun _ h1 => ?_
  split
  · refine .ite (.next h1) ?_
    extract_lets lv lv' s2
    have h2 : s2.MemOk := h1.setSlotSched
    clear_value s2
    split
    · exact .next h2
    · split
      · exact .next h2.ctxFault.settle.parkIfIdle
      · split
        · exact .next (h2.activate.of_snd ‹_›).ctxFault.settle.parkIfIdle
        · extract_lets c s3 got s4 s5 s6
          have h4 : s4.MemOk := (h2.activate_some ‹_›).setCoach.foldl fun _ _ h => h.fetchTouch
          have h5 : s5.MemOk := h4.foldl fun _ _ h => by
            dsimp only
            split
            · exact h.restoreCell.setCell.pumpCell
            · exact h
          have h6 : s6.MemOk := h5.takeCells
          clear_value s6
          split
          · exact .next h6.stepFaultAt
          · exact .next (.ite h6.stepFault h6)
  · exact .next h1
theorem State.MemOk.inheritLcell {n k im} (hs : s.MemOk) : (s.inheritLcell n k im).MemOk := by
  fun_cases State.inheritLcell
  · exact hs
  · exact hs.setCell.restoreCell.setCell.pumpCell
theorem State.MemOk.inheritBy {n i k} (hs : s.MemOk) : (s.inheritBy n i k).MemOk := by
  fun_cases State.inheritBy
  · exact hs
  · exact hs
  · exact .replyPump (.setSlotSched (.frame (.setCtx (.foldl (hs.foldl fun _ _ h1 => h1.fetchTouch) fun _ _ h1 => h1.inheritLcell))))
theorem State.MemOk.inherit {n i} (hs : s.MemOk) : (s.inherit n i).MemOk := hs.foldl fun _ _ h1 => h1.inheritBy
theorem State.MemOk.inheritAgain {n} (hs : s.MemOk) : (s.inheritAgain n).MemOk := by
  fun_cases State.inheritAgain
  · exact hs
  · exact hs.foldl fun _ _ h1 => .ite h1.inherit h1
theorem State.MemOk.semOp {east m op} (hs : s.MemOk) : (s.semOp east m op).MemOk := by
  fun_cases State.semOp
  · exact hs
  · exact hs.send
  · exact hs
  · exact hs.semReply
  · exact hs.setSem.semReply.semGrant
  · exact hs.semReply
  · exact hs.setSem.semReply.semGrant
  · exact hs.setSem.semReply
  iterate 4 exact .ite hs.semReply (.ite hs.semReply (.ite hs.setSem.inherit hs.setSem))
theorem execAcquire_memOk {east m} (hs : s.MemOk) : OutMemOk (execAcquire east m s) :=
  hs.onModule fun _ h1 => h1.delivered fun _ h2 => .next h2.take.semOp
theorem execRelease_memOk {east m} (hs : s.MemOk) : OutMemOk (execRelease east m s) :=
  hs.onModule fun _ h1 => h1.delivered fun _ h2 => .next h2.take.semOp
theorem execSemTry_memOk {east m} (hs : s.MemOk) : OutMemOk (execSemTry east m s) :=
  hs.onModule fun _ h1 => h1.delivered fun _ h2 => .next h2.take.semOp
theorem execSemRead_memOk {east m} (hs : s.MemOk) : OutMemOk (execSemRead east m s) :=
  hs.onModule fun _ h1 => h1.delivered fun _ h2 => .next h2.take.semOp
theorem execSemSet_memOk {east m} (hs : s.MemOk) : OutMemOk (execSemSet east m s) :=
  hs.onModule fun _ h1 => h1.delivered fun _ h2 => .next h2.take.semOp
theorem State.MemOk.inheritEndOf {n k} (hs : s.MemOk) : (s.inheritEndOf n k).MemOk := by
  fun_cases State.inheritEndOf
  · exact hs
  · exact .setCtx (hs.foldl fun _ _ h1 => h1.setCell)
  · exact hs
  · exact hs
  · exact .setCtx (.freeInherit (.setSlotSched (hs.setSlotSched.foldl fun _ _ h1 => h1.spillBanks)))
theorem State.MemOk.inheritEnd {n} (hs : s.MemOk) : (s.inheritEnd n).MemOk := .inheritAgain (hs.foldl fun _ _ h1 => h1.inheritEndOf)
theorem State.MemOk.classWrite {c v} (hs : s.MemOk) : (s.classWrite c v).MemOk := hs.frame
theorem execSchedClassWrite_memOk {c v} (hs : s.MemOk) : OutMemOk (execSchedClassWrite c v s) :=
  hs.gate fun _ h1 => .next h1.classWrite
theorem State.MemOk.inheritWrite {r v} (hs : s.MemOk) : (s.inheritWrite r v).MemOk := by
  fun_cases State.inheritWrite
  · exact hs
  · exact hs.frame
theorem execInheritCellWrite_memOk {r v} (hs : s.MemOk) : OutMemOk (execInheritCellWrite r v s) :=
  hs.gate fun _ h1 => .next h1.inheritWrite

/-! Memories stay canonical: translation. -/

theorem State.MemOk.setTlbAgent {d x} (hs : s.MemOk) : (s.setTlbAgent d x).MemOk := hs.frame
theorem State.MemOk.xltAnswer {p a} (hs : s.MemOk) : (s.xltAnswer p a).MemOk := by
  fun_cases State.xltAnswer
  · exact hs.send
  · exact hs
theorem State.MemOk.sendPage {d m} (hs : s.MemOk) : (s.sendPage d m).MemOk := by
  fun_cases State.sendPage
  · exact hs.setTlbAgent
  · exact hs
  · exact hs.setTlbAgent.frame.emit.foldl fun _ _ h1 => .dite (fun _ => h1.send) fun _ => h1
theorem execXltReq_memOk {p vpn w x pasid tag} (hs : s.MemOk) : OutMemOk (execXltReq p vpn w x pasid tag s) := by
  unfold execXltReq
  dsimp only
  refine hs.onModule fun _ h1 => ?_
  refine h1.delivered fun _ h2 => ?_
  split
  · exact .next h2.take.xltAnswer
  · split
    · exact .next h2.take.xltAnswer
    · split
      · refine .next ?_
        split
        · exact .dite (fun _ => h2.take.setTlbAgent.xltAnswer.send) fun _ => h2.take.setTlbAgent.xltAnswer
        · exact .ite h2.take.setTlbAgent.xltAnswer h2.take.setTlbAgent
      · exact .ite (.next h2.take.xltAnswer) (.next h2.take.setTlbAgent.emit)
theorem execXltReqResend_memOk {p tag} (hs : s.MemOk) : OutMemOk (execXltReqResend p tag s) := by
  unfold execXltReqResend
  dsimp only
  refine hs.onClock fun _ h1 => ?_
  split
  · exact .next h1
  · exact .next h1.setCell.sendFrom
theorem State.MemOk.xltFails {p m} (hs : s.MemOk) : (s.xltFails p m).MemOk := hs.setCell
theorem execXltResp_memOk {p r} (hs : s.MemOk) : OutMemOk (execXltResp p r s) := by
  unfold execXltResp
  dsimp only
  refine hs.onClock fun _ h1 => ?_
  refine h1.delivered fun _ h2 => ?_
  split
  · exact .next h2.takeAt
  · exact .ite (.next h2.takeAt.setCell) (.ite (.next h2.takeAt.setCell) (.ite (.next h2.takeAt.setCell.frame.retryCell) (.next h2.takeAt.setCell.xltFails.retryCell)))
theorem execAtsTranslationCompletion_memOk {die c} (hs : s.MemOk) : OutMemOk (execAtsTranslationCompletion die c s) := by
  unfold execAtsTranslationCompletion
  dsimp only
  refine hs.onModule fun _ h1 => ?_
  split
  · exact .next h1
  · split
    · exact .next h1.setTlbAgent.emit
    · split
      · exact .next (h1.setTlbAgent.foldl fun _ _ h2 => h2.xltAnswer)
      · exact .ite (.next (.setTlbAgent (h1.frame.foldl fun _ _ h2 => h2.xltAnswer))) (.next (.sendPage (.foldl (.setTlbAgent (h1.frame.foldl fun _ _ h2 => h2.xltAnswer)) fun _ _ h2 => h2.xltAnswer)))
theorem State.MemOk.awaitsPage {k prg} (hs : s.MemOk) : (s.awaitsPage k prg).MemOk := hs.setCtx
theorem execXltPage_memOk {pasid n prg} (hs : s.MemOk) : OutMemOk (execXltPage pasid n prg s) := by
  unfold execXltPage
  refine hs.onModule fun u h1 => h1.delivered fun v h2 => ?_
  extract_lets s1 own run all s2 x
  have h3 : s2.MemOk := h2.take.foldl fun _ _ h => h.awaitsPage
  exact .ite (.next h3) (.ite (.next h3) (.ite (.next h3.noSpill) (.next h3.setSlotSched)))
theorem State.MemOk.reask {p pasid vpn} (hs : s.MemOk) : (s.reask p pasid vpn).MemOk := by
  fun_cases State.reask
  · exact hs.setCell.foldl fun _ _ h1 => h1.sendFrom
  · exact hs.setCell
theorem State.MemOk.pageCame {n k prg} (hs : s.MemOk) : (s.pageCame n k prg).MemOk := by
  fun_cases State.pageCame
  · exact hs.setCtx
  · exact hs.setCtx.setSlotSched
  · exact hs.setCtx.setSlotSched
  · exact hs.setCtx
theorem State.MemOk.pageFails {n k a} (hs : s.MemOk) : (s.pageFails n k a).MemOk := by
  fun_cases State.pageFails
  · exact hs.stepFaultAt
  · exact hs.ctxFault
theorem State.MemOk.sendWaiting (hs : s.MemOk) : s.sendWaiting.MemOk := hs.foldl fun _ _ h1 => h1.sendPage
theorem State.MemOk.pageTold {m} (hs : s.MemOk) : (s.pageTold m).MemOk := hs.frame.foldl fun _ _ h1 => h1.setCell
theorem execPrgResponse_memOk {prg success} (hs : s.MemOk) : OutMemOk (execPrgResponse prg success s) := by
  unfold execPrgResponse
  refine hs.onModule fun u h1 => ?_
  extract_lets mine late pages
  have hlate (t : State) (ht : t.MemOk) : (late t).MemOk := ht.frame
  clear_value late
  split
  · exact .next (hlate _ h1)
  · split
    · exact .next h1
    · extract_lets s1 told s2 cells s3 slots ctxs awaited s4 s5
      have h3 : s3.MemOk := h1.setTlbAgent.frame.pageTold
      have h4 : s4.MemOk := h3.foldl fun _ _ h => .ite h.reask h
      have h5 : s5.MemOk := h4.foldl fun _ _ h => .ite h.pageCame h.pageFails
      exact .ite (.next (hlate _ h3).sendWaiting) (.next h5.sendWaiting)
theorem State.MemOk.invalidate {itag pasid all vpn log2} (hs : s.MemOk) : (s.invalidate itag pasid all vpn log2).MemOk := by
  fun_cases State.invalidate
  · exact hs.frame.emit
  · exact hs.frame
  · exact hs.frame.frame.foldl fun _ _ h1 => .dite (fun _ => h1.send) fun _ => h1
theorem execAtsInvalidateRequest_memOk {q} (hs : s.MemOk) : OutMemOk (execAtsInvalidateRequest q s) := by
  unfold execAtsInvalidateRequest
  refine hs.onModule fun _ h1 => ?_
  refine .next ?_
  split <;> exact h1.invalidate
theorem State.MemOk.xltFlushWrite {v} (hs : s.MemOk) : (s.xltFlushWrite v).MemOk := by
  fun_cases State.xltFlushWrite
  · exact hs
  · exact hs.logWindow.invalidate
theorem execXltFlush_memOk {v} (hs : s.MemOk) : OutMemOk (execXltFlush v s) := hs.gate fun _ h1 => .next h1.xltFlushWrite
theorem execXltInv_memOk {p q} (hs : s.MemOk) : OutMemOk (execXltInv p q s) :=
  hs.onClock fun _ h1 => h1.delivered fun _ h2 => .next h2.takeAt.setCell.checkInvs
theorem State.MemOk.invEnds {v} (hs : s.MemOk) : (s.invEnds v).MemOk := by
  fun_cases State.invEnds
  · exact hs.frame.emit
  · exact hs.frame
theorem execXltInvAck_memOk {p seq} (hs : s.MemOk) : OutMemOk (execXltInvAck p seq s) := by
  unfold execXltInvAck
  dsimp only
  refine hs.onModule fun _ h1 => ?_
  refine h1.delivered fun _ h2 => ?_
  split
  · exact .next h2.take
  · exact .next (.ite h2.take.frame.invEnds h2.take.frame)
theorem State.MemOk.dropQueued {p gone} (hs : s.MemOk) : (s.dropQueued p gone).MemOk := hs.foldl fun _ _ h1 => h1.frame
theorem State.MemOk.dropUnstarted {n} (hs : s.MemOk) : (s.dropUnstarted n).MemOk :=
  .foldl (hs.frame.dropNc.dropUnsent.foldl fun _ _ h1 => h1.dropQueued) fun _ _ h1 => h1.setCell
theorem State.MemOk.abandon {p v} (hs : s.MemOk) : (s.abandon p v).MemOk :=
  .frame (hs.dropQueued.setCell.foldl fun _ _ h1 => h1.recallTag)
theorem execInvalidationAbandon_memOk {itag} (hs : s.MemOk) : OutMemOk (execInvalidationAbandon itag s) := by
  unfold execInvalidationAbandon
  dsimp only
  refine hs.onModule fun _ h1 => ?_
  split
  · exact .next h1
  · refine .next (.invEnds (.frame ?_))
    refine .foldl (.foldl (.foldl (h1.foldl fun _ _ h2 => h2.abandon) fun _ _ h2 => h2.dropUnstarted) fun _ _ h2 => h2.checkInvs) fun _ _ h2 => ?_
    split
    · exact .ite h2.stepFault h2.ctxFault
    · exact h2

/-! Memories stay canonical: the memory endpoints. -/

theorem State.MemOk.serveHost {n f data} (hs : s.MemOk) : (s.serveHost n f data).MemOk := by
  fun_cases State.serveHost
  · exact .acTouch (.pushReply (.ite hs.writePhys hs))
  · exact .pushReply (.ite hs.writePhys hs)
theorem State.MemOk.hostRead {n f} (hs : s.MemOk) : (s.hostRead n f).MemOk := hs.frame.emit
theorem State.MemOk.openRequest {ep n stream f data} (hs : s.MemOk) : (s.openRequest ep n stream f data).MemOk := hs.ncOpen
theorem State.MemOk.requestRow {ep n stream op} (hs : s.MemOk) : (s.requestRow ep n stream op).MemOk := by
  fun_cases State.requestRow
  iterate 3 exact hs
  · exact hs.frame.pushReply
  · exact (hs.frame.fabRequest ‹_›)
  · exact hs
  · exact hs.frame.hostRead
  · exact hs.frame.serveHost
  · exact hs.frame.openRequest
theorem execPcieCompletion_memOk {addr data} (hs : s.MemOk) : OutMemOk (execPcieCompletion addr data s) := by
  have hwrite : State.MemOk { s with hostMem := writeBytes s.hostMem addr data } := ⟨hs.1, Memory.wf_writeBytes hs.2⟩
  exact .next (hwrite.countGlobal.frame.foldl fun _ _ h1 => h1.pushReply.acTouch)
theorem execRequestRead_memOk {ep slot stream} (hs : s.MemOk) : OutMemOk (execRequestRead ep slot stream s) :=
  hs.onModule fun _ h1 => .next h1.requestRow
theorem execRequestWrite_memOk {ep slot stream} (hs : s.MemOk) : OutMemOk (execRequestWrite ep slot stream s) :=
  hs.onModule fun _ h1 => .next h1.requestRow
theorem execRequestPrefetch_memOk {ep slot stream} (hs : s.MemOk) : OutMemOk (execRequestPrefetch ep slot stream s) :=
  hs.onModule fun _ h1 => .next h1.requestRow
theorem execRequestAtomic_memOk {ep slot stream} (hs : s.MemOk) : OutMemOk (execRequestAtomic ep slot stream s) :=
  hs.onModule fun _ h1 => .next h1.requestRow

/-! Memories stay canonical: the frame boundary. -/

theorem State.MemOk.cellChanges {n} (hs : s.MemOk) : (s.cellChanges n).MemOk := by
  fun_cases State.cellChanges
  · exact hs
  · exact .foldl (hs.setCoach.advanceEpoch.foldl fun _ _ h1 => h1.setCell) fun _ _ h1 => h1.leave
theorem State.MemOk.frameHeld {n} (hs : s.MemOk) : (s.frameHeld n).MemOk := by
  fun_cases State.frameHeld
  · exact hs
  · exact hs
  · exact hs.setCtx
theorem State.MemOk.teardownBoundary (hs : s.MemOk) : s.teardownBoundary.MemOk := by
  unfold State.teardownBoundary
  split
  · exact hs
  · split
    · exact hs.teardown.settle.mbxTornDown
    · extract_lets s1
      have h1 : s1.MemOk := .ite hs.killStep hs
      clear_value s1
      exact .ite hs h1.teardown.settle.parkIfIdle.mbxTornDown
theorem State.MemOk.slotBoundary {n} (hs : s.MemOk) : (s.slotBoundary n).MemOk := by
  unfold State.slotBoundary
  extract_lets s1 s2
  have h1 : s1.MemOk := hs.windowClose.resetBoundary.batchEffect
  have h2 : s2.MemOk := h1.frameHeld.faultBoundary
  exact h2.cellChanges.inheritEnd.clearTorn
theorem execFrameBoundary_memOk (hs : s.MemOk) : OutMemOk (execFrameBoundary s) :=
  hs.onModule fun _ h1 => .next (.teardownBoundary (h1.nextFrame.swapsDue.foldl fun _ _ h2 => h2.slotBoundary))

/-! Memories stay canonical: the host's commands. -/

theorem State.MemOk.setTable {q t} (hs : s.MemOk) : (s.setTable q t).MemOk := hs.frame
theorem State.MemOk.devZero {a n} (hs : s.MemOk) : (s.devZero a n).MemOk :=
  .zeroRange (.chargeLines (hs.foldl fun _ _ h1 => h1.devOwn.llcDrop))
theorem State.MemOk.fenceFree {q f} (hs : s.MemOk) : (s.fenceFree q f).MemOk :=
  .setTable (.setFence (hs.fenceLoad.frame.setFence.foldl fun _ _ h1 => h1.event))
theorem State.MemOk.mbAct {ws} (hs : s.MemOk) : (s.mbAct ws).1.MemOk := by
  fun_cases State.mbAct <;> dsimp only
  · exact hs.setSlice
  · exact hs.frame.setSlice
  · exact hs.frame
  · exact hs.setCtx
  · exact hs.setCtx.discardSteps.frame
  · exact hs.teardown.settle
  · exact hs.fenceLoad.setFence.setTable.settle
  · exact hs.fenceFree.settle
  · exact .setTable (.devZero (hs.foldl fun _ _ h1 => h1.fenceEvict))
  · exact hs.frame.settle
theorem State.MemOk.mbxGo (hs : s.MemOk) : s.mbxGo.MemOk := by
  fun_cases State.mbxGo
  · exact hs.frame
  · exact hs.mbxAnswer
  · exact (hs.log.mbAct.of_fst ‹_›).mbxAnswer
  · exact (hs.log.mbAct.of_fst ‹_›)
theorem State.MemOk.mbxCommand {op ws} (hs : s.MemOk) : (s.mbxCommand op ws).MemOk := by
  fun_cases State.mbxCommand
  · exact hs.frame
  · exact hs.frame.mbxGo
theorem execSliceCreate_memOk {ws} (hs : s.MemOk) : OutMemOk (execSliceCreate ws s) := hs.gate fun _ h1 => .next h1.mbxCommand
theorem execSliceDestroy_memOk {ws} (hs : s.MemOk) : OutMemOk (execSliceDestroy ws s) := hs.gate fun _ h1 => .next h1.mbxCommand
theorem execDoorbellSet_memOk {ws} (hs : s.MemOk) : OutMemOk (execDoorbellSet ws s) := hs.gate fun _ h1 => .next h1.mbxCommand
theorem execContextCreate_memOk {ws} (hs : s.MemOk) : OutMemOk (execContextCreate ws s) := hs.gate fun _ h1 => .next h1.mbxCommand
theorem execContextTeardown_memOk {ws} (hs : s.MemOk) : OutMemOk (execContextTeardown ws s) :=
  hs.gate fun _ h1 => .next h1.mbxCommand
theorem execFenceInit_memOk {ws} (hs : s.MemOk) : OutMemOk (execFenceInit ws s) := hs.gate fun _ h1 => .next h1.mbxCommand
theorem execFenceFree_memOk {ws} (hs : s.MemOk) : OutMemOk (execFenceFree ws s) := hs.gate fun _ h1 => .next h1.mbxCommand
theorem execFenceTable_memOk {ws} (hs : s.MemOk) : OutMemOk (execFenceTable ws s) := hs.gate fun _ h1 => .next h1.mbxCommand
theorem execCoachBind_memOk {ws} (hs : s.MemOk) : OutMemOk (execCoachBind ws s) := hs.gate fun _ h1 => .next h1.mbxCommand
theorem State.MemOk.setPage {pg x} (hs : s.MemOk) : (s.setPage pg x).MemOk := hs.frame
theorem State.MemOk.dbIgnore (hs : s.MemOk) : s.dbIgnore.MemOk := hs.frame
theorem State.MemOk.dbTail {pg v} (hs : s.MemOk) : (s.dbTail pg v).MemOk := by
  fun_cases State.dbTail
  · exact hs.dbIgnore
  · exact hs.dbIgnore
  · exact hs.setCtx.settle
theorem State.MemOk.dbWaitLatch {pg v} (hs : s.MemOk) : (s.dbWaitLatch pg v).MemOk := by
  fun_cases State.dbWaitLatch
  · exact hs.dbIgnore
  · exact hs.setPage
theorem State.MemOk.dbWait {pg v} (hs : s.MemOk) : OutMemOk (s.dbWait pg v) := by
  fun_cases State.dbWait
  · exact .next hs.fenceLoad.dbIgnore
  · exact .next hs.fenceLoad.event
  · exact .next hs.fenceLoad.event
  · exact .next hs.fenceLoad.frame
  · exact .next hs.dbIgnore
theorem State.MemOk.dbSignalLatch {pg v} (hs : s.MemOk) : (s.dbSignalLatch pg v).MemOk := by
  fun_cases State.dbSignalLatch
  · exact hs.dbIgnore
  · exact hs.setPage
theorem State.MemOk.dbSignal {pg v} (hs : s.MemOk) : (s.dbSignal pg v).MemOk := by
  fun_cases State.dbSignal
  · exact hs.fenceSignal.settle
  · exact hs.dbIgnore
  · exact hs.dbIgnore
theorem State.MemOk.dbQuery {pg v} (hs : s.MemOk) : (s.dbQuery pg v).MemOk := by
  fun_cases State.dbQuery
  · exact hs.dbIgnore
  · exact hs.fenceLoad.dbIgnore
  · exact hs.fenceLoad.event
theorem State.MemOk.dbEvent {pg v} (hs : s.MemOk) : (s.dbEvent pg v).MemOk := by
  fun_cases State.dbEvent
  · exact hs.dbIgnore
  · exact hs.setSlice.eventDrain.setSlice.eventArmed
theorem execDoorbellTail_memOk {page v} (hs : s.MemOk) : OutMemOk (execDoorbellTail page v s) :=
  hs.gateData fun _ h1 => .next h1.dbTail
theorem execWaitLatch_memOk {page v} (hs : s.MemOk) : OutMemOk (execWaitLatch page v s) :=
  hs.gateData fun _ h1 => .next h1.dbWaitLatch
theorem execWaitRegister_memOk {page v} (hs : s.MemOk) : OutMemOk (execWaitRegister page v s) := hs.gateData fun _ h1 => h1.dbWait
theorem execSignalLatch_memOk {page v} (hs : s.MemOk) : OutMemOk (execSignalLatch page v s) :=
  hs.gateData fun _ h1 => .next h1.dbSignalLatch
theorem execSignal_memOk {page v} (hs : s.MemOk) : OutMemOk (execSignal page v s) := hs.gateData fun _ h1 => .next h1.dbSignal
theorem execFenceQuery_memOk {page v} (hs : s.MemOk) : OutMemOk (execFenceQuery page v s) := hs.gateData fun _ h1 => .next h1.dbQuery
theorem execEventHead_memOk {page v} (hs : s.MemOk) : OutMemOk (execEventHead page v s) := hs.gateData fun _ h1 => .next h1.dbEvent
theorem execEventArm_memOk {page v} (hs : s.MemOk) : OutMemOk (execEventArm page v s) := hs.gateData fun _ h1 => .next h1.dbEvent
theorem State.MemOk.bar4Refuse (hs : s.MemOk) : s.bar4Refuse.MemOk := hs.frame
theorem execBar4Read_memOk {off len} (hs : s.MemOk) : OutMemOk (execBar4Read off len s) := by
  unfold execBar4Read
  dsimp only
  refine hs.gateData fun _ h1 => ?_
  split
  · exact .next h1.devTouch.emit
  · exact .next h1.bar4Refuse.emit
theorem execBar4Write_memOk {off data} (hs : s.MemOk) : OutMemOk (execBar4Write off data s) := by
  unfold execBar4Write
  dsimp only
  refine hs.gateData fun _ h1 => ?_
  split
  · exact .next h1.devWrite
  · exact .next h1.bar4Refuse.frame
theorem State.MemOk.segWrite {k v} (hs : s.MemOk) : (s.segWrite k v).MemOk := by
  fun_cases State.segWrite <;> exact hs.frame
theorem execBar4SegWrite_memOk {k v} (hs : s.MemOk) : OutMemOk (execBar4SegWrite k v s) := hs.gate fun _ h1 => .next h1.segWrite

end Sys2Proof.Machine
end

section
/-! Memory stays canonical (O59), part 7: the Stable, boot, power, debug, registers. -/
namespace Sys2Proof.Machine

variable {s t : State}

/-! Memories stay canonical: the Stable. -/

theorem State.MemOk.setStall {k x} (hs : s.MemOk) : (s.setStall k x).MemOk := hs.frame
theorem State.MemOk.destroyStalls (hs : s.MemOk) : s.destroyStalls.MemOk := hs.frame
theorem State.MemOk.importDo {m key k} (hs : s.MemOk) : (s.importDo m key k).MemOk := hs.setStall.frame
theorem State.MemOk.ingest {part k obj dst} (hs : s.MemOk) : (s.ingest part k obj dst).2.MemOk := by
  fun_cases State.ingest <;> dsimp only
  iterate 4 exact hs
  · exact hs.devWrite
  · exact hs.devWrite
theorem State.MemOk.egest {part k src len dst label} (hs : s.MemOk) : (s.egest part k src len dst label).2.2.MemOk := by
  unfold State.egest
  split
  · exact hs
  · dsimp only
    split
    · exact hs
    · split
      · exact hs
      · exact hs.setStall.devTouch.devWrite
theorem State.MemOk.partMode {q strict} (hs : s.MemOk) : (s.partMode q strict).2.MemOk := by
  fun_cases State.partMode <;> dsimp only
  · exact hs
  · exact hs.frame
  · exact hs
  · exact hs
  · exact hs.llcStrict.clearLending.frame
theorem State.MemOk.standStill (hs : s.MemOk) : s.standStill.MemOk := hs.frame
theorem State.MemOk.lcAdvance {origin target} (hs : s.MemOk) : (s.lcAdvance origin target).MemOk :=
  hs.log.destroyStalls.frame.standStill
theorem State.MemOk.debugRaise {origin level} (hs : s.MemOk) : (s.debugRaise origin level).MemOk := by
  fun_cases State.debugRaise
  · exact hs.log
  · exact hs.log.frame.destroyStalls.frame.closeAll.destroyStalls
  · exact hs.log.frame
theorem execJtagToken_memOk {token} (hs : s.MemOk) : OutMemOk (execJtagToken token s) := by
  fun_cases execJtagToken
  · exact .next hs
  · exact .next (.ite hs.debugRaise hs)
  · exact .next (.ite hs.lcAdvance hs)
theorem State.MemOk.sbxAnswer {status value} (hs : s.MemOk) : (s.sbxAnswer status value).MemOk := hs.frame.msix
theorem State.MemOk.sbxLog {ws part value} (hs : s.MemOk) : (s.sbxLog ws part value).MemOk := hs.log
theorem State.MemOk.sbxAct {ws} (hs : s.MemOk) : (s.sbxAct ws).2.2.MemOk := by
  have hite {α β : Type} {c : Prop} [Decidable c] {x y : α × β × State} (hx : x.2.2.MemOk) (hy : y.2.2.MemOk) :
      (if c then x else y).2.2.MemOk := by
    split
    · exact hx
    · exact hy
  unfold State.sbxAct
  dsimp only
  refine hite hs ?_
  split
  · refine hite hs ?_
    split
    · exact hs
    · exact hs.sbxLog.importDo
  · exact hite hs hs.sbxLog.setStall
  · exact hite hs.sbxLog.partMode hs
  · exact hite hs.sbxLog.ingest hs.ingest
  · exact hite hs.sbxLog.egest hs.egest
  · exact hite hs (hite hs.lcAdvance hs)
  · split
    · exact hs
    · exact hite hs.debugRaise hs
theorem State.MemOk.sbxGo (hs : s.MemOk) : s.sbxGo.MemOk := hs.sbxAct.sbxAnswer
theorem State.MemOk.sbxCmdWrite {i v} (hs : s.MemOk) : (s.sbxCmdWrite i v).MemOk := hs.logWindow.frame
theorem State.MemOk.sbxGoWrite {v} (hs : s.MemOk) : (s.sbxGoWrite v).MemOk := hs.logWindow.sbxGo
theorem State.MemOk.sbxCommand {op ws} (hs : s.MemOk) : (s.sbxCommand op ws).MemOk :=
  .sbxGoWrite (hs.foldl fun _ _ h1 => h1.sbxCmdWrite)
theorem execStableImport_memOk {ws} (hs : s.MemOk) : OutMemOk (execStableImport ws s) := hs.gate fun _ h1 => .next h1.sbxCommand
theorem execDestroy_memOk {ws} (hs : s.MemOk) : OutMemOk (execDestroy ws s) := hs.gate fun _ h1 => .next h1.sbxCommand
theorem execPartMode_memOk {ws} (hs : s.MemOk) : OutMemOk (execPartMode ws s) := hs.gate fun _ h1 => .next h1.sbxCommand
theorem execIngest_memOk {ws} (hs : s.MemOk) : OutMemOk (execIngest ws s) := hs.gate fun _ h1 => .next h1.sbxCommand
theorem execEgest_memOk {ws} (hs : s.MemOk) : OutMemOk (execEgest ws s) := hs.gate fun _ h1 => .next h1.sbxCommand
theorem execLcAdvance_memOk {ws} (hs : s.MemOk) : OutMemOk (execLcAdvance ws s) := hs.gate fun _ h1 => .next h1.sbxCommand
theorem execDebugUnlock_memOk {ws} (hs : s.MemOk) : OutMemOk (execDebugUnlock ws s) := hs.gate fun _ h1 => .next h1.sbxCommand
theorem execErrorSummaryWrite_memOk {q} (hs : s.MemOk) : OutMemOk (execErrorSummaryWrite q s) := by
  fun_cases execErrorSummaryWrite
  · exact .next hs
  · exact .next hs.devWrite.frame
theorem State.MemOk.partErrWrite {q v} (hs : s.MemOk) : (s.partErrWrite q v).MemOk := by
  fun_cases State.partErrWrite
  · exact hs
  · exact hs.logWindow.frame

/-! Memories stay canonical: SPDM. -/

theorem State.MemOk.spdmAnswer {bs} (hs : s.MemOk) : (s.spdmAnswer bs).MemOk := by
  fun_cases State.spdmAnswer
  · exact hs.emit
  · exact hs.frame.emit
theorem State.MemOk.spdm {need req f} (hs : s.MemOk) (hf : ∀ t, t.MemOk → (f t).MemOk) : OutMemOk (s.spdm need req f) :=
  .ite (.next hs) (.ite (.next hs.emit) (.ite (.next hs.emit) (.ite (.next hs.emit) (.next (hf s hs)))))
theorem execGetVersion_memOk {req} (hs : s.MemOk) : OutMemOk (execGetVersion req s) := hs.spdm fun _ h1 => h1.frame.emit
theorem execGetCapabilities_memOk {req} (hs : s.MemOk) : OutMemOk (execGetCapabilities req s) :=
  hs.spdm fun _ h1 => .ite h1.emit h1.frame.spdmAnswer
theorem execNegotiateAlgorithms_memOk {req} (hs : s.MemOk) : OutMemOk (execNegotiateAlgorithms req s) :=
  hs.spdm fun _ h1 => h1.frame.spdmAnswer
theorem execGetDigests_memOk {req} (hs : s.MemOk) : OutMemOk (execGetDigests req s) := by
  unfold execGetDigests
  refine hs.spdm fun _ h1 => ?_
  split <;> exact h1.spdmAnswer
theorem execGetCertificate_memOk {req} (hs : s.MemOk) : OutMemOk (execGetCertificate req s) := by
  unfold execGetCertificate
  dsimp only
  refine hs.spdm fun _ h1 => ?_
  split
  · exact h1.emit
  · exact .ite h1.emit h1.spdmAnswer
theorem execChallenge_memOk {req} (hs : s.MemOk) : OutMemOk (execChallenge req s) := by
  unfold execChallenge
  dsimp only
  refine hs.spdm fun _ h1 => ?_
  split
  · exact h1.emit
  · exact .ite h1.emit h1.frame.spdmAnswer
theorem execGetMeasurements_memOk {req} (hs : s.MemOk) : OutMemOk (execGetMeasurements req s) :=
  hs.spdm fun _ h1 => .ite h1.emit h1.frame.spdmAnswer
theorem execChunkGet_memOk {req} (hs : s.MemOk) : OutMemOk (execChunkGet req s) := hs.spdm fun _ h1 => .ite h1.emit h1.frame.emit

/-! Memories stay canonical: boot and firmware. -/

theorem State.MemOk.coldClear (hs : s.MemOk) : s.coldClear.MemOk := ⟨rfl, hs.2⟩
theorem State.MemOk.settlePins (hs : s.MemOk) : s.settlePins.MemOk := by
  fun_cases State.settlePins
  · exact hs.coldClear
  · exact hs
theorem execPerstAssert_memOk {held} (hs : s.MemOk) : OutMemOk (execPerstAssert held s) := .next hs.frame.settlePins
theorem execModRstAssert_memOk {held} (hs : s.MemOk) : OutMemOk (execModRstAssert held s) := .next hs.frame.settlePins
theorem execPwrEnChange_memOk {high lowMs} (hs : s.MemOk) : OutMemOk (execPwrEnChange high lowMs s) := .next hs.frame.settlePins
theorem execInputOutOfRange_memOk {mV} (hs : s.MemOk) : OutMemOk (execInputOutOfRange mV s) := .next hs.frame.settlePins
theorem execRefclkSysLoss_memOk {present} (hs : s.MemOk) : OutMemOk (execRefclkSysLoss present s) := .next hs.frame.settlePins
theorem execRefclkFabLoss_memOk {present} (hs : s.MemOk) : OutMemOk (execRefclkFabLoss present s) :=
  .next (.ite hs.frame (hs.frame.foldl fun _ _ h1 => h1.portFalls))
theorem execThermalTrip_memOk (sensor : Nat) {tempC heldMs} (hs : s.MemOk) : OutMemOk (execThermalTrip sensor tempC heldMs s) := by
  fun_cases execThermalTrip
  · exact .next hs.frame.coldClear
  · exact .next hs
theorem execHotReset_memOk (hs : s.MemOk) : OutMemOk (execHotReset s) := .next (.ite hs hs.frame)
theorem State.MemOk.draw (hs : s.MemOk) : s.draw.2.MemOk := hs.frame
theorem State.MemOk.drawStall {k world} (hs : s.MemOk) : (s.drawStall k world).MemOk := hs.draw.setStall
theorem State.MemOk.memoryKeys (hs : s.MemOk) : s.memoryKeys.MemOk := hs.drawStall.foldl fun _ _ h1 => h1.drawStall
theorem State.MemOk.bootKeys {m} (hs : s.MemOk) : (s.bootKeys m).MemOk := hs.frame.setStall.setStall
theorem State.MemOk.applyPartitions {m x} (hs : s.MemOk) : (s.applyPartitions m x).MemOk := hs.frame.frame
theorem State.MemOk.applyFabric {m x} (hs : s.MemOk) : (s.applyFabric m x).MemOk := by
  fun_cases State.applyFabric
  · exact hs.frame
  · exact hs.foldl fun _ _ h1 => h1.setJport
theorem State.MemOk.applyPower {m x} (hs : s.MemOk) : (s.applyPower m x).MemOk := by
  fun_cases State.applyPower
  · exact hs.frame
  · exact hs
theorem State.MemOk.applyTimetable {l} (hs : s.MemOk) : (s.applyTimetable l).MemOk := hs.setTt.frame
theorem State.MemOk.applySystem {m x} (hs : s.MemOk) : (s.applySystem m x).MemOk :=
  .applyTimetable (.frame (hs.foldl fun _ _ h1 => h1.setMc))
theorem State.MemOk.selfTest {bad} (hs : s.MemOk) : (s.selfTest bad).MemOk :=
  .foldl (hs.foldl fun _ _ h1 => h1.setCell) fun _ _ h1 => h1.retireFree
theorem State.MemOk.recover {stage fail scrapped} (hs : s.MemOk) : (s.recover stage fail scrapped).MemOk := hs.frame
theorem State.MemOk.raiseFloor {m} (hs : s.MemOk) : (s.raiseFloor m).MemOk := by
  fun_cases State.raiseFloor
  · exact hs.log.frame
  · exact hs
theorem State.MemOk.bootFrom {b fallback image env} (hs : s.MemOk) : (s.bootFrom b fallback image env).MemOk := by
  unfold State.bootFrom
  dsimp only
  split
  · exact hs.bootKeys.frame.recover
  · split
    · exact hs.bootKeys.frame.recover
    · refine .raiseFloor (.log (.frame (.selfTest ?_)))
      split
      · refine .applySystem (.applyPower (.applyFabric ?_))
        split
        · exact hs.bootKeys.frame.memoryKeys.frame.applyPartitions
        · exact hs.bootKeys.frame.memoryKeys.frame
      · refine .applyPower (.applyFabric ?_)
        split
        · exact hs.bootKeys.frame.memoryKeys.frame.applyPartitions
        · exact hs.bootKeys.frame.memoryKeys.frame
theorem State.MemOk.selectCopy {env} (hs : s.MemOk) : (s.selectCopy env).MemOk := by
  fun_cases State.selectCopy
  · exact hs.bootFrom
  · exact hs.bootFrom
  · exact hs.frame.recover
theorem State.MemOk.boot {env} (hs : s.MemOk) : (s.boot env).MemOk := by
  fun_cases State.boot
  · exact (hs.draw.of_snd ‹_›).frame
  · exact (hs.draw.of_snd ‹_›).frame.recover
  · exact (hs.draw.of_snd ‹_›).frame.recover
  · exact (hs.draw.of_snd ‹_›).frame.selectCopy
theorem execColdReset_memOk {env} (hs : s.MemOk) : OutMemOk (execColdReset env s) := .next (.ite hs hs.coldClear.boot)
theorem State.MemOk.seedsFused (hs : s.MemOk) : s.seedsFused.MemOk := hs.frame
theorem execFuseSeedsAtTest_memOk (hs : s.MemOk) : OutMemOk (execFuseSeedsAtTest s) := by
  fun_cases execFuseSeedsAtTest
  · exact .next hs
  · exact .next hs.lcAdvance.seedsFused
theorem execFlashHeaderWrite_memOk {dev off data} (hs : s.MemOk) : OutMemOk (execFlashHeaderWrite dev off data s) := by
  fun_cases execFlashHeaderWrite
  · exact .next hs.frame
  · exact .next hs
theorem State.MemOk.updateCopy {image} (hs : s.MemOk) : (s.updateCopy image).MemOk := by
  unfold State.updateCopy
  extract_lets h booted target m good
  split
  next gen u hu =>
  have h2 : u.MemOk := by
    split at hu
    · exact hs.of_snd hu
    · exact (Prod.mk.inj hu).2 ▸ hs.freeWord
  exact .frame (.ite h2.log h2)
theorem execRequestUpdate_memOk {pcie image} (hs : s.MemOk) : OutMemOk (execRequestUpdate pcie image s) := by
  fun_cases execRequestUpdate
  · exact .next hs
  · exact .next hs.emit
  · exact .next hs.updateCopy.emit
theorem execActivateFirmware_memOk (hs : s.MemOk) : OutMemOk (execActivateFirmware s) := by
  fun_cases execActivateFirmware
  · exact .next hs
  · exact .next hs.frame.emit
  · exact .next hs.emit
theorem execGetSensorReading_memOk {id} (hs : s.MemOk) : OutMemOk (execGetSensorReading id s) := by
  fun_cases execGetSensorReading
  · exact .next hs
  · exact .next hs.emit
  · exact .next hs.emit

/-! Memories stay canonical: power. -/

theorem State.MemOk.sendClock {p mhz} (hs : s.MemOk) : (s.sendClock p mhz).MemOk := by
  fun_cases State.sendClock
  · exact hs.send
  · exact hs
theorem State.MemOk.clockRest {f} (hs : s.MemOk) : (s.clockRest f).MemOk := hs.foldl fun _ _ h1 => .ite h1 h1.sendClock
theorem execMeterSample_memOk {mV mA} (hs : s.MemOk) : OutMemOk (execMeterSample mV mA s) := by
  fun_cases execMeterSample
  · exact .next hs.frame.frame.clockRest
  · exact .next hs.frame
theorem State.MemOk.meterHold (hs : s.MemOk) : s.meterHold.MemOk := hs.clockRest.frame
theorem execMeterCheck_memOk {firstMw secondMw} (hs : s.MemOk) : OutMemOk (execMeterCheck firstMw secondMw s) := by
  fun_cases execMeterCheck
  · exact .next hs
  · exact .next hs.frame.meterHold
  · exact .next hs.frame
  · exact .next hs.frame
theorem State.MemOk.contract {f} (hs : s.MemOk) (hf : ∀ t, t.MemOk → (f t).MemOk) : OutMemOk (s.contract f) :=
  .ite (.next (hf s hs)) (.next hs)
theorem State.MemOk.contractAnswer {cmd inst status body} (hs : s.MemOk) : (s.contractAnswer cmd inst status body).MemOk := hs.emit
theorem execGetStatus_memOk {inst body} (hs : s.MemOk) : OutMemOk (execGetStatus inst body s) :=
  hs.contract fun _ h1 => .ite h1.contractAnswer h1.contractAnswer
theorem execSetContract_memOk {inst body} (hs : s.MemOk) : OutMemOk (execSetContract inst body s) :=
  hs.contract fun _ h1 => .ite h1.contractAnswer h1.log.frame.contractAnswer.msix
theorem execSetCooling_memOk {inst body} (hs : s.MemOk) : OutMemOk (execSetCooling inst body s) :=
  hs.contract fun _ h1 => .ite h1.contractAnswer h1.log.frame.contractAnswer.msix
theorem execGetReport_memOk {inst body} (hs : s.MemOk) : OutMemOk (execGetReport inst body s) :=
  hs.contract fun _ h1 => .ite h1.contractAnswer (.contractAnswer (.ite h1 h1.frame))
theorem execMinuteClose_memOk (hs : s.MemOk) : OutMemOk (execMinuteClose s) := by
  fun_cases execMinuteClose
  · exact .next hs
  · exact .next (.ite hs.frame.frame.msix hs.frame.frame)
theorem State.MemOk.observe {r} (hs : s.MemOk) : (s.observe r).MemOk := hs.foldl fun _ _ h => h.frame
theorem State.MemOk.phaseLearn {n} (hs : s.MemOk) : (s.phaseLearn n).MemOk := by
  fun_cases State.phaseLearn
  · exact hs
  · exact hs
  · exact hs.frame
  · exact hs.frame.frame
theorem execStepRetire_memOk {n} (hs : s.MemOk) : OutMemOk (execStepRetire n s) :=
  hs.onModule fun _ h1 => .ite (.next h1.phaseLearn.stepRetire) (.next h1)
theorem State.MemOk.allocate {r} (hs : s.MemOk) : (s.allocate r).MemOk :=
  hs.frame.foldl fun _ _ h1 => h1.foldl fun _ _ h2 => h2.sendClock
theorem execControlInterval_memOk {r} (hs : s.MemOk) : OutMemOk (execControlInterval r s) := by
  unfold execControlInterval
  extract_lets x input regions hot s1 s2 b power s3 s4 s5
  have h3 : s3.MemOk := hs.frame.observe.frame
  have h4 : s4.MemOk := .ite h3.meterHold h3.allocate
  have h5 : s5.MemOk := h4.foldl fun _ _ h => .ite h.sendClock h
  exact .next (.ite (h5.foldl fun _ _ h => h.sendClock) h5)
theorem execCeilingRevision_memOk {p mhz} (hs : s.MemOk) : OutMemOk (execCeilingRevision p mhz s) := by
  fun_cases execCeilingRevision
  · exact .next hs
  · exact .next (.ite (.markFailed (.ite hs.logErr.setCell.setFreq hs.logErr.setCell)) (.ite hs.logErr.setCell.setFreq hs.logErr.setCell))
theorem execDroop_memOk {p edges} (hs : s.MemOk) : OutMemOk (execDroop p edges s) :=
  hs.onClock fun _ h1 => .ite (.next h1) (.next h1.countCell.countCell)
theorem State.MemOk.pwrStrictWrite {q v} (hs : s.MemOk) : (s.pwrStrictWrite q v).MemOk := by
  fun_cases State.pwrStrictWrite
  · exact hs
  · exact hs.frame
  · exact hs.logWindow.frame
theorem execPwrStrictWrite_memOk {q v} (hs : s.MemOk) : OutMemOk (execPwrStrictWrite q v s) :=
  hs.gate fun _ h1 => .next h1.pwrStrictWrite

/-! Memories stay canonical: register reads. -/

theorem State.MemOk.faultClear {o} (hs : s.MemOk) : (s.faultClear o).MemOk := by
  fun_cases State.faultClear
  iterate 4 exact hs.frame
  · exact hs
theorem State.MemOk.jbnClear {o} (hs : s.MemOk) : (s.jbnClear o).MemOk := by
  fun_cases State.jbnClear
  · exact hs.frame
  · exact hs.frame
  · exact hs
theorem State.MemOk.xltClear {o} (hs : s.MemOk) : (s.xltClear o).MemOk := by
  fun_cases State.xltClear
  · exact hs.frame
  · exact hs.frame
  · exact hs
theorem State.MemOk.cellClear {p o} (hs : s.MemOk) : (s.cellClear p o).MemOk := by
  fun_cases State.cellClear
  · exact hs.setCell
  · exact hs.setDray
  · exact hs.setDray
  · exact hs.setCell
  iterate 4 exact hs.setHen
  · exact hs.frame
  · exact hs
theorem State.MemOk.ctlClear {c o} (hs : s.MemOk) : (s.ctlClear c o).MemOk := by
  unfold State.ctlClear
  dsimp only
  split
  · exact hs.setEngine
  · exact hs.frame
  · split
    · exact hs.setMc
    · exact hs
theorem State.MemOk.bar0Clear {off} (hs : s.MemOk) : (s.bar0Clear off).MemOk := by
  fun_cases State.bar0Clear
  · exact hs.frame
  · exact hs
  · exact hs.faultClear
  · exact hs.setCoach
  · exact hs
  · exact hs.frame
  · exact hs
  · exact hs.frame
  · exact hs
  · exact hs.frame
  · exact hs
  · exact hs.xltClear
  · exact hs.jbnClear
  · exact hs.cellClear
  · exact hs.ctlClear
  · exact hs
theorem State.MemOk.regRead {off} (hs : s.MemOk) : (s.regRead off).MemOk := by
  fun_cases State.regRead
  iterate 3 exact hs.emit
  · exact hs.bar0Clear.emit
theorem execRcRegisterRead_memOk {off} (hs : s.MemOk) : OutMemOk (execRcRegisterRead off s) := by
  fun_cases execRcRegisterRead
  · exact .next hs.regRead
  · exact hs.gate fun _ h1 => .next h1.regRead

/-! Memories stay canonical: debug and scan. -/

theorem State.MemOk.thawCell {p} (hs : s.MemOk) : (s.thawCell p).MemOk := hs.setCell.foldl fun _ _ h1 => h1.accept
theorem State.MemOk.stopWord {w} (hs : s.MemOk) : (s.stopWord w).MemOk := by
  fun_cases State.stopWord
  · exact .ite hs.frame hs
  · exact .frame (.ite hs.frame hs)
  · exact .foldl (.ite hs.frame hs) fun _ _ h1 => h1.setCell
  · exact .ite hs.frame hs
  · exact .resumeModule (.ite hs.frame hs)
  · exact .foldl (.ite hs.frame hs) fun _ _ h1 => h1.thawCell
  · exact .ite hs.frame hs
  · exact .ite hs.frame hs
theorem State.MemOk.gstopWrite {origin v} (hs : s.MemOk) : (s.gstopWrite origin v).MemOk := by
  fun_cases State.gstopWrite
  · exact hs
  · exact hs.log.stopWord
theorem execStop_memOk {w} (hs : s.MemOk) : OutMemOk (execStop w s) := .next hs.gstopWrite
theorem execResume_memOk {w} (hs : s.MemOk) : OutMemOk (execResume w s) := .next hs.gstopWrite
theorem State.MemOk.scanWrite {jtag v} (hs : s.MemOk) : (s.scanWrite jtag v).MemOk := by
  fun_cases State.scanWrite
  · exact hs.frame
  · exact hs.frame.frame.frame
  · exact hs.frame.frame.devWrite
theorem execScan_memOk {jtag v} (hs : s.MemOk) : OutMemOk (execScan jtag v s) := by
  fun_cases execScan
  · exact .next (.ite hs hs.scanWrite)
  · exact hs.gate fun _ h1 => .next h1.scanWrite
theorem State.MemOk.scanInRegs {p bs} (hs : s.MemOk) : (s.scanInRegs p bs).MemOk := hs.setCell.frame
theorem State.MemOk.scanInSection {p sec k bs} (hs : s.MemOk) : (s.scanInSection p sec k bs).MemOk := by
  fun_cases State.scanInSection
  · exact hs.scanInRegs
  · exact hs.setHen
  · exact hs
  · exact hs.setOx
  · exact hs.setCell
  · exact hs.spWrite
  · exact hs
  · exact hs.setCell
  · exact hs
theorem State.MemOk.scanInAll {p f seen bs} (hs : s.MemOk) : (s.scanInAll p f seen bs).MemOk := by
  induction f generalizing s seen bs with
  | zero => exact hs
  | succ f ih => exact .ite hs (ih hs.scanInSection)
theorem execScanIn_memOk {jtag v data} (hs : s.MemOk) : OutMemOk (execScanIn jtag v data s) := by
  fun_cases execScanIn
  · exact .next hs.scanInAll
  · exact .next hs
theorem State.MemOk.ctrSnapWrite {v} (hs : s.MemOk) : (s.ctrSnapWrite v).MemOk := by
  fun_cases State.ctrSnapWrite
  · exact hs.frame
  · exact hs
theorem execCtrSnap_memOk {v} (hs : s.MemOk) : OutMemOk (execCtrSnap v s) := hs.gate fun _ h1 => .next h1.ctrSnapWrite
theorem State.MemOk.ctrExportWrite {n v} (hs : s.MemOk) : (s.ctrExportWrite n v).MemOk := by
  fun_cases State.ctrExportWrite
  · exact hs.frame
  · exact hs
theorem execCtrExportWrite_memOk {n v} (hs : s.MemOk) : OutMemOk (execCtrExportWrite n v s) :=
  hs.gate fun _ h1 => .next h1.ctrExportWrite
theorem execCounterExport_memOk {n} (hs : s.MemOk) : OutMemOk (execCounterExport n s) :=
  hs.onModule fun _ h1 => .ite (.next h1) (.next h1.devWrite.frame)

/-! Memories stay canonical: arithmetic of the Hens. -/

theorem execArithmeticInstruction_memOk {p h c i} (hs : s.MemOk) : OutMemOk (execArithmeticInstruction p h c i s) := by
  unfold execArithmeticInstruction
  dsimp only
  split
  · exact .next hs
  · refine hs.henStep fun _ h1 => ?_
    split
    · exact .next h1.raise
    · exact .next h1.setHen.countCell

/-! Memories stay canonical: register writes. -/

theorem State.MemOk.w1cLogged {off v mask f} (hs : s.MemOk) (hf : ∀ t, t.MemOk → (f t).MemOk) : (s.w1cLogged off v mask f).MemOk :=
  .ite hs (hf _ hs.logWindow)
theorem State.MemOk.bootWrite {o v} (hs : s.MemOk) : (s.bootWrite o v).MemOk := by
  fun_cases State.bootWrite
  · exact hs.frame
  · exact hs.logSignWrite
  · exact hs
theorem State.MemOk.crashPartWrite {q v} (hs : s.MemOk) : (s.crashPartWrite q v).MemOk := by
  fun_cases State.crashPartWrite
  · exact hs
  · exact hs.logWindow.frame
theorem State.MemOk.faultWrite {o v} (hs : s.MemOk) : (s.faultWrite o v).MemOk := by
  unfold State.faultWrite
  dsimp only
  split
  · exact hs.frame
  · exact hs.w1cLogged fun _ h1 => h1.frame
  · exact hs.frame
  · exact hs.w1cLogged fun _ h1 => h1.frame
  · exact hs.crashFreeWrite
  · exact hs.retireWrite
  · exact hs.w1cLogged fun _ h1 => h1.frame
  · exact hs.w1cLogged fun _ h1 => h1.warmResetNow
  · split
    · exact hs.crashPartWrite
    · exact hs
theorem State.MemOk.msixWrite {o v} (hs : s.MemOk) : (s.msixWrite o v).MemOk := by
  fun_cases State.msixWrite
  · exact hs
  · exact hs.logWindow.setMsixWord.frame.emit
  · exact hs.logWindow.setMsixWord
theorem State.MemOk.coachWrite {o v} (hs : s.MemOk) : (s.coachWrite o v).MemOk := by
  fun_cases State.coachWrite
  · exact hs.coachCommand
  · exact hs.frame
  · exact hs.frame
  · exact hs
  · exact hs.setCoach
  · exact hs.setCoach
  iterate 3 exact hs
theorem State.MemOk.mbxWrite {o v} (hs : s.MemOk) : (s.mbxWrite o v).MemOk := by
  fun_cases State.mbxWrite
  · exact hs.mbxGo
  iterate 3 exact hs.frame
  · exact hs
theorem State.MemOk.segRegWrite {o v} (hs : s.MemOk) : (s.segRegWrite o v).MemOk := by
  fun_cases State.segRegWrite
  · exact hs.frame
  · exact hs
  · exact hs.segWrite
  · exact hs
theorem State.MemOk.stageWrite {o v} (hs : s.MemOk) : (s.stageWrite o v).MemOk := by
  fun_cases State.stageWrite
  · exact hs.frame
  · exact hs.ttLoadWrite
  · exact hs.ttSwapWrite
  · exact hs.frame
  · exact hs.slotOwn
  · exact hs.frame
  · exact hs.frame
  · exact hs
theorem State.MemOk.schedWrite {o v} (hs : s.MemOk) : (s.schedWrite o v).MemOk := by
  fun_cases State.schedWrite
  · exact hs.frame
  · exact hs.frame
  · exact hs.classWrite
  · exact hs.inheritWrite
  · exact hs
theorem State.MemOk.memSysWrite {o v} (hs : s.MemOk) : (s.memSysWrite o v).MemOk := by
  fun_cases State.memSysWrite
  · exact hs.w1cLogged fun _ h1 => h1.frame
  · exact hs.llcWaysWrite
  · exact hs
theorem State.MemOk.cohCtrlWrite {v} (hs : s.MemOk) : (s.cohCtrlWrite v).MemOk := hs.logWindow.frame
theorem State.MemOk.cohWrite {o v} (hs : s.MemOk) : (s.cohWrite o v).MemOk := by
  fun_cases State.cohWrite
  · exact hs.cohCtrlWrite
  · exact hs.w1cLogged fun _ h1 => h1.frame
  · exact hs.syncPageWrite
  · exact hs
  · exact hs.cohStrictWrite
  · exact hs
  · exact hs
theorem State.MemOk.apertureWrite {v} (hs : s.MemOk) : (s.apertureWrite v).MemOk := by
  fun_cases State.apertureWrite
  · exact hs
  · exact hs.logWindow.frame
theorem State.MemOk.xltWrite {o v} (hs : s.MemOk) : (s.xltWrite o v).MemOk := by
  fun_cases State.xltWrite
  · exact hs.apertureWrite
  · exact hs.xltFlushWrite
  · exact hs.acCtrlWrite
  · exact hs.acBaseWrite
  · exact hs.logWindow.frame
  · exact hs
theorem State.MemOk.powerWrite {o v} (hs : s.MemOk) : (s.powerWrite o v).MemOk := by
  fun_cases State.powerWrite
  · exact hs.w1cLogged fun _ h1 => h1.frame
  · exact hs.pwrStrictWrite
  · exact hs
theorem State.MemOk.stableWrite {o v} (hs : s.MemOk) : (s.stableWrite o v).MemOk := by
  fun_cases State.stableWrite
  · exact hs.sbxGoWrite
  · exact hs.w1cLogged fun _ h1 => h1.frame
  · exact hs.sbxCmdWrite
  · exact hs.partErrWrite
  · exact hs
theorem State.MemOk.debugWrite {o v} (hs : s.MemOk) : (s.debugWrite o v).MemOk := by
  unfold State.debugWrite
  dsimp only
  split
  · exact hs.gstopWrite
  · exact .ite hs hs.scanWrite
  · exact hs.frame
  · exact hs.ctrSnapWrite
  · split
    · exact hs.ctrExportWrite
    · exact hs
theorem State.MemOk.spFlipRegWrite {p data v} (hs : s.MemOk) : (s.spFlipRegWrite p data v).MemOk := hs.logWindow.frame
theorem State.MemOk.cellWinWrite {p o v} (hs : s.MemOk) : (s.cellWinWrite p o v).MemOk := by
  unfold State.cellWinWrite
  dsimp only
  split
  · exact hs
  · split
    · split
      · exact hs.henCtrl
      · exact hs.setHen
      · exact hs
    · split
      · exact .ite hs.setOx hs
      · exact hs.setOx
      · exact hs.spFlipRegWrite
      · exact hs.spFlipRegWrite
      · exact .ite hs.setDray hs
      · exact .ite hs.setDray hs
      · split
        · exact hs.bankOwnWrite
        · exact hs.setCell
        · exact hs
theorem State.MemOk.ringWrite {e n o v} (hs : s.MemOk) : (s.ringWrite e n o v).MemOk := by
  fun_cases State.ringWrite
  · exact .ite hs hs.setEngine
  · exact hs.ringCfgWrite
  · exact .ite hs hs.setEngine
  · exact .ite hs hs.setEngine
  · exact hs.ringCtrlWrite
  · exact hs
theorem State.MemOk.mcFlipRegWrite {c addr v} (hs : s.MemOk) : (s.mcFlipRegWrite c addr v).MemOk := hs.logWindow.frame
theorem State.MemOk.ctlWinWrite {c o v} (hs : s.MemOk) : (s.ctlWinWrite c o v).MemOk := by
  unfold State.ctlWinWrite
  dsimp only
  split
  · exact .ite hs.setEngine hs
  · exact .ite hs.setMc hs
  · exact hs.missLastWrite
  · exact hs.mcFlipRegWrite
  · exact hs.mcFlipRegWrite
  · split
    · exact hs.ringWrite
    · split
      · exact hs.mapWrite
      · exact hs.mcShareWrite
      · exact hs
theorem State.MemOk.bar0Write {off v} (hs : s.MemOk) : (s.bar0Write off v).MemOk := by
  fun_cases State.bar0Write
  · exact hs.bootWrite
  · exact hs.faultWrite
  · exact hs.msixWrite
  · exact hs.coachWrite
  · exact hs.mbxWrite
  · exact hs.segRegWrite
  · exact hs.stageWrite
  · exact hs.schedWrite
  · exact hs.memSysWrite
  · exact hs.cohWrite
  · exact hs.xltWrite
  · exact hs.jbnCtrlWrite
  · exact hs
  · exact hs.powerWrite
  · exact hs.stableWrite
  · exact hs.debugWrite
  · exact hs.cellWinWrite
  · exact hs.ctlWinWrite
  · exact hs
theorem State.MemOk.pageWrite {pg o v} (hs : s.MemOk) : OutMemOk (s.pageWrite pg o v) := by
  fun_cases State.pageWrite
  · exact .next hs.dbTail
  · exact .next hs.dbWaitLatch
  · exact hs.dbWait
  · exact .next hs.dbSignalLatch
  · exact .next hs.dbSignal
  · exact .next hs.dbQuery
  · exact .next hs.dbEvent
  · exact .next hs.dbIgnore
theorem execRegisterWrite_memOk {off v} (hs : s.MemOk) : OutMemOk (execRegisterWrite off v s) := by
  fun_cases execRegisterWrite
  · exact hs.gateData fun _ h1 => h1.pageWrite
  · exact hs.gate fun _ h1 => .next h1.bar0Write
theorem State.MemOk.setPageAlloc {n} (hs : s.MemOk) : (s.setPageAlloc n).MemOk := hs.frame.sendWaiting
theorem State.MemOk.cfgRequest {q} (hs : s.MemOk) : (s.cfgRequest q).1.MemOk := by
  fun_cases State.cfgRequest <;> dsimp only
  · exact hs
  · exact hs
  · exact .ite hs.frame.setPageAlloc (.ite hs.frame.frame hs.frame)
  · exact hs
  · exact hs.frame
  · exact hs
  · exact hs.setPageAlloc
theorem execConfigurationRequest_memOk {q} (hs : s.MemOk) : OutMemOk (execConfigurationRequest q s) := by
  fun_cases execConfigurationRequest
  · exact .next hs
  · exact .next hs.emit
  · exact .next (hs.cfgRequest.of_fst ‹_›).emit

end Sys2Proof.Machine
end

section
/-! Memory stays canonical (O59), part 8: every command, and the step. -/
namespace Sys2Proof.Machine

variable {s t : State}

theorem exec_memOk (c : Instr) (hs : s.MemOk) : OutMemOk (exec c s) :=
  match c with
  | .oxIssue .. => execOxIssue_memOk hs
  | .oxDispatch .. => execOxDispatch_memOk hs
  | .oxNop .. => execOxNop_memOk hs
  | .wload .. => execWload_memOk hs
  | .mma .. => execMma_memOk hs
  | .epi .. => execEpi_memOk hs
  | .cbload .. => execCbload_memOk hs
  | .tload .. => execTload_memOk hs
  | .accload .. => execAccload_memOk hs
  | .barrier .. => execBarrier_memOk hs
  | .oxRetire .. => execOxRetire_memOk hs
  | .oxFlush .. => execOxFlush_memOk hs
  | .oxSrSeedWrite .. => execOxSrSeedWrite_memOk hs
  | .oxStateImageSave .. => execOxStateImageSave_memOk hs
  | .splB .. => execSplB_memOk hs
  | .splH .. => execSplH_memOk hs
  | .splW .. => execSplW_memOk hs
  | .splD .. => execSplD_memOk hs
  | .splBu .. => execSplBu_memOk hs
  | .splHu .. => execSplHu_memOk hs
  | .splWu .. => execSplWu_memOk hs
  | .spsB .. => execSpsB_memOk hs
  | .spsH .. => execSpsH_memOk hs
  | .spsW .. => execSpsW_memOk hs
  | .spsD .. => execSpsD_memOk hs
  | .vsplV .. => execVsplV_memOk hs
  | .vspsV .. => execVspsV_memOk hs
  | .oxWait .. => execOxWait_memOk hs
  | .drayIssue .. => execDrayIssue_memOk hs
  | .drayWait .. => execDrayWait_memOk hs
  | .gigSend .. => execGigSend_memOk hs
  | .gigRecv .. => execGigRecv_memOk hs
  | .bankGive .. => execBankGive_memOk hs
  | .bankHandover .. => execBankHandover_memOk hs
  | .bankOwner .. => execBankOwner_memOk hs
  | .epochGet .. => execEpochGet_memOk hs
  | .yield .. => execYield_memOk hs
  | .fenceI .. => execFenceI_memOk hs
  | .cboFlush .. => execCboFlush_memOk hs
  | .cboClean .. => execCboClean_memOk hs
  | .cboInval .. => execCboInval_memOk hs
  | .load .. => execLoad_memOk hs
  | .store .. => execStore_memOk hs
  | .amo .. => execAmo_memOk hs
  | .lr .. => execLr_memOk hs
  | .sc .. => execSc_memOk hs
  | .lrDeferralEnd .. => execLrDeferralEnd_memOk hs
  | .ecall .. => execEcall_memOk hs
  | .ebreak .. => execEbreak_memOk hs
  | .interrupt .. => execInterrupt_memOk hs
  | .mtip .. => execMtip_memOk hs
  | .finishProgram .. => execFinishProgram_memOk hs
  | .henReset .. => execHenReset_memOk hs
  | .henRun .. => execHenRun_memOk hs
  | .henStop .. => execHenStop_memOk hs
  | .softInt .. => execSoftInt_memOk hs
  | .frameBoundary => execFrameBoundary_memOk hs
  | .inject .. => execInject_memOk hs
  | .hop .. => execHop_memOk hs
  | .eject .. => execEject_memOk hs
  | .ttLoad .. => execTtLoad_memOk hs
  | .ttClear .. => execTtClear_memOk hs
  | .ttLoadBegin .. => execTtLoadBegin_memOk hs
  | .ttSwap .. => execTtSwap_memOk hs
  | .setOwner .. => execSetOwner_memOk hs
  | .setLendee .. => execSetLendee_memOk hs
  | .freeBlocks .. => execFreeBlocks_memOk hs
  | .clearLendee .. => execClearLendee_memOk hs
  | .coachPark .. => execCoachPark_memOk hs
  | .user .. => execUser_memOk hs
  | .semReply .. => execSemReply_memOk hs
  | .doorbell .. => execDoorbell_memOk hs
  | .yieldReq .. => execYieldReq_memOk hs
  | .epochSet .. => execEpochSet_memOk hs
  | .clockSet .. => execClockSet_memOk hs
  | .fault .. => execFault_memOk hs
  | .nack .. => execNack_memOk hs
  | .gigResend .. => execGigResend_memOk hs
  | .gigDoorbellRead .. => execGigDoorbellRead_memOk hs
  | .ringFetch .. => execRingFetch_memOk hs
  | .muleNop .. => execMuleNop_memOk hs
  | .gather .. => execGather_memOk hs
  | .scatterAdd .. => execScatterAdd_memOk hs
  | .reduce .. => execReduce_memOk hs
  | .embedBag .. => execEmbedBag_memOk hs
  | .copy .. => execCopy_memOk hs
  | .fill .. => execFill_memOk hs
  | .attend .. => execAttend_memOk hs
  | .run .. => execRun_memOk hs
  | .muleRetire .. => execMuleRetire_memOk hs
  | .ringEnable .. => execRingEnable_memOk hs
  | .ringDisable .. => execRingDisable_memOk hs
  | .ringAbort .. => execRingAbort_memOk hs
  | .ringFlush .. => execRingFlush_memOk hs
  | .muleMapWrite .. => execMuleMapWrite_memOk hs
  | .muleMapTakeEffect .. => execMuleMapTakeEffect_memOk hs
  | .coachOpen .. => execCoachOpen_memOk hs
  | .coachClose .. => execCoachClose_memOk hs
  | .hitchCell .. => execHitchCell_memOk hs
  | .unhitchCell .. => execUnhitchCell_memOk hs
  | .moveCell .. => execMoveCell_memOk hs
  | .moveGo .. => execMoveGo_memOk hs
  | .moveCancel .. => execMoveCancel_memOk hs
  | .setMem .. => execSetMem_memOk hs
  | .setLink .. => execSetLink_memOk hs
  | .setWindow .. => execSetWindow_memOk hs
  | .coachReset .. => execCoachReset_memOk hs
  | .quiesce .. => execQuiesce_memOk hs
  | .targetResume .. => execTargetResume_memOk hs
  | .moveLost .. => execMoveLost_memOk hs
  | .overlapWindowClose .. => execOverlapWindowClose_memOk hs
  | .cellClean .. => execCellClean_memOk hs
  | .bankOwnWrite .. => execBankOwnWrite_memOk hs
  | .drayLoad .. => execDrayLoad_memOk hs
  | .drayStore .. => execDrayStore_memOk hs
  | .recv .. => execRecv_memOk hs
  | .send .. => execSend_memOk hs
  | .prefetch .. => execPrefetch_memOk hs
  | .streamMap .. => execStreamMap_memOk hs
  | .ratomic .. => execRatomic_memOk hs
  | .descriptorComplete .. => execDescriptorComplete_memOk hs
  | .drayFlush .. => execDrayFlush_memOk hs
  | .requestRead .. => execRequestRead_memOk hs
  | .requestWrite .. => execRequestWrite_memOk hs
  | .requestPrefetch .. => execRequestPrefetch_memOk hs
  | .requestAtomic .. => execRequestAtomic_memOk hs
  | .statusFlit .. => execStatusFlit_memOk hs
  | .regulationWindow .. => execRegulationWindow_memOk hs
  | .mcMissLastClear .. => execMcMissLastClear_memOk hs
  | .mcShareWrite .. => execMcShareWrite_memOk hs
  | .llcWaysWrite .. => execLlcWaysWrite_memOk hs
  | .refreshChange .. => execRefreshChange_memOk hs
  | .getS .. => execGetS_memOk hs
  | .getM .. => execGetM_memOk hs
  | .upgrade .. => execUpgrade_memOk hs
  | .putS .. => execPutS_memOk hs
  | .putE .. => execPutE_memOk hs
  | .putD .. => execPutD_memOk hs
  | .amoFar .. => execAmoFar_memOk hs
  | .fwdGetS .. => execFwdGetS_memOk hs
  | .fwdGetM .. => execFwdGetM_memOk hs
  | .inv .. => execInv_memOk hs
  | .snpData .. => execSnpData_memOk hs
  | .snpInv .. => execSnpInv_memOk hs
  | .fwdAmo .. => execFwdAmo_memOk hs
  | .putAck .. => execPutAck_memOk hs
  | .grant .. => execGrant_memOk hs
  | .done .. => execDone_memOk hs
  | .dataS .. => execDataS_memOk hs
  | .dataE .. => execDataE_memOk hs
  | .dataM .. => execDataM_memOk hs
  | .refuse .. => execRefuse_memOk hs
  | .retry .. => execRetry_memOk hs
  | .credit .. => execCredit_memOk hs
  | .invAck .. => execInvAck_memOk hs
  | .snpResp .. => execSnpResp_memOk hs
  | .wbData .. => execWbData_memOk hs
  | .amoResp .. => execAmoResp_memOk hs
  | .holdEnd .. => execHoldEnd_memOk hs
  | .syncPageWrite .. => execSyncPageWrite_memOk hs
  | .syncPageRecallDone => execSyncPageRecallDone_memOk hs
  | .cohStrictWrite .. => execCohStrictWrite_memOk hs
  | .xltReq .. => execXltReq_memOk hs
  | .xltReqResend .. => execXltReqResend_memOk hs
  | .xltResp .. => execXltResp_memOk hs
  | .xltInv .. => execXltInv_memOk hs
  | .xltInvAck .. => execXltInvAck_memOk hs
  | .xltPage .. => execXltPage_memOk hs
  | .atsTranslationCompletion .. => execAtsTranslationCompletion_memOk hs
  | .atsInvalidateRequest .. => execAtsInvalidateRequest_memOk hs
  | .invalidationAbandon .. => execInvalidationAbandon_memOk hs
  | .prgResponse .. => execPrgResponse_memOk hs
  | .xltFlush .. => execXltFlush_memOk hs
  | .countDecay => execCountDecay_memOk hs
  | .acRingReset .. => execAcRingReset_memOk hs
  | .stepStart .. => execStepStart_memOk hs
  | .stepRetire .. => execStepRetire_memOk hs
  | .charge .. => execCharge_memOk hs
  | .promotionCheck .. => execPromotionCheck_memOk hs
  | .stopBoundary .. => execStopBoundary_memOk hs
  | .spillSwap .. => execSpillSwap_memOk hs
  | .spillComplete .. => execSpillComplete_memOk hs
  | .refill .. => execRefill_memOk hs
  | .acquire .. => execAcquire_memOk hs
  | .release .. => execRelease_memOk hs
  | .semTry .. => execSemTry_memOk hs
  | .semRead .. => execSemRead_memOk hs
  | .semSet .. => execSemSet_memOk hs
  | .schedClassWrite .. => execSchedClassWrite_memOk hs
  | .inheritCellWrite .. => execInheritCellWrite_memOk hs
  | .commandTimeout .. => execCommandTimeout_memOk hs
  | .jbnRead .. => execJbnRead_memOk hs
  | .jbnWrite .. => execJbnWrite_memOk hs
  | .jbnAtomic .. => execJbnAtomic_memOk hs
  | .stream .. => execStream_memOk hs
  | .readResp .. => execReadResp_memOk hs
  | .writeResp .. => execWriteResp_memOk hs
  | .atomicResp .. => execAtomicResp_memOk hs
  | .epochNote .. => execEpochNote_memOk hs
  | .epochNoteResend .. => execEpochNoteResend_memOk hs
  | .handover .. => execHandover_memOk hs
  | .handoverAck .. => execHandoverAck_memOk hs
  | .handoverLost .. => execHandoverLost_memOk hs
  | .fmResp .. => execFmResp_memOk hs
  | .setId .. => execSetId_memOk hs
  | .routeHdr .. => execRouteHdr_memOk hs
  | .memberWrite .. => execMemberWrite_memOk hs
  | .streamWrite .. => execStreamWrite_memOk hs
  | .remoteWrite .. => execRemoteWrite_memOk hs
  | .rehome .. => execRehome_memOk hs
  | .port .. => execPort_memOk hs
  | .portUp .. => execPortUp_memOk hs
  | .portDown .. => execPortDown_memOk hs
  | .linkCreditBlock .. => execLinkCreditBlock_memOk hs
  | .streamPacketSend .. => execStreamPacketSend_memOk hs
  | .requestTimeout .. => execRequestTimeout_memOk hs
  | .scrub .. => execScrub_memOk hs
  | .spFlipArm .. => execSpFlipArm_memOk hs
  | .mcFlipArm .. => execMcFlipArm_memOk hs
  | .retirePage .. => execRetirePage_memOk hs
  | .retireBank .. => execRetireBank_memOk hs
  | .retireCell .. => execRetireCell_memOk hs
  | .collectorClose .. => execCollectorClose_memOk hs
  | .faultNotice .. => execFaultNotice_memOk hs
  | .pcellStopTimeout .. => execPcellStopTimeout_memOk hs
  | .crashFree .. => execCrashFree_memOk hs
  | .warmReset => execWarmReset_memOk hs
  | .warmResetEscalation .. => execWarmResetEscalation_memOk hs
  | .ceilingRevision .. => execCeilingRevision_memOk hs
  | .errorSummaryWrite .. => execErrorSummaryWrite_memOk hs
  | .stop .. => execStop_memOk hs
  | .resume .. => execResume_memOk hs
  | .counterExport .. => execCounterExport_memOk hs
  | .arithmeticInstruction .. => execArithmeticInstruction_memOk hs
  | .csrAccess .. => execCsrAccess_memOk hs
  | .fence .. => execFence_memOk hs
  | .wfi .. => execWfi_memOk hs
  | .mret .. => execMret_memOk hs
  | .refillComplete .. => execRefillComplete_memOk hs
  | .sliceCreate .. => execSliceCreate_memOk hs
  | .sliceDestroy .. => execSliceDestroy_memOk hs
  | .doorbellSet .. => execDoorbellSet_memOk hs
  | .contextCreate .. => execContextCreate_memOk hs
  | .contextTeardown .. => execContextTeardown_memOk hs
  | .fenceInit .. => execFenceInit_memOk hs
  | .fenceFree .. => execFenceFree_memOk hs
  | .fenceTable .. => execFenceTable_memOk hs
  | .coachBind .. => execCoachBind_memOk hs
  | .doorbellTail .. => execDoorbellTail_memOk hs
  | .waitLatch .. => execWaitLatch_memOk hs
  | .waitRegister .. => execWaitRegister_memOk hs
  | .signalLatch .. => execSignalLatch_memOk hs
  | .signal .. => execSignal_memOk hs
  | .fenceQuery .. => execFenceQuery_memOk hs
  | .eventHead .. => execEventHead_memOk hs
  | .eventArm .. => execEventArm_memOk hs
  | .bar4Read .. => execBar4Read_memOk hs
  | .bar4Write .. => execBar4Write_memOk hs
  | .bar4SegWrite .. => execBar4SegWrite_memOk hs
  | .makeResident .. => execMakeResident_memOk hs
  | .stableImport .. => execStableImport_memOk hs
  | .destroy .. => execDestroy_memOk hs
  | .partMode .. => execPartMode_memOk hs
  | .ingest .. => execIngest_memOk hs
  | .egest .. => execEgest_memOk hs
  | .lcAdvance .. => execLcAdvance_memOk hs
  | .debugUnlock .. => execDebugUnlock_memOk hs
  | .jtagToken .. => execJtagToken_memOk hs
  | .getVersion .. => execGetVersion_memOk hs
  | .getCapabilities .. => execGetCapabilities_memOk hs
  | .negotiateAlgorithms .. => execNegotiateAlgorithms_memOk hs
  | .getDigests .. => execGetDigests_memOk hs
  | .getCertificate .. => execGetCertificate_memOk hs
  | .challenge .. => execChallenge_memOk hs
  | .getMeasurements .. => execGetMeasurements_memOk hs
  | .chunkGet .. => execChunkGet_memOk hs
  | .getStatus .. => execGetStatus_memOk hs
  | .setContract .. => execSetContract_memOk hs
  | .setCooling .. => execSetCooling_memOk hs
  | .getReport .. => execGetReport_memOk hs
  | .minuteClose => execMinuteClose_memOk hs
  | .controlInterval .. => execControlInterval_memOk hs
  | .meterSample .. => execMeterSample_memOk hs
  | .meterCheck .. => execMeterCheck_memOk hs
  | .droop .. => execDroop_memOk hs
  | .thermalTrip sensor .. => execThermalTrip_memOk sensor hs
  | .pwrStrictWrite .. => execPwrStrictWrite_memOk hs
  | .coldReset .. => execColdReset_memOk hs
  | .perstAssert .. => execPerstAssert_memOk hs
  | .modRstAssert .. => execModRstAssert_memOk hs
  | .pwrEnChange .. => execPwrEnChange_memOk hs
  | .inputOutOfRange .. => execInputOutOfRange_memOk hs
  | .refclkSysLoss .. => execRefclkSysLoss_memOk hs
  | .refclkFabLoss .. => execRefclkFabLoss_memOk hs
  | .hotReset => execHotReset_memOk hs
  | .requestUpdate .. => execRequestUpdate_memOk hs
  | .activateFirmware => execActivateFirmware_memOk hs
  | .getSensorReading .. => execGetSensorReading_memOk hs
  | .changeLogDrain => execChangeLogDrain_memOk hs
  | .logSign .. => execLogSign_memOk hs
  | .scan .. => execScan_memOk hs
  | .scanIn .. => execScanIn_memOk hs
  | .ctrSnap .. => execCtrSnap_memOk hs
  | .ctrExportWrite .. => execCtrExportWrite_memOk hs
  | .registerWrite .. => execRegisterWrite_memOk hs
  | .rcRegisterRead .. => execRcRegisterRead_memOk hs
  | .configurationRequest .. => execConfigurationRequest_memOk hs
  | .pcieCompletion .. => execPcieCompletion_memOk hs
  | .fuseSeedsAtTest => execFuseSeedsAtTest_memOk hs
  | .flashHeaderWrite .. => execFlashHeaderWrite_memOk hs
  | .marginLoss .. => execMarginLoss_memOk hs

theorem State.MemOk.idle (hs : s.MemOk) : s.idle.MemOk := hs.frame.replyPump

/-- A step is the front command's `exec`, or an idle tick. -/
theorem step_memOk (hs : s.MemOk) : OutMemOk (step s) := by
  cases hp : s.pending with
  | nil => exact step_nil hp ▸ .next hs.idle
  | cons c rest => exact step_cons hp ▸ exec_memOk c hs.frame

/-- Settles O59: every function of the model that answers a state writes its memories through `writeBytes` and `tset` only, or clears a
range of them, and each of these keeps the canonical form; so every command does, and with it every step. -/
theorem memoryStaysCanonical : Obligations.MemoryStaysCanonical := by
  unfold Obligations.MemoryStaysCanonical
  exact fun s t hm hh ht => step_memOk ⟨hm, hh⟩ ht

end Sys2Proof.Machine
end

section
/-! SPDM (O53): when a request is answered, and by what. -/
namespace Sys2Proof.Machine

/-- The module answers SPDM requests: it is ready, not held, and in a life-cycle state that has an identity (R485, R488). -/
structure State.SpdmOpen (s : State) : Prop where
  ready : s.harness.ready = true
  free : s.stable.held = false
  notBlank : s.stable.lcState ≠ 0
  notScrapped : s.stable.lcState ≠ 5

variable {s : State} {need : Nat} {req : List Byte} {f : State → State}

theorem State.SpdmOpen.gate (h : s.SpdmOpen) :
    (!s.harness.ready || s.stable.held || s.stable.lcState == 0 || s.stable.lcState == 5) = false := by
  obtain ⟨hready, hfree, hblank, hscrapped⟩ := h
  simp [hready, hfree, hblank, hscrapped]

/-- At INVASIVE every request meets an error (R514). -/
theorem State.SpdmOpen.invasive (h : s.SpdmOpen) (hlevel : s.stable.debugLevel = 2) :
    s.spdm need req f = .next (s.emit (.management (spdmError 5))) := by
  unfold State.spdm
  dsimp only
  rw [h.gate, if_neg Bool.false_ne_true, if_pos hlevel]

theorem State.SpdmOpen.otherVersion (h : s.SpdmOpen) (hlevel : s.stable.debugLevel ≠ 2) (hneed : 0 < need) (hversion : sliceNat req 0 1 ≠ 0x13) :
    s.spdm need req f = .next (s.emit (.management (spdmError 0x41))) := by
  have hv : (decide (need > 0) && sliceNat req 0 1 != 0x13) = true := by simp [hneed, hversion]
  unfold State.spdm
  dsimp only
  rw [h.gate, if_neg Bool.false_ne_true, if_neg hlevel, if_pos hv]

theorem State.SpdmOpen.outOfOrder (h : s.SpdmOpen) (hlevel : s.stable.debugLevel ≠ 2) (hversion : sliceNat req 0 1 = 0x13)
    (hneed : s.stable.spdm.toNat < need) : s.spdm need req f = .next (s.emit (.management (spdmError 4))) := by
  have hv : (decide (need > 0) && sliceNat req 0 1 != 0x13) = false := by simp [hversion]
  unfold State.spdm
  dsimp only
  rw [h.gate, hv, if_neg Bool.false_ne_true, if_neg hlevel, if_neg Bool.false_ne_true, if_pos hneed]

theorem State.SpdmOpen.inOrder (h : s.SpdmOpen) (hlevel : s.stable.debugLevel ≠ 2) (hversion : need = 0 ∨ sliceNat req 0 1 = 0x13)
    (hneed : need ≤ s.stable.spdm.toNat) : s.spdm need req f = .next (f s) := by
  have hv : (decide (need > 0) && sliceNat req 0 1 != 0x13) = false := by
    rcases hversion with rfl | hv
    · rfl
    · simp [hv]
  unfold State.spdm
  dsimp only
  rw [h.gate, hv, if_neg Bool.false_ne_true, if_neg hlevel, if_neg Bool.false_ne_true, if_neg (Nat.not_lt.mpr hneed)]

/-- An answer that the gate gives to every request past the first one. -/
theorem exec_spdm_of_gate {o : Out} (h : ∀ {need : Nat} {f : State → State}, 0 < need → s.spdm need req f = o) :
    ∀ i ∈ [Instr.getCapabilities req, .negotiateAlgorithms req, .getDigests req, .getCertificate req, .challenge req,
      .getMeasurements req, .chunkGet req], exec i s = o := by
  simp only [List.forall_mem_cons, exec_getCapabilities, exec_negotiateAlgorithms, exec_getDigests, exec_getCertificate, exec_challenge,
    exec_getMeasurements, exec_chunkGet]
  exact ⟨h (by decide), h (by decide), h (by decide), h (by decide), h (by decide), h (by decide), h (by decide), List.forall_mem_nil _⟩

theorem execGetDigests_of_no_chain (hrun : ∀ f, s.spdm 3 req f = .next (f s)) (hc : s.certChain = none) :
    execGetDigests req s = .next (s.spdmAnswer (spdmHead 1 1 0)) := by
  rw [execGetDigests, hrun, hc]

theorem execGetDigests_of_chain {c : List Byte} (hrun : ∀ f, s.spdm 3 req f = .next (f s)) (hc : s.certChain = some c) :
    execGetDigests req s = .next (s.spdmAnswer (spdmHead 1 1 1 ++ bytesOf 64 (Config.sha512 c))) := by
  rw [execGetDigests, hrun, hc]

theorem execGetCertificate_of_no_chain (hrun : ∀ f, s.spdm 3 req f = .next (f s)) (hc : s.certChain = none) :
    execGetCertificate req s = .next (s.emit (.management (spdmError 1))) := by
  rw [execGetCertificate, hrun, hc]

theorem execGetCertificate_of_chain {c : List Byte} (hrun : ∀ f, s.spdm 3 req f = .next (f s)) (hc : s.certChain = some c)
    (hslot : sliceNat req 2 1 % 16 = 0) :
    execGetCertificate req s = if c.length ≤ sliceNat req 4 2 then .next (s.emit (.management (spdmError 1))) else
      .next (s.spdmAnswer (spdmHead 2 0 0 ++ natBytes 2 ((c.drop (sliceNat req 4 2)).take (sliceNat req 6 2)).length
        ++ natBytes 2 (c.length - sliceNat req 4 2 - ((c.drop (sliceNat req 4 2)).take (sliceNat req 6 2)).length)
        ++ (c.drop (sliceNat req 4 2)).take (sliceNat req 6 2))) := by
  rw [execGetCertificate, hrun, hc]
  by_cases hoff : c.length ≤ sliceNat req 4 2
  · simp [hoff]
  · simp [hoff, hslot]

theorem execChallenge_of_no_chain (hrun : ∀ f, s.spdm 3 req f = .next (f s)) (hc : s.certChain = none) :
    execChallenge req s = .next (s.emit (.management (spdmError 1))) := by
  rw [execChallenge, hrun, hc]

/-- Settles O53: the gate of `State.spdm` has four outcomes, and past it each request's own checks are the statement's hypotheses. -/
theorem spdmRequestsAreAnswered : Obligations.SpdmRequestsAreAnswered := by
  unfold Obligations.SpdmRequestsAreAnswered
  intro s req hready hfree hblank hscrapped sends
  have h : s.SpdmOpen := ⟨hready, hfree, hblank, hscrapped⟩
  refine ⟨fun hlevel => List.forall_mem_cons.mpr ⟨(exec_getVersion s req).trans (h.invasive hlevel), exec_spdm_of_gate fun _ => h.invasive hlevel⟩,
    fun hlevel => ⟨(exec_getVersion s req).trans (h.inOrder hlevel (.inl rfl) (Nat.zero_le _)),
      fun hversion => exec_spdm_of_gate fun hneed => h.otherVersion hlevel hneed hversion,
      fun hversion => ⟨fun hspdm => exec_spdm_of_gate fun hneed => h.outOfOrder hlevel hversion (by rw [hspdm]; exact hneed), ?_, ?_, ?_, ?_⟩⟩⟩
  · intro hneed hsize
    rw [exec_getCapabilities, execGetCapabilities, h.inOrder hlevel (.inr hversion) hneed]
    simp only [if_neg (Nat.not_lt.mpr hsize)]
  · exact fun hneed => (exec_negotiateAlgorithms s req).trans (h.inOrder hlevel (.inr hversion) hneed)
  · intro hneed hchunks hhandle hseq size n rest
    rw [exec_chunkGet, execChunkGet, h.inOrder hlevel (.inr hversion) hneed]
    simp only [hchunks, hhandle, hseq, ne_eq, not_true_eq_false, or_self, if_false]
    simp only [sends, size, n, rest, hseq]
  · intro hspdm drawn nonce
    have hrun (f : State → State) : s.spdm 3 req f = .next (f s) := h.inOrder hlevel (.inr hversion) (by rw [hspdm]; decide)
    refine ⟨fun hcert => ?_, fun hcert => ?_, fun hop => ?_⟩
    · have hc : s.certChain = none := by simp [State.certChain, hcert]
      exact ⟨execGetDigests_of_no_chain hrun hc, execGetCertificate_of_no_chain hrun hc, execChallenge_of_no_chain hrun hc⟩
    · intro root certs c off
      have hc : s.certChain = some c := if_pos hcert
      refine ⟨execGetDigests_of_chain hrun hc, fun hslot => execGetCertificate_of_chain hrun hc hslot, fun hslot => ?_⟩
      rw [exec_challenge, execChallenge, hrun, hc]
      simp only [hslot, ne_eq, not_true_eq_false, if_false]
      rfl
    · intro op which record signed body
      have hop' : ¬ (sliceNat req 3 1 > 11 ∧ sliceNat req 3 1 ≠ 0xFF) := by
        rintro ⟨h11, hff⟩
        exact hop.elim (Nat.not_le.mpr h11) hff
      rw [exec_getMeasurements, execGetMeasurements, hrun]
      simp only [if_neg hop']
      rfl

end Sys2Proof.Machine
end

section
/-! What the change log leaves (O50, O52): it writes memory, and what that can meet changes neither the fabric's registers nor, but for the
error counts, the Stable's. -/
namespace Sys2Proof.Machine

/-- The fabric's registers are those of base, and the Stable is, but for the partitions' error counts. -/
def State.Beside (s base : State) : Prop :=
  s.jbn = base.jbn ∧ s.stable = { base.stable with errCount := s.stable.errCount, errChanged := s.stable.errChanged }

variable {s t base : State}

theorem State.beside_self (s : State) : s.Beside s := ⟨rfl, rfl⟩
theorem State.Beside.moduleId (h : s.Beside base) : s.jbn.moduleId = base.jbn.moduleId := congrArg Jbn.moduleId h.1
theorem State.Beside.sbxCmd (h : s.Beside base) : s.stable.sbxCmd = base.stable.sbxCmd := by rw [h.2]
theorem State.Beside.debugLevel (h : s.Beside base) : s.stable.debugLevel = base.stable.debugLevel := by rw [h.2]
theorem State.Beside.frame {pending tick free flight outbox isL1 ceilFused cellEnable cells stage coaches coachRegs mem hostMem written
      writeSeq mcs llc llcWays wayConflict carve engines agents homeLines homes nonCaching ncNext muleCached muleGone lineKey refused retrying
      coh tlbAgents xlt host sched errs harness power dbg} (hs : s.Beside base) :
    State.Beside {
      pending, tick, free, flight, outbox, isL1, ceilFused, cellEnable, cells, stage, coaches, coachRegs, mem, hostMem
      written, writeSeq, mcs, llc, llcWays, wayConflict, carve, engines, agents, homeLines, homes, nonCaching, ncNext, muleCached, muleGone
      lineKey, refused, retrying, coh, tlbAgents, xlt, host, sched, errs, stable := s.stable, jbn := s.jbn, harness, power, dbg } base := hs
theorem State.Beside.counts {errCount errChanged} (hs : s.Beside base) :
    State.Beside { s with stable := { s.stable with errCount, errChanged } } base := by
  have h : ({ s.stable with errCount, errChanged } : Stable) = { base.stable with errCount, errChanged } := by rw [hs.2]
  exact ⟨hs.1, h⟩
theorem State.Beside.ite {c : Prop} [Decidable c] (hs : s.Beside base) (ht : t.Beside base) : (if c then s else t).Beside base := by
  split
  · exact hs
  · exact ht
theorem State.Beside.dite {c : Prop} [Decidable c] {s : c → State} {t : ¬ c → State} (hs : ∀ h, (s h).Beside base) (ht : ∀ h, (t h).Beside base) :
    (if h : c then s h else t h).Beside base := by
  split
  · exact hs _
  · exact ht _
theorem State.Beside.foldl {α : Type} {l : List α} {f : State → α → State} (hs : s.Beside base) (hf : ∀ t x, t.Beside base → (f t x).Beside base) :
    (l.foldl f s).Beside base := by
  induction l generalizing s with
  | nil => exact hs
  | cons x l ih => exact ih (hf s x hs)
theorem State.Beside.of_snd {α : Type} {x : α × State} {a : α} (hs : x.2.Beside base) (h : x = (a, t)) : t.Beside base := by
  rw [h] at hs
  exact hs
theorem State.Beside.setCell {p c} (hs : s.Beside base) : (s.setCell p c).Beside base := hs.frame
theorem State.Beside.setEngine {e x} (hs : s.Beside base) : (s.setEngine e x).Beside base := hs.frame
theorem State.Beside.setMc {c x} (hs : s.Beside base) : (s.setMc c x).Beside base := hs.frame
theorem State.Beside.noteWrite {a n} (hs : s.Beside base) : (s.noteWrite a n).Beside base := hs.frame
theorem State.Beside.noteKey {a n key} (hs : s.Beside base) : (s.noteKey a n key).Beside base := by
  fun_cases State.noteKey
  · exact hs
  · exact hs.frame
theorem State.Beside.writeMem {a bs} (hs : s.Beside base) : (s.writeMem a bs).Beside base := by
  fun_cases State.writeMem
  · exact hs
  · exact hs.noteWrite.noteKey.frame
theorem State.Beside.countCell {p i n} (hs : s.Beside base) : (s.countCell p i n).Beside base := hs.setCell
theorem State.Beside.countCoach {n i k} (hs : s.Beside base) : (s.countCoach n i k).Beside base := by
  fun_cases State.countCoach
  · exact hs
  · exact hs.frame
theorem State.Beside.countGlobal {i k} (hs : s.Beside base) : (s.countGlobal i k).Beside base := hs.frame
theorem State.Beside.post {a i} (hs : s.Beside base) : (s.post a i).Beside base := hs.frame
theorem State.Beside.send {i} (hs : s.Beside base) : (s.send i).Beside base := hs.post
theorem State.Beside.sendAll {l} (hs : s.Beside base) : (s.sendAll l).Beside base := hs.foldl fun _ _ h1 => h1.send
theorem State.Beside.sendFrom {a i} (hs : s.Beside base) : (s.sendFrom a i).Beside base := .post (.ite hs.countCell hs)
theorem State.Beside.emit {o} (hs : s.Beside base) : (s.emit o).Beside base := hs.frame
theorem State.Beside.writePhys {a bs} (hs : s.Beside base) : (s.writePhys a bs).Beside base := by
  fun_cases State.writePhys
  · exact hs.writeMem
  · exact hs.frame
theorem State.Beside.msix {v} (hs : s.Beside base) : (s.msix v).Beside base := by
  fun_cases State.msix
  · exact hs
  · exact hs.frame
  · exact hs.emit
theorem State.Beside.acReport {g e} (hs : s.Beside base) : (s.acReport g e).Beside base := by
  fun_cases State.acReport
  · exact hs.frame
  · exact hs.writePhys.frame.msix
  · exact hs.writePhys.frame
theorem State.Beside.acTouch {g part a lines} (hs : s.Beside base) : (s.acTouch g part a lines).Beside base := by
  fun_cases State.acTouch
  · exact hs
  · exact hs.frame.acReport
  · exact hs.frame
theorem State.Beside.putErr {bs} (hs : s.Beside base) : (s.putErr bs).Beside base := by
  fun_cases State.putErr
  · exact hs.frame
  · exact .frame (.ite hs hs.writeMem)
theorem State.Beside.summaryUp {q place} (hs : s.Beside base) : (s.summaryUp q place).Beside base := by
  fun_cases State.summaryUp
  · exact hs
  · exact hs.counts
theorem State.Beside.summaryError {kind struct_ part} (hs : s.Beside base) : (s.summaryError kind struct_ part).Beside base := by
  fun_cases State.summaryError
  · exact hs
  iterate 3 exact hs.summaryUp
  · exact hs
theorem State.Beside.logErr {kind struct_ unit addr part pos value} (hs : s.Beside base) : (s.logErr kind struct_ unit addr part pos value).Beside base := by
  fun_cases State.logErr
  · exact hs.summaryError.putErr.frame
  · exact hs.summaryError.frame
  · exact hs.summaryError.putErr
theorem State.Beside.countMem {l write m} (hs : s.Beside base) : (s.countMem l write m).Beside base := by
  fun_cases State.countMem
  · exact hs.setMc.countGlobal.countCoach
  · exact hs.setMc.countGlobal.countCoach.countGlobal.acTouch
  · exact hs.setMc.countGlobal.countCoach.countGlobal
theorem State.Beside.countLlc {l hit m} (hs : s.Beside base) : (s.countLlc l hit m).Beside base := by
  fun_cases State.countLlc
  · exact hs
  · exact hs.countGlobal.countCoach
theorem State.Beside.flipLine {l} (hs : s.Beside base) : (s.flipLine l).Beside base := by
  fun_cases State.flipLine <;> exact hs.frame
theorem State.Beside.ctlWritten {l m} (hs : s.Beside base) : (s.ctlWritten l m).Beside base := hs.countMem.flipLine
theorem State.Beside.countEcc {c ce} (hs : s.Beside base) : (s.countEcc c ce).Beside base := hs.frame
theorem State.Beside.scrubWrite {l} (hs : s.Beside base) : (s.scrubWrite l).Beside base := hs.countEcc.ctlWritten
theorem State.Beside.memCheck {l key} (hs : s.Beside base) : (s.memCheck l key).2.Beside base := by
  fun_cases State.memCheck <;> dsimp only
  · exact hs.logErr.countEcc
  · exact hs.logErr.countEcc
  · exact hs.frame
  · exact hs
  · exact hs.logErr.scrubWrite
theorem State.Beside.memDemand {l key m} (hs : s.Beside base) : (s.memDemand l key m).2.Beside base := hs.countMem.memCheck
theorem State.Beside.putLine {l d key} (hs : s.Beside base) : (s.putLine l d key).Beside base := by
  fun_cases State.putLine
  · exact hs
  · exact hs.noteKey.frame
theorem State.Beside.llcDrop {l m} (hs : s.Beside base) : (s.llcDrop l m).Beside base := by
  fun_cases State.llcDrop
  · exact hs
  · exact hs.frame.ctlWritten
  · exact hs.frame
theorem State.Beside.llcPlace {l e} (hs : s.Beside base) : (s.llcPlace l e).Beside base := hs.frame
theorem State.Beside.llcAlloc {l who dirty under m} (hs : s.Beside base) : (s.llcAlloc l who dirty under m).Beside base := by
  unfold State.llcAlloc
  dsimp only
  split
  · exact hs.llcPlace
  · split
    · exact .ite hs.ctlWritten hs
    · split
      · exact hs.llcPlace
      · refine .llcPlace ?_
        split
        · exact hs.frame.llcDrop
        · exact hs.frame
theorem State.Beside.homeRead {l who alloc key m} (hs : s.Beside base) : (s.homeRead l who alloc key m).2.Beside base := by
  fun_cases State.homeRead <;> dsimp only
  · exact hs.countLlc
  · exact (hs.countLlc.memDemand.of_snd ‹_›)
  · exact .ite (hs.countLlc.memDemand.of_snd ‹_›).llcAlloc (hs.countLlc.memDemand.of_snd ‹_›)
theorem State.Beside.homeWrite {l who alloc d key m} (hs : s.Beside base) : (s.homeWrite l who alloc d key m).Beside base := by
  fun_cases State.homeWrite
  · exact hs.countLlc.putLine.llcAlloc
  · exact hs.countLlc.putLine.ctlWritten
theorem State.Beside.setAgent {a l x} (hs : s.Beside base) : (s.setAgent a l x).Beside base := hs.frame
theorem State.Beside.agentTo {a l st} (hs : s.Beside base) : (s.agentTo a l st).Beside base := hs.setAgent
theorem State.Beside.request {a l i} (hs : s.Beside base) : (s.request a l i).Beside base := by
  fun_cases State.request
  · exact hs.sendFrom
  · exact hs.frame
theorem State.Beside.loseReservation {a l} (hs : s.Beside base) : (s.loseReservation a l).Beside base := by
  fun_cases State.loseReservation
  · exact hs.setCell
  · exact hs
theorem State.Beside.replaceLine {a l} (hs : s.Beside base) : (s.replaceLine a l).Beside base := by
  fun_cases State.replaceLine
  iterate 4 exact hs.loseReservation.agentTo.sendFrom
  · exact hs.loseReservation
theorem State.Beside.makeRoom {a l t} (hs : s.Beside base) (ht : s.makeRoom a l = some t) : t.Beside base := by
  unfold State.makeRoom at ht
  extract_lets at ht
  split at ht
  · exact Option.some.inj ht ▸ hs
  · split at ht
    · exact Option.some.inj ht ▸ hs.frame.replaceLine
    · nomatch ht
theorem State.Beside.wantRead {a l sharedOnly} (hs : s.Beside base) : (s.wantRead a l sharedOnly).Beside base := by
  fun_cases State.wantRead
  · exact (hs.makeRoom ‹_›).agentTo.request
  · exact hs
  · exact hs
theorem State.Beside.agentLose {a l st} (hs : s.Beside base) : (s.agentLose a l st).Beside base := hs.agentTo.loseReservation
theorem State.Beside.setHome {h x} (hs : s.Beside base) : (s.setHome h x).Beside base := hs.frame
theorem State.Beside.noteServed {h l a} (hs : s.Beside base) : (s.noteServed h l a).Beside base := hs.setHome
theorem State.Beside.setHomeLine {l x} (hs : s.Beside base) : (s.setHomeLine l x).Beside base := hs.frame
theorem State.Beside.freePool {h q l} (hs : s.Beside base) : (s.freePool h q l).Beside base := by
  fun_cases State.freePool
  · exact hs
  · exact hs.setHome.send
theorem State.Beside.freeEntry {l r} (hs : s.Beside base) : (s.freeEntry l r).Beside base := by
  fun_cases State.freeEntry
  · exact hs.freePool
  · exact hs
theorem State.Beside.sendInv {l t} (hs : s.Beside base) : (s.sendInv l t).Beside base := hs.sendAll
theorem State.Beside.serve {l r mk} (hs : s.Beside base) : (s.serve l r mk).2.Beside base := by
  fun_cases State.serve <;> dsimp only
  · exact (hs.homeRead.of_snd ‹_›).noteServed.send
  · exact (hs.homeRead.of_snd ‹_›).send
theorem State.Beside.noteAmo {l b} (hs : s.Beside base) : (s.noteAmo l b).Beside base := hs.noteWrite
theorem State.Beside.doneShown {ep l b} (hs : s.Beside base) : (s.doneShown ep l b).Beside base := by
  fun_cases State.doneShown
  · exact hs
  · exact hs.setEngine
  · exact hs
theorem State.Beside.homeAmo {l r b contended} (hs : s.Beside base) : (s.homeAmo l r b contended).Beside base := by
  fun_cases State.homeAmo
  · exact (hs.homeRead.of_snd ‹_›).send
  · exact (hs.homeRead.of_snd ‹_›).homeWrite.noteAmo.noteServed.doneShown.send
theorem State.Beside.setNc {q} (hs : s.Beside base) : (s.setNc q).Beside base := hs.frame
theorem State.Beside.ncPerform {l r} (hs : s.Beside base) : (s.ncPerform l r).Beside base := by
  unfold State.ncPerform
  extract_lets run read write
  have hrun : ∀ id f, (∀ q, (f q).1.Beside base) → (run id f).Beside base := by
    intro id f hf
    simp only [run]
    split
    · exact hs
    · exact (hf _).setNc
  clear_value run
  have hread : ∀ q a, (read q a).2.Beside base := fun _ _ => hs.homeRead
  split
  · refine hrun _ _ fun q => ?_
    split <;> exact (hread q _).of_snd ‹_›
  · refine hrun _ _ fun q => ?_
    split
    · exact hs.noteWrite.homeWrite
    · split
      · exact ((hread q _).of_snd ‹_›).noteWrite.homeWrite
      · exact (hread q _).of_snd ‹_›
  · refine hrun _ _ fun q => ?_
    split
    · exact ((hread q _).of_snd ‹_›).homeWrite.noteAmo
    · exact (hread q _).of_snd ‹_›
  · exact hs
theorem State.Beside.muleAmo {l r x} (hs : s.Beside base) : (s.muleAmo l r x).Beside base := by
  fun_cases State.muleAmo
  iterate 3 exact .dite (fun _ => hs.send.setHomeLine) fun _ => hs.setHomeLine
  · exact hs.setHomeLine
  · exact hs.setHomeLine
theorem State.Beside.homeAct {l x r} (hs : s.Beside base) : (s.homeAct l x r).Beside base := by
  unfold State.homeAct
  extract_lets h x' set phase getM
  have hgetM : ∀ a, (getM a).Beside base := by
    intro a
    simp only [getM]
    split
    · exact hs.send.sendInv.noteServed.setHomeLine
    · split
      · exact (hs.serve.of_snd ‹_›).setHomeLine
      · exact .ite (hs.serve.of_snd ‹_›).setHomeLine (hs.serve.of_snd ‹_›).sendInv.setHomeLine
  have hsnp : ∀ y, ((match x'.owner with | some o => s.send (.snpInv o l) | none => s).sendInv l y).Beside base := by
    intro y
    refine .sendInv ?_
    split
    · exact hs.send
    · exact hs
  split
  · split
    · exact hs.send.noteServed.setHomeLine
    · split
      · split <;> exact (hs.serve.of_snd ‹_›).setHomeLine
      · split <;> exact (hs.serve.of_snd ‹_›).setHomeLine
  · exact hgetM _
  · exact .ite (.ite hs.sendInv.noteServed.send.setHomeLine hs.sendInv.setHomeLine) (hgetM _)
  iterate 2 exact hs.send.setHomeLine
  · exact .ite hs.homeWrite.send.setHomeLine hs.send.setHomeLine
  · split
    · exact .ite hs.ncPerform.setHomeLine hs.send.setHomeLine
    · exact hs.ncPerform.setHomeLine
  · exact .ite (.ite hs.muleAmo hs.homeAmo.setHomeLine) (hsnp _).setHomeLine
  iterate 3 exact .ite (.ite hs.ncPerform.setHomeLine hs.muleAmo) (.ite hs.ncPerform.setHomeLine (hsnp _).setHomeLine)
theorem State.Beside.homeActOO {l x r} (hs : s.Beside base) : (s.homeActOO l x r).Beside base := by
  unfold State.homeActOO
  extract_lets h set wait clear bring y own pass
  have hclear : ∀ k, (k ()).Beside base → (clear k).Beside base := fun k hk => .ite hk hs.sendInv.setHomeLine
  clear_value clear
  have hbring : ∀ k, (k ()).Beside base → (bring k).Beside base := by
    intro k hk
    simp only [bring]
    split
    · exact hk
    · exact hs.send.setHomeLine
  clear_value bring
  have hown : ∀ a, (own a).Beside base := by
    intro a
    simp only [own]
    split <;> exact (hs.serve.of_snd ‹_›).setHomeLine
  have hpass : ∀ a, (pass a).Beside base := by
    intro a
    simp only [pass]
    refine hclear _ ?_
    split
    · exact .ite (hown a) hs.send.noteServed.setHomeLine
    · exact hown a
  split
  · refine hbring _ ?_
    split <;> exact (hs.serve.of_snd ‹_›).setHomeLine
  iterate 3 exact hpass _
  iterate 2 exact hs.send.setHomeLine
  · exact .ite hs.homeWrite.send.setHomeLine hs.send.setHomeLine
  · exact hbring _ hs.ncPerform.setHomeLine
  iterate 3 exact hbring _ (hclear _ hs.ncPerform.setHomeLine)
  · exact hbring _ (hclear _ hs.homeAmo.setHomeLine)
theorem State.Beside.homeServe {l x r} (hs : s.Beside base) : (s.homeServe l x r).Beside base := by
  fun_cases State.homeServe
  · exact .freeEntry (.ite hs.homeActOO hs.homeAct)
  · exact .ite hs.homeActOO hs.homeAct
theorem State.Beside.homeRun {l k} (hs : s.Beside base) : (s.homeRun l k).Beside base := by
  induction k generalizing s l with
  | zero => exact hs
  | succ k ih =>
    unfold State.homeRun
    extract_lets free u x
    have hu : u.Beside base := hs.foldl fun _ _ h => ih h.setHomeLine
    clear_value u
    split
    · dsimp only
      split
      · refine ih (.freeEntry ?_)
        split
        · exact hu.setHomeLine.send
        · exact hu.setHomeLine
      · split
        · split
          · exact ih hu.homeServe
          · exact ih hu.frame.setHomeLine.setHomeLine
          · exact hu
        · exact ih hu.homeServe
    · exact hu
theorem State.Beside.homeNext {l} (hs : s.Beside base) : (s.homeNext l).Beside base := hs.homeRun
theorem State.Beside.rereadTail {a l} (hs : s.Beside base) : (s.rereadTail a l).Beside base := by
  fun_cases State.rereadTail
  · exact hs.wantRead
  · exact hs
  · exact hs
theorem State.Beside.writeBack {l m} (hs : s.Beside base) : (s.writeBack l m).Beside base := by
  fun_cases State.writeBack
  · exact hs.homeWrite
  · exact hs
theorem State.Beside.uncache {l} (hs : s.Beside base) : (s.uncache l).Beside base := by
  fun_cases State.uncache
  · exact hs
  · exact hs.frame
theorem State.Beside.flushLine {l discard m} (hs : s.Beside base) : (s.flushLine l discard m).Beside base :=
  .foldl (.uncache (.homeNext (.llcDrop (.setHomeLine (.foldl (.ite hs hs.writeBack) fun _ _ h1 => h1.agentLose))))) fun _ _ h1 => h1.rereadTail
theorem State.Beside.devOwn {l a bs m} (hs : s.Beside base) : (s.devOwn l a bs m).Beside base := by
  fun_cases State.devOwn
  · exact hs
  · exact hs.flushLine
  · exact hs.foldl fun _ _ h1 => h1.setAgent
theorem State.Beside.devLine {a bs m l} (hs : s.Beside base) : (s.devLine a bs m l).Beside base := by
  unfold State.devLine
  extract_lets u lo part put v
  have hput : ∀ w : State, w.Beside base → (put w).Beside base := fun w hw => hw.noteKey.frame
  clear_value put
  have hv : v.Beside base := hs.devOwn.countLlc
  clear_value v
  split
  · exact hput _ hv.llcPlace
  · split
    · exact (hput _ hv).ctlWritten
    · split
      · exact (hput _ (hv.memDemand.of_snd ‹_›)).ctlWritten
      · exact hv.memDemand.of_snd ‹_›
theorem State.Beside.devWrite {a bs m} (hs : s.Beside base) : (s.devWrite a bs m).Beside base := by
  fun_cases State.devWrite
  · exact hs.writePhys
  · exact hs
  · exact hs.noteWrite.foldl fun _ _ h1 => h1.devLine
theorem State.Beside.logPush {kind origin part coach piece arg0 arg1} (hs : s.Beside base) : (s.logPush kind origin part coach piece arg0 arg1).Beside base :=
  hs.frame
theorem State.Beside.logDrain (hs : s.Beside base) : s.logDrain.Beside base := by
  fun_cases State.logDrain
  · exact hs
  · exact hs.frame.devWrite
  · exact hs.frame.devWrite.frame
  · exact hs.frame.devWrite.frame.frame.logPush
theorem State.Beside.logRoom (hs : s.Beside base) : s.logRoom.Beside base := by
  fun_cases State.logRoom
  · exact .ite hs hs.logDrain
  · exact .logDrain (.ite hs hs.logDrain)
theorem State.Beside.logSignNow (hs : s.Beside base) : s.logSignNow.Beside base := by
  fun_cases State.logSignNow
  · exact hs
  · exact .msix (hs.foldl fun _ _ h1 => h1.logRoom.logPush)
theorem State.Beside.logSpan {n} (hs : s.Beside base) : (s.logSpan n).Beside base := by
  fun_cases State.logSpan
  · exact hs.logSignNow
  · exact hs
theorem State.Beside.log {kind origin part coach arg0 arg1} (hs : s.Beside base) : (s.log kind origin part coach arg0 arg1).Beside base :=
  hs.logRoom.logPush.logSpan

end Sys2Proof.Machine
end

section
/-! The commands of the Stable's mailbox (O52): how the words of a row reach it, and what each command answers. -/
namespace Sys2Proof.Machine

variable {s : State} {ws : List Word} {op : Nat}

theorem State.log_sbxCmd (kind origin part coach : Nat) (arg0 arg1 : Word) :
    (s.log kind origin part coach arg0 arg1).stable.sbxCmd = s.stable.sbxCmd :=
  s.beside_self.log.sbxCmd

theorem State.log_debugLevel (kind origin part coach : Nat) (arg0 arg1 : Word) :
    (s.log kind origin part coach arg0 arg1).stable.debugLevel = s.stable.debugLevel :=
  s.beside_self.log.debugLevel

theorem State.sbxCmdWrite_sbxCmd (i : Nat) (v : Word) : (s.sbxCmdWrite i v).stable.sbxCmd = tset 0 s.stable.sbxCmd i v :=
  congrArg (tset 0 · i v) (s.log_sbxCmd _ _ _ _ _ _)

theorem State.foldl_sbxCmdWrite_sbxCmd (f : Nat → Word) (l : List Nat) :
    (l.foldl (fun (s : State) i => s.sbxCmdWrite i (f i)) s).stable.sbxCmd = l.foldl (fun m i => tset 0 m i (f i)) s.stable.sbxCmd := by
  induction l generalizing s with
  | nil => rfl
  | cons i l ih => rw [List.foldl_cons, List.foldl_cons, ih, State.sbxCmdWrite_sbxCmd]

/-- A row's words written to the mailbox and SBX_GO, each logged (R509, R572). -/
def State.sbxPlaced (s : State) (op : Nat) (ws : List Word) : State :=
  ((span 0 8).foldl (fun (s : State) i => s.sbxCmdWrite i (if i = 0 then withOp op (mbWord ws 0) else mbWord ws i)) s).logWindow 0x600080 1

/-- The words that the Stable finds in its mailbox. -/
def State.sbxWords (s : State) : List Word := (span 0 8).map fun i => tget 0 s.stable.sbxCmd i

/-- The OP that the Stable finds is the row's. -/
theorem State.sbxPlaced_op (h0 : 0 < op) (h : op < 256) : mbField (s.sbxPlaced op ws).sbxWords 0 0 8 = op := by
  have hop := bfield_withOp h (mbWord ws 0)
  have hne : withOp op (mbWord ws 0) ≠ 0 := fun hz => by
    rw [hz] at hop
    exact absurd hop (Nat.ne_of_lt h0)
  have hrest := tget_foldl_tset_of_notMem (d := 0) (f := fun i => if i = 0 then withOp op (mbWord ws 0) else mbWord ws i)
    (l := span 1 7) (i := 0) (by decide) (tset 0 s.stable.sbxCmd 0 (withOp op (mbWord ws 0)))
  have hword : tget 0 (s.sbxPlaced op ws).stable.sbxCmd 0 = withOp op (mbWord ws 0) := by
    rw [State.sbxPlaced, State.logWindow, State.log_sbxCmd,
      State.foldl_sbxCmdWrite_sbxCmd fun i => if i = 0 then withOp op (mbWord ws 0) else mbWord ws i]
    exact hrest.trans (tget_tset_of_ne hne)
  have hfirst : mbWord (s.sbxPlaced op ws).sbxWords 0 = withOp op (mbWord ws 0) := hword
  rw [mbField, hfirst, hop]

theorem State.sbxAct_bad (h : sbBad ws = true) : s.sbxAct ws = (sbBadCmd, 0, s) := if_pos h

/-- A row of the mailbox: a set unused bit is answered BAD_CMD, else the command of its OP acts and is answered (R509, R510). -/
theorem exec_sbxRow {i : Instr} {good : State → Nat × Word × State} (hi : exec i s = s.gate fun s => .next (s.sbxCommand op ws))
    (ho : s.pcieOpen = true) (h0 : 0 < op) (h : op < 256)
    (hact : ∀ v : State, sbBad (s.sbxPlaced op ws).sbxWords = false → mbField (s.sbxPlaced op ws).sbxWords 0 0 8 = op →
      v.sbxAct (s.sbxPlaced op ws).sbxWords = good v) :
    let v := s.sbxPlaced op ws
    (sbBad v.sbxWords = true → exec i s = .next (v.sbxAnswer sbBadCmd 0)) ∧
    (sbBad v.sbxWords = false → exec i s = .next ((good v).2.2.sbxAnswer (good v).1 (good v).2.1)) := by
  have hgo : exec i s = .next (((s.sbxPlaced op ws).sbxAct (s.sbxPlaced op ws).sbxWords).2.2.sbxAnswer
      ((s.sbxPlaced op ws).sbxAct (s.sbxPlaced op ws).sbxWords).1 ((s.sbxPlaced op ws).sbxAct (s.sbxPlaced op ws).sbxWords).2.1) :=
    hi.trans (s.gate_open _ ho)
  refine ⟨fun hbad => ?_, fun hbad => ?_⟩
  · rw [hgo, State.sbxAct_bad hbad]
  · rw [hgo, hact _ hbad (State.sbxPlaced_op h0 h)]

theorem State.tokenAt_of_readable {a : Nat} (h : s.readable a 136 = true) : s.tokenAt a = some (s.devRead a 136) := if_pos h

theorem State.tokenAt_of_not_readable {a : Nat} (h : s.readable a 136 = false) : s.tokenAt a = none := by simp [State.tokenAt, h]

section
variable (hbad : sbBad ws = false)
include hbad

theorem State.sbxAct_import (hop : mbField ws 0 0 8 = 1) :
    s.sbxAct ws = if s.readable (mbWord ws 1).toNat 264 = false then (sbRange, 0, s)
      else match s.importCheck (s.devRead (mbWord ws 1).toNat 264) with
        | .inl e => (e, 0, s)
        | .inr (key, k) => (sbOk, BitVec.ofNat 64 k,
            (s.sbxLog ws (sliceNat (s.devRead (mbWord ws 1).toNat 264) 5 1) (BitVec.ofNat 64 k)).importDo (s.devRead (mbWord ws 1).toNat 264) key k) := by
  unfold State.sbxAct
  dsimp only
  rw [if_neg (ne_true_of_eq_false hbad), hop]
  cases s.readable (mbWord ws 1).toNat 264 <;> rfl

theorem State.sbxAct_destroy (hop : mbField ws 0 0 8 = 2) :
    s.sbxAct ws = if mbField ws 0 8 8 < 88 then (sbRange, 0, s) else (sbOk, 0, (s.sbxLog ws 0x3F 0).setStall (mbField ws 0 8 8) {}) := by
  unfold State.sbxAct
  dsimp only
  rw [if_neg (ne_true_of_eq_false hbad), hop]
  rfl

theorem State.sbxAct_partMode (hop : mbField ws 0 0 8 = 3) :
    s.sbxAct ws = if (s.partMode (mbField ws 0 8 5) (mbField ws 0 16 1 == 1)).1 = sbOk then
        (sbOk, 0, ((s.sbxLog ws (mbField ws 0 8 5) 0).partMode (mbField ws 0 8 5) (mbField ws 0 16 1 == 1)).2)
      else ((s.partMode (mbField ws 0 8 5) (mbField ws 0 16 1 == 1)).1, 0, s) := by
  unfold State.sbxAct
  dsimp only
  rw [if_neg (ne_true_of_eq_false hbad), hop]
  rfl

theorem State.sbxAct_ingest (hop : mbField ws 0 0 8 = 4) :
    let go := fun (t : State) => t.ingest (mbField ws 0 8 5) (mbField ws 0 16 8) (mbWord ws 1).toNat (mbWord ws 2).toNat
    s.sbxAct ws = if (go s).1 = sbOk then (sbOk, 0, (go (s.sbxLog ws (mbField ws 0 8 5) 0)).2) else ((go s).1, 0, (go s).2) := by
  unfold State.sbxAct
  dsimp only
  rw [if_neg (ne_true_of_eq_false hbad), hop]
  rfl

theorem State.sbxAct_egest (hop : mbField ws 0 0 8 = 5) :
    let label := bytesOf 8 (mbWord ws 4) ++ bytesOf 8 (mbWord ws 5) ++ bytesOf 8 (mbWord ws 6) ++ bytesOf 8 (mbWord ws 7)
    let go := fun (t : State) =>
      t.egest (mbField ws 0 8 5) (mbField ws 0 16 8) (mbWord ws 1).toNat (mbWord ws 2).toNat (mbWord ws 3).toNat label
    s.sbxAct ws = if (go s).1 = sbOk then go (s.sbxLog ws (mbField ws 0 8 5) (go s).2.1) else go s := by
  unfold State.sbxAct
  dsimp only
  rw [if_neg (ne_true_of_eq_false hbad), hop]
  rfl

theorem State.sbxAct_lcAdvance (hop : mbField ws 0 0 8 = 6) :
    let token := if (mbWord ws 1).toNat = 0 then none else s.tokenAt (mbWord ws 1).toNat
    s.sbxAct ws = if (mbWord ws 1).toNat ≠ 0 ∧ token = none then (sbRange, 0, s)
      else if s.lcCheck (mbField ws 0 8 3) token ≠ sbOk then (s.lcCheck (mbField ws 0 8 3) token, 0, s)
      else (sbOk, 0, s.lcAdvance oPcie (mbField ws 0 8 3)) := by
  intro token
  unfold State.sbxAct
  dsimp only
  rw [if_neg (ne_true_of_eq_false hbad), hop]
  simp only [Option.isNone_iff_eq_none]
  by_cases hcheck : s.lcCheck (mbField ws 0 8 3) token = sbOk
  · rw [if_pos hcheck, if_neg (not_not.mpr hcheck)]
  · rw [if_neg hcheck, if_pos hcheck]

theorem State.sbxAct_debugUnlock (hop : mbField ws 0 0 8 = 7) :
    s.sbxAct ws = if s.readable (mbWord ws 1).toNat 136 = false then (sbRange, 0, s)
      else if s.debugCheck (s.devRead (mbWord ws 1).toNat 136) = sbOk then
        (sbOk, 0, s.debugRaise oPcie (tokenLevel (s.devRead (mbWord ws 1).toNat 136)))
      else (s.debugCheck (s.devRead (mbWord ws 1).toNat 136), 0, s) := by
  unfold State.sbxAct
  dsimp only
  rw [if_neg (ne_true_of_eq_false hbad), hop]
  cases h : s.readable (mbWord ws 1).toNat 136
  · rw [State.tokenAt_of_not_readable h]
    rfl
  · rw [State.tokenAt_of_readable h]
    rfl

end

/-- A raised debug level (R512, R513): INVASIVE destroys the stalls, shuts device memory and closes every slot. -/
theorem State.debugRaise_raises {level : Nat} (hlevel : s.stable.debugLevel.toNat < level) (origin : Nat) :
    let l := s.log 0x15 origin 0x3F 63 (BitVec.ofNat 64 level) 0
    let v : State := { l with stable := { l.stable with
      wasObserve := l.stable.wasObserve || decide (level = 1), debugLevel := BitVec.ofNat 2 level } }
    s.debugRaise origin level = if level = 2 then
      (({ v with stable := { v.stable with stalls := [], noMem := true } } : State).closeAll).destroyStalls else v := by
  intro l v
  have hl : ¬ level ≤ l.stable.debugLevel.toNat := by
    rw [State.log_debugLevel]
    exact Nat.not_le.mpr hlevel
  exact if_neg hl

/-- A token over JTAG, on a module that takes one (R514, R526). -/
theorem exec_jtagToken_open {token : List Byte} (hdown : s.harness.down = false) (hheld : s.stable.held = false) (hlc : s.stable.lcState ≠ 5) :
    exec (.jtagToken token) s = if tokenLevel token = 1 ∨ tokenLevel token = 2 then
        .next (if s.debugCheck token = sbOk then s.debugRaise oDebug (tokenLevel token) else s)
      else .next (if tokenLevel token ≥ 0x10 && tokenShape token && s.lcCheck (tokenLevel token - 0x10) (some token) == sbOk then
        s.lcAdvance oDebug (tokenLevel token - 0x10) else s) := by
  have hgate : ¬ (s.harness.down || s.stable.held || s.stable.lcState == 5) = true := by simp [hdown, hheld, hlc]
  exact if_neg hgate

/-- Settles O52: each row of the mailbox by its OP (`exec_sbxRow`), the effect of a raised level, and the same checks over JTAG. -/
theorem stableMailboxCommandsAct : Obligations.StableMailboxCommandsAct := by
  unfold Obligations.StableMailboxCommandsAct
  refine ⟨fun s ws ho => ?_, fun s level hlevel _ origin => State.debugRaise_raises hlevel origin,
    fun s token hdown hheld hlc => ⟨fun hn => ?_, fun hn => ?_⟩⟩
  · intro u words w a row
    have hrow {op : Nat} {i : Instr} {good : State → Nat × Word × State} (hi : exec i s = s.gate fun s => .next (s.sbxCommand op ws))
        (h0 : 0 < op) (h : op < 256)
        (hact : ∀ v : State, sbBad (words op) = false → mbField (words op) 0 0 8 = op → v.sbxAct (words op) = good v) : row i op good :=
      exec_sbxRow hi ho h0 h hact
    clear_value row
    exact ⟨hrow (exec_stableImport s ws) (by decide) (by decide) fun _ => State.sbxAct_import,
      hrow (exec_destroy s ws) (by decide) (by decide) fun _ => State.sbxAct_destroy,
      hrow (exec_partMode s ws) (by decide) (by decide) fun _ => State.sbxAct_partMode,
      hrow (exec_ingest s ws) (by decide) (by decide) fun _ => State.sbxAct_ingest,
      hrow (exec_egest s ws) (by decide) (by decide) fun _ => State.sbxAct_egest,
      hrow (exec_lcAdvance s ws) (by decide) (by decide) fun _ => State.sbxAct_lcAdvance,
      hrow (exec_debugUnlock s ws) (by decide) (by decide) fun _ => State.sbxAct_debugUnlock⟩
  · rw [exec_jtagToken_open hdown hheld hlc, if_pos hn]
  · have hlevel : ¬ (tokenLevel token = 1 ∨ tokenLevel token = 2) := by omega
    rw [exec_jtagToken_open hdown hheld hlc, if_neg hlevel, decide_eq_true hn, Bool.true_and]

end Sys2Proof.Machine
end

section
/-! Power (O54): what the meter, a contract message, the minute and the control interval do. -/
namespace Sys2Proof.Machine

variable {s : State}

/-- A sample adds its energy, and one that takes the input above the budget by more than 2% slows the cells (R530, R538). -/
theorem execMeterSample_eq (mV mA : Nat) :
    let x := s.power
    let e := if x.inputLimit then min (mV * mA) 4400000000 else mV * mA
    let u : State := { s with power := { x with now := x.now + e, energy := x.energy + e, samples := x.samples + 1, inputMv := mV } }
    execMeterSample mV mA s = .next (if x.history ≠ [] ∧ x.budgetMw * 102 * ((x.samples + 1) * 1000) < (x.now + e) * 100 then
      ({ u with power := { u.power with inputLimit := true } } : State).clockRest fun p => max 1000 ((s.cell p).freq.toNat - 100) else u) := by
  intro x e u
  have hcond : (!x.history.isEmpty && decide ((x.now + e) * 100 > x.budgetMw * 102 * ((x.samples + 1) * 1000))) = true ↔
      x.history ≠ [] ∧ x.budgetMw * 102 * ((x.samples + 1) * 1000) < (x.now + e) * 100 := by simp
  have hite := apply_ite (Host.Outcome.next (σ := State) (φ := Fault) (ρ := Refusal))
  refine Eq.trans ?_ (hite _ _ _).symm
  exact if_congr hcond rfl rfl

theorem execMeterCheck_sound {a b : Nat} (hf : s.power.meterFault = false) (h : (max a b - min a b) * 100 ≤ 3 * a) :
    execMeterCheck a b s = .next { s with power := { s.power with checkedAt := s.tick + 1 } } := by
  have hd : ¬ (max a b - min a b) * 100 > 3 * a := Nat.not_lt.mpr h
  simp [execMeterCheck, hf, hd]

theorem execMeterCheck_faults {a b : Nat} (hf : s.power.meterFault = false) (h : 3 * a < (max a b - min a b) * 100) :
    execMeterCheck a b s = .next ({ s with power := { s.power with checkedAt := s.tick + 1, meterFault := true, meterGood := 0, sound := false } } :
      State).meterHold := by
  have hd : (max a b - min a b) * 100 > 3 * a := h
  simp [execMeterCheck, hf, hd]

theorem State.contract_open (f : State → State) (h : s.pcieOpen = true) : s.contract f = .next (f s) := if_pos h

theorem State.pwrStrictWrite_inRange {q : Nat} {v : Word} (hlo : 1000 ≤ bfield v 0 12) (hhi : bfield v 0 12 ≤ 2800)
    (hstep : bfield v 0 12 % 25 = 0) :
    let set := fun (t : State) => { t with power := { t.power with strictMhz := tset 1000 t.power.strictMhz q (bfield v 0 12) } }
    s.pwrStrictWrite q v = if State.floorBroken s (set s) then { s with power := { s.power with strictRefused := true } }
      else set (s.logWindow (0x500100 + 8 * q) v) := by
  have hrange : ¬ (bfield v 0 12 < 1000 ∨ bfield v 0 12 > 2800 ∨ bfield v 0 12 % 25 ≠ 0) := by omega
  exact if_neg hrange

/-- Settles O54: the gates stand open under each clause's hypotheses, and what is left of the command is the clause. -/
theorem powerIsMeteredAndContracted : Obligations.PowerIsMeteredAndContracted := by
  unfold Obligations.PowerIsMeteredAndContracted
  refine ⟨fun s mV mA => execMeterSample_eq mV mA, fun s a b hf => ⟨fun h => execMeterCheck_sound hf h, fun h => execMeterCheck_faults hf h⟩,
    fun s inst body ho => ⟨?_, fun hc => ?_, fun hc => ?_, fun hc => ?_, fun hc => ?_, fun key hkey hlen hlo hhi hz => ?_⟩,
    fun s hm => if_neg (Nat.not_le.mpr hm), fun s r => rfl, fun s p edges hu hf => ?_, fun s i ms t hp => ⟨fun ht hms => if_pos ⟨ht, hms, hp⟩, fun h => ?_⟩,
    fun s q v ho hlo hhi hstep => ⟨fun hb => ?_, fun hb => ?_⟩⟩
  · rw [exec_getStatus, execGetStatus, State.contract_open _ ho]
    rfl
  · rw [exec_setContract, execSetContract, State.contract_open _ ho]
    exact congrArg _ (if_pos hc)
  · rw [exec_setContract, execSetContract, State.contract_open _ ho]
    exact congrArg _ (if_neg (not_not.mpr hc))
  · rw [exec_setCooling, execSetCooling, State.contract_open _ ho]
    exact congrArg _ (if_pos hc)
  · rw [exec_setCooling, execSetCooling, State.contract_open _ ho]
    exact congrArg _ (if_neg (not_not.mpr hc))
  · have hbody : ¬ (body.length ≠ 48 ∨ sliceNat body 8 1 = 0 ∨ sliceNat body 8 1 > 16 ∨ sliceNat body 9 7 ≠ 0) := by omega
    rw [exec_getReport, execGetReport, State.contract_open _ ho]
    simp only [if_neg hbody, hkey, Option.isSome_some, if_true]
  · rw [exec_droop, execDroop, s.onClock_run p _ hu]
    exact if_neg (Nat.not_le.mpr hf)
  · refine if_neg ?_
    rintro ⟨ht, hms, -⟩
    omega
  · rw [exec_pwrStrictWrite, execPwrStrictWrite, s.gate_open _ ho, State.pwrStrictWrite_inRange hlo hhi hstep, if_pos hb]
  · rw [exec_pwrStrictWrite, execPwrStrictWrite, s.gate_open _ ho, State.pwrStrictWrite_inRange hlo hhi hstep, hb]
    rfl

end Sys2Proof.Machine
end

section
/-! Ports, timers and the fabric manager's commands (O50). -/
namespace Sys2Proof.Machine

variable {s : State}

/-! Links: a port that comes up or falls, and credits given back. -/

/-- No coach waits for its link shares: none of its slots does. -/
theorem State.linkPending_isEmpty (h : (s.coaches.all fun e => e.2.linkPending.isEmpty) = true) (n : Nat) :
    (s.coach n).linkPending.isEmpty = true := by
  have hget : s.coach n = {} ∨ ∃ e ∈ s.coaches, e.2 = s.coach n := by
    unfold State.coach
    generalize s.coaches = m
    induction m with
    | nil => exact .inl rfl
    | cons e m ih =>
      obtain ⟨k, c⟩ := e
      by_cases hk : k = n
      · exact .inr ⟨(k, c), List.mem_cons_self .., by simp [tget, hk]⟩
      · have htail : tget {} ((k, c) :: m) n = tget {} m n := by simp [tget, hk]
        rw [htail]
        exact ih.imp_right fun ⟨e, he, heq⟩ => ⟨e, List.mem_cons_of_mem _ he, heq⟩
  rcases hget with hget | ⟨e, he, heq⟩
  · rw [hget]
    rfl
  · exact heq ▸ List.all_eq_true.mp h e he

/-- Then a change of the links settles none of them. -/
theorem State.foldl_linkSettle (h : (s.coaches.all fun e => e.2.linkPending.isEmpty) = true) (l : List Nat) :
    l.foldl (fun (s : State) n => if (s.coach n).linkPending.isEmpty then s else s.linkSettle n) s = s := by
  induction l with
  | nil => rfl
  | cons n l ih => rw [List.foldl_cons, if_pos (State.linkPending_isEmpty h n), ih]

theorem execPortUp_announces {k : PortIx} (hd : (s.jport k).disabled = false) (hf : s.harness.refFab = true) (hr : s.harness.ready = true)
    (ha : s.stable.aliasKey.isSome = true) :
    let u := s.setJport k { s.jport k with lanes := 0xFF, credits := true, left := [], held := [] }
    execPortUp k s = .next (u.sendMgmt k (u.signed 0x32 0 0 (bytesOf 32 s.stable.bootNonce
      ++ natBytes 32 (match s.jbn.moduleId with | some m => m.toNat | none => 2 ^ 256 - 1)
      ++ (bytesOf 64 (Config.sha512 (bytesOf 32 s.stable.identityPub))).take 32))) := by
  intro u
  have hopen : ¬ ((s.jport k).disabled || !s.harness.refFab || !s.harness.ready) = true := by simp [hd, hf, hr]
  have halias : ¬ s.stable.aliasKey.isNone = true := by simp [Option.isSome_iff_ne_none.mp ha]
  exact (if_neg hopen).trans (if_neg halias)

theorem State.portFalls_settled (h : (s.coaches.all fun e => e.2.linkPending.isEmpty) = true) (k : Nat) (lanes : BitVec 8) :
    s.portFalls k lanes = s.setJport k { s.jport k with lanes, credits := false, left := [], held := [] } :=
  State.foldl_linkSettle (s := s.setJport k _) h _

theorem execLinkCreditBlock_settled {k : PortIx} {cls : BitVec 2} {c : Nat} (hup : (s.jport k).up = true)
    (h : (s.coaches.all fun e => e.2.linkPending.isEmpty) = true) :
    execLinkCreditBlock k cls c s = .next ((s.setJport k { s.jport k with
      left := tset 0 (s.jport k).left cls.toNat (tget 0 (s.jport k).left cls.toNat + c)
      held := giveBackCredits cls.toNat c (s.jport k).held }).portPump k) := by
  have hopen : ¬ ((s.jport k).lanes != 0xFF || !(s.jport k).credits || (s.jport k).disabled) = true := by
    simp only [JbnPort.up, Bool.and_eq_true, beq_iff_eq, Bool.not_eq_true'] at hup
    simp [hup]
  refine (if_neg hopen).trans ?_
  exact congrArg (fun t : State => Host.Outcome.next (t.portPump k)) (State.foldl_linkSettle (s := s.setJport k _) h _)

/-! Timers, on a running module. -/

section
variable (hm : s.dbg.module = false)
include hm

theorem execEpochNoteResend_due {n : Slot} {t : Nat} (ht : tget 0 s.jbn.noteAt n = t + 1) (hd : t + 100 ≤ s.tick) :
    execEpochNoteResend n s = .next (({ s with jbn := { s.jbn with noteAt := tset 0 s.jbn.noteAt n 0 } } : State).sendNotes n) := by
  have hdue : ¬ (tget 0 s.jbn.noteAt n = 0 ∨ s.tick < tget 0 s.jbn.noteAt n - 1 + 100) := by
    rw [ht]
    omega
  rw [execEpochNoteResend, s.onModule_run _ hm]
  exact if_neg hdue

theorem execHandoverLost_due {n : Slot} {tag : BitVec 16} {h : Nat × BitVec 16 × BitVec 17 × Nat}
    (hf : (s.jbn.handovers.find? fun h => h.1 == n.val && h.2.1 == tag) = some h) (hd : h.2.2.2 + (s.coach n).jbnUs * 100 ≤ s.tick) :
    execHandoverLost n tag s = .next { s with jbn := { s.jbn with
      handovers := dropFirst h s.jbn.handovers, handoverLost := .ofNat 16 (satInc 16 s.jbn.handoverLost.toNat) } } := by
  rw [execHandoverLost, s.onModule_run _ hm]
  dsimp only
  rw [hf]
  exact if_neg (Nat.not_lt.mpr hd)

theorem execStreamPacketSend_sends {east : Bool} {n : Slot} {stream : Nat} {epoch : BitVec 32} {m : BitVec 17}
    (hlo : 1 ≤ stream) (hhi : stream ≤ 61) (hid : s.jbn.moduleId ≠ none)
    (hq : tget [] s.stage.inQ (streamKey (fabEp east) n stream) ≠ []) (hv : (s.streamEntry n stream).1 = true)
    (hport : (s.streamEntry n stream).2.1 ≤ 8) (heast : portEast (s.streamEntry n stream).2.1 = east)
    (hmem : s.memberOf n (s.streamEntry n stream).2.2.2 = some (epoch, m)) :
    let q := tget [] s.stage.inQ (streamKey (fabEp east) n stream)
    let e := s.streamEntry n stream
    let u : State := { s with stage := { s.stage with inQ := tset [] s.stage.inQ (streamKey (fabEp east) n stream) (q.drop 128) } }
    execStreamPacketSend east n stream s = .next (u.sendPacket e.2.1 n n
      { type := 0x04, dst := m, src := 0, cls := 0, stream := BitVec.ofNat 6 e.2.2.1, epoch, length := BitVec.ofNat 16 (q.take 128).length
        addr := BitVec.ofNat 64 e.2.2.2.toNat, payload := (q.take 128).flatMap (bytesOf 32), auth := none }) := by
  intro q e u
  have hopen : ¬ ((tget [] s.stage.inQ (streamKey (fabEp east) n stream)).isEmpty || s.jbn.moduleId.isNone || decide (stream = 0) ||
      decide (stream > 61)) = true := by
    have h0 : stream ≠ 0 := by omega
    simp [hq, hid, h0, hhi]
  have hentry : ¬ (!(s.streamEntry n stream).1 || decide ((s.streamEntry n stream).2.1 > 8) ||
      portEast (s.streamEntry n stream).2.1 != east) = true := by simp [hv, hport, heast]
  rw [execStreamPacketSend, s.onModule_run _ hm]
  refine (if_neg hopen).trans ((if_neg hentry).trans ?_)
  rw [hmem]

theorem execRequestTimeout_retries {tag : BitVec 16} {r : JbnReq} (hf : (s.jbn.reqs.find? fun r => r.tag == tag && r.answer.isNone) = some r)
    (hd : r.issued + bfield s.jbn.ctrl 0 14 * 100 ≤ s.tick) (hop : r.op ≠ 4) (ha : r.attempt < bfield s.jbn.ctrl 16 3) :
    let u := s.recallTag r.slot tag
    let r' := { r with attempt := r.attempt + 1, issued := s.tick }
    execRequestTimeout tag s = .next (({ u with jbn := { u.jbn with
      reqs := u.jbn.reqs.map (fun (y : JbnReq) => if y = r then r' else y)
      reissues := .ofNat 16 (satInc 16 u.jbn.reissues.toNat) } } : State).fabIssue r') := by
  intro u r'
  rw [execRequestTimeout, s.onModule_run _ hm]
  dsimp only
  rw [hf]
  exact (if_neg (Nat.not_lt.mpr hd)).trans (if_pos ⟨hop, ha⟩)

theorem execRequestTimeout_gives_up {tag : BitVec 16} {r : JbnReq} (hf : (s.jbn.reqs.find? fun r => r.tag == tag && r.answer.isNone) = some r)
    (hd : r.issued + bfield s.jbn.ctrl 0 14 * 100 ≤ s.tick) (hlast : r.op = 4 ∨ bfield s.jbn.ctrl 16 3 ≤ r.attempt) :
    let u := s.recallTag r.slot tag
    execRequestTimeout tag s = .next (({ u with jbn := { u.jbn with
      timeouts := .ofNat 16 (satInc 16 u.jbn.timeouts.toNat) } } : State).fabAnswer r (r.flits srTimeout [])) := by
  intro u
  have hretry : ¬ (r.op ≠ 4 ∧ r.attempt < bfield s.jbn.ctrl 16 3) := by omega
  rw [execRequestTimeout, s.onModule_run _ hm]
  dsimp only
  rw [hf]
  exact (if_neg (Nat.not_lt.mpr hd)).trans (if_neg hretry)

theorem execFmResp_sends {k : PortIx} {e : Nat × Packet} (hf : (s.jbn.fmResp.find? fun e => e.1 == k.val) = some e) :
    execFmResp k s = .next (({ s with jbn := { s.jbn with fmResp := dropFirst e s.jbn.fmResp } } : State).sendMgmt k e.2) := by
  rw [execFmResp, s.onModule_run _ hm]
  dsimp only
  rw [hf]

end

/-! The fabric manager's commands (R445): which commands are accepted, what stands in the log, and the answer. -/

/-- A management packet as a command of the op takes it. -/
def fmTyped (pkt : Packet) (op : Nat) : Packet := { pkt with payload := pkt.payload.take 16 ++ [BitVec.ofNat 8 op] ++ pkt.payload.drop 17 }

/-- The module once a packet has been taken at port k: its credits go back and its bytes are counted. -/
def State.fmTaken (s : State) (k : Nat) (p : Packet) : State :=
  ((s.emit (.linkCredits k 3 (Packet.credits p))).countGlobal (513 + 4 * k) p.payload.length).countGlobal (515 + 4 * k) 1

/-- A command that has been accepted for slot n (63: for none) takes its place in the order: SEQ_FM. -/
def State.fmSeen (s : State) (k : Nat) (p : Packet) : State :=
  { s.fmTaken k p with jbn := { (s.fmTaken k p).jbn with seqFm := fmSeq p } }

/-- Then it is logged. -/
def State.fmLogged (s : State) (k : Nat) (p : Packet) (op n : Nat) : State :=
  (s.fmSeen k p).log 0x17 oFabric (if n = 63 then 0x3F else (s.fmSeen k p).partOf n) n (fmSeq p) (BitVec.ofNat 64 (op + (fmCoach p).toNat * 2 ^ 32))

/-- What an accepted command comes to, with the slot of the coach that it names. -/
def State.fmPerform (v : State) (k : Nat) (p : Packet) (op : Nat) (needsCoach : Bool) (slot : Option Nat) (act : State → Nat → Option State) : State :=
  let n := if needsCoach then slot.getD 63 else 63
  let part := if needsCoach && slot.isSome then v.partOf n else 0x3F
  let l := v.log 0x17 oFabric part n (fmSeq p) (BitVec.ofNat 64 (op + (fmCoach p).toNat * 2 ^ 32))
  if needsCoach && slot.isNone then l.fmAnswer k p 5
  else match act l n with
    | some t => t.fmAnswer k p 0
    | none => l.fmAnswer k p 4

/-- SET_ID's check of the module's ID reads the same before and after the log entry. -/
theorem State.fmLogged_moduleId (s : State) (k : Nat) (p : Packet) (op n : Nat) : (s.fmLogged k p op n).jbn.moduleId = s.jbn.moduleId :=
  (State.beside_self (s.fmSeen k p)).log.moduleId

section
variable {k : Nat} {pkt : Packet} {op n : Nat} {needsCoach : Bool} {act : State → Nat → Option State}
variable (hup : (s.jport k).up = true) (hm : s.dbg.module = false) (hid : pkt.isLocal = true ∨ s.jbn.moduleId = some pkt.dst)
variable (hacc : (s.fmTaken k (fmTyped pkt op)).fmAccepts (fmTyped pkt op) = true)
include hup hm hid hacc

theorem State.fmArrive_accepted :
    s.fmArrive k pkt op needsCoach act = (s.fmSeen k (fmTyped pkt op)).fmPerform k (fmTyped pkt op) op needsCoach
      ((s.fmSeen k (fmTyped pkt op)).slotOf (fmCoach (fmTyped pkt op))) act := by
  have hdown : ¬ (!(s.jport k).up) = true := by simp [hup]
  have hmod : ¬ (s.fmTaken k (fmTyped pkt op)).dbg.module = true := ne_true_of_eq_false hm
  have hroute : ¬ (!pkt.isLocal && s.jbn.moduleId != some pkt.dst) = true := by
    rcases hid with h | h <;> simp [h]
  have hauth : ¬ (!(s.fmTaken k (fmTyped pkt op)).fmAccepts (fmTyped pkt op)) = true := by simp [hacc]
  exact (if_neg hdown).trans ((if_neg hmod).trans ((if_neg hroute).trans (if_neg hauth)))

/-- An accepted command that is carried out where good holds: it is logged, acts, and is answered OK or BAD. -/
theorem State.fmArrive_answered {good : Bool} {f : State → State}
    (hslot : if needsCoach then n < 48 ∧ (s.fmSeen k (fmTyped pkt op)).slotOf (fmCoach (fmTyped pkt op)) = some n else n = 63)
    (hact : act (s.fmLogged k (fmTyped pkt op) op n) n = if good then some (f (s.fmLogged k (fmTyped pkt op) op n)) else none) :
    s.fmArrive k pkt op needsCoach act = if good then (f (s.fmLogged k (fmTyped pkt op) op n)).fmAnswer k (fmTyped pkt op) 0
      else (s.fmLogged k (fmTyped pkt op) op n).fmAnswer k (fmTyped pkt op) 4 := by
  have hperform : (s.fmSeen k (fmTyped pkt op)).fmPerform k (fmTyped pkt op) op needsCoach
      ((s.fmSeen k (fmTyped pkt op)).slotOf (fmCoach (fmTyped pkt op))) act = match act (s.fmLogged k (fmTyped pkt op) op n) n with
        | some t => t.fmAnswer k (fmTyped pkt op) 0
        | none => (s.fmLogged k (fmTyped pkt op) op n).fmAnswer k (fmTyped pkt op) 4 := by
    cases needsCoach with
    | false =>
      obtain rfl : n = 63 := hslot
      rfl
    | true =>
      obtain ⟨hn, hslot⟩ := hslot
      have h63 : n ≠ 63 := by omega
      rw [hslot, State.fmLogged, if_neg h63]
      rfl
  rw [State.fmArrive_accepted hup hm hid hacc, hperform, hact]
  cases good <;> rfl

end

/-! The checks of each command's body, and its effect. -/

theorem ite_of_iff_not {α : Type} {c : Prop} [Decidable c] {good : Bool} (h : c ↔ good = false) (a b : α) :
    (if c then a else b) = if good then b else a := by
  cases good with
  | false => exact if_pos (h.mpr rfl)
  | true => exact if_neg fun hc => Bool.noConfusion (h.mp hc)

theorem all_beq_eq_false {l : List Nat} {f : Nat → Nat} : (l.all fun j => f j == 0) = false ↔ (l.any fun j => f j != 0) = true := by
  simp

/-- Settles O50: ports and timers by their own checks, and each management command by `State.fmArrive_answered`, whose check of the body is
that of the statement turned round. -/
theorem portsTimersAndFabricManagement : Obligations.PortsTimersAndFabricManagement := by
  unfold Obligations.PortsTimersAndFabricManagement
  intro s k pkt x
  refine ⟨fun id dg hd hf hr ha hid hdg => ?_, fun lanes h => congrArg Host.Outcome.next (State.portFalls_settled h k lanes),
    fun cls c hup h => execLinkCreditBlock_settled hup h, fun hm => ⟨fun n t ht hd => execEpochNoteResend_due hm ht hd,
      fun n tag h hf hd => execHandoverLost_due hm hf hd, ?_, ?_, fun e hf => execFmResp_sends hm hf, ?_⟩⟩
  · rw [hid, hdg]
    exact execPortUp_announces hd hf hr ha
  · intro east n stream port epoch m hlo hhi hid hport heast q e hq hv he hmem u
    obtain rfl := he
    exact execStreamPacketSend_sends hm hlo hhi hid hq hv hport heast hmem
  · exact fun tag r hf hd => ⟨fun hop ha => execRequestTimeout_retries hm hf hd hop ha, fun hlast => execRequestTimeout_gives_up hm hf hd hlast⟩
  · intro hup p u cmd
    have hcmd {i : Instr} {op n : Nat} {good needsCoach : Bool} {f : State → State} {act : State → Nat → Option State}
        (hi : exec i s = .next (s.fmArrive k pkt op needsCoach act)) (hn : if needsCoach then n < 48 else n = 63)
        (hact : act (s.fmLogged k (fmTyped pkt op) op n) n = if good then some (f (s.fmLogged k (fmTyped pkt op) op n)) else none) :
        cmd i op n good f := by
      intro hid hacc v l hslot
      refine hi.trans (congrArg Host.Outcome.next (State.fmArrive_answered hup hm hid hacc ?_ hact))
      cases needsCoach with
      | false => exact hn
      | true =>
        have hn48 : n < 48 := hn
        have h63 : n ≠ 63 := Nat.ne_of_lt (Nat.lt_trans hn48 (by decide))
        exact ⟨hn48, hslot.resolve_left h63⟩
    clear_value cmd
    refine ⟨hcmd (exec_setId s k pkt) rfl ?_, fun n hn => ⟨hcmd (exec_routeHdr s k pkt) hn (ite_of_iff_not ?_ _ _),
      ⟨hcmd (exec_memberWrite s k pkt) hn (ite_of_iff_not ?_ _ _), hcmd (exec_streamWrite s k pkt) hn (ite_of_iff_not ?_ _ _)⟩,
      hcmd (exec_remoteWrite s k pkt) hn (ite_of_iff_not ?_ _ _), hcmd (exec_rehome s k pkt) hn (ite_of_iff_not ?_ _ _)⟩,
      hcmd (exec_port s k pkt) rfl ?_⟩
    · have hid := State.fmLogged_moduleId s k (fmTyped pkt 1) 1 63
      refine ite_of_iff_not ?_ _ _
      rw [hid]
      cases s.jbn.moduleId with
      | none =>
        simp only [Option.isSome_none, Option.isNone_none, Bool.false_or, Bool.true_and, Bool.or_eq_true, decide_eq_true_eq, decide_eq_false_iff_not]
        omega
      | some m => simp
    · rw [decide_eq_false_iff_not]
      omega
    · rw [Bool.and_eq_false_iff, all_beq_eq_false, decide_eq_false_iff_not]
      simp only [not_and_or, Nat.not_le, Nat.lt_one_iff, gt_iff_lt, or_assoc]
    · rw [Bool.and_eq_false_iff, all_beq_eq_false, decide_eq_false_iff_not]
      simp only [not_and_or, Nat.not_le, Nat.lt_one_iff, gt_iff_lt, or_assoc]
    · simp only [List.all_cons, List.all_nil, Bool.and_eq_false_iff, Bool.or_eq_true, decide_eq_false_iff_not, beq_eq_false_iff_ne, bne_iff_ne,
        Classical.not_imp, not_and_or, Nat.not_le, gt_iff_lt, or_assoc, ne_eq, Bool.and_true]
    · simp only [decide_eq_false_iff_not, not_and_or, Nat.not_le, Nat.not_lt, gt_iff_lt, ge_iff_le, ne_eq]
    · have hbody : (fmBody pkt 0 8 > 8 ∨ fmBody pkt 8 8 > 1 ∨ fmBodyLen pkt < 16) ↔
          decide (fmBody pkt 0 8 ≤ 8 ∧ fmBody pkt 8 8 ≤ 1 ∧ 16 ≤ fmBodyLen pkt) = false := by
        simp only [decide_eq_false_iff_not, not_and_or, Nat.not_le, gt_iff_lt]
      refine Eq.trans ?_ (ite_of_iff_not hbody _ _)
      dsimp only
      rw [apply_ite some]

end Sys2Proof.Machine
end

section
/-! The packets of a coach (O49). -/
namespace Sys2Proof.Machine

variable {s : State} {k n : Nat} {p : Packet}

theorem Packet.ofType_payload (p : Packet) (t : Nat) : (Packet.ofType p t).payload = p.payload := by
  unfold Packet.ofType
  split <;> rfl

/-- The module once a packet has been taken at port k: its credits go back and its bytes are counted (R427). -/
def State.jbnTaken (s : State) (k : Nat) (p : Packet) : State :=
  ((s.emit (.linkCredits k p.cls.toNat (Packet.credits p))).countGlobal (513 + 4 * k) p.payload.length).countGlobal (515 + 4 * k) 1

section
variable {act : State → Nat → State} (hup : (s.jport k).up = true) (hm : s.dbg.module = false)
include hup hm

theorem State.jbnArrive_taken : s.jbnArrive k p act = match (s.jbnTaken k p).jbnAccept k p with
    | .inl t => t
    | .inr n => act ((s.jbnTaken k p).countCoach n 10 p.payload.length) n := by
  have hdown : ¬ (!(s.jport k).up) = true := by simp [hup]
  have hmod : ¬ (s.jbnTaken k p).dbg.module = true := ne_true_of_eq_false hm
  exact (if_neg hdown).trans (if_neg hmod)

/-- A packet that passes the acceptance checks acts on the coach's slot. -/
theorem State.jbnArrive_accepted (h : (s.jbnTaken k p).jbnAccept k p = .inr n) :
    s.jbnArrive k p act = act ((s.jbnTaken k p).countCoach n 10 p.payload.length) n := by
  rw [State.jbnArrive_taken hup hm, h]

/-- One that fails one is dropped. -/
theorem State.jbnArrive_dropped {d : State} (h : (s.jbnTaken k p).jbnAccept k p = .inl d) : s.jbnArrive k p act = d := by
  rw [State.jbnArrive_taken hup hm, h]

end

/-- A request's effect, with its checks of the format as one (R434, R440). -/
theorem State.jbnRequest_eq (s : State) (k n : Nat) (p : Packet) :
    s.jbnRequest k n p = match s.rehomedTo n p.addr.toNat with
      | some r => if s.tick < r.until_ then s.handOver k n p r else s.dropMisrouted
      | none =>
        if Packet.badRequest p || (p.type == 3 && amoBad (ofBytes 192 (p.payload.take 24))) then s.respond k n p srBad []
        else (s.setJport k { s.jport k with ingress := (s.jport k).ingress ++ [(n, p)] }).ncOpen anyHome
          { id := 0, src := .fabric k n p, who := s.partOf n, alloc := false, key := 0, charge := mJbn, addr := p.addr.toNat
            lines := if p.type.toNat = 3 then 1 else (p.length.toNat + 1) / 2 } (Packet.op p) := by
  unfold State.jbnRequest
  cases s.rehomedTo n p.addr.toNat with
  | some r => rfl
  | none => cases Packet.badRequest p <;> rfl

/-- The answer of the one request whose lines have all been performed (R434). -/
theorem State.ncAnswer_fabric {q : NcReq} (hq : s.nonCaching = [q]) (hl : q.left = []) (hsrc : q.src = .fabric k n p) :
    let w : State := { s with nonCaching := [] }
    let line := fun (i : Nat) => match q.got.find? fun e => e.1 == q.addr / 64 + i with
      | some e => bytesOf 64 e.2
      | none => natBytes 64 0
    s.ncAnswer = (w.setJport k { w.jport k with ingress := dropFirst (n, p) (w.jport k).ingress }).respond k n p q.status
      (if p.type.toNat = 1 then ((span 0 q.lines).flatMap line).take (32 * p.length.toNat) else if p.type.toNat = 2 then []
       else bytesOf 8 q.old ++ natBytes 24 0) := by
  intro w line
  have hanswer : s.ncAnswer = w.ncReply q := by simp [State.ncAnswer, hq, hl, w]
  rw [hanswer, State.ncReply, hsrc]
  dsimp only
  split
  · next h => rw [if_pos h] <;> rfl
  · next h => rw [if_neg (by rw [h]; decide), if_pos h]
  · next h1 h2 => rw [if_neg h1, if_neg h2]

/-- A STREAM's effect (R437; log 45). -/
theorem State.jbnStream_eq (s : State) (k n : Nat) (p : Packet) :
    let l := bfield p.addr 0 27
    let key := streamKey (fabEp (portEast k)) n p.stream.toNat
    let f := flitsOf 128 p.payload
    s.jbnStream k n p = if l < (s.coach n).base.toNat ∨ (s.coach n).base.toNat + (s.coach n).localCells ≤ l ∨ p.stream.toNat = 0 ∨ 61 < p.stream.toNat then
        s.dropMisrouted
      else match (if p.epoch = s.epochOf n then none else s.movedFrom n l) with
        | some src => f.foldl (fun (w : State) x => w.accept src n 63 {
            payload := x, tt := false, stream := p.stream, epoch := BitVec.ofNat 16 p.epoch.toNat, coach := BitVec.ofNat 6 n
            src := fabEp (portEast k) }) s
        | none =>
          let w : State := if f = [] then s else { s with jbn := { s.jbn with
            arriving := s.jbn.arriving ++ [{ port := k, key, left := f.length, bytes := 64 + p.payload.length }] } }
          w.pushReply (fabEp (portEast k)) n p.stream.toNat f := by
  intro l key f
  unfold State.jbnStream
  simp only [beq_iff_eq, List.isEmpty_iff]
  rfl

/-- Settles O49: every row is `State.jbnArrive` with the packet's type put in place, and acts as the lemmas above say. -/
theorem packetsOfACoachTakeEffect : Obligations.PacketsOfACoachTakeEffect := by
  unfold Obligations.PacketsOfACoachTakeEffect
  intro s k pkt hup hm typed u takes answered request
  have htakes {i : Instr} {t : Nat} {act : State → Nat → Packet → State} {arm : State → Nat → State}
      (hi : exec i s = .next (s.jbnArrive k (typed t) arm)) (harm : ∀ v n, arm v n = act v n (typed t)) : takes i t act := by
    refine ⟨fun n h => ?_, fun d h => ?_⟩
    · rw [hi, State.jbnArrive_accepted hup hm h, harm, Packet.ofType_payload]
      rfl
    · rw [hi, State.jbnArrive_dropped hup hm h]
  have hrequest (v : State) (n : Nat) (p : Packet) : v.jbnRequest k n p = request v n p := State.jbnRequest_eq v k n p
  clear_value takes request
  exact ⟨htakes (exec_jbnRead s k pkt) fun v n => hrequest v n _, htakes (exec_jbnWrite s k pkt) fun v n => hrequest v n _,
    htakes (exec_jbnAtomic s k pkt) fun v n => hrequest v n _, fun v q n p hq hl hsrc => State.ncAnswer_fabric hq hl hsrc,
    htakes (exec_stream s k pkt) fun v n => State.jbnStream_eq v k n _, htakes (exec_readResp s k pkt) fun _ _ => rfl,
    htakes (exec_writeResp s k pkt) fun _ _ => rfl, htakes (exec_atomicResp s k pkt) fun _ _ => rfl,
    htakes (exec_epochNote s k pkt) fun _ _ => rfl, htakes (exec_handover s k pkt) fun v n => hrequest _ n _,
    htakes (exec_handoverAck s k pkt) fun _ _ => rfl⟩

end Sys2Proof.Machine
end

section
/-! Errors, faults and resets (O51). -/
namespace Sys2Proof.Machine

variable {s : State}

/-! A fault and the step against which it is recorded (R465, R466). -/

section
variable {r : FaultReport} {k : Nat} {st : StepRec}

theorem State.faultArrives_held (hk : (if isCellEp r.unit = true then (s.cell r.unit).heldBy else none) = some k) (hst : (s.ctx k).step = some st) :
    let v := s.recordFault r (some k) st.num
    s.faultArrives r = if (s.ctx k).doomed = none then v.setCtx k { v.ctx k with doomed := some r.code } else v := by
  intro v
  unfold State.faultArrives
  rw [hk]
  simp only [hst, Option.isNone_iff_eq_none]
  rfl

variable (hheld : (if isCellEp r.unit = true then (s.cell r.unit).heldBy else none) = none)
include hheld

theorem State.faultArrives_inherits (hi : (isCellEp r.unit && s.isInheritCell r.unit) = true) : s.faultArrives r = s.recordFault r none 0 := by
  unfold State.faultArrives
  rw [hheld]
  exact if_pos hi

variable (hi : (isCellEp r.unit && s.isInheritCell r.unit) = false)
include hi

theorem State.faultArrives_running (hlate : (s.lateFault r && (s.slotSched r.slot.toNat).torn.isSome) = false)
    (hrun : (s.slotSched r.slot.toNat).running = some k) (hst : (s.ctx k).step = some st) :
    let x := s.slotSched r.slot.toNat
    let v := s.recordFault r (some k) st.num
    s.faultArrives r = if r.slot.toNat < 48 ∧ x.faulted = none then v.setSlotSched r.slot.toNat { x with faulted := some r.code } else v := by
  intro x v
  have hstep : (if (s.lateFault r && (s.slotSched r.slot.toNat).torn.isSome) = true then none else (s.slotSched r.slot.toNat).running) = some k := by
    rw [hlate, if_neg Bool.false_ne_true, hrun]
  unfold State.faultArrives
  rw [hheld]
  refine (if_neg (ne_true_of_eq_false hi)).trans ?_
  rw [hstep]
  simp only [hst, Option.isNone_iff_eq_none]
  rfl

theorem State.faultArrives_torn {num : BitVec 32}
    (hlate : (s.lateFault r && (s.slotSched r.slot.toNat).torn.isSome) = true ∨ (s.slotSched r.slot.toNat).running = none)
    (htorn : (s.slotSched r.slot.toNat).torn = some (k, num)) : s.faultArrives r = s.recordFault r (some k) num := by
  have hrun : (if (s.lateFault r && (s.slotSched r.slot.toNat).torn.isSome) = true then none else (s.slotSched r.slot.toNat).running) = none := by
    rcases hlate with h | h
    · exact if_pos h
    · rw [h, ite_self]
  unfold State.faultArrives
  rw [hheld]
  refine (if_neg (ne_true_of_eq_false hi)).trans ?_
  rw [hrun, htorn]

theorem State.faultArrives_noStep (hrun : (s.slotSched r.slot.toNat).running = none) (htorn : (s.slotSched r.slot.toNat).torn = none) :
    s.faultArrives r = s.recordFault r none 0 := by
  unfold State.faultArrives
  rw [hheld]
  simp only [hi, hrun, htorn, Bool.false_eq_true, ite_self]

end

/-! Collectors, notices, the scrubber. -/

theorem execCollectorClose_due {i : Nat} {c : Collector} (hc : tget none s.errs.collectors i = some c) (hd : c.opened + 100000 ≤ s.tick) :
    execCollectorClose i s = .next (s.collectorClose i) := by
  unfold execCollectorClose
  rw [hc]
  exact congrArg Host.Outcome.next (if_pos hd)

theorem State.collectorClose_full {i : Nat} {c : Collector} (hc : tget none s.errs.collectors i = some c) (hfull : s.errs.fqTail - s.errs.fqHead = 512) :
    let u : State := { s with errs := { s.errs with collectors := tset none s.errs.collectors i none, fqSeq := s.errs.fqSeq + 1 } }
    s.collectorClose i = { u with errs := { u.errs with fqLostCount := .ofNat 32 (satAdd 32 s.errs.fqLostCount.toNat c.count), fqLost := true } } := by
  unfold State.collectorClose
  rw [hc]
  exact if_pos hfull

theorem State.collectorClose_room {i : Nat} {c : Collector} (hc : tget none s.errs.collectors i = some c) (hroom : s.errs.fqTail - s.errs.fqHead ≠ 512) :
    let u : State := { s with errs := { s.errs with collectors := tset none s.errs.collectors i none, fqSeq := s.errs.fqSeq + 1 } }
    let v := u.devWrite (s.errs.fqBase.toNat + s.errs.fqTail.toNat % 512 * 64) (faultBytes c s.errs.fqSeq.toNat)
    s.collectorClose i = ({ v with errs := { v.errs with fqTail := s.errs.fqTail + 1 } } : State).faultNotice (pendingBit c.report.slot.toNat) := by
  unfold State.collectorClose
  rw [hc]
  exact if_neg hroom

/-- The scrubber's next line, or its next lap (R456). -/
def State.scrubOn (s : State) (c pos : Nat) : State :=
  if pos + 1 < s.ctlLines c then { s with errs := { s.errs with scrubPos := tset 0 s.errs.scrubPos c (pos + 1) } }
  else { s with errs := { s.errs with
    scrubPos := tset 0 s.errs.scrubPos c 0
    scrubLap := tset 0 s.errs.scrubLap c (put 24 ((s.tick - tget 0 s.errs.scrubStart c) % 2 ^ 40) |||
      put 8 ((bfield (tget 0 s.errs.scrubLap c) 8 16 + 1) % 2 ^ 16))
    scrubStart := tset 0 s.errs.scrubStart c s.tick } }

/-- A line that the scrubber reads: the read is counted (R456). -/
def State.scrubRead (s : State) (c : Nat) : State :=
  (s.setMc c { s.mc c with served := tset 0 (s.mc c).served mScrub (tget 0 (s.mc c).served mScrub + 1) }).countGlobal (4 * c + 3) 64

section
variable {c : CtlIx} (hm : s.dbg.module = false)
include hm

theorem execScrub_skips (hr : (ctlBase c + 64 * tget 0 s.errs.scrubPos c.val) / 4096 ∈ s.errs.retiredPages) :
    execScrub c s = .next (s.scrubOn c (tget 0 s.errs.scrubPos c.val)) := by
  have hskip := List.contains_iff_mem.mpr hr
  rw [execScrub, s.onModule_run _ hm]
  simp only [hskip, if_true]
  exact (apply_ite _ _ _ _).symm

theorem execScrub_reads (hr : (ctlBase c + 64 * tget 0 s.errs.scrubPos c.val) / 4096 ∉ s.errs.retiredPages) :
    let a := ctlBase c + 64 * tget 0 s.errs.scrubPos c.val
    let bad := tget 0 s.errs.memBad (a / 64)
    let u := s.scrubRead c
    execScrub c s = .next ((if bad = 0 then u
      else if bad = 100 then (u.logErr errScrubUe 6 (ctlEp c) a (u.ownerOf a) 0xFF 0).countEcc c false
      else (u.logErr errScrubCe 6 (ctlEp c) a (u.ownerOf a) (bad - 1) 0).scrubWrite (a / 64)).scrubOn c (tget 0 s.errs.scrubPos c.val)) := by
  intro a bad u
  have hskip : s.errs.retiredPages.contains ((ctlBase c + 64 * tget 0 s.errs.scrubPos c.val) / 4096) = false := by
    rw [Bool.eq_false_iff, ne_eq, List.contains_iff_mem]
    exact hr
  rw [execScrub, s.onModule_run _ hm]
  simp only [hskip, Bool.false_eq_true, if_false]
  exact (apply_ite _ _ _ _).symm

end

/-! Retirement (R459): the row's operation is the word's. -/

theorem testBit_bfield {v : Word} {i : Nat} (hi : 62 ≤ i) (hi' : i < 64) : (bfield v 62 2).testBit (i - 62) = v.getLsbD i := by
  have hlow : i - 62 < 2 := by omega
  rw [bfield_eq_extractLsb', BitVec.testBit_toNat, BitVec.getLsbD_extractLsb', decide_eq_true hlow, Bool.true_and, Nat.add_sub_cancel' hi]

/-- A word whose operation is op already is not changed by the row that puts it in place. -/
theorem retireWord {v : Word} {op : Nat} (h : bfield v 62 2 = op) : v &&& ~~~(3#64 <<< 62) ||| (BitVec.ofNat 64 op <<< 62) = v := by
  apply BitVec.eq_of_getLsbD_eq
  intro i hi
  rw [BitVec.getLsbD_or, BitVec.getLsbD_and, BitVec.getLsbD_not, BitVec.getLsbD_shiftLeft, BitVec.getLsbD_shiftLeft]
  by_cases hlow : i < 62
  · simp only [hi, hlow, decide_true, Bool.not_true, Bool.and_false, Bool.false_and, Bool.not_false, Bool.and_true, Bool.or_false]
  · have hbit : op.testBit (i - 62) = v.getLsbD i := h ▸ testBit_bfield (Nat.le_of_not_lt hlow) hi
    have hplace : i - 62 = 0 ∨ i - 62 = 1 := by omega
    have hmask : (3#64).getLsbD (i - 62) = true := by rcases hplace with h | h <;> rw [h] <;> rfl
    have hword : (BitVec.ofNat 64 op).getLsbD (i - 62) = v.getLsbD i := by
      rw [BitVec.getLsbD_ofNat, decide_eq_true (by omega), Bool.true_and, hbit]
    simp only [hi, hlow, hmask, hword, decide_true, decide_false, Bool.not_true, Bool.not_false, Bool.and_true, Bool.true_and, Bool.and_false, Bool.false_or]

section
variable {v : Word}

theorem State.retireWrite_page (h : bfield v 62 2 = 0) :
    let a := bfield v 12 40 * 4096
    let u := (s.log 0x18 oPcie 0x3F 63 v 0).logErr errRetirePage 8 (homeOf a) a (s.ownerOf a) 0xFF 0
    s.retireWrite v = if s.errs.retiredPages.length ≥ 4096 ∨ !s.holdsMemory a then { s with errs := { s.errs with retireRefused := true } }
      else { u with errs := { u.errs with retiredPages := u.errs.retiredPages ++ [a / 4096] } } := by
  unfold State.retireWrite
  rw [h]
  rfl

theorem State.retireWrite_bank (h : bfield v 62 2 = 1) :
    let q := bfield v 12 11
    let b := bfield v 52 4
    let u := (s.log 0x18 oPcie 0x3F 63 v 0).logErr errRetireBank 8 q q (s.partOfCell q) 0xFF b
    let c := u.cell q
    s.retireWrite v = if q ≥ 1152 then { s with errs := { s.errs with retireRefused := true } }
      else (u.setCell q { c with badBanks := if c.badBanks.contains b then c.badBanks else c.badBanks ++ [b] }).markFailed q 1 := by
  unfold State.retireWrite
  rw [h]
  rfl

theorem State.retireWrite_cell (h : bfield v 62 2 = 2) :
    let q := bfield v 12 11
    s.retireWrite v = if q ≥ 1152 then { s with errs := { s.errs with retireRefused := true } }
      else (s.log 0x18 oPcie 0x3F 63 v 0).markFailed q 0 := by
  unfold State.retireWrite
  rw [h]
  rfl

variable (ho : s.pcieOpen = true)
include ho

theorem execRetirePage_own (h : bfield v 62 2 = 0) : execRetirePage v s = .next (s.retireWrite v) := by
  have hw := retireWord h
  rw [show BitVec.ofNat 64 0 <<< 62 = 0#64 from rfl, BitVec.or_zero] at hw
  rw [execRetirePage, s.gate_open _ ho, hw]

theorem execRetireBank_own (h : bfield v 62 2 = 1) : execRetireBank v s = .next (s.retireWrite v) := by
  rw [execRetireBank, s.gate_open _ ho, retireWord h]

theorem execRetireCell_own (h : bfield v 62 2 = 2) : execRetireCell v s = .next (s.retireWrite v) := by
  rw [execRetireCell, s.gate_open _ ho, retireWord h]

/-! What the Stable and the host order over PCIe. -/

theorem execMcFlipArm_open (c : CtlIx) :
    let u := s.log 0x16 oPcie 0x3F 63 (BitVec.ofNat 64 (ctlWindow c + 0x11010)) v
    execMcFlipArm c v s = .next { u with errs := { u.errs with mcFlip := tset 0 u.errs.mcFlip c.val (v &&& 0xFFFFFFFF03) } } := by
  rw [execMcFlipArm, s.gate_open _ ho]

theorem execSpFlipArm_open {p : Pcell} :
    let u := s.log 0x16 oPcie 0x3F 63 (BitVec.ofNat 64 (cellWindow p + 0x208)) v
    execSpFlipArm p v s = if s.sealedCell p then .next s
      else .next { u with errs := { u.errs with spFlip := tset 0 u.errs.spFlip p.val (v &&& 0xFF1F) } } := by
  rw [execSpFlipArm, State.gateCell, s.gate_open _ ho]

theorem execCrashFree_open :
    let k := bfield v 0 4
    let u := s.logWindow 0x4088 v
    execCrashFree v s = .next { u with errs := { u.errs with
      crashUsed := if u.errs.crashUsed.testBit k then u.errs.crashUsed - 2 ^ k else u.errs.crashUsed } } := by
  rw [execCrashFree, s.gate_open _ ho, State.crashFreeWrite]

theorem execWarmReset_open : execWarmReset s = .next (s.warmResetNow 1) := by
  rw [execWarmReset, s.gate_open _ ho]

end

/-! A pcell that does not stop, and the escalation (R474, R478). -/

section
variable {p : Pcell} {n : Slot}

theorem State.resetStopped_eq (n : Nat) (r : ResetRec) :
    s.resetStopped n r = if r.stuck = [] then
        (match r.crash with
          | some code => s.crashCollect n code r.since r.ran
          | none => s).setReset n { r with crash := none }
      else s.setReset n r := by
  unfold State.resetStopped
  exact if_congr List.isEmpty_iff rfl rfl

theorem execPcellStopTimeout_reset {r : ResetRec} (hn : (s.cell p).slot.toNat = n.val) (hr : tget none s.errs.resets n.val = some r)
    (hp : p.val ∈ r.stuck) (hd : r.since + 100000 ≤ s.tick) :
    let u := s.markFailed p 3
    let v := u.setCell p { u.cell p with freq := 0, frozen := true }
    execPcellStopTimeout p s = .next (v.resetStopped n { r with stuck := r.stuck.filter (· != p.val) }) := by
  have hwait : ¬ (!r.stuck.contains p.val || decide (s.tick < r.since + 100000)) = true := by
    rw [List.contains_iff_mem.mpr hp, decide_eq_false (Nat.not_lt.mpr hd)]
    exact Bool.false_ne_true
  rw [execPcellStopTimeout, hn, hr]
  exact if_neg hwait

theorem execPcellStopTimeout_teardown (hn : (s.cell p).slot.toNat = n.val) (hr : tget none s.errs.resets n.val = none)
    (ht : (s.slotSched n).torn.isSome = true) (hf : (s.cell p).drays.toList.any (·.flushPending) = true)
    (hd : (s.slotSched n).tornAt + 100000 ≤ s.tick) :
    execPcellStopTimeout p s = .next (s.resetBegin n none none [p.val]) := by
  have hall : (decide (n.val < 48) && (s.slotSched n).torn.isSome && (s.cell p).drays.toList.any (·.flushPending) &&
      decide ((s.slotSched n).tornAt + 100000 ≤ s.tick)) = true := by
    rw [ht, hf, decide_eq_true n.isLt, decide_eq_true hd]
    rfl
  rw [execPcellStopTimeout, hn, hr]
  exact if_pos hall

theorem execWarmResetEscalation_due {r : ResetRec} (hr : tget none s.errs.resets n.val = some r) (hd : r.since + 1000000 ≤ s.tick) :
    execWarmResetEscalation n s = .next (s.warmResetNow 2) := by
  rw [execWarmResetEscalation, hr]
  exact if_pos hd

end

/-! Ceilings, notices and error summaries. -/

theorem execCeilingRevision_lower {p : Pcell} {mhz : BitVec 16} (hlow : mhz.toNat < s.ceilNow p) (hstep : (s.ceilNow p - mhz.toNat) % 25 = 0)
    (hat : (s.cell p).ceilAt = 0 ∨ (s.cell p).ceilAt + 2 ^ 32 ≤ s.tick + 1) :
    let u := s.logErr errCeiling 8 p p (s.partOfCell p) 0xFF mhz.toNat
    let v := u.setCell p { u.cell p with ceilDrop := u.ceilFusedOf p - mhz.toNat, ceilAt := u.tick + 1 }
    let w := if mhz.toNat < (v.cell p).freq.toNat then v.setFreq p mhz.toNat else v
    execCeilingRevision p mhz s = .next (if mhz.toNat < 2000 then w.markFailed p 2 else w) := by
  have hgo : ¬ (mhz.toNat ≥ s.ceilNow p ∨ (s.ceilNow p - mhz.toNat) % 25 ≠ 0 ∨
      ((s.cell p).ceilAt ≠ 0 ∧ s.tick + 1 < (s.cell p).ceilAt + 2 ^ 32)) := by omega
  exact if_neg hgo

theorem execFaultNotice_due {b : Nat} (hb : b ∈ s.errs.noticeDue) (hd : tget 0 s.errs.noticeAt b - 1 + 100000 ≤ s.tick) :
    execFaultNotice b s = .next (({ s with errs := { s.errs with
      noticeDue := s.errs.noticeDue.filter (· != b), noticeAt := tset 0 s.errs.noticeAt b (s.tick + 1) } } : State).msix 1) :=
  if_pos ⟨List.contains_iff_mem.mpr hb, hd⟩

theorem execErrorSummaryWrite_due {q : PartIx} (ht : s.tick % 100000 = 0) (hon : (tget 0 s.stable.partErr q.val).getLsbD 0 = true)
    (hq : q.val ∈ s.stable.errChanged) :
    let u := s.devWrite (bfield (tget 0 s.stable.partErr q.val) 6 46 * 64) (s.summaryBytes q)
    execErrorSummaryWrite q s = .next { u with stable := { u.stable with errChanged := u.stable.errChanged.filter (· != q.val) } } := by
  have hgo : ¬ (s.tick % 100000 ≠ 0 ∨ !(tget 0 s.stable.partErr q.val).getLsbD 0 ∨ !s.stable.errChanged.contains q.val) := by
    rw [hon, List.contains_iff_mem.mpr hq]
    simp only [ht, ne_eq, not_true_eq_false, Bool.not_true, Bool.false_eq_true, or_false, not_false_eq_true]
  exact if_neg hgo

theorem execFault_inTurn {m : GigMsg} (hm : s.dbg.module = false) (ho : s.inOrder (.fault m) = true) :
    let u := s.take (.fault m)
    execFault m s = .next (u.faultArrives (u.reportOf m)) := by
  rw [execFault, s.onModule_run _ hm, State.delivered_inTurn ho]

/-- Settles O51: every command's effect is its own lemma above; a fault goes to the first of a holding context, an inheritance cell, a torn-down step and
the running step that takes it. -/
theorem errorsFaultsAndResetsAct : Obligations.ErrorsFaultsAndResetsAct := by
  refine ⟨?_, ?_, ?_, ?_, ?_, ?_⟩
  · intro s m hm ho u r x held
    have harr : exec (.fault m) s = .next (u.faultArrives r) := execFault_inTurn hm ho
    rw [harr]
    refine ⟨fun k st hk hst => congrArg _ (State.faultArrives_held hk hst), ?_⟩
    intro inherits late
    refine ⟨fun hheld hi => congrArg _ (State.faultArrives_inherits hheld hi), fun hheld hi => ⟨?_, ?_, ?_⟩⟩
    · exact fun k st hlate hrun hst => congrArg _ (State.faultArrives_running hheld hi hlate hrun hst)
    · exact fun k num hlate htorn => congrArg _ (State.faultArrives_torn hheld hi hlate htorn)
    · exact fun hrun htorn => congrArg _ (State.faultArrives_noStep hheld hi hrun htorn)
  · intro s i c hc hd
    rw [exec_collectorClose, execCollectorClose_due hc hd]
    exact ⟨fun hfull => congrArg _ (State.collectorClose_full hc hfull), fun hroom => congrArg _ (State.collectorClose_room hc hroom)⟩
  · intro s b hb hd
    exact execFaultNotice_due hb hd
  · intro s c hm
    refine ⟨execScrub_skips hm, fun hr => ?_⟩
    rw [exec_scrub, execScrub_reads hm hr]
    refine ⟨fun h0 => ?_, fun h100 => ?_, fun h0 h100 => ?_⟩
    · rw [if_pos h0]
      rfl
    · rw [if_neg (h100 ▸ by decide), if_pos h100]
      rfl
    · rw [if_neg h0, if_neg h100]
      rfl
  · intro s c p v ho
    refine ⟨execMcFlipArm_open ho c, fun hs => (execSpFlipArm_open ho).trans (if_pos hs), fun hs => (execSpFlipArm_open ho).trans (if_neg (ne_true_of_eq_false hs)),
      fun h => ?_, fun h => ?_, fun h => ?_, execCrashFree_open ho, execWarmReset_open ho⟩
    · rw [exec_retirePage, execRetirePage_own ho h, State.retireWrite_page h]
      refine ⟨fun hroom hmem => congrArg _ (if_neg ?_), fun hno => congrArg _ (if_pos ?_)⟩
      · rw [hmem]
        exact not_or.mpr ⟨Nat.not_le.mpr hroom, Bool.false_ne_true⟩
      · exact hno.imp_right fun hmem => by rw [hmem, Bool.not_false]
    · rw [exec_retireBank, execRetireBank_own ho h, State.retireWrite_bank h]
      exact ⟨fun hq => congrArg _ (if_neg (Nat.not_le.mpr hq)), fun hq => congrArg _ (if_pos hq)⟩
    · rw [exec_retireCell, execRetireCell_own ho h, State.retireWrite_cell h]
      exact ⟨fun hq => congrArg _ (if_neg (Nat.not_le.mpr hq)), fun hq => congrArg _ (if_pos hq)⟩
  · intro s p n r
    refine ⟨fun hn hr hp hd => ?_, execPcellStopTimeout_teardown, execWarmResetEscalation_due, fun mhz => execCeilingRevision_lower,
      fun unit lane hr => congrArg _ (if_pos hr), fun q => execErrorSummaryWrite_due⟩
    exact (execPcellStopTimeout_reset hn hr hp hd).trans (congrArg _ (State.resetStopped_eq _ _))

end Sys2Proof.Machine
end
